-- ==== Sys2Proof/Word.lean ====
section
/-! DEFINITION. The word types of the GY-960: 64-bit register contents and bytes of memory. -/

namespace Sys2Proof

/-- The contents of a 64-bit register (Table 1-1). -/
abbrev Word := BitVec 64

/-- A byte of memory. -/
abbrev Byte := BitVec 8

end Sys2Proof
end

