-- ==== Sys2Proof/Syntax.lean ====
section
/-! DEFINITION. The instruction set as syntax: one constructor of `Instr` for each row of the opcode table.

A row of the table is either a slot instruction (R41), which carries the fields of Table 2-2, or an event of the
machine (spec/95), which carries what it names: a core, a queue, a written value, a received message. -/

namespace Sys2Proof

/-- The eight slots of Table 1-1. -/
inductive Slot where
  | ctl | sa | sb | aga | agb | va | vb | xe
deriving DecidableEq, Repr

/-- The lengths of a slot instruction in words (R21); the code 0b11 is no length. -/
inductive Len where
  | one | two | three
deriving DecidableEq, Repr

/-- The fields of a slot instruction (Table 2-2), with the slot that holds it. The opcode is the constructor's. -/
structure Fields where
  slot : Slot
  len : Len
  g : BitVec 4
  gn : Bool
  d : BitVec 5
  a : BitVec 5
  b : BitVec 5
  wa : Bool
  wb : Bool
  v : Bool
  c : BitVec 5
  wc : Bool
  t : BitVec 4
  rm : BitVec 3
  sc : BitVec 3
  i16 : BitVec 16
  l32 : BitVec 32
deriving DecidableEq, Repr

/-- A host access through BAR2 (R387). -/
inductive HostAccess where
  | read (bytes : Nat)
  | write (data : List Byte)
deriving DecidableEq, Repr

/-- Contents of Nypoelo messages 1 and 2 (Table 23-4); message 1 carries no signature. -/
structure NypHello where
  colophon : List Byte
  versions : List Nat
  chain : List Byte
  tid : List Byte
  pkg : Nat
  nonce : List Byte
  point : List Byte
  signature : List Byte
deriving DecidableEq, Repr

/-- Contents of Nypoelo messages 3 and 4 (Table 23-4); message 4 carries no signature. -/
structure NypProof where
  signature : List Byte
  tag : List Byte
deriving DecidableEq, Repr

/-- A FABKEY of the same tenant that names this package, as it arrives from the peer (R383). -/
structure PeerRequest where
  pkg : Nat
  openSessions : Nat
  opened : Nat
deriving DecidableEq, Repr

/-- What an authenticated fabric packet asks of this package (R379, R381). -/
inductive FabricBody where
  | read (ctx : Nat) (dva : Word) (bytes : Nat)
  | write (ctx : Nat) (dva : Word) (data : List Byte)
  | atomic (ctx : Nat) (dva : Word) (op : Nat) (bytes : Nat) (operand : Word)
  | reply (data : List Byte)
  /-- a rank's contribution to a collective of a group that spans packages (R386) -/
  | collect (ctx handle seq rank kind op fmt count : Nat) (data : List Byte)
deriving DecidableEq, Repr

/-- A transaction-layer packet that carries tenant bytes (R381). -/
structure FabricPacket where
  port : Nat
  /-- data-link sequence number of its flit (R380) -/
  seq : Nat
  counter : Nat
  tag : List Byte
  body : FabricBody
deriving DecidableEq, Repr

/-- An ESP packet at the Ethernet port, with the function that it is addressed to (R388). -/
structure EspPacket where
  vf : Nat
  seq : Nat
  iv : List Byte
  tag : List Byte
  payload : List Byte
deriving DecidableEq, Repr

/-- The settings that management makes, and what it reads (R305, R391, R392). -/
inductive MgmtItem where
  | pkg (n : Nat)
  | powerCap (watts : Nat)
  | cooled (island : Nat)
  | frameQuota (vf frames : Nat)
  | queueQuota (vf queues : Nat)
  | assignQueue (vf k qnum : Nat)
  | assignBeds (vf : Nat) (beds : List Nat)
  | assignContext (vf ctx : Nat)
  | sliceLength (vf periods : Nat)
  | contextWeight (ctx weight : Nat)
  | collectiveWeight (cluster vf weight : Nat)
  | graces (vf g1 g2 : Nat)
  | readMrovr (resource : Nat)
  | readEvents
  | readSensor (sensor : Nat)
deriving DecidableEq, Repr

/-- The instruction set: one constructor for each row of the opcode table. -/
inductive Instr where
  /-- NOP (R72). Control-slot no-operation; changes no state. -/
  | nop (f : Fields)
  /-- BR (R45). Relative branch to the bundle header address plus 4 times the offset, after the bundle commits. -/
  | br (f : Fields)
  /-- BRX (R45). Branch to the address held in x(A); traps UNALIGN on a bad target. -/
  | brx (f : Fields)
  /-- CALL (R45). Relative call that writes the next sequential bundle address into the link register. -/
  | call (f : Fields)
  /-- CALLX (R45). Call to the address in x(A), writing the return address into x(D). -/
  | callx (f : Fields)
  /-- LOOP (R48). Opens a hardware loop of n iterations by pushing a loop-stack entry, or skips the body when n is 0. -/
  | loop (f : Fields)
  /-- LOOPS (R48). Opens a staged hardware loop with S stages and writes the stage predicates of pass 0. -/
  | loops (f : Fields)
  /-- LBRK (R52). Breaks out of the innermost loop, or limits a staged loop so that it drains through its epilogue. -/
  | lbrk (f : Fields)
  /-- LIDX (R54). Writes the logical iteration index of a loop entry and stage into x(D). -/
  | lidx (f : Fields)
  /-- PSET (R55). Copies one predicate into another. -/
  | pset (f : Fields)
  /-- PAND (R55). Logical AND of two predicates. -/
  | pand (f : Fields)
  /-- POR (R55). Logical OR of two predicates. -/
  | por (f : Fields)
  /-- PXOR (R55). Logical XOR of two predicates. -/
  | pxor (f : Fields)
  /-- PANDN (R55). Predicate A AND NOT predicate B. -/
  | pandn (f : Fields)
  /-- PTOX (R56). Writes the 16 predicates as bits 15:0 of x(D). -/
  | ptox (f : Fields)
  /-- XTOP (R56). Writes predicates 1 to 15 from x(A) where the mask x(B) has a bit set. -/
  | xtop (f : Fields)
  /-- TFENCE (R59). Waits for earlier results and matrix operations, then raises ARITH if enabled flags are set. -/
  | tfence (f : Fields)
  /-- TRAP (R63). Raises the TRAPI program-level trap with the I16 code in TRAPADDR. -/
  | trap (f : Fields)
  /-- SYSC (R64). Sends a service request with x(A) to the cluster controller and marks x(D) empty until the reply. -/
  | sysc (f : Fields)
  /-- ERET (R62). Leaves the trap handler, clearing INTRAP and transferring to TRAPPC. -/
  | eret (f : Fields)
  /-- FLAGRD (R59). Reads the masked sticky flags into x(D). -/
  | flagrd (f : Fields)
  /-- FLAGCLR (R59). Clears the masked sticky flags and the first-event record. -/
  | flagclr (f : Fields)
  /-- CSRRD (R65). Reads a control register into x(D). -/
  | csrrd (f : Fields)
  /-- CSRWR (R65). Writes x(A) to a control register with the access of the mode, effective for the next bundle. -/
  | csrwr (f : Fields)
  /-- DRAIN (R186). Holds its bundle until every earlier global access of the sequencer is performed at the scope. -/
  | drain (f : Fields)
  /-- WAITX (R184). Holds its bundle until a completion object satisfies the target test, then acquires. -/
  | waitx (f : Fields)
  /-- TESTX (R184). Reads a completion object once and writes the target test into a predicate. -/
  | testx (f : Fields)
  /-- BARA (R179). Arrives on a barrier tag without waiting for the release. -/
  | bara (f : Fields)
  /-- BARW (R179). Waits for the release of the member's pending barrier arrival. -/
  | barw (f : Fields)
  /-- BARS (R179). Arrives on a barrier tag if not already arrived, then waits for the release. -/
  | bars (f : Fields)
  /-- DQPUSH (R182). Pushes x(A) onto the bottom of the core's deque, writing success into a predicate. -/
  | dqpush (f : Fields)
  /-- DQPOP (R182). Pops the bottom entry of the core's deque into x(D), writing success into a predicate. -/
  | dqpop (f : Fields)
  /-- DQSTEAL (R182). Steals the top entry of a gang member's deque, holding the bundle until the answer returns. -/
  | dqsteal (f : Fields)
  /-- DQCNT (R182). Reads the depth of a member's deque into x(D). -/
  | dqcnt (f : Fields)
  /-- ENQ (R187). Appends a 128-byte scratchpad record to a work queue as a release, writing success into a predicate. -/
  | enq (f : Fields)
  /-- SLOTQ (R68). Samples the make-ready calendar for a slot class and writes wait, span and class into x(D). -/
  | slotq (f : Fields)
  /-- TICK (R67). Writes the package timebase count into x(D). -/
  | tick (f : Fields)
  /-- YIELD (R70). A boundary at which a pending stop request lands; otherwise a one-clk no-op. -/
  | yield (f : Fields)
  /-- HALT (R71). Waits for the core's engine commands, then ends the core's part of its gang. -/
  | halt (f : Fields)
  /-- HNDRET (R175). Ends the handler run and frees the message's queue slots. -/
  | hndret (f : Fields)
  /-- HNDEN (R176). Sets STATUS.HEN from x(A) bit 0, enabling or disabling handler runs. -/
  | hnden (f : Fields)
  /-- WAITEV (R185). Holds its bundle until a queue message, a handler end or a deadline, writing the event code. -/
  | waitev (f : Fields)
  /-- SPWAKE (R69). Starts waking the gated scratchpad groups in the mask. -/
  | spwake (f : Fields)
  /-- SPGATE (R69). Gates the scratchpad groups in the mask after their pending accesses finish. -/
  | spgate (f : Fields)
  /-- DBGBRK (R72). Halts the core with a break code when a debugger has armed its mailbox. -/
  | dbgbrk (f : Fields)
  /-- RESUMEG (R188). In mode S, asks the cluster controller to resume a parked gang by its token. -/
  | resumeg (f : Fields)
  /-- ADD (R74). One-word 64-bit register add. -/
  | add (f : Fields)
  /-- ADD_IMM (R74). 64-bit add with a 16-bit or 32-bit immediate operand B. -/
  | addImm (f : Fields)
  /-- SUB (R74). One-word 64-bit register subtract. -/
  | sub (f : Fields)
  /-- SUB_IMM (R74). 64-bit subtract with an immediate operand B. -/
  | subImm (f : Fields)
  /-- AND (R74). One-word bitwise AND. -/
  | and (f : Fields)
  /-- AND_IMM (R74). Bitwise AND with an immediate operand B. -/
  | andImm (f : Fields)
  /-- OR (R74). One-word bitwise OR. -/
  | or (f : Fields)
  /-- OR_IMM (R74). Bitwise OR with an immediate operand B. -/
  | orImm (f : Fields)
  /-- XOR (R74). One-word bitwise XOR. -/
  | xor (f : Fields)
  /-- XOR_IMM (R74). Bitwise XOR with an immediate operand B. -/
  | xorImm (f : Fields)
  /-- ANDN (R74). One-word A AND NOT B. -/
  | andn (f : Fields)
  /-- ANDN_IMM (R74). A AND NOT an immediate operand B. -/
  | andnImm (f : Fields)
  /-- SHL (R74). One-word shift left by B[5:0]. -/
  | shl (f : Fields)
  /-- SHL_IMM (R74). Shift left by an immediate amount. -/
  | shlImm (f : Fields)
  /-- SHR (R74). One-word logical shift right. -/
  | shr (f : Fields)
  /-- SHR_IMM (R74). Logical shift right by an immediate amount. -/
  | shrImm (f : Fields)
  /-- SAR (R74). One-word arithmetic shift right. -/
  | sar (f : Fields)
  /-- SAR_IMM (R74). Arithmetic shift right by an immediate amount. -/
  | sarImm (f : Fields)
  /-- ROL (R74). One-word rotate left. -/
  | rol (f : Fields)
  /-- ROL_IMM (R74). Rotate left by an immediate amount. -/
  | rolImm (f : Fields)
  /-- MIN (R74). One-word signed minimum. -/
  | min (f : Fields)
  /-- MIN_IMM (R74). Signed minimum with an immediate. -/
  | minImm (f : Fields)
  /-- MAX (R74). One-word signed maximum. -/
  | max (f : Fields)
  /-- MAX_IMM (R74). Signed maximum with an immediate. -/
  | maxImm (f : Fields)
  /-- MINN (R74). One-word natural minimum. -/
  | minn (f : Fields)
  /-- MINN_IMM (R74). Natural minimum with an immediate. -/
  | minnImm (f : Fields)
  /-- MAXN (R74). One-word natural maximum. -/
  | maxn (f : Fields)
  /-- MAXN_IMM (R74). Natural maximum with an immediate. -/
  | maxnImm (f : Fields)
  /-- ADD32 (R74). One-word 32-bit add, sign-extended to 64 bits. -/
  | add32 (f : Fields)
  /-- ADD32_IMM (R74). 32-bit add with an immediate, sign-extended. -/
  | add32Imm (f : Fields)
  /-- SUB32 (R74). One-word 32-bit subtract, sign-extended. -/
  | sub32 (f : Fields)
  /-- SUB32_IMM (R74). 32-bit subtract with an immediate, sign-extended. -/
  | sub32Imm (f : Fields)
  /-- CMPEQ (R74). One-word equality compare into a predicate. -/
  | cmpeq (f : Fields)
  /-- CMPEQ_IMM (R74). Equality compare against an immediate. -/
  | cmpeqImm (f : Fields)
  /-- CMPNE (R74). One-word inequality compare into a predicate. -/
  | cmpne (f : Fields)
  /-- CMPNE_IMM (R74). Inequality compare against an immediate. -/
  | cmpneImm (f : Fields)
  /-- CMPLT (R74). One-word signed less-than compare. -/
  | cmplt (f : Fields)
  /-- CMPLT_IMM (R74). Signed less-than compare against an immediate. -/
  | cmpltImm (f : Fields)
  /-- CMPLE (R74). One-word signed less-or-equal compare. -/
  | cmple (f : Fields)
  /-- CMPLE_IMM (R74). Signed less-or-equal compare against an immediate. -/
  | cmpleImm (f : Fields)
  /-- CMPLTN (R74). One-word natural less-than compare. -/
  | cmpltn (f : Fields)
  /-- CMPLTN_IMM (R74). Natural less-than compare against an immediate. -/
  | cmpltnImm (f : Fields)
  /-- CMPLEN (R74). One-word natural less-or-equal compare. -/
  | cmplen (f : Fields)
  /-- CMPLEN_IMM (R74). Natural less-or-equal compare against an immediate. -/
  | cmplenImm (f : Fields)
  /-- TSTBIT (R74). One-word test of bit B[5:0] of A into a predicate. -/
  | tstbit (f : Fields)
  /-- TSTBIT_IMM (R74). Test of an immediate-numbered bit of A. -/
  | tstbitImm (f : Fields)
  /-- SEL (R74). Selects A or B by the predicate named in C. -/
  | sel (f : Fields)
  /-- CLZ (R74). Counts leading zero bits. -/
  | clz (f : Fields)
  /-- CTZ (R74). Counts trailing zero bits. -/
  | ctz (f : Fields)
  /-- POPC (R74). Counts one bits. -/
  | popc (f : Fields)
  /-- BREV (R74). Reverses the 64 bits. -/
  | brev (f : Fields)
  /-- BSWAP (R74). Reverses the 8 bytes. -/
  | bswap (f : Fields)
  /-- SEXT (R74). One-word sign extension from width B[6:0]. -/
  | sext (f : Fields)
  /-- SEXT_IMM (R74). Sign extension from an immediate width. -/
  | sextImm (f : Fields)
  /-- ZEXT (R74). One-word zero extension from width B[6:0]. -/
  | zext (f : Fields)
  /-- ZEXT_IMM (R74). Zero extension from an immediate width. -/
  | zextImm (f : Fields)
  /-- BFX (R74). Extracts a bit field, zero- or sign-extended. -/
  | bfx (f : Fields)
  /-- BFI (R74). Inserts the low bits of B into a bit field of A. -/
  | bfi (f : Fields)
  /-- LIT (R74). Writes a sign-extended 16-bit or 32-bit literal. -/
  | lit (f : Fields)
  /-- LITH (R76). Writes L32 into the high half of the destination, keeping the low half. -/
  | lith (f : Fields)
  /-- XMOV_SCALAR (R79). Moves a value from another register file into an SA or SB register. -/
  | xmovScalar (f : Fields)
  /-- MUL (R74). One-word low 64 bits of a product. -/
  | mul (f : Fields)
  /-- MUL_IMM (R74). Low product with an immediate. -/
  | mulImm (f : Fields)
  /-- MULH (R74). One-word high 64 bits of a signed product. -/
  | mulh (f : Fields)
  /-- MULH_IMM (R74). High signed product with an immediate. -/
  | mulhImm (f : Fields)
  /-- MULHN (R74). One-word high 64 bits of a natural product. -/
  | mulhn (f : Fields)
  /-- MULHN_IMM (R74). High natural product with an immediate. -/
  | mulhnImm (f : Fields)
  /-- DIV (R78). One-word signed division truncating toward zero. -/
  | div (f : Fields)
  /-- DIV_IMM (R78). Signed division by an immediate. -/
  | divImm (f : Fields)
  /-- DIVN (R78). One-word natural division. -/
  | divn (f : Fields)
  /-- DIVN_IMM (R78). Natural division by an immediate. -/
  | divnImm (f : Fields)
  /-- REM (R78). One-word signed remainder. -/
  | rem (f : Fields)
  /-- REM_IMM (R78). Signed remainder by an immediate. -/
  | remImm (f : Fields)
  /-- REMN (R78). One-word natural remainder. -/
  | remn (f : Fields)
  /-- REMN_IMM (R78). Natural remainder by an immediate. -/
  | remnImm (f : Fields)
  /-- MADD (R74). Multiply-add modulo 2^64 with addend C. -/
  | madd (f : Fields)
  /-- MULMOD (R80). Modular product modulo a MODQ register. -/
  | mulmod (f : Fields)
  /-- ADDMOD (R80). Modular sum modulo a MODQ register. -/
  | addmod (f : Fields)
  /-- SUBMOD (R80). Modular difference modulo a MODQ register. -/
  | submod (f : Fields)
  /-- FADD (R81). One-word binary32 addition rounded by RM. -/
  | fadd (f : Fields)
  /-- FADD_IMM (R81). Binary32 addition with rounding mode or literal operand. -/
  | faddImm (f : Fields)
  /-- FSUB (R81). One-word binary32 subtraction. -/
  | fsub (f : Fields)
  /-- FSUB_IMM (R81). Binary32 subtraction with rounding mode or literal. -/
  | fsubImm (f : Fields)
  /-- FMUL (R81). One-word binary32 multiplication. -/
  | fmul (f : Fields)
  /-- FMUL_IMM (R81). Binary32 multiplication with rounding mode or literal. -/
  | fmulImm (f : Fields)
  /-- FFMA (R81). Fused binary32 multiply-add rounded once. -/
  | ffma (f : Fields)
  /-- FMIN (R82). One-word binary32 minimum. -/
  | fmin (f : Fields)
  /-- FMIN_IMM (R82). Binary32 minimum against a literal. -/
  | fminImm (f : Fields)
  /-- FMAX (R82). One-word binary32 maximum. -/
  | fmax (f : Fields)
  /-- FMAX_IMM (R82). Binary32 maximum against a literal. -/
  | fmaxImm (f : Fields)
  /-- FCMPEQ (R82). One-word binary32 equality compare into a predicate. -/
  | fcmpeq (f : Fields)
  /-- FCMPEQ_IMM (R82). Binary32 equality compare against a literal. -/
  | fcmpeqImm (f : Fields)
  /-- FCMPLT (R82). One-word binary32 less-than compare. -/
  | fcmplt (f : Fields)
  /-- FCMPLT_IMM (R82). Binary32 less-than compare against a literal. -/
  | fcmpltImm (f : Fields)
  /-- FCMPLE (R82). One-word binary32 less-or-equal compare. -/
  | fcmple (f : Fields)
  /-- FCMPLE_IMM (R82). Binary32 less-or-equal compare against a literal. -/
  | fcmpleImm (f : Fields)
  /-- FCVTI (R83). Converts binary32 to an integer type with rounding and saturation. -/
  | fcvti (f : Fields)
  /-- FCVTF (R83). Converts an integer type to binary32. -/
  | fcvtf (f : Fields)
  /-- FCLASS (R83). Writes a one-hot class of a binary32 value. -/
  | fclass (f : Fields)
  /-- LD (R86). Loads 1 to 8 bytes from scratchpad into any register file, optionally post-modifying the address. -/
  | ld (f : Fields)
  /-- ST (R86). Stores 1 to 8 bytes of a register to scratchpad. -/
  | st (f : Fields)
  /-- LDG (R91). Loads from global memory, marking the destination empty until the data arrives. -/
  | ldg (f : Fields)
  /-- STG (R91). Stores to global memory with optional release ordering. -/
  | stg (f : Fields)
  /-- LDV (R162). Loads and run-encodes a dense row through a forme into a run register. -/
  | ldv (f : Fields)
  /-- LDVP (R164). Loads a run-packed row into a run register after checking it. -/
  | ldvp (f : Fields)
  /-- STV (R163). Expands a run register into a dense row through a forme. -/
  | stv (f : Fields)
  /-- STVP (R164). Stores a run register in run-packed form and marks the packed-region table. -/
  | stvp (f : Fields)
  /-- AADD (R90). One-word address-register add. -/
  | aadd (f : Fields)
  /-- AADD_IMM (R90). Address-register add with an immediate. -/
  | aaddImm (f : Fields)
  /-- AMOV (R90). Copies a register of another file into the address register space. -/
  | amov (f : Fields)
  /-- MSET (R88). Writes a modifier register with step, length, width and mode. -/
  | mset (f : Fields)
  /-- AMOD (R88). Updates an address register through a modifier register. -/
  | amod (f : Fields)
  /-- ATOM (R92). Indivisible read-modify-write on a scratchpad value, returning the old value. -/
  | atom (f : Fields)
  /-- ACAS (R92). Compare-and-swap on a scratchpad value. -/
  | acas (f : Fields)
  /-- FXADD (R96). Adds a binary32 value exactly into a scratchpad wide cell. -/
  | fxadd (f : Fields)
  /-- FXRD (R97). Reads a scratchpad wide cell rounded to binary32, optionally clearing it. -/
  | fxrd (f : Fields)
  /-- FXCLR (R97). Clears a scratchpad wide cell. -/
  | fxclr (f : Fields)
  /-- ATOMG (R94). Indivisible read-modify-write at the home memory controller of a global value. -/
  | atomg (f : Fields)
  /-- ACASG (R94). Compare-and-swap on a global value at its home. -/
  | acasg (f : Fields)
  /-- FXADDG (R96). Adds a binary32 value exactly into a global wide cell. -/
  | fxaddg (f : Fields)
  /-- FXRDG (R97). Reads a global wide cell rounded to binary32, optionally clearing it. -/
  | fxrdg (f : Fields)
  /-- PREFG (R98). Prefetches a translation and starts expansion of a compressed page, with no fault. -/
  | prefg (f : Fields)
  /-- VADD (R140). One-word element-wise run addition. -/
  | vadd (f : Fields)
  /-- VADD_IMM (R140). Run addition with rounding mode, mask or literal. -/
  | vaddImm (f : Fields)
  /-- VSUB (R140). One-word element-wise run subtraction. -/
  | vsub (f : Fields)
  /-- VSUB_IMM (R140). Run subtraction with rounding mode, mask or literal. -/
  | vsubImm (f : Fields)
  /-- VMUL (R140). One-word element-wise run multiplication. -/
  | vmul (f : Fields)
  /-- VMUL_IMM (R140). Run multiplication with rounding mode, mask or literal. -/
  | vmulImm (f : Fields)
  /-- VFMA (R141). Element-wise fused multiply-add on run registers. -/
  | vfma (f : Fields)
  /-- VMIN (R140). One-word element-wise run minimum. -/
  | vmin (f : Fields)
  /-- VMIN_IMM (R140). Run minimum with a literal and optional mask. -/
  | vminImm (f : Fields)
  /-- VMAX (R140). One-word element-wise run maximum. -/
  | vmax (f : Fields)
  /-- VMAX_IMM (R140). Run maximum with a literal and optional mask. -/
  | vmaxImm (f : Fields)
  /-- VABS (R142). Absolute value of each slug. -/
  | vabs (f : Fields)
  /-- VNEG (R142). Negation of each slug. -/
  | vneg (f : Fields)
  /-- VAND (R140). One-word element-wise run AND. -/
  | vand (f : Fields)
  /-- VAND_IMM (R140). Run AND with a literal and optional mask. -/
  | vandImm (f : Fields)
  /-- VOR (R140). One-word element-wise run OR. -/
  | vor (f : Fields)
  /-- VOR_IMM (R140). Run OR with a literal and optional mask. -/
  | vorImm (f : Fields)
  /-- VXOR (R140). One-word element-wise run XOR. -/
  | vxor (f : Fields)
  /-- VXOR_IMM (R140). Run XOR with a literal and optional mask. -/
  | vxorImm (f : Fields)
  /-- VSHL (R140). One-word element-wise run shift left. -/
  | vshl (f : Fields)
  /-- VSHL_IMM (R140). Run shift left by a literal. -/
  | vshlImm (f : Fields)
  /-- VSHR (R140). One-word element-wise run logical shift right. -/
  | vshr (f : Fields)
  /-- VSHR_IMM (R140). Run logical shift right by a literal. -/
  | vshrImm (f : Fields)
  /-- VSAR (R140). One-word element-wise run arithmetic shift right. -/
  | vsar (f : Fields)
  /-- VSAR_IMM (R140). Run arithmetic shift right by a literal. -/
  | vsarImm (f : Fields)
  /-- VCMPEQ (R143). One-word element-wise equality compare into a MASK run. -/
  | vcmpeq (f : Fields)
  /-- VCMPEQ_IMM (R143). Run equality compare against a literal. -/
  | vcmpeqImm (f : Fields)
  /-- VCMPNE (R143). One-word element-wise inequality compare. -/
  | vcmpne (f : Fields)
  /-- VCMPNE_IMM (R143). Run inequality compare against a literal. -/
  | vcmpneImm (f : Fields)
  /-- VCMPLT (R143). One-word element-wise less-than compare. -/
  | vcmplt (f : Fields)
  /-- VCMPLT_IMM (R143). Run less-than compare against a literal. -/
  | vcmpltImm (f : Fields)
  /-- VCMPLE (R143). One-word element-wise less-or-equal compare. -/
  | vcmple (f : Fields)
  /-- VCMPLE_IMM (R143). Run less-or-equal compare against a literal. -/
  | vcmpleImm (f : Fields)
  /-- VSEL (R144). Selects A or B per segment by the selector run C. -/
  | vsel (f : Fields)
  /-- VCOAL (R145). Merges neighbouring bitwise-equal slugs. -/
  | vcoal (f : Fields)
  /-- VSPLAT (R146). Writes one slug of a scalar value with a given count. -/
  | vsplat (f : Fields)
  /-- VIOTA (R147). Writes each slug's first logical index plus a base. -/
  | viota (f : Fields)
  /-- VSLICE (R148). Extracts a range of logical elements. -/
  | vslice (f : Fields)
  /-- VCAT (R149). Concatenates two run registers. -/
  | vcat (f : Fields)
  /-- VSETL (R150). Changes the logical length by cutting or extending the last slug. -/
  | vsetl (f : Fields)
  /-- VLEN (R152). Writes the logical length of a run register. -/
  | vlen (f : Fields)
  /-- VRUNS (R152). Writes the slug count of a run register. -/
  | vruns (f : Fields)
  /-- VGET (R152). Writes the value of one element of a run register. -/
  | vget (f : Fields)
  /-- VPUT (R151). Replaces one element of a run register with a scalar. -/
  | vput (f : Fields)
  /-- VREDSUM (R153). Masked sum reduction of a run register. -/
  | vredsum (f : Fields)
  /-- VREDMAX (R153). Masked maximum reduction. -/
  | vredmax (f : Fields)
  /-- VREDMIN (R153). Masked minimum reduction. -/
  | vredmin (f : Fields)
  /-- VCOUNT (R153). Counts selected elements that are not all-zero bits. -/
  | vcount (f : Fields)
  /-- VFIRST (R153). Finds the least selected index whose value is nonzero. -/
  | vfirst (f : Fields)
  /-- XMOV_RUN (R154). Moves a run register or scalar from another file into a run register. -/
  | xmovRun (f : Fields)
  /-- VCVT (R155). Converts each slug to F32, S64, N64 or M64 with rounding. -/
  | vcvt (f : Fields)
  /-- VQNT (R156). Rounds each slug to a forme's format and writes the value read back. -/
  | vqnt (f : Fields)
  /-- VEXP2 (R157). Correctly rounded 2^x of each slug. -/
  | vexp2 (f : Fields)
  /-- VLOG2 (R157). Correctly rounded log2 of each slug. -/
  | vlog2 (f : Fields)
  /-- VRCP (R157). Correctly rounded reciprocal of each slug. -/
  | vrcp (f : Fields)
  /-- VRSQ (R157). Correctly rounded reciprocal square root. -/
  | vrsq (f : Fields)
  /-- VSQRT (R157). Correctly rounded square root. -/
  | vsqrt (f : Fields)
  /-- VTANH (R157). Correctly rounded hyperbolic tangent. -/
  | vtanh (f : Fields)
  /-- VSIGM (R157). Correctly rounded logistic sigmoid. -/
  | vsigm (f : Fields)
  /-- VMODADD (R158). Element-wise modular addition modulo a MODQ register. -/
  | vmodadd (f : Fields)
  /-- VMODSUB (R158). Element-wise modular subtraction. -/
  | vmodsub (f : Fields)
  /-- VMODMUL (R158). Element-wise modular multiplication. -/
  | vmodmul (f : Fields)
  /-- VBFLY (R159). Modular butterfly writing sum and difference into a register pair. -/
  | vbfly (f : Fields)
  /-- VBSCALE (R160). Scales each F32 slug by 2^k. -/
  | vbscale (f : Fields)
  /-- MLOAD (R283). Loads the matrix engine's shadow plane from a forme. -/
  | mload (f : Fields)
  /-- MSWAP (R284). Exchanges the active and shadow planes. -/
  | mswap (f : Fields)
  /-- MMUL (R285). Streams activation rows past the active plane into an accumulator tile in float or residue mode. -/
  | mmul (f : Fields)
  /-- MMOD (R288). Streams 64-bit residues against a modular plane into a tile. -/
  | mmod (f : Fields)
  /-- MDRAIN (R289). Converts a tile into scratchpad through a forme, optionally zeroing it. -/
  | mdrain (f : Fields)
  /-- MZERO (R291). Sets the tiles in a mask to mode 0 with zero cells. -/
  | mzero (f : Fields)
  /-- MSTAT (R292). Writes a tile's busy, mode, bound and exponent into an e register. -/
  | mstat (f : Fields)
  /-- COPY (R254). Forks a copy-engine command moving elements between scratchpad, global memory and message queues. -/
  | copy (f : Fields)
  /-- GALSET (R259). Binds a galley ring to a DRAM tensor and fetches its first rows. -/
  | galset (f : Fields)
  /-- GALADV (R260). Retires n galley rows and fetches the next rows into their slots. -/
  | galadv (f : Fields)
  /-- GALREL (R262). Unbinds a galley after its fetches have landed. -/
  | galrel (f : Fields)
  /-- SMSG (R263). Sends a message from scratchpad to a gang member's message queue, stalling for credits. -/
  | smsg (f : Fields)
  /-- SMSGT (R264). Sends a message only if credits allow, writing success into a predicate. -/
  | smsgt (f : Fields)
  /-- OBJADD (R265). Adds to a completion object after every earlier command of the core completes. -/
  | objadd (f : Fields)
  /-- COLL (R267). Starts a collective operation on a buffer with the ranks of a group. -/
  | coll (f : Fields)
  /-- RNGCFG (R270). Empties the random-bit queue and sets the generator's key and counter. -/
  | rngcfg (f : Fields)
  /-- TIDWR (R271). Validates and writes a forme table entry from scratchpad. -/
  | tidwr (f : Fields)
  /-- TIDRD (R271). Writes a forme table entry's 32 bytes to scratchpad. -/
  | tidrd (f : Fields)
  /-- XMOV_XE (R272). Moves a value from another register file into an e register. -/
  | xmovXe (f : Fields)
  /-- ELIT (R272). Writes a sign-extended literal into an e register. -/
  | elit (f : Fields)
  /-- KROT (R370). Key command rotating a range of the context's frames into the next key generation. -/
  | krot (f : Fields)
  /-- SEAL (R372). Key command writing a sealed blob of listed ranges, save records and queue image. -/
  | keySeal (f : Fields)
  /-- UNSEAL (R374). Key command verifying a sealed blob and installing it into a target context. -/
  | keyUnseal (f : Fields)
  /-- SCRUB_SP (R375). Copy-engine command zeroing a scratchpad range. -/
  | scrubSp (f : Fields)
  /-- SCRUB_GANGSP (R375). Marks the gang so every member's scratchpad is zeroed when the gang ends. -/
  | scrubGangsp (f : Fields)
  /-- SCRUB_PAGES (R375). Key command releasing a range of the tenant's frames to the device or a pool. -/
  | scrubPages (f : Fields)
  /-- SCRUB_KEYS (R375). Key command destroying the old key generation. -/
  | scrubKeys (f : Fields)
  /-- FABKEY (R383). Key command opening or closing a Nypoelo fabric session with a peer package. -/
  | fabkey (f : Fields)
  /-- KSTAT (R376). Reads key, rotation, page or sequence status from the Amindaer into an e register. -/
  | kstat (f : Fields)
  /-- EMPTY_BUNDLE (R22). A bundle header with no slots issues in one clk and changes no state. -/
  | emptyBundle
  /-- BUNDLE_STALL_RELEASE (R16). A stalled bundle issues in the first clk in which all its empty sources are full. -/
  | bundleStallRelease (core : Nat)
  /-- RESULT_LAND (R14). A result arriving after its latency writes its destination and marks it full. -/
  | resultLand (core : Nat)
  /-- FETCH_MISS_FILL (R23). An instruction-cache miss fills its line and the sequencer resumes. -/
  | fetchMissFill (core : Nat) (line : Word)
  /-- SP_GROUP_WAKE_DONE (R69). A waking scratchpad group becomes usable after 512 clk, reading as zero. -/
  | spGroupWakeDone (core g : Nat)
  /-- HANDLER_RUN_START (R174). The handler sequencer starts on a written message at a main-sequencer bundle boundary. -/
  | handlerRunStart (core : Nat)
  /-- MQ_ENTRY_ARRIVAL (R204). An arriving message entry is accepted into free slots or refused at the receiver's queue port. -/
  | mqEntryArrival (src dst : Nat)
  /-- MQ_ENTRY_WRITTEN (R204). An accepted entry's slots are fully written and TAIL advances past it. -/
  | mqEntryWritten (core k : Nat)
  /-- MQ_ACK_RECEIVE (R264). A sender receives an acceptance or refusal and updates its credit count. -/
  | mqAckReceive (src dst : Nat)
  /-- MQ_RESEND (R264). A sender resends refused entries in SEQ order once credits allow. -/
  | mqResend (src dst : Nat)
  /-- MQ_PROBE (R264). Every 1,024 clk a stalled or refused sender probes the receiver for its free count. -/
  | mqProbe (src dst : Nat)
  /-- BARRIER_RELEASE (R180). The last arrival or departure releases a barrier phase, clearing every member's arrival bit. -/
  | barrierRelease (gang tag : Nat)
  /-- GANG_END (R171). A gang ends once every member has departed and no handler, message or command remains. -/
  | gangEnd (gang : Nat)
  /-- DEQUE_PORT_REQUEST (R183). A deque port serves push, pop and steal requests in the stated order. -/
  | dequePortRequest (core : Nat)
  /-- DQSTEAL_ANSWER (R182). A steal or remote count answer returns and the held bundle commits. -/
  | dqstealAnswer (core : Nat)
  /-- WAITX_SATISFIED (R184). A watched completion object meets its target and the waiting bundle commits as an acquire. -/
  | waitxSatisfied (core : Nat)
  /-- WAITEV_WAKE (R185). A queued message or a handler end wakes a WAITEV with its event code. -/
  | waitevWake (core : Nat)
  /-- WAITEV_DEADLINE (R185). The timebase reaches a WAITEV deadline and the wait ends with code 3. -/
  | waitevDeadline (core : Nat)
  /-- TFENCE_DRAINED (R59). Earlier results land and TFENCE commits, raising ARITH if enabled flags are set. -/
  | tfenceDrained (core : Nat)
  /-- DRAIN_DONE (R186). Earlier global accesses are performed at the scope and the DRAIN bundle commits. -/
  | drainDone (core : Nat)
  /-- HALT_COMMANDS_DONE (R71). The core's engine commands complete and a waiting HALT commits. -/
  | haltCommandsDone (core : Nat)
  /-- ENQ_ANSWER (R187). The target queue's tail advances or the refusal is known and the ENQ bundle commits. -/
  | enqAnswer (core : Nat)
  /-- SYSC_ECHO (R64). The cluster controller replies with the operand value. -/
  | syscEcho (core : Nat)
  /-- SYSC_NOTIFY (R64). The cluster controller appends a notify record to the fault queue and replies 0. -/
  | syscNotify (core : Nat)
  /-- SYSC_CLOCK (R64). The cluster controller replies with the island's current core clock. -/
  | syscClock (core : Nat)
  /-- GANG_RESUME (R328). The cluster controller resumes a parked gang named by a RESUMEG token. -/
  | gangResume (core : Nat)
  /-- DOORBELL_WRITE (R190). An 8-byte doorbell write advances a queue's TAIL or puts the queue into ERROR. -/
  | doorbellWrite (vf k bytes : Nat) (value : Word)
  /-- QUEUE_DESCRIPTOR_WRITE (R189). A queue-table write to fields other than STATE takes effect only while the queue is disabled. -/
  | queueDescriptorWrite (vf k : Nat) (desc : BitVec 256)
  /-- QUEUE_ENABLE (R189). Writing STATE 1 to a disabled queue moves it to IDLE with HEAD and TAIL zero. -/
  | queueEnable (vf k : Nat)
  /-- QUEUE_DISABLE (R189). Writing STATE 0 disables a queue, discarding unread records. -/
  | queueDisable (vf k : Nat)
  /-- LAUNCH_RECORD (R193). The compositor takes a LAUNCH record at HEAD, waits for its dependence and places its gangs. -/
  | launchRecord (q : Nat)
  /-- WAIT_RECORD (R193). The compositor takes a WAIT record and holds the queue on its object. -/
  | waitRecord (q : Nat)
  /-- SIGNAL_RECORD (R193). The compositor adds a SIGNAL record's value to its object as a release and retires it. -/
  | signalRecord (q : Nat)
  /-- NOP_RECORD (R193). The compositor retires a NOP record at once. -/
  | nopRecord (q : Nat)
  /-- WAIT_RETIRE (R193). A WAIT record's object meets its target and the record retires as an acquire. -/
  | waitRetire (q : Nat)
  /-- DEPENDENCE_MET (R193). A LAUNCH's dependence object reaches its target and placement may begin. -/
  | dependenceMet (q : Nat)
  /-- GANG_PLACE (R195). The compositor places a gang on free cores of the tenant's beds and starts its members. -/
  | gangPlace (vf : Nat)
  /-- LAUNCH_COMPLETE (R194). The last gang ends and the compositor writes the status word and adds INC to COUNT. -/
  | launchComplete (launch : Nat)
  /-- QUEUE_AGING (R196). Each 256-period span without placement raises a queue's aged priority level. -/
  | queueAging (q : Nat)
  /-- WALK_COMPLETE (R211). A page walk ends, filling both tables or delivering its fault to every joined miss. -/
  | walkComplete (cluster : Nat) (ctx : Nat) (page : Word)
  /-- FAULT_QUEUE_HEAD_WRITE (R327). The driver advances the fault-queue HEAD, letting pending records be written. -/
  | faultQueueHeadWrite (vf ctx : Nat) (value : Word)
  /-- EXPANSION_COMPLETE (R216). A compressed page finishes decompressing and its stalled accesses proceed. -/
  | expansionComplete (frame : Nat)
  /-- CXLBUSY_TIMEOUT (R218). An access refused by a CXL expander for 100 microseconds raises CXLBUSY. -/
  | cxlbusyTimeout (core : Nat)
  /-- GLOBAL_ACCESS_PERFORM (R228). A global access performs at its home controller in coherence order. -/
  | globalAccessPerform (core k : Nat)
  /-- LAUNCH_ABORT (R329). A fatal fault ends the launch, stopping and dumping its gangs. -/
  | launchAbort (launch : Nat)
  /-- CHUNK_START (R303). An engine starts a memory-bound chunk when it can finish before the next pausing slot. -/
  | chunkStart (core cmd : Nat)
  /-- CHUNK_COMPLETE (R258). An engine chunk finishes and its writes perform. -/
  | chunkComplete (core cmd : Nat)
  /-- COMMAND_COMPLETE (R249). A fully performed command adds its increment to its completion object as a release. -/
  | commandComplete (core cmd : Nat)
  /-- GALLEY_ROW_LAND (R261). A galley row lands in its ring slot and the fetch's range shrinks past it. -/
  | galleyRowLand (core cmd : Nat)
  /-- OBJADD_PERFORM (R265). An OBJADD adds to its object once every earlier command has completed. -/
  | objaddPerform (core cmd : Nat)
  /-- COLL_ENTRY (R269). The collective engine runs one entry of a collective under deficit round robin. -/
  | collEntry (cluster : Nat)
  /-- MATRIX_OP_START (R293). The matrix engine starts an operation in issue order when its conditions hold. -/
  | matrixOpStart (core : Nat)
  /-- MATRIX_OP_FINISH (R293). A matrix operation finishes, updating tile state and landing its flags. -/
  | matrixOpFinish (core cmd : Nat)
  /-- RNG_BLOCK (R270). The generator appends one Philox4x32-10 block to the random-bit queue. -/
  | rngBlock (core : Nat)
  /-- KEY_HANDOFF (R369). A key command is handed off to the Amindaer and its chase range is freed. -/
  | keyHandoff (core : Nat)
  /-- KEY_COMMAND_COMPLETE (R369). A handed-off key command writes its status record and increments its object. -/
  | keyCommandComplete (key : Nat)
  /-- BACKGROUND_SCRUB_COMPLETE (R364). The background scrub of a released frame completes and the frame becomes FREE or OWNED. -/
  | backgroundScrubComplete (frame : Nat)
  /-- SLOT_OPEN (R298). A make-ready slot opens on the calendar and pauses its resources. -/
  | slotOpen
  /-- SLOT_CLOSE (R298). A make-ready slot closes and paused resources resume. -/
  | slotClose
  /-- THERMAL_TRIP (R308). An island passing the trip temperature stops its clocks and raises a machine check. -/
  | thermalTrip (island : Nat)
  /-- MROVR_MCE_CLEAR (R305). A management write of 1 clears MROVR.MCE. -/
  | mrovrMceClear (res : Nat) (value : Word)
  /-- SLICE_END (R196). A slot opening ends a virtual function's slice and starts the ladder or a new slice. -/
  | sliceEnd (vf : Nat)
  /-- LADDER_G1_EXPIRY (R336). G1 periods after the slice ends, the ladder enters HARD. -/
  | ladderG1Expiry (vf : Nat)
  /-- CORE_STOP (R335). A core becomes stopped once it stands at a stop point with nothing in flight. -/
  | coreStop (core : Nat)
  /-- GANG_SAVE (R338). A gang whose members have all stopped is saved to the context's save area. -/
  | gangSave (gang : Nat)
  /-- LADDER_G2_EXPIRY (R336). G2 periods into HARD with a core not stopped, the ladder kills those launches. -/
  | ladderG2Expiry (vf : Nat)
  /-- CORE_ZEROING_COMPLETE (R366). The cluster controller finishes zeroing a core's state before it passes to another tenant. -/
  | coreZeroingComplete (core : Nat)
  /-- MIGRATION_STOP (R344). A stop for migration sends every gang of the context straight to HARD. -/
  | migrationStop (ctx : Nat)
  /-- DBG_ARM (R339). Arms the core's debug mailbox so DBGBRK halts. -/
  | dbgArm (vf core : Nat)
  /-- DBG_DISARM (R339). Clears breakpoints and resumes a halted core. -/
  | dbgDisarm (vf core : Nat)
  /-- DBG_HALT (R339). Halts the core, or its whole gang, at the next bundle boundary. -/
  | dbgHalt (vf core : Nat) (operand : Word)
  /-- DBG_BREAK (R339). Sets or clears a breakpoint at a bundle header address. -/
  | dbgBreak (vf core : Nat) (addr data : Word)
  /-- DBG_STEP (R339). Lets a halted core commit a count of bundles, then halts it. -/
  | dbgStep (vf core : Nat) (operand : Word)
  /-- DBG_RUN (R339). Resumes a halted core. -/
  | dbgRun (vf core : Nat)
  /-- DBG_READ (R339). Writes a core record and the pending-write list to memory. -/
  | dbgRead (vf core : Nat) (addr : Word)
  /-- DBG_WRITE (R339). Copies writable core state from a record image into a halted core. -/
  | dbgWrite (vf core : Nat) (addr : Word)
  /-- DBG_BREAKPOINT_HIT (R339). A core halts before issuing a bundle at a breakpoint address. -/
  | dbgBreakpointHit (core : Nat)
  /-- DBG_STEP_TIMEOUT (R340). A step with no bundle committed in 65,536 clk stops with RESULT 0x02. -/
  | dbgStepTimeout (core : Nat)
  /-- DIRTY_LOG_ARM_WRITE (R343). Writing ARM 1 to the dirty-log block clears every mark and enables logging. -/
  | dirtyLogArmWrite (vf ctx : Nat) (value : Word)
  /-- LOGOVF_CLEAR (R343). Writing 1 to LOGOVF clears the dirty-log overflow bit. -/
  | logovfClear (vf ctx : Nat) (value : Word)
  /-- CONTEXT_ENTRY_WRITE (R387). The driver writes a context-table entry while the context has no launch in flight. -/
  | contextEntryWrite (vf ctx off : Nat) (value : Word)
  /-- INVALIDATION_COMMAND (R387). Removes cached translations of a page range and completes when every core has dropped them. -/
  | invalidationCommand (vf ctx : Nat) (dva : Word) (pages : Nat)
  /-- BAR2_APERTURE_WRITE (R387). Sets the context and base that the BAR2 aperture maps. -/
  | bar2ApertureWrite (vf : Nat) (value : Word)
  /-- HOST_BAR2_ACCESS (R387). A host access through BAR2 is translated and checked like LDG or STG. -/
  | hostBar2Access (vf : Nat) (off : Nat) (acc : HostAccess)
  /-- FRAME_ASSIGN (R387). Frame mailbox OP 1 assigns a free or inherited frame to the tenant. -/
  | frameAssign (vf frame : Nat)
  /-- FRAME_PLACE_NEAR (R387). Frame mailbox OP 2 places a frame's storage near a cluster. -/
  | framePlaceNear (vf frame arg : Nat)
  /-- FRAME_COMPRESS (R387). Frame mailbox OP 3 compresses a frame. -/
  | frameCompress (vf frame : Nat)
  /-- FRAME_DONATE (R387). Frame mailbox OP 4 donates a frame's storage to a context's pool. -/
  | frameDonate (vf frame arg : Nat)
  /-- TENANT_UNBIND (R354). Unbinding ends the tenant's launches, releases its frames and destroys its keys. -/
  | tenantUnbind (vf : Nat)
  /-- RECORD (R353). The vendor RECORD message installs a tenant record and moves the function to RECORDED. -/
  | record (vf : Nat) (bytes : List Byte)
  /-- GETREC (R352). The vendor GETREC message returns TID and NPARTY. -/
  | getrec (vf session : Nat)
  /-- SHARE (R354). The vendor SHARE message delivers a party's share; the last share derives the root secret. -/
  | share (vf session party : Nat) (share : List Byte)
  /-- GET_VERSION (R352). SPDM request for supported versions. -/
  | getVersion (vf : Nat)
  /-- GET_CAPABILITIES (R352). SPDM request for capabilities. -/
  | getCapabilities (vf : Nat)
  /-- NEGOTIATE_ALGORITHMS (R352). SPDM algorithm negotiation. -/
  | negotiateAlgorithms (vf : Nat)
  /-- GET_DIGESTS (R352). SPDM request for certificate digests. -/
  | getDigests (vf : Nat)
  /-- GET_CERTIFICATE (R352). SPDM request for the certificate chain. -/
  | getCertificate (vf certSlot : Nat)
  /-- CHALLENGE (R352). SPDM challenge-response authentication. -/
  | challenge (vf : Nat) (nonce : List Byte)
  /-- GET_MEASUREMENTS (R352). SPDM request for the colophon measurements. -/
  | getMeasurements (vf index : Nat)
  /-- KEY_EXCHANGE (R352). SPDM key exchange opening a mutually authenticated session, refused when 16 are open. -/
  | keyExchange (vf : Nat) (peer : List Byte)
  /-- FINISH (R352). SPDM FINISH completing session establishment. -/
  | finish (vf session : Nat) (peer : List Byte)
  /-- KEY_UPDATE (R352). SPDM session key update. -/
  | keyUpdate (vf session : Nat)
  /-- HEARTBEAT (R352). SPDM session heartbeat. -/
  | heartbeat (vf session : Nat)
  /-- END_SESSION (R352). SPDM request ending a secured session. -/
  | endSession (vf session : Nat)
  /-- LOCK_INTERFACE_REQUEST (R351). TDISP request locking the interface configuration. -/
  | lockInterfaceRequest (vf : Nat)
  /-- START_INTERFACE_REQUEST (R351). TDISP request moving the interface to RUN. -/
  | startInterfaceRequest (vf : Nat)
  /-- STOP_INTERFACE_REQUEST (R351). TDISP request stopping the interface, which unbinds its tenant. -/
  | stopInterfaceRequest (vf : Nat)
  /-- GET_DEVICE_INTERFACE_STATE (R351). TDISP request returning the interface state. -/
  | getDeviceInterfaceState (vf : Nat)
  /-- GET_DEVICE_INTERFACE_REPORT (R351). TDISP request returning the report with DEVID and colophon digest. -/
  | getDeviceInterfaceReport (vf : Nat)
  /-- NYPOELO_MSG1 (R384). The responder receives the initiator's colophon, chain, TID, nonce and ephemeral key. -/
  | nypoeloMsg1 (key : Nat) (msg : NypHello)
  /-- NYPOELO_MSG2 (R384). The initiator receives the responder's colophon, chain, nonce, key and signature. -/
  | nypoeloMsg2 (key : Nat) (msg : NypHello)
  /-- NYPOELO_MSG3 (R384). The responder checks the initiator's signature and confirmation tag. -/
  | nypoeloMsg3 (key : Nat) (msg : NypProof)
  /-- NYPOELO_MSG4 (R384). The initiator checks the responder's tag and both ends install the session keys. -/
  | nypoeloMsg4 (key : Nat) (msg : NypProof)
  /-- NYPOELO_ABORT (R383). An abort naming a failed step erases the ephemeral keys and reports MISMATCH. -/
  | nypoeloAbort (key step : Nat)
  /-- FABKEY_TIMEOUT (R383). No matching FABKEY from the peer within 2^30 ticks reports UNREACH. -/
  | fabkeyTimeout (key : Nat)
  /-- SESSION_PATH_TIMEOUT (R385). No fabric path for 2^30 ticks closes a session and erases its keys. -/
  | sessionPathTimeout (session : Nat)
  /-- FABRIC_PACKET_RECEIVE (R381). A fabric packet is checked by counter and tag and delivered, dropped or raises INTEG. -/
  | fabricPacketReceive (session : Nat) (pkt : FabricPacket)
  /-- ESP_INGRESS (R388). An authenticated ESP packet's payload is written into the next ring buffer as a release. -/
  | espIngress (spi : Nat) (pkt : EspPacket)
  /-- ESP_EGRESS (R388). A buffer from the egress ring is sent as an ESP packet. -/
  | espEgress (spi : Nat)
  /-- CXL_LINK_ACTIVE (R389). A CXL port's link comes up and the port serves accesses. -/
  | cxlLinkActive (port : Nat)
  /-- CXL_LINK_ERROR (R389). A link or IDE failure puts a CXL port into ERROR. -/
  | cxlLinkError (port : Nat)
  /-- RESET (R390). Reset starts bring-up with the Amindaer measuring and signing the colophon. -/
  | reset
  /-- BRINGUP_SLOT_END (R390). The bring-up training slot closes and the bring-up scrub starts. -/
  | bringupSlotEnd
  /-- TIMEBASE_SYNC (R390). The timebase synchronises to the pod and period 0 opens a retrain slot. -/
  | timebaseSync
  /-- MANAGEMENT_SET (R392). Management sets PKG, power cap, quotas, queue assignment, weights, slices and ladder graces. -/
  | managementSet (what : MgmtItem)
  /-- FIRMWARE_UPDATE (R392). A PLDM firmware update is staged to take effect at the next reset. -/
  | firmwareUpdate (image : Nat) (digest : List Byte)
  /-- SYSC_OTHER_SERVICE (R64). The cluster controller replies 0xFFFF_FFFF_FFFF_FFFF to a SYSC whose service number is not assigned. -/
  | syscOtherService (core : Nat)
  /-- LOG_RING_HEAD_WRITE (R341). The driver advances the log ring's HEAD through the context table, making room and releasing logging bundles held on a full ring. -/
  | logRingHeadWrite (vf ctx : Nat) (value : Word)
  /-- DIRTY_LOG_HEAD_WRITE (R343). The driver advances the dirty-page log's HEAD, freeing ring entries for further appends. -/
  | dirtyLogHeadWrite (vf ctx : Nat) (value : Word)
  /-- FABKEY_PEER_REQUEST (R383). A FABKEY of the same TID naming this package arrives from the peer, ending the local wait and starting the Nypoelo handshake. -/
  | fabkeyPeerRequest (key : Nat) (peer : PeerRequest)
  /-- PEER_SESSION_CLOSE (R385). A close from the peer, caused by its FABKEY CLOSE, unbind or quarantine, closes the session here and erases its keys. -/
  | peerSessionClose (session : Nat)
deriving DecidableEq, Repr

end Sys2Proof
end

