-- ==== Sys2Proof/Machine/Encoding.lean ====
section
/-! DEFINITION. The encoding tables of the slot instructions (Tables 2-1 to 2-14): for each opcode and length, how each
field is read, which registers it reads and writes, and the static checks with their reason codes (R36 to R42, R24). -/

namespace Sys2Proof

/-- The classes of Tables 2-7 to 2-13: slots of one class share a table. -/
inductive Cls where
  | ctl | scalar | address | run | engine
deriving DecidableEq, Repr

def Slot.cls : Slot → Cls
  | .ctl => .ctl
  | .sa | .sb => .scalar
  | .aga | .agb => .address
  | .va | .vb => .run
  | .xe => .engine

/-- Slot numbers of Table 1-1. -/
def Slot.num : Slot → Nat
  | .ctl => 0 | .sa => 1 | .sb => 2 | .aga => 3 | .agb => 4 | .va => 5 | .vb => 6 | .xe => 7

/-- Register files (Table 1-1); `a` and `b` are the register spaces of R34, whose numbers 16 to 23 are ma and mb. -/
inductive RFile where
  | x | y | a | b | v | w | e | p
deriving DecidableEq, Repr

/-- Registers a file (or register space) holds (R34). -/
def RFile.size : RFile → Nat
  | .x | .y => 32
  | .a | .b => 24
  | .v | .w | .e | .p => 16

/-- The file a slot owns (Table 1-1). -/
def Slot.file : Slot → RFile
  | .ctl => .p | .sa => .x | .sb => .y | .aga => .a | .agb => .b | .va => .v | .vb => .w | .xe => .e

/-- The file codes of Table 2-4 (R38). -/
def fileOfCode (own : RFile) (sc : BitVec 3) : RFile :=
  match sc.toNat with
  | 0 => own | 1 => .x | 2 => .y | 3 => .a | 4 => .b | 5 => .v | 6 => .w | _ => .e

/-- The file code of a file (Table 2-4); predicates have none. -/
def RFile.code : RFile → Nat
  | .x => 1 | .y => 2 | .a => 3 | .b => 4 | .v => 5 | .w => 6 | .e => 7 | .p => 8

/-- How a register field is read. -/
inductive Use where
  /-- not used: must be zero (R36) -/
  | zero
  /-- a register of the slot's own file -/
  | own
  /-- a register of the x file, through CTL's cross path (R44) -/
  | x
  /-- a predicate -/
  | p
  /-- a register of the file that SC names (R38) -/
  | file
  /-- a modifier register, 16 to 23 (R84, R88) -/
  | modr
deriving DecidableEq, Repr

/-- The values T may take (Table 2-5). -/
inductive TUse where
  | zero | mem | atom | cvt
deriving DecidableEq, Repr

/-- The values RM may take (Table 2-6). -/
inductive RmUse where
  | zero | round | roundSr | acq | rel | both
deriving DecidableEq, Repr

/-- The values SC may take: a scope (Table 2-6) or one of a set of file codes (R38). -/
inductive ScUse where
  | zero | scope | codes (cs : List Nat)
deriving DecidableEq, Repr

/-- How one opcode at one length reads its fields. `i` and `l` are the bits of I16 and L32 it uses. -/
structure Sig where
  d : Use := .zero
  a : Use := .zero
  b : Use := .zero
  c : Use := .zero
  v : Bool := false
  t : TUse := .zero
  rm : RmUse := .zero
  sc : ScUse := .zero
  i : BitVec 16 := 0
  l : BitVec 32 := 0
  /-- I16[15] is MSK and selects C as the mask (R136) -/
  msk : Bool := false
  /-- D is an implicit source too (R76, R88, R151) -/
  dsrc : Bool := false
  /-- I16 holds the number of a predicate destination from this bit (R177, R247) -/
  ps : Option Nat := none
deriving DecidableEq, Repr

/-- Form A and form P (Table 2-3) with the given use of D. -/
def sigA (d : Use) : Len → Option Sig
  | .one => some { d := d, a := .own, b := .own }
  | .two => some { d := d, a := .own, i := 0xFFFF }
  | .three => some { d := d, a := .own, l := 0xFFFFFFFF }

/-- One opcode with one length only. -/
def only (n len : Len) (s : Sig) : Option Sig := if n = len then some s else none

/-- Form W at lengths 2 and 3: B is a register, or zero under L32. -/
def sigW (s : Sig) : Len → Option Sig
  | .one => none
  | .two => some { s with b := .own }
  | .three => some { s with l := 0xFFFFFFFF }

/-- Form F (Table 2-3) at lengths 1, 2 and 3. -/
def sigF : Len → Option Sig
  | .one => some { d := .own, a := .own, b := .own }
  | .two => some { d := .own, a := .own, b := .own, rm := .round }
  | .three => some { d := .own, a := .own, rm := .round, l := 0xFFFFFFFF }

/-- Form F at lengths 1 and 3, without rounding. -/
def sigF13 (d : Use) : Len → Option Sig
  | .one => some { d := d, a := .own, b := .own }
  | .two => none
  | .three => some { d := d, a := .own, l := 0xFFFFFFFF }

/-- Form K (Table 2-3) at lengths 2 and 3. -/
def sigK : Len → Option Sig
  | .one => none
  | .two => some { d := .own, i := 0xFFFF }
  | .three => some { d := .own, l := 0xFFFFFFFF }

/-- Form M (Table 2-3) with an offset in I16 or L32. -/
def sigM (s : Sig) : Len → Option Sig
  | .one => none
  | .two => some { s with i := 0xFFFF }
  | .three => some { s with l := 0xFFFFFFFF }

/-- Form M for atomics and wide cells: I16 keeps its meaning `i`, L32 is the offset. -/
def sigMA (s : Sig) : Len → Option Sig
  | .one => none
  | .two => some s
  | .three => some { s with l := 0xFFFFFFFF }

/-- Form V at lengths 1, 3 and perhaps 2 (Table 7-1), with V as `.c` and a mask where word 1 is present. -/
def sigV (two : Bool) (rm : RmUse) : Len → Option Sig
  | .one => some { d := .own, a := .own, b := .own, v := true }
  | .two => if two then some { d := .own, a := .own, b := .own, v := true, rm := rm, msk := true, i := 0x8000 } else none
  | .three => some { d := .own, a := .own, v := true, rm := rm, msk := true, i := 0x8000, l := 0xFFFFFFFF }

def scalarDest : ScUse := .codes [0, 1, 2, 7]

/-- Table 2-7 with Tables 3-1 and 9-3. -/
def sigCtl (opc : Nat) (len : Len) : Option Sig :=
  match opc with
  | 0x00 => only .one len {}
  | 0x01 => match len with
      | .one => none | .two => some { i := 0xFFFF } | .three => some { l := 0xFFFFFFFF }
  | 0x02 => only .one len { a := .x }
  | 0x03 => match len with
      | .one => none | .two => some { d := .x, i := 0xFFFF } | .three => some { d := .x, l := 0xFFFFFFFF }
  | 0x04 => only .one len { d := .x, a := .x }
  | 0x05 | 0x06 => match len with
      | .one => none | .two => some { a := .x, i := 0xFFFF } | .three => some { i := 0xFFFF, l := 0xFFFFFFFF }
  | 0x07 => only .one len {}
  | 0x08 => only .two len { d := .x, i := 0x003F }
  | 0x09 => only .one len { d := .p, a := .p }
  | 0x0A | 0x0B | 0x0C | 0x0D => only .one len { d := .p, a := .p, b := .p }
  | 0x0E => only .one len { d := .x }
  | 0x0F => only .one len { a := .x, b := .x }
  | 0x10 => only .one len {}
  | 0x11 => only .two len { i := 0xFFFF }
  | 0x12 => only .two len { d := .x, a := .x, i := 0xFFFF }
  | 0x13 => only .one len {}
  | 0x14 => only .two len { d := .x, i := 0xFFFF }
  | 0x15 => only .two len { i := 0xFFFF }
  | 0x16 => only .two len { d := .x, i := 0xFFFF }
  | 0x17 => only .two len { a := .x, i := 0xFFFF }
  | 0x18 => only .two len { sc := .scope }
  | 0x19 => only .two len { a := .x, b := .x, v := true, sc := .scope, i := 1 }
  | 0x1A => only .two len { d := .p, a := .x, b := .x, v := true, sc := .scope, i := 1 }
  | 0x1B | 0x1C | 0x1D => only .two len { i := 7 }
  | 0x1E => only .two len { a := .x, i := 0xF, ps := some 0 }
  | 0x1F => only .two len { d := .x, i := 0xF, ps := some 0 }
  | 0x20 => only .two len { d := .x, a := .x, i := 0xF, ps := some 0 }
  | 0x21 => only .two len { d := .x, a := .x }
  | 0x22 => only .two len { a := .x, b := .x, i := 0xF, ps := some 0 }
  | 0x23 => only .two len { d := .x, i := 3 }
  | 0x24 => only .one len { d := .x }
  | 0x25 | 0x26 | 0x27 => only .one len {}
  | 0x28 => only .one len { a := .x }
  | 0x29 => only .two len { d := .x, a := .x, i := 3 }
  | 0x2A | 0x2B => only .one len { a := .x }
  | 0x2C => only .two len { i := 0xFFFF }
  | 0x2D => only .one len { d := .x, a := .x }
  | _ => none

/-- Table 2-8 with Table 4-1; `own` is the slot's own file, whose code XMOV may not name. -/
def sigShared (own : RFile) (opc : Nat) (len : Len) : Option Sig :=
  if 0x01 ≤ opc ∧ opc ≤ 0x10 then sigA .own len
  else if 0x11 ≤ opc ∧ opc ≤ 0x17 then sigA .p len
  else match opc with
  | 0x18 => sigW { d := .own, a := .own, c := .p } len
  | 0x19 | 0x1A | 0x1B | 0x1C | 0x1D => only .one len { d := .own, a := .own }
  | 0x1E | 0x1F => sigA .own len
  | 0x20 => only .two len { d := .own, a := .own, v := true, i := 0x1FFF }
  | 0x21 => only .two len { d := .own, a := .own, b := .own, i := 0x1FFF }
  | 0x22 => sigK len
  | 0x23 => only .three len { d := .own, l := 0xFFFFFFFF, dsrc := true }
  | 0x24 => only .two len { d := .own, a := .file, sc := .codes ([1, 2, 3, 4, 5, 6, 7].filter (· ≠ own.code)) }
  | _ => none

/-- Table 2-9. -/
def sigSb (opc : Nat) (len : Len) : Option Sig :=
  if 0x30 ≤ opc ∧ opc ≤ 0x36 then sigA .own len
  else match opc with
  | 0x37 => sigW { d := .own, a := .own, c := .own } len
  | 0x38 | 0x39 | 0x3A => sigW { d := .own, a := .own, i := 7 } len
  | 0x40 | 0x41 | 0x42 => sigF len
  | 0x43 => sigW { d := .own, a := .own, c := .own, rm := .round } len
  | 0x44 | 0x45 => sigF13 .own len
  | 0x46 | 0x47 | 0x48 => sigF13 .p len
  | 0x49 | 0x4A => only .two len { d := .own, a := .own, t := .mem, rm := .round }
  | 0x4B => only .one len { d := .own, a := .own }
  | _ => none

/-- Table 2-10 with Tables 4-5 and 7-5. -/
def sigAddr (opc : Nat) (len : Len) : Option Sig :=
  match opc with
  | 0x01 => sigM { d := .file, a := .own, v := true, t := .mem, sc := .codes [0, 1, 2, 3, 4, 5, 6, 7] } len
  | 0x02 => sigM { a := .own, c := .file, v := true, t := .mem, sc := .codes [0, 1, 2, 3, 4, 7] } len
  | 0x03 => sigM { d := .own, a := .own, v := true, t := .mem, sc := .scope, rm := .acq } len
  | 0x04 => sigM { a := .own, c := .own, v := true, t := .mem, sc := .scope, rm := .rel } len
  | 0x05 => match len with
      | .one => none
      | .two => some { d := .file, a := .own, v := true, sc := .codes [5, 6], i := 0x3F }
      | .three => some { d := .file, a := .own, v := true, sc := .codes [5, 6], i := 0x3F, l := 0xFFFF }
  | 0x06 => only .two len { d := .file, a := .own, v := true, sc := .codes [5, 6] }
  | 0x07 => only .two len { a := .own, c := .file, v := true, sc := .codes [5, 6], i := 0x3F }
  | 0x08 => only .two len { a := .own, c := .file, v := true, sc := .codes [5, 6] }
  | 0x09 => sigA .own len
  | 0x0A => only .two len { d := .own, a := .file, sc := .codes [0, 1, 2, 3, 4, 7] }
  | 0x0B => sigW { d := .modr, a := .own, i := 0x00FF } len
  | 0x0C => only .one len { d := .own, a := .modr, dsrc := true }
  | 0x0D => sigMA { d := .own, a := .own, c := .own, t := .atom, i := 0xFFFF } len
  | 0x0E => sigMA { d := .own, a := .own, b := .own, c := .own, t := .atom } len
  | 0x0F => sigMA { a := .own, c := .own } len
  | 0x10 => sigMA { d := .own, a := .own, i := 1 } len
  | 0x11 => sigMA { a := .own } len
  | 0x12 => sigMA { d := .own, a := .own, c := .own, t := .atom, i := 0xFFFF, sc := .scope, rm := .both } len
  | 0x13 => sigMA { d := .own, a := .own, b := .own, c := .own, t := .atom, sc := .scope, rm := .both } len
  | 0x14 => sigMA { a := .own, c := .own, sc := .scope, rm := .both } len
  | 0x15 => sigMA { d := .own, a := .own, i := 1, sc := .scope, rm := .both } len
  | 0x16 => sigM { a := .own } len
  | _ => none

/-- Table 2-11 with Table 7-1. -/
def sigRun (own : RFile) (opc : Nat) (len : Len) : Option Sig :=
  match opc with
  | 0x01 | 0x02 | 0x03 => sigV true .round len
  | 0x04 => sigW { d := .own, a := .own, c := .own, v := true, rm := .round } len
  | 0x05 | 0x06 => sigV false .zero len
  | 0x07 | 0x08 => only .one len { d := .own, a := .own, v := true }
  | 0x09 | 0x0A | 0x0B | 0x0C | 0x0D | 0x0E | 0x0F | 0x10 | 0x11 | 0x12 => sigV false .zero len
  | 0x13 => sigW { d := .own, a := .own, c := .own, v := true } len
  | 0x14 => only .one len { d := .own, a := .own }
  | 0x15 => only .two len { d := .own, a := .file, v := true, sc := .codes [1, 2, 7], i := 0xFFFF }
  | 0x16 => only .two len { d := .own, a := .own, v := true, i := 0xFFFF }
  | 0x17 => match len with
      | .one => none
      | .two => some { d := .own, a := .own, b := .own, v := true, i := 0xFFFF }
      | .three => some { d := .own, a := .own, v := true, i := 0xFFFF, l := 0xFFFF }
  | 0x18 => only .one len { d := .own, a := .own, b := .own, v := true }
  | 0x19 => match len with
      | .one => none
      | .two => some { d := .own, a := .own, b := .own, v := true }
      | .three => some { d := .own, a := .own, v := true, l := 0xFFFF }
  | 0x1A | 0x1B => only .two len { d := .file, a := .own, sc := scalarDest }
  | 0x1C => only .two len { d := .file, a := .own, sc := scalarDest, i := 0xFFFF }
  | 0x1D => only .two len { d := .own, a := .file, v := true, sc := .codes [1, 2, 7], i := 0xFFFF, dsrc := true }
  | 0x1E | 0x1F | 0x20 | 0x21 | 0x22 =>
      only .two len { d := .file, a := .own, sc := scalarDest, msk := true, i := 0x8000 }
  | 0x23 => only .two len { d := .own, a := .file, v := true, sc := .codes ([1, 2, 3, 4, 5, 6, 7].filter (· ≠ own.code)) }
  | _ => none

/-- Table 2-12 with Table 7-1. -/
def sigVb (opc : Nat) (len : Len) : Option Sig :=
  match opc with
  | 0x30 => only .two len { d := .own, a := .own, v := true, t := .cvt, rm := .roundSr, i := 7 }
  | 0x31 => only .two len { d := .own, a := .own, v := true, rm := .roundSr, i := 0x3F }
  | 0x32 | 0x33 | 0x34 | 0x35 | 0x36 | 0x37 | 0x38 => only .one len { d := .own, a := .own, v := true }
  | 0x39 | 0x3A | 0x3B => sigW { d := .own, a := .own, v := true, msk := true, i := 0x8007 } len
  | 0x3C => only .two len { d := .own, a := .own, b := .own, c := .own, v := true, i := 7 }
  | 0x3D => sigW { d := .own, a := .own, v := true, msk := true, i := 0x8000 } len
  | _ => none

/-- The same signature at lengths 2 and 3, with the bits of L32 that length 3 uses. -/
def sigE (s : Sig) (l : BitVec 32) : Len → Option Sig
  | .one => none
  | .two => some s
  | .three => some { s with l := l }

/-- Table 2-13 with Tables 14-1, 15-3, 22-10 and R382. `i16` decides SCRUB's kind, KSTAT's selector and GAL. The galley
field of an MMUL or MMOD without GAL is free, and is not used (DESIGN CHOICE, log entry 48). -/
def sigXe (opc : Nat) (len : Len) (i16 : BitVec 16) : Option Sig :=
  match opc with
  | 0x01 => sigE { a := .own, b := .own, c := .own, i := 0x3F } 0x3FFF len
  | 0x02 => only .one len {}
  | 0x03 | 0x04 =>
      if i16.getLsbD 10 then sigE { b := .own, c := .own, i := 0x3E07 } 0xFF len
      else sigE { a := .own, b := .own, c := .own, i := 0x3BFF } 0xFF len
  | 0x05 => sigE { a := .own, b := .own, c := .own, rm := .round, i := 0x03FF } 0x3FFF len
  | 0x06 => only .two len { i := 0x00FF }
  | 0x07 => only .two len { d := .own, v := true, i := 7 }
  | 0x10 => sigE { a := .own, b := .own, c := .own, i := 0x0FFF } 0x1FFFFF len
  | 0x11 => sigE { a := .own, b := .own, c := .own, i := 0x01FF } 0xFFFFFFFF len
  | 0x12 => only .two len { c := .own, i := 0xFFFF }
  | 0x13 => only .two len { c := .own, i := 7 }
  | 0x14 => sigW { a := .own, c := .own, i := 0x03FF } len
  | 0x15 => sigW { a := .own, c := .own, i := 0x3FFF, ps := some 10 } len
  | 0x16 => sigW { a := .own, sc := .scope } len
  | 0x17 => sigE { a := .own, b := .own, c := .own, i := 0x03FF } 0xFFFFFFFF len
  | 0x18 => only .two len { a := .own, b := .own, c := .own }
  | 0x19 | 0x1A => only .two len { a := .own, i := 0x3F }
  | 0x1B => only .two len { d := .own, a := .file, sc := .codes [1, 2, 3, 4, 5, 6] }
  | 0x1C => sigK len
  | 0x20 | 0x21 | 0x22 => only .two len { a := .own, c := .own }
  | 0x23 => match i16.toNat % 4 with
      | 0 => only .two len { a := .own, b := .own, c := .own, i := 3 }
      | 1 => only .two len { c := .own, i := 3 }
      | _ => only .two len { a := .own, c := .own, i := 3 }
  | 0x24 => only .two len { a := .own, c := .own }
  | 0x25 =>
      if i16.toNat % 4 = 2 then only .two len { d := .own, a := .own, i := 3 }
      else only .two len { d := .own, i := 3 }
  | _ => none

/-- The signature of an opcode in a slot at a length (R41); `none` is reason 0x4. -/
def sigOf (slot : Slot) (opc : Nat) (len : Len) (i16 : BitVec 16) : Option Sig :=
  match slot with
  | .ctl => sigCtl opc len
  | .sa => sigShared .x opc len
  | .sb => (sigShared .y opc len).or (sigSb opc len)
  | .aga | .agb => sigAddr opc len
  | .va => sigRun .v opc len
  | .vb => (sigRun .w opc len).or (sigVb opc len)
  | .xe => sigXe opc len i16

/-- Whether a field with this use names a register with a full/empty bit, so that its wait bit is used (R36, R75). -/
def Use.waits : Use → Bool
  | .own | .x | .file | .modr => true
  | .zero | .p => false

/-- The file a field with this use names. -/
def Use.rfile (slot : Slot) (sc : BitVec 3) : Use → RFile
  | .own | .modr => slot.file
  | .x => .x
  | .p => .p
  | .file | .zero => fileOfCode slot.file sc

/-- Whether a field holds a register of its file (reason 0x6 when not), a field not used passing. -/
def Use.inFile (slot : Slot) (sc : BitVec 3) (r : BitVec 5) (u : Use) : Bool :=
  match u with
  | .zero => true
  | .modr => 16 ≤ r.toNat && r.toNat ≤ 23
  | _ => r.toNat < (u.rfile slot sc).size

/-- The use of field B after V is known: a post-modify modifier under V = 1 of form M (R84). -/
def Sig.bUse (s : Sig) (slot : Slot) (opc : Nat) (f : Fields) : Use :=
  match slot with
  | .aga | .agb => if opc ≤ 4 && f.v then .modr else s.b
  | _ => s.b

/-- The use of field C after MSK is known (R136). -/
def Sig.cUse (s : Sig) (f : Fields) : Use :=
  if s.msk then (if f.i16.getLsbD 15 then .own else .zero) else s.c

def TUse.ok (t : BitVec 4) : TUse → Bool
  | .zero => t.toNat == 0
  | .mem => [0, 2, 3, 4, 5, 6, 7, 8].contains t.toNat
  | .atom => [3, 4, 7, 8].contains t.toNat
  | .cvt => [1, 4, 8, 9].contains t.toNat

def RmUse.ok (rm : BitVec 3) : RmUse → Bool
  | .zero => rm.toNat == 0
  | .round => rm.toNat ≤ 3
  | .roundSr => rm.toNat ≤ 4
  | .acq => rm.toNat ≤ 1
  | .rel => rm.toNat == 0 || rm.toNat == 2
  | .both => rm.toNat ≤ 3

/-- The values of SC that raise reason 0x5 when they do not fit: zero and scopes. File codes raise 0x6. -/
def ScUse.ok (sc : BitVec 3) : ScUse → Bool
  | .zero => sc.toNat == 0
  | .scope => sc.toNat ≤ 4
  | .codes _ => true

def ScUse.codeOk (sc : BitVec 3) : ScUse → Bool
  | .codes cs => cs.contains sc.toNat
  | _ => true

/-- The control registers of Table 3-8. -/
def csrNumbers : List Nat :=
  [0x000, 0x001, 0x002, 0x003, 0x004, 0x008, 0x009, 0x00A, 0x00B, 0x010, 0x011, 0x012, 0x020, 0x021, 0x022, 0x023,
   0x030, 0x031, 0x032, 0x033, 0x034, 0x035, 0x036, 0x037, 0x040, 0x041, 0x050, 0x060, 0x070]

/-- The limits on I16 and L32 that single instructions add (reason 0x5). -/
def rangeOk (slot : Slot) (opc : Nat) (f : Fields) : Bool :=
  let i := f.i16.toNat
  match slot, opc with
  | .ctl, 0x05 => i % 8192 ≠ 0 && i / 8192 == 0
  | .ctl, 0x06 => i % 8192 ≠ 0 && 1 ≤ i / 8192 && i / 8192 ≤ 6
  | .ctl, 0x16 => csrNumbers.contains i
  | .ctl, 0x17 => csrNumbers.contains i
  | .ctl, 0x19 => !(f.i16.getLsbD 0) || f.sc.toNat == 0
  | .ctl, 0x1A => !(f.i16.getLsbD 0) || f.sc.toNat == 0
  | .sa, 0x20 | .sb, 0x20 | .sa, 0x21 | .sb, 0x21 =>
      let w := i / 64 % 128
      1 ≤ w && w ≤ 64 && i % 64 + w ≤ 64
  | .aga, 0x0B | .agb, 0x0B => i / 64 % 4 ≠ 3
  | .aga, 0x0D | .agb, 0x0D | .aga, 0x12 | .agb, 0x12 => i ≤ 8
  | .vb, 0x3C => f.d.toNat % 2 == 0
  | .xe, 0x01 | .xe, 0x05 => f.l32.toNat % 256 ≤ 128 && f.l32.toNat / 256 % 64 ≤ 32
  | .xe, 0x03 | .xe, 0x04 => f.l32.toNat ≤ 128
  | .xe, 0x14 | .xe, 0x15 => 64 ≤ i % 1024 && i % 1024 ≤ 960
  | _, _ => true

/-- Word-1 fields are zero without word 1, L32 without word 2 (R33). -/
def absentOk (f : Fields) : Bool :=
  match f.len with
  | .one => f.c == 0 && !f.wc && f.t == 0 && f.rm == 0 && f.sc == 0 && f.i16 == 0 && f.l32 == 0
  | .two => f.l32 == 0
  | .three => true

/-- Reserved and unused fields are zero, and T, RM, SC and the immediates are in range: else reason 0x5 (R36, R42). -/
def fieldsOk (s : Sig) (slot : Slot) (opc : Nat) (f : Fields) : Bool :=
  (s.d != .zero || f.d == 0) && (s.a != .zero || f.a == 0)
  && (s.bUse slot opc f != .zero || f.b == 0) && (s.cUse f != .zero || f.c == 0)
  && (s.a.waits || !f.wa) && ((s.bUse slot opc f).waits || !f.wb) && ((s.cUse f).waits || !f.wc)
  && (s.v || !f.v) && s.t.ok f.t && s.rm.ok f.rm && s.sc.ok f.sc
  && (f.i16 &&& ~~~ s.i) == 0 && (f.l32 &&& ~~~ s.l) == 0 && rangeOk slot opc f

/-- Register numbers lie in their files and file codes in their sets: else reason 0x6 (R34, R38). -/
def regsOk (s : Sig) (slot : Slot) (opc : Nat) (f : Fields) : Bool :=
  s.sc.codeOk f.sc && s.d.inFile slot f.sc f.d && s.a.inFile slot f.sc f.a
  && (s.bUse slot opc f).inFile slot f.sc f.b && (s.cUse f).inFile slot f.sc f.c

/-- The reason code of a slot instruction by itself (0x4, 0x5, 0x6), or none (R24, R42). -/
def slotReason (opc : Nat) (f : Fields) : Option Nat :=
  match sigOf f.slot opc f.len f.i16 with
  | none => some 0x4
  | some s =>
    if !(fieldsOk s f.slot opc f) then some 0x5
    else if !(regsOk s f.slot opc f) then some 0x6
    else none

/-- One register source: the field that names it (0 A, 1 B, 2 C; 3 the implicit source D), its file, its number, its
wait bit. -/
structure SrcRef where
  field : Nat
  file : RFile
  reg : Nat
  wait : Bool
deriving DecidableEq, Repr

/-- The register sources of an instruction (R11, R16). Predicates named as operands are among them. -/
def sourcesOf (opc : Nat) (f : Fields) : List SrcRef :=
  match sigOf f.slot opc f.len f.i16 with
  | none => []
  | some s =>
    let one (k : Nat) (u : Use) (r : BitVec 5) (wt : Bool) : List SrcRef :=
      if u = .zero then [] else [⟨k, u.rfile f.slot f.sc, r.toNat, wt⟩]
    one 0 s.a f.a f.wa ++ one 1 (s.bUse f.slot opc f) f.b f.wb ++ one 2 (s.cUse f) f.c f.wc
      ++ (if s.dsrc then [⟨3, s.d.rfile f.slot f.sc, f.d.toNat, false⟩] else [])

/-- Whether V of this address instruction updates its address register (R84, R161). -/
def postModifies (opc : Nat) (f : Fields) : Bool :=
  f.slot.cls = .address && opc ≤ 8 && 1 ≤ opc && f.v

/-- The register destinations of an instruction that count for ports and for the single-writer check (R10, R11). -/
def destsOf (opc : Nat) (f : Fields) : List (RFile × Nat) :=
  match sigOf f.slot opc f.len f.i16 with
  | none => []
  | some s =>
    let d := if s.d = .zero then [] else [(s.d.rfile f.slot f.sc, f.d.toNat)]
    let p := if postModifies opc f then [(f.slot.file, f.a.toNat)] else []
    let q := match s.ps with
      | none => []
      | some k => [(RFile.p, f.i16.toNat / 2 ^ k % 16)]
    let pair := if f.slot = .vb ∧ opc = 0x3C then [(RFile.w, f.d.toNat + 1)] else []
    (d ++ p ++ q ++ pair).filter fun r => !(r.2 == 0 && (r.1 == RFile.x || r.1 == RFile.y || r.1 == RFile.p))

/-- The port group of a register: a and ma, b and mb are separate files for ports (R11). -/
def portOf (r : RFile × Nat) : RFile × Bool := (r.1, (r.1 == .a || r.1 == .b) && 16 ≤ r.2)

/-- Predicate write ports of XTOP, which writes through both (R56). -/
def xtopPorts (opc : Nat) (f : Fields) : Nat := if f.slot = .ctl ∧ opc = 0x0F then 2 else 0

/-- Whether the sequencer may issue the instruction: reason 0xA when not (R173, R178, Table 2-14). -/
def sequencerOk (hnd : Bool) (opc : Nat) (f : Fields) : Bool :=
  if hnd then
    match f.slot with
    | .va | .vb => false
    | .ctl => !([0x13, 0x1B, 0x1C, 0x1D, 0x26, 0x28].contains opc)
    | .xe => !(1 ≤ opc && opc ≤ 7) && !(opc == 0x1B && (f.sc.toNat == 5 || f.sc.toNat == 6))
    | .sa | .sb => !(opc == 0x24 && (f.sc.toNat == 5 || f.sc.toNat == 6))
    | .aga | .agb => !(5 ≤ opc && opc ≤ 8) && !(opc == 1 && (f.sc.toNat == 5 || f.sc.toNat == 6))
  else !(f.slot = .ctl && opc == 0x27)

end Sys2Proof
end

