-- ==== Sys2Proof/Machine/OpcodeMap.lean ====
section
/-! DEFINITION. The opcode map (Tables 2-7 to 2-13): from a class and an opcode to the constructor, and back. -/

namespace Sys2Proof

/-- The ctl class of the opcode map (R41). -/
def ctlCtor (opc : Nat) (f : Fields) : Option Instr :=
  match opc with
  | 0x00 => some (.nop f)
  | 0x01 => some (.br f)
  | 0x02 => some (.brx f)
  | 0x03 => some (.call f)
  | 0x04 => some (.callx f)
  | 0x05 => some (.loop f)
  | 0x06 => some (.loops f)
  | 0x07 => some (.lbrk f)
  | 0x08 => some (.lidx f)
  | 0x09 => some (.pset f)
  | 0x0A => some (.pand f)
  | 0x0B => some (.por f)
  | 0x0C => some (.pxor f)
  | 0x0D => some (.pandn f)
  | 0x0E => some (.ptox f)
  | 0x0F => some (.xtop f)
  | 0x10 => some (.tfence f)
  | 0x11 => some (.trap f)
  | 0x12 => some (.sysc f)
  | 0x13 => some (.eret f)
  | 0x14 => some (.flagrd f)
  | 0x15 => some (.flagclr f)
  | 0x16 => some (.csrrd f)
  | 0x17 => some (.csrwr f)
  | 0x18 => some (.drain f)
  | 0x19 => some (.waitx f)
  | 0x1A => some (.testx f)
  | 0x1B => some (.bara f)
  | 0x1C => some (.barw f)
  | 0x1D => some (.bars f)
  | 0x1E => some (.dqpush f)
  | 0x1F => some (.dqpop f)
  | 0x20 => some (.dqsteal f)
  | 0x21 => some (.dqcnt f)
  | 0x22 => some (.enq f)
  | 0x23 => some (.slotq f)
  | 0x24 => some (.tick f)
  | 0x25 => some (.yield f)
  | 0x26 => some (.halt f)
  | 0x27 => some (.hndret f)
  | 0x28 => some (.hnden f)
  | 0x29 => some (.waitev f)
  | 0x2A => some (.spwake f)
  | 0x2B => some (.spgate f)
  | 0x2C => some (.dbgbrk f)
  | 0x2D => some (.resumeg f)
  | _ => none

/-- The scalar class of the opcode map (R41). -/
def scalarCtor (opc : Nat) (f : Fields) : Option Instr :=
  match opc with
  | 0x01 => some (if f.len = .one then .add f else .addImm f)
  | 0x02 => some (if f.len = .one then .sub f else .subImm f)
  | 0x03 => some (if f.len = .one then .and f else .andImm f)
  | 0x04 => some (if f.len = .one then .or f else .orImm f)
  | 0x05 => some (if f.len = .one then .xor f else .xorImm f)
  | 0x06 => some (if f.len = .one then .andn f else .andnImm f)
  | 0x07 => some (if f.len = .one then .shl f else .shlImm f)
  | 0x08 => some (if f.len = .one then .shr f else .shrImm f)
  | 0x09 => some (if f.len = .one then .sar f else .sarImm f)
  | 0x0A => some (if f.len = .one then .rol f else .rolImm f)
  | 0x0B => some (if f.len = .one then .min f else .minImm f)
  | 0x0C => some (if f.len = .one then .max f else .maxImm f)
  | 0x0D => some (if f.len = .one then .minn f else .minnImm f)
  | 0x0E => some (if f.len = .one then .maxn f else .maxnImm f)
  | 0x0F => some (if f.len = .one then .add32 f else .add32Imm f)
  | 0x10 => some (if f.len = .one then .sub32 f else .sub32Imm f)
  | 0x11 => some (if f.len = .one then .cmpeq f else .cmpeqImm f)
  | 0x12 => some (if f.len = .one then .cmpne f else .cmpneImm f)
  | 0x13 => some (if f.len = .one then .cmplt f else .cmpltImm f)
  | 0x14 => some (if f.len = .one then .cmple f else .cmpleImm f)
  | 0x15 => some (if f.len = .one then .cmpltn f else .cmpltnImm f)
  | 0x16 => some (if f.len = .one then .cmplen f else .cmplenImm f)
  | 0x17 => some (if f.len = .one then .tstbit f else .tstbitImm f)
  | 0x18 => some (.sel f)
  | 0x19 => some (.clz f)
  | 0x1A => some (.ctz f)
  | 0x1B => some (.popc f)
  | 0x1C => some (.brev f)
  | 0x1D => some (.bswap f)
  | 0x1E => some (if f.len = .one then .sext f else .sextImm f)
  | 0x1F => some (if f.len = .one then .zext f else .zextImm f)
  | 0x20 => some (.bfx f)
  | 0x21 => some (.bfi f)
  | 0x22 => some (.lit f)
  | 0x23 => some (.lith f)
  | 0x24 => some (.xmovScalar f)
  | 0x30 => some (if f.len = .one then .mul f else .mulImm f)
  | 0x31 => some (if f.len = .one then .mulh f else .mulhImm f)
  | 0x32 => some (if f.len = .one then .mulhn f else .mulhnImm f)
  | 0x33 => some (if f.len = .one then .div f else .divImm f)
  | 0x34 => some (if f.len = .one then .divn f else .divnImm f)
  | 0x35 => some (if f.len = .one then .rem f else .remImm f)
  | 0x36 => some (if f.len = .one then .remn f else .remnImm f)
  | 0x37 => some (.madd f)
  | 0x38 => some (.mulmod f)
  | 0x39 => some (.addmod f)
  | 0x3A => some (.submod f)
  | 0x40 => some (if f.len = .one then .fadd f else .faddImm f)
  | 0x41 => some (if f.len = .one then .fsub f else .fsubImm f)
  | 0x42 => some (if f.len = .one then .fmul f else .fmulImm f)
  | 0x43 => some (.ffma f)
  | 0x44 => some (if f.len = .one then .fmin f else .fminImm f)
  | 0x45 => some (if f.len = .one then .fmax f else .fmaxImm f)
  | 0x46 => some (if f.len = .one then .fcmpeq f else .fcmpeqImm f)
  | 0x47 => some (if f.len = .one then .fcmplt f else .fcmpltImm f)
  | 0x48 => some (if f.len = .one then .fcmple f else .fcmpleImm f)
  | 0x49 => some (.fcvti f)
  | 0x4A => some (.fcvtf f)
  | 0x4B => some (.fclass f)
  | _ => none

/-- The address class of the opcode map (R41). -/
def addressCtor (opc : Nat) (f : Fields) : Option Instr :=
  match opc with
  | 0x01 => some (.ld f)
  | 0x02 => some (.st f)
  | 0x03 => some (.ldg f)
  | 0x04 => some (.stg f)
  | 0x05 => some (.ldv f)
  | 0x06 => some (.ldvp f)
  | 0x07 => some (.stv f)
  | 0x08 => some (.stvp f)
  | 0x09 => some (if f.len = .one then .aadd f else .aaddImm f)
  | 0x0A => some (.amov f)
  | 0x0B => some (.mset f)
  | 0x0C => some (.amod f)
  | 0x0D => some (.atom f)
  | 0x0E => some (.acas f)
  | 0x0F => some (.fxadd f)
  | 0x10 => some (.fxrd f)
  | 0x11 => some (.fxclr f)
  | 0x12 => some (.atomg f)
  | 0x13 => some (.acasg f)
  | 0x14 => some (.fxaddg f)
  | 0x15 => some (.fxrdg f)
  | 0x16 => some (.prefg f)
  | _ => none

/-- The run class of the opcode map (R41). -/
def runCtor (opc : Nat) (f : Fields) : Option Instr :=
  match opc with
  | 0x01 => some (if f.len = .one then .vadd f else .vaddImm f)
  | 0x02 => some (if f.len = .one then .vsub f else .vsubImm f)
  | 0x03 => some (if f.len = .one then .vmul f else .vmulImm f)
  | 0x04 => some (.vfma f)
  | 0x05 => some (if f.len = .one then .vmin f else .vminImm f)
  | 0x06 => some (if f.len = .one then .vmax f else .vmaxImm f)
  | 0x07 => some (.vabs f)
  | 0x08 => some (.vneg f)
  | 0x09 => some (if f.len = .one then .vand f else .vandImm f)
  | 0x0A => some (if f.len = .one then .vor f else .vorImm f)
  | 0x0B => some (if f.len = .one then .vxor f else .vxorImm f)
  | 0x0C => some (if f.len = .one then .vshl f else .vshlImm f)
  | 0x0D => some (if f.len = .one then .vshr f else .vshrImm f)
  | 0x0E => some (if f.len = .one then .vsar f else .vsarImm f)
  | 0x0F => some (if f.len = .one then .vcmpeq f else .vcmpeqImm f)
  | 0x10 => some (if f.len = .one then .vcmpne f else .vcmpneImm f)
  | 0x11 => some (if f.len = .one then .vcmplt f else .vcmpltImm f)
  | 0x12 => some (if f.len = .one then .vcmple f else .vcmpleImm f)
  | 0x13 => some (.vsel f)
  | 0x14 => some (.vcoal f)
  | 0x15 => some (.vsplat f)
  | 0x16 => some (.viota f)
  | 0x17 => some (.vslice f)
  | 0x18 => some (.vcat f)
  | 0x19 => some (.vsetl f)
  | 0x1A => some (.vlen f)
  | 0x1B => some (.vruns f)
  | 0x1C => some (.vget f)
  | 0x1D => some (.vput f)
  | 0x1E => some (.vredsum f)
  | 0x1F => some (.vredmax f)
  | 0x20 => some (.vredmin f)
  | 0x21 => some (.vcount f)
  | 0x22 => some (.vfirst f)
  | 0x23 => some (.xmovRun f)
  | 0x30 => some (.vcvt f)
  | 0x31 => some (.vqnt f)
  | 0x32 => some (.vexp2 f)
  | 0x33 => some (.vlog2 f)
  | 0x34 => some (.vrcp f)
  | 0x35 => some (.vrsq f)
  | 0x36 => some (.vsqrt f)
  | 0x37 => some (.vtanh f)
  | 0x38 => some (.vsigm f)
  | 0x39 => some (.vmodadd f)
  | 0x3A => some (.vmodsub f)
  | 0x3B => some (.vmodmul f)
  | 0x3C => some (.vbfly f)
  | 0x3D => some (.vbscale f)
  | _ => none

/-- The engine class of the opcode map (R41). -/
noncomputable def engineCtor (opc : Nat) (f : Fields) : Option Instr :=
  match opc with
  | 0x01 => some (.mload f)
  | 0x02 => some (.mswap f)
  | 0x03 => some (.mmul f)
  | 0x04 => some (.mmod f)
  | 0x05 => some (.mdrain f)
  | 0x06 => some (.mzero f)
  | 0x07 => some (.mstat f)
  | 0x10 => some (.copy f)
  | 0x11 => some (.galset f)
  | 0x12 => some (.galadv f)
  | 0x13 => some (.galrel f)
  | 0x14 => some (.smsg f)
  | 0x15 => some (.smsgt f)
  | 0x16 => some (.objadd f)
  | 0x17 => some (.coll f)
  | 0x18 => some (.rngcfg f)
  | 0x19 => some (.tidwr f)
  | 0x1A => some (.tidrd f)
  | 0x1B => some (.xmovXe f)
  | 0x1C => some (.elit f)
  | 0x20 => some (.krot f)
  | 0x21 => some (.keySeal f)
  | 0x22 => some (.keyUnseal f)
  | 0x23 => match f.i16.toNat % 4 with
      | 0 => some (.scrubSp f) | 1 => some (.scrubGangsp f) | 2 => some (.scrubPages f) | _ => some (.scrubKeys f)
  | 0x24 => some (.fabkey f)
  | 0x25 => some (.kstat f)
  | _ => none

/-- The constructor of an opcode in a class (R41); `_IMM` rows are the lengths 2 and 3 of a form with an immediate. -/
noncomputable def ctorOf (cls : Cls) (opc : Nat) (f : Fields) : Option Instr :=
  match cls with
  | .ctl => ctlCtor opc f
  | .scalar => scalarCtor opc f
  | .address => addressCtor opc f
  | .run => runCtor opc f
  | .engine => engineCtor opc f

/-- The opcode and the fields of a slot instruction; an event has none. -/
def Instr.slotPart : Instr → Option (Nat × Fields)
  | .nop f => some (0x00, f)
  | .br f => some (0x01, f)
  | .brx f => some (0x02, f)
  | .call f => some (0x03, f)
  | .callx f => some (0x04, f)
  | .loop f => some (0x05, f)
  | .loops f => some (0x06, f)
  | .lbrk f => some (0x07, f)
  | .lidx f => some (0x08, f)
  | .pset f => some (0x09, f)
  | .pand f => some (0x0A, f)
  | .por f => some (0x0B, f)
  | .pxor f => some (0x0C, f)
  | .pandn f => some (0x0D, f)
  | .ptox f => some (0x0E, f)
  | .xtop f => some (0x0F, f)
  | .tfence f => some (0x10, f)
  | .trap f => some (0x11, f)
  | .sysc f => some (0x12, f)
  | .eret f => some (0x13, f)
  | .flagrd f => some (0x14, f)
  | .flagclr f => some (0x15, f)
  | .csrrd f => some (0x16, f)
  | .csrwr f => some (0x17, f)
  | .drain f => some (0x18, f)
  | .waitx f => some (0x19, f)
  | .testx f => some (0x1A, f)
  | .bara f => some (0x1B, f)
  | .barw f => some (0x1C, f)
  | .bars f => some (0x1D, f)
  | .dqpush f => some (0x1E, f)
  | .dqpop f => some (0x1F, f)
  | .dqsteal f => some (0x20, f)
  | .dqcnt f => some (0x21, f)
  | .enq f => some (0x22, f)
  | .slotq f => some (0x23, f)
  | .tick f => some (0x24, f)
  | .yield f => some (0x25, f)
  | .halt f => some (0x26, f)
  | .hndret f => some (0x27, f)
  | .hnden f => some (0x28, f)
  | .waitev f => some (0x29, f)
  | .spwake f => some (0x2A, f)
  | .spgate f => some (0x2B, f)
  | .dbgbrk f => some (0x2C, f)
  | .resumeg f => some (0x2D, f)
  | .add f => some (0x01, f)
  | .addImm f => some (0x01, f)
  | .sub f => some (0x02, f)
  | .subImm f => some (0x02, f)
  | .and f => some (0x03, f)
  | .andImm f => some (0x03, f)
  | .or f => some (0x04, f)
  | .orImm f => some (0x04, f)
  | .xor f => some (0x05, f)
  | .xorImm f => some (0x05, f)
  | .andn f => some (0x06, f)
  | .andnImm f => some (0x06, f)
  | .shl f => some (0x07, f)
  | .shlImm f => some (0x07, f)
  | .shr f => some (0x08, f)
  | .shrImm f => some (0x08, f)
  | .sar f => some (0x09, f)
  | .sarImm f => some (0x09, f)
  | .rol f => some (0x0A, f)
  | .rolImm f => some (0x0A, f)
  | .min f => some (0x0B, f)
  | .minImm f => some (0x0B, f)
  | .max f => some (0x0C, f)
  | .maxImm f => some (0x0C, f)
  | .minn f => some (0x0D, f)
  | .minnImm f => some (0x0D, f)
  | .maxn f => some (0x0E, f)
  | .maxnImm f => some (0x0E, f)
  | .add32 f => some (0x0F, f)
  | .add32Imm f => some (0x0F, f)
  | .sub32 f => some (0x10, f)
  | .sub32Imm f => some (0x10, f)
  | .cmpeq f => some (0x11, f)
  | .cmpeqImm f => some (0x11, f)
  | .cmpne f => some (0x12, f)
  | .cmpneImm f => some (0x12, f)
  | .cmplt f => some (0x13, f)
  | .cmpltImm f => some (0x13, f)
  | .cmple f => some (0x14, f)
  | .cmpleImm f => some (0x14, f)
  | .cmpltn f => some (0x15, f)
  | .cmpltnImm f => some (0x15, f)
  | .cmplen f => some (0x16, f)
  | .cmplenImm f => some (0x16, f)
  | .tstbit f => some (0x17, f)
  | .tstbitImm f => some (0x17, f)
  | .sel f => some (0x18, f)
  | .clz f => some (0x19, f)
  | .ctz f => some (0x1A, f)
  | .popc f => some (0x1B, f)
  | .brev f => some (0x1C, f)
  | .bswap f => some (0x1D, f)
  | .sext f => some (0x1E, f)
  | .sextImm f => some (0x1E, f)
  | .zext f => some (0x1F, f)
  | .zextImm f => some (0x1F, f)
  | .bfx f => some (0x20, f)
  | .bfi f => some (0x21, f)
  | .lit f => some (0x22, f)
  | .lith f => some (0x23, f)
  | .xmovScalar f => some (0x24, f)
  | .mul f => some (0x30, f)
  | .mulImm f => some (0x30, f)
  | .mulh f => some (0x31, f)
  | .mulhImm f => some (0x31, f)
  | .mulhn f => some (0x32, f)
  | .mulhnImm f => some (0x32, f)
  | .div f => some (0x33, f)
  | .divImm f => some (0x33, f)
  | .divn f => some (0x34, f)
  | .divnImm f => some (0x34, f)
  | .rem f => some (0x35, f)
  | .remImm f => some (0x35, f)
  | .remn f => some (0x36, f)
  | .remnImm f => some (0x36, f)
  | .madd f => some (0x37, f)
  | .mulmod f => some (0x38, f)
  | .addmod f => some (0x39, f)
  | .submod f => some (0x3A, f)
  | .fadd f => some (0x40, f)
  | .faddImm f => some (0x40, f)
  | .fsub f => some (0x41, f)
  | .fsubImm f => some (0x41, f)
  | .fmul f => some (0x42, f)
  | .fmulImm f => some (0x42, f)
  | .ffma f => some (0x43, f)
  | .fmin f => some (0x44, f)
  | .fminImm f => some (0x44, f)
  | .fmax f => some (0x45, f)
  | .fmaxImm f => some (0x45, f)
  | .fcmpeq f => some (0x46, f)
  | .fcmpeqImm f => some (0x46, f)
  | .fcmplt f => some (0x47, f)
  | .fcmpltImm f => some (0x47, f)
  | .fcmple f => some (0x48, f)
  | .fcmpleImm f => some (0x48, f)
  | .fcvti f => some (0x49, f)
  | .fcvtf f => some (0x4A, f)
  | .fclass f => some (0x4B, f)
  | .ld f => some (0x01, f)
  | .st f => some (0x02, f)
  | .ldg f => some (0x03, f)
  | .stg f => some (0x04, f)
  | .ldv f => some (0x05, f)
  | .ldvp f => some (0x06, f)
  | .stv f => some (0x07, f)
  | .stvp f => some (0x08, f)
  | .aadd f => some (0x09, f)
  | .aaddImm f => some (0x09, f)
  | .amov f => some (0x0A, f)
  | .mset f => some (0x0B, f)
  | .amod f => some (0x0C, f)
  | .atom f => some (0x0D, f)
  | .acas f => some (0x0E, f)
  | .fxadd f => some (0x0F, f)
  | .fxrd f => some (0x10, f)
  | .fxclr f => some (0x11, f)
  | .atomg f => some (0x12, f)
  | .acasg f => some (0x13, f)
  | .fxaddg f => some (0x14, f)
  | .fxrdg f => some (0x15, f)
  | .prefg f => some (0x16, f)
  | .vadd f => some (0x01, f)
  | .vaddImm f => some (0x01, f)
  | .vsub f => some (0x02, f)
  | .vsubImm f => some (0x02, f)
  | .vmul f => some (0x03, f)
  | .vmulImm f => some (0x03, f)
  | .vfma f => some (0x04, f)
  | .vmin f => some (0x05, f)
  | .vminImm f => some (0x05, f)
  | .vmax f => some (0x06, f)
  | .vmaxImm f => some (0x06, f)
  | .vabs f => some (0x07, f)
  | .vneg f => some (0x08, f)
  | .vand f => some (0x09, f)
  | .vandImm f => some (0x09, f)
  | .vor f => some (0x0A, f)
  | .vorImm f => some (0x0A, f)
  | .vxor f => some (0x0B, f)
  | .vxorImm f => some (0x0B, f)
  | .vshl f => some (0x0C, f)
  | .vshlImm f => some (0x0C, f)
  | .vshr f => some (0x0D, f)
  | .vshrImm f => some (0x0D, f)
  | .vsar f => some (0x0E, f)
  | .vsarImm f => some (0x0E, f)
  | .vcmpeq f => some (0x0F, f)
  | .vcmpeqImm f => some (0x0F, f)
  | .vcmpne f => some (0x10, f)
  | .vcmpneImm f => some (0x10, f)
  | .vcmplt f => some (0x11, f)
  | .vcmpltImm f => some (0x11, f)
  | .vcmple f => some (0x12, f)
  | .vcmpleImm f => some (0x12, f)
  | .vsel f => some (0x13, f)
  | .vcoal f => some (0x14, f)
  | .vsplat f => some (0x15, f)
  | .viota f => some (0x16, f)
  | .vslice f => some (0x17, f)
  | .vcat f => some (0x18, f)
  | .vsetl f => some (0x19, f)
  | .vlen f => some (0x1A, f)
  | .vruns f => some (0x1B, f)
  | .vget f => some (0x1C, f)
  | .vput f => some (0x1D, f)
  | .vredsum f => some (0x1E, f)
  | .vredmax f => some (0x1F, f)
  | .vredmin f => some (0x20, f)
  | .vcount f => some (0x21, f)
  | .vfirst f => some (0x22, f)
  | .xmovRun f => some (0x23, f)
  | .vcvt f => some (0x30, f)
  | .vqnt f => some (0x31, f)
  | .vexp2 f => some (0x32, f)
  | .vlog2 f => some (0x33, f)
  | .vrcp f => some (0x34, f)
  | .vrsq f => some (0x35, f)
  | .vsqrt f => some (0x36, f)
  | .vtanh f => some (0x37, f)
  | .vsigm f => some (0x38, f)
  | .vmodadd f => some (0x39, f)
  | .vmodsub f => some (0x3A, f)
  | .vmodmul f => some (0x3B, f)
  | .vbfly f => some (0x3C, f)
  | .vbscale f => some (0x3D, f)
  | .mload f => some (0x01, f)
  | .mswap f => some (0x02, f)
  | .mmul f => some (0x03, f)
  | .mmod f => some (0x04, f)
  | .mdrain f => some (0x05, f)
  | .mzero f => some (0x06, f)
  | .mstat f => some (0x07, f)
  | .copy f => some (0x10, f)
  | .galset f => some (0x11, f)
  | .galadv f => some (0x12, f)
  | .galrel f => some (0x13, f)
  | .smsg f => some (0x14, f)
  | .smsgt f => some (0x15, f)
  | .objadd f => some (0x16, f)
  | .coll f => some (0x17, f)
  | .rngcfg f => some (0x18, f)
  | .tidwr f => some (0x19, f)
  | .tidrd f => some (0x1A, f)
  | .xmovXe f => some (0x1B, f)
  | .elit f => some (0x1C, f)
  | .krot f => some (0x20, f)
  | .keySeal f => some (0x21, f)
  | .keyUnseal f => some (0x22, f)
  | .scrubSp f => some (0x23, f)
  | .scrubGangsp f => some (0x23, f)
  | .scrubPages f => some (0x23, f)
  | .scrubKeys f => some (0x23, f)
  | .fabkey f => some (0x24, f)
  | .kstat f => some (0x25, f)
  | _ => none

end Sys2Proof
end

