-- ==== Sys2Proof/WellFormed.lean ====
section
/-! DEFINITION. Which terms of `Instr` stand for a legal encoding of a slot instruction, or for an event of this module. -/

namespace Sys2Proof

/-- A slot instruction is well formed when its constructor is the one its slot, opcode and length give, its fields pass
the static checks (R34 to R42), and the fields of absent words are zero (R33). -/
noncomputable def slotWf (i : Instr) (opc : Nat) (f : Fields) : Bool :=
  ctorOf f.slot.cls opc f == some i && slotReason opc f == none && absentOk f

/-- A core of the module: 8 clusters of 256 (R1). -/
def coreOk (core : Nat) : Bool := core < 2048

/-- A virtual function: 64 (R2). -/
def vfOk (vf : Nat) : Bool := vf < 64

/-- A context: 256 (R2). -/
def ctxOk (ctx : Nat) : Bool := ctx < 256

/-- A queue: 8,192 (R2, R189). -/
def queueOk (q : Nat) : Bool := q < 8192

/-- A doorbell index within a function: 512 (R190). -/
def doorbellOk (k : Nat) : Bool := k < 512

/-- An event is well formed when every unit it names is one the module has. -/
def eventWf : Instr → Bool
  | .bundleStallRelease c | .resultLand c | .fetchMissFill c _ | .handlerRunStart c | .mqEntryWritten c _
  | .dequePortRequest c | .dqstealAnswer c | .waitxSatisfied c | .waitevWake c | .waitevDeadline c | .tfenceDrained c
  | .drainDone c | .haltCommandsDone c | .enqAnswer c | .syscEcho c | .syscNotify c | .syscClock c
  | .syscOtherService c | .gangResume c | .cxlbusyTimeout c | .globalAccessPerform c _ | .chunkStart c _
  | .chunkComplete c _ | .commandComplete c _ | .galleyRowLand c _ | .objaddPerform c _ | .matrixOpStart c
  | .matrixOpFinish c _ | .rngBlock c | .keyHandoff c | .coreStop c | .coreZeroingComplete c
  | .dbgBreakpointHit c | .dbgStepTimeout c => coreOk c
  | .spGroupWakeDone c g => coreOk c && g < 8
  | .mqEntryArrival a b | .mqAckReceive a b | .mqResend a b | .mqProbe a b => coreOk a && coreOk b
  | .barrierRelease _ t => t < 8
  | .doorbellWrite vf k n _ => vfOk vf && doorbellOk k && 1 ≤ n && n ≤ 8
  | .queueDescriptorWrite vf k _ | .queueEnable vf k | .queueDisable vf k => vfOk vf && doorbellOk k
  | .launchRecord q | .waitRecord q | .signalRecord q | .nopRecord q | .waitRetire q | .dependenceMet q
  | .queueAging q => queueOk q
  | .gangPlace vf | .sliceEnd vf | .ladderG1Expiry vf | .ladderG2Expiry vf | .tenantUnbind vf | .getVersion vf
  | .getCapabilities vf | .negotiateAlgorithms vf | .getDigests vf | .lockInterfaceRequest vf
  | .startInterfaceRequest vf | .stopInterfaceRequest vf | .getDeviceInterfaceState vf
  | .getDeviceInterfaceReport vf | .bar2ApertureWrite vf _ | .hostBar2Access vf _ _ | .frameAssign vf _
  | .framePlaceNear vf _ _ | .frameCompress vf _ | .frameDonate vf _ _ | .record vf _ | .getrec vf _
  | .share vf _ _ _ | .getCertificate vf _ | .challenge vf _ | .getMeasurements vf _ | .keyExchange vf _
  | .finish vf _ _ | .keyUpdate vf _ | .heartbeat vf _ | .endSession vf _ => vfOk vf
  | .walkComplete cl ctx _ => cl < 8 && ctxOk ctx
  | .collEntry cl => cl < 8
  | .faultQueueHeadWrite vf c _ | .contextEntryWrite vf c _ _ | .invalidationCommand vf c _ _
  | .dirtyLogArmWrite vf c _ | .logovfClear vf c _ | .logRingHeadWrite vf c _ | .dirtyLogHeadWrite vf c _ =>
      vfOk vf && ctxOk c
  | .migrationStop c => ctxOk c
  | .thermalTrip i => i < 16
  | .cxlLinkActive p | .cxlLinkError p => p < 4
  | .dbgArm vf c | .dbgDisarm vf c | .dbgHalt vf c _ | .dbgBreak vf c _ _ | .dbgStep vf c _ | .dbgRun vf c
  | .dbgRead vf c _ | .dbgWrite vf c _ => vfOk vf && coreOk c
  | _ => true

/-- The well-formed terms of `Instr`. -/
noncomputable def Instr.wf (i : Instr) : Bool :=
  match i.slotPart with
  | some (opc, f) => slotWf i opc f
  | none => eventWf i

end Sys2Proof
end

