-- ==== Sys2Proof/Decode.lean ====
section
/-! DEFINITION. Decoding a bundle from the words of its fetch line (R20 to R22, R32, R399), and the encoder. -/

namespace Sys2Proof

/-- A 32-bit word of the instruction stream. -/
abbrev IWord := BitVec 32

/-- The length code of a slot instruction (R21). -/
def lenOf (w0 : IWord) : Option Len :=
  match w0.toNat % 4 with
  | 0 => some .one
  | 1 => some .two
  | 2 => some .three
  | _ => none

def Len.words : Len → Nat
  | .one => 1 | .two => 2 | .three => 3

def Len.code : Len → BitVec 2
  | .one => 0 | .two => 1 | .three => 2

/-- The opcode field OPC (Table 2-1). -/
def opcOf (w0 : IWord) : Nat := (w0.extractLsb' 7 7).toNat

/-- The fields of Table 2-1; absent words read as zero (R33). -/
def unpack (slot : Slot) (len : Len) (w0 w1 w2 : IWord) : Fields :=
  { slot := slot, len := len,
    g := w0.extractLsb' 2 4, gn := w0.getLsbD 6,
    d := w0.extractLsb' 14 5, a := w0.extractLsb' 19 5, b := w0.extractLsb' 24 5,
    wa := w0.getLsbD 29, wb := w0.getLsbD 30, v := w0.getLsbD 31,
    c := w1.extractLsb' 0 5, wc := w1.getLsbD 5, t := w1.extractLsb' 6 4, rm := w1.extractLsb' 10 3,
    sc := w1.extractLsb' 13 3, i16 := w1.extractLsb' 16 16, l32 := w2 }

/-- Word 0 of a slot instruction (Table 2-1). -/
def packWord0 (opc : Nat) (f : Fields) : IWord :=
  BitVec.ofBool f.v ++ BitVec.ofBool f.wb ++ BitVec.ofBool f.wa ++ f.b ++ f.a ++ f.d ++ BitVec.ofNat 7 opc
    ++ BitVec.ofBool f.gn ++ f.g ++ f.len.code

/-- Word 1 of a slot instruction (Table 2-1). -/
def packWord1 (f : Fields) : IWord := f.i16 ++ f.sc ++ f.rm ++ f.t ++ BitVec.ofBool f.wc ++ f.c

/-- The words of a well-formed slot instruction; an event has none. -/
def encode (i : Instr) : List IWord :=
  match i.slotPart with
  | none => []
  | some (opc, f) =>
    match f.len with
    | .one => [packWord0 opc f]
    | .two => [packWord0 opc f, packWord1 f]
    | .three => [packWord0 opc f, packWord1 f, f.l32]

/-- A slot instruction read from its words: the instruction, or its reason code (R24). -/
noncomputable def decodeWords (slot : Slot) (len : Len) (w0 w1 w2 : IWord) : Except Nat Instr :=
  let f := unpack slot len w0 w1 w2
  let opc := opcOf w0
  match slotReason opc f with
  | some r => .error r
  | none =>
    match ctorOf slot.cls opc f with
    | some i => .ok i
    | none => .error 4

/-- One slot instruction at the head of the words left in the line: its outcome, and the words after it. The outcome
0x2 leaves nothing decodable after it, and 0x3 says that its words do not all lie in the line (R399). -/
noncomputable def decodeSlot (slot : Slot) (ws : List IWord) : Except Nat Instr × Option (List IWord) :=
  match ws with
  | [] => (.error 3, some [])
  | w0 :: r0 =>
    match lenOf w0 with
    | none => (.error 2, none)
    | some .one => (decodeWords slot .one w0 0 0, some r0)
    | some .two =>
      match r0 with
      | w1 :: r1 => (decodeWords slot .two w0 w1 0, some r1)
      | [] => (.error 3, some [])
    | some .three =>
      match r0 with
      | w1 :: w2 :: r2 => (decodeWords slot .three w0 w1 w2, some r2)
      | _ => (.error 3, some [])

/-- The slot instructions present, in ascending slot order (R20, R399). -/
noncomputable def decodeSlots : List Slot → List IWord → List (Slot × Except Nat Instr) × List IWord
  | [], ws => ([], ws)
  | k :: ks, ws =>
    match decodeSlot k ws with
    | (.error 3, _) => ((k, .error 3) :: ks.map (fun j => (j, .error 3)), [])
    | (r, none) => ([(k, r)], [])
    | (r, some rest) =>
      let (more, left) := decodeSlots ks rest
      ((k, r) :: more, left)

/-- The slots whose words are complete, with opcode and fields as their words give them, whether or not they decode
(R399): a slot with length code 0b11 or outside the line is not decoded further, and ends the list. -/
def slotFields : List Slot → List IWord → List (Slot × Nat × Fields)
  | [], _ => []
  | k :: ks, ws =>
    match ws with
    | [] => []
    | w0 :: r0 =>
      match lenOf w0, r0 with
      | some .one, _ => (k, opcOf w0, unpack k .one w0 0 0) :: slotFields ks r0
      | some .two, w1 :: r1 => (k, opcOf w0, unpack k .two w0 w1 0) :: slotFields ks r1
      | some .three, w1 :: w2 :: r2 => (k, opcOf w0, unpack k .three w0 w1 w2) :: slotFields ks r2
      | _, _ => []

/-- The eight slots in order. -/
def allSlots : List Slot := [.ctl, .sa, .sb, .aga, .agb, .va, .vb, .xe]

/-- The slots that PRES names (R20). -/
def presentSlots (hdr : IWord) : List Slot := allSlots.filter fun k => hdr.getLsbD k.num

/-- A bundle as decoded from its line. -/
structure Bundle where
  words : Nat
  slots : List (Slot × Instr)
deriving DecidableEq, Repr

/-- What makes a bundle illegal (R24, R25): the header itself, or a reason code for each offending slot. -/
structure Illegal where
  hdr : Bool
  reasons : List (Slot × Nat)
deriving DecidableEq, Repr

/-- Whether a register that a slot writes is written twice (code 0x7): by another slot, or by this one itself, as a load
into the address register that it post-modifies (R24, R85). -/
def sharedDests (ds : List (Slot × List (RFile × Nat))) (k : Slot) (mine : List (RFile × Nat)) : Bool :=
  mine.any fun r => 1 < mine.count r || ds.any fun e => e.1 != k && e.2.contains r

/-- Ports of one port group that the slots use: one a source field, one a destination (R11). -/
def portCount (uses : List (Slot × List (RFile × Nat))) (g : RFile × Bool) : Nat :=
  (uses.map fun e => (e.2.filter fun r => portOf r == g).length).sum

def readLimit (g : RFile × Bool) : Nat := if g.1 = .p then 4 else 3

/-- The lowest of the codes 0x5 (a loop end inside its bundle), 0x7, 0x8, 0x9 and 0xA that marks this slot. -/
def crossReason (hnd : Bool) (words : Nat) (all : List (Slot × Nat × Fields)) (k : Slot) (opc : Nat) (f : Fields) :
    Option Nat :=
  let dests := all.map fun e => (e.1, destsOf e.2.1 e.2.2)
  let writes := all.map fun e =>
    (e.1, destsOf e.2.1 e.2.2 ++ List.replicate (xtopPorts e.2.1 e.2.2) (RFile.p, 16))
  let reads := all.map fun e => (e.1, (sourcesOf e.2.1 e.2.2).map fun s => (s.file, s.reg))
  let mine := destsOf opc f
  let myReads := (sourcesOf opc f).map fun s => (s.file, s.reg)
  let myWrites := mine ++ List.replicate (xtopPorts opc f) (RFile.p, 16)
  if k = .ctl ∧ (opc = 5 ∨ opc = 6) ∧ f.i16.toNat % 8192 < words then some 5
  else if sharedDests dests k mine then some 7
  else if myReads.any fun r => readLimit (portOf r) < portCount reads (portOf r) then some 8
  else if myWrites.any fun r => 2 < portCount writes (portOf r) then some 9
  else if !(sequencerOk hnd opc f) then some 0xA
  else none

/-- Decoding a bundle from the words that its line holds from the header on (R20 to R24, R399). Registers and ports are
counted over every slot whose words are complete. The end field of a LOOP is held against the words up to the last slot
that can be decoded, or to the end of the line where a later slot has length code 0b11 or leaves it (log entry 14). -/
noncomputable def decodeBundle (hnd : Bool) (ws : List IWord) : Except Illegal Bundle :=
  match ws with
  | [] => .error ⟨true, []⟩
  | hdr :: rest =>
    if hdr.extractLsb' 26 6 ≠ 0b101101#6 ∨ hdr.extractLsb' 8 18 ≠ 0#18 then .error ⟨true, []⟩
    else
      let (rs, left) := decodeSlots (presentSlots hdr) rest
      let words := ws.length - left.length
      let all := slotFields (presentSlots hdr) rest
      let bad := rs.filterMap fun e => match e.2 with
        | .error r => some (e.1, r)
        | .ok i => match i.slotPart with
          | some (opc, f) => (crossReason hnd words all e.1 opc f).map fun r => (e.1, r)
          | none => none
      if bad.isEmpty then
        .ok ⟨words, rs.filterMap fun e => match e.2 with
          | .ok i => some (e.1, i)
          | .error _ => none⟩
      else .error ⟨false, bad⟩

/-- A header for one slot instruction (Table 1-4). -/
def headerFor (k : Slot) : IWord := 0xB4000000#32 ||| BitVec.ofNat 32 (2 ^ k.num)

/-- Slots tried for a lone instruction word, those whose class constrains the word most first. -/
def loneOrder : List Slot := [.ctl, .xe, .aga, .vb, .va, .sb, .sa]

noncomputable def firstSlot : List Slot → List IWord → Option Instr
  | [], _ => none
  | k :: ks, ws =>
    match (decodeSlot k ws).1 with
    | .ok i => some i
    | .error _ => firstSlot ks ws

/-- The words of an instruction given as one number, its first word least significant. -/
def tableWords (w : Nat) : List IWord := [BitVec.ofNat 32 w, BitVec.ofNat 32 (w / 2 ^ 32), BitVec.ofNat 32 (w / 2 ^ 64)]

/-- The instruction read from a lone slot instruction's bits. The bits alone do not name the slot (R20 puts it in the
header), so the slots are tried in `loneOrder` (log entry 3). -/
noncomputable def decodeTableWord (_nbits w : Nat) : Option Instr := firstSlot loneOrder (tableWords w)

end Sys2Proof
end

