-- ==== Sys2Proof/Config.lean ====
section
/-! DEFINITION. What an implementation fixes and the spec leaves open: the free values, and the cryptographic functions
that the spec names by their standards and whose keys it does not give. Nothing is known of any of them. -/

namespace Sys2Proof.Config

open Sys2Proof

/-- A value that the spec leaves open, by the index of its draw (log entry 5). -/
opaque freeWord : Nat → Word

/-- A list of bytes that the spec leaves open: a nonce, an ephemeral point, a signature (log entries 5 and 12). -/
opaque freeBytes : Nat → List Byte

/-- SHA-384 (R353, R356; log entry 12). -/
opaque sha384 : List Byte → List Byte

/-- HKDF-Extract and HKDF-Expand with SHA-384 (R354, R356, R384; log entry 12). -/
opaque hkdfExtract : List Byte → List Byte → List Byte
opaque hkdfExpand : List Byte → List Byte → Nat → List Byte

/-- HMAC-SHA-384 (R384; log entry 12). -/
opaque hmac : List Byte → List Byte → List Byte

/-- AES-256-GCM (R370 to R374, R381, R388; log entries 12 and 22): byte i of the key stream of a key and a nonce, and the tag
of a text under a key, a nonce and associated data. -/
opaque gcmByte : List Byte → List Byte → Nat → Byte
opaque gcmTag : List Byte → List Byte → List Byte → List Byte → List Byte

/-- The device identity key's signature of the colophon (R350; log entry 12). -/
opaque identitySign : List Byte → List Byte

/-- Whether an ECDSA signature over brainpoolP384r1 verifies under a certificate chain (R350, R384; log entry 12). -/
opaque signatureOk : List Byte → List Byte → List Byte → Bool

/-- Whether a certificate chain leads to Tridaward's root (R384; log entry 12). -/
opaque chainOk : List Byte → Bool

/-- The x-coordinate of the shared point of two ephemeral key pairs, from their public points (R384; log entry 12). -/
opaque sharedPoint : List Byte → List Byte → List Byte

/-- The colophon's measurements by index 1 to 7, before any firmware update (R350; log entry 12). -/
opaque measurement : Nat → List Byte

/-- The security version numbers that this package's colophon reports, and DEVID (R350, R384; log entry 12). -/
opaque ownVersions : List Nat
opaque devid : List Byte

/-- Frames that the Amindaer reserves for its own structures (R213), and the place in its stack of the counter block of a
group placed near a cluster (R215, R362): the spec gives neither (log entries 40 and 45). -/
opaque reservedFrames : List Nat
opaque nearBlock : Nat → Nat

/-- The certificate chain of the identity key (R350; log entry 12). -/
opaque ownChain : List Byte

/-- The order in which the chunks of a COPY to global memory perform, from the command's number, its operands A and B and the
count of its chunks (R234; log entry 10). -/
opaque chunkOrder : Nat → Word → Word → Nat → List Nat

/-- The salt of the key of an ESP association, by SPI and direction (R388, RFC 4106; log entry 17). -/
opaque espSalt : Nat → Bool → List Byte

/-- Watts that the module draws at most with its sixteen islands at given clocks, in units of 0.1 GHz (R391; log entry 38). -/
opaque modulePower : List Nat → Nat

/-- The cluster whose compositor serves a queue (Table 12-1; log entry 48). -/
opaque compositorOf : Nat → Nat

end Sys2Proof.Config
end

