-- ==== Sys2Proof/Machine/Formats.lean ====
section
/-! DEFINITION. Number formats, rounding and conversions (R99 to R116): exact values, binary formats, integer formats,
residue words and packed rows. -/

namespace Sys2Proof

/-- The eight sticky flags of one slot, bit 0 NV to bit 7 SA (R57). -/
abbrev FlagSet := BitVec 8

def fNV : FlagSet := 0x01#8
def fDZ : FlagSet := 0x02#8
def fOF : FlagSet := 0x04#8
def fUF : FlagSet := 0x08#8
def fNX : FlagSet := 0x10#8
def fRG : FlagSet := 0x20#8
def fMQ : FlagSet := 0x40#8
def fSA : FlagSet := 0x80#8

/-- The flag set `f` when the condition holds. -/
def flagIf (c : Bool) (f : FlagSet) : FlagSet := if c then f else 0#8

/-- A value read from a float or integer format: a NaN (with whether it signals), an infinity, or an exact rational
`± num / den`. A zero keeps its sign. -/
inductive Val where
  | nan (sig : Bool)
  | inf (neg : Bool)
  | fin (neg : Bool) (num den : Nat)
deriving DecidableEq, Repr

/-- An exact integer as a value. -/
def Val.ofInt (i : Int) : Val := .fin (i < 0) i.natAbs 1

/-- `num / den * 2 ^ k` for any integer k, as numerator and denominator. -/
def scale2 (num den : Nat) (k : Int) : Nat × Nat :=
  if 0 ≤ k then (num * 2 ^ k.toNat, den) else (num, den * 2 ^ (-k).toNat)

/-- `floor (log2 (num / den))` for a positive rational. -/
def floorLog2 (num den : Nat) : Int :=
  let k : Int := (Nat.log2 num : Int) - (Nat.log2 den : Int)
  let s := scale2 num den (-k)
  if s.2 ≤ s.1 then k else k - 1

/-- The rounding modes of Table 2-6; the stochastic mode carries its draw (R105). -/
inductive RMode where
  | rne | rz | rpos | rneg | sr (draw : Nat)
deriving DecidableEq, Repr

/-- The mode an RM field names; mode 4 takes the draw given. -/
def RMode.ofCode (rm : Nat) (draw : Nat) : RMode :=
  match rm with
  | 0 => .rne | 1 => .rz | 2 => .rpos | 3 => .rneg | _ => .sr draw

/-- Whether a magnitude `lo + rem / den`, `0 ≤ rem < den`, rounds up to `lo + 1` (R104, R105). -/
def roundUp (m : RMode) (neg : Bool) (lo rem den : Nat) : Bool :=
  rem ≠ 0 && match m with
    | .rne => decide (den < 2 * rem) || (decide (2 * rem = den) && decide (lo % 2 = 1))
    | .rz => false
    | .rpos => !neg
    | .rneg => neg
    | .sr r => decide (r * den < 256 * rem)

/-- A magnitude rounded to a multiple of `2 ^ q`: the multiple, and whether it is inexact. -/
def roundAt (m : RMode) (neg : Bool) (num den : Nat) (q : Int) : Nat × Bool :=
  let s := scale2 num den (-q)
  let lo := s.1 / s.2
  let rem := s.1 % s.2
  (if roundUp m neg lo rem s.2 then lo + 1 else lo, rem ≠ 0)

/-- A float format of Table 5-1: stored bits, mantissa bits, bias, whether it has infinities, the encoding of its
largest finite value, its canonical NaN, and whether it saturates (Table 5-4). -/
structure FloatFmt where
  bits : Nat
  man : Nat
  bias : Nat
  hasInf : Bool
  maxFin : Nat
  nan : Option Nat
  sat : Bool
deriving DecidableEq, Repr

def fmtF32 : FloatFmt := ⟨32, 23, 127, true, 0x7F7FFFFF, some 0x7FC00000, false⟩
def fmtBF16 : FloatFmt := ⟨16, 7, 127, true, 0x7F7F, some 0x7FC0, false⟩
def fmtF16 : FloatFmt := ⟨16, 10, 15, true, 0x7BFF, some 0x7E00, false⟩
def fmtE4M3 : FloatFmt := ⟨8, 3, 7, false, 0x7E, some 0x7F, true⟩
def fmtE5M2 : FloatFmt := ⟨8, 2, 15, true, 0x7B, some 0x7E, true⟩
def fmtE2M3 : FloatFmt := ⟨6, 3, 1, false, 0x1F, none, true⟩
def fmtE3M2 : FloatFmt := ⟨6, 2, 3, false, 0x1F, none, true⟩
def fmtE2M1 : FloatFmt := ⟨4, 1, 1, false, 0x7, none, true⟩

/-- The float format of a code of Table 5-1. -/
def floatFmt (code : Nat) : Option FloatFmt :=
  match code with
  | 0x01 => some fmtF32 | 0x02 => some fmtBF16 | 0x03 => some fmtF16 | 0x04 => some fmtE4M3 | 0x05 => some fmtE5M2
  | 0x06 => some fmtE2M3 | 0x07 => some fmtE3M2 | 0x08 => some fmtE2M1
  | _ => none

/-- Integer formats: width and signedness (R111). -/
def intFmt (code : Nat) : Option (Nat × Bool) :=
  match code with
  | 0x10 => some (8, true) | 0x11 => some (4, true) | 0x12 => some (16, true) | 0x13 => some (32, true)
  | 0x14 => some (64, true) | 0x15 => some (8, false) | 0x16 => some (16, false) | 0x17 => some (32, false)
  | 0x18 => some (64, false) | 0x19 => some (64, false)
  | _ => none

/-- Bits per element (Table 5-1); zero for a code outside the table. -/
def fmtBits (code : Nat) : Nat :=
  match floatFmt code, intFmt code with
  | some f, _ => f.bits
  | none, some i => i.1
  | none, none => match code with
    | 0x09 => 8 | 0x20 => 32 | 0x30 => 1 | _ => 0

/-- Whether a code is a format (R99). -/
def isFmt (code : Nat) : Bool := fmtBits code ≠ 0

/-- The smallest normal exponent of a float format. -/
def FloatFmt.emin (f : FloatFmt) : Int := 1 - (f.bias : Int)

/-- The sign bit's weight. -/
def FloatFmt.signW (f : FloatFmt) : Nat := 2 ^ (f.bits - 1)

/-- Whether the magnitude field is a NaN. -/
def FloatFmt.isNan (f : FloatFmt) (mag : Nat) : Bool :=
  if f.hasInf then f.maxFin + 1 < mag else f.nan == some mag

/-- The value of an encoding (R101, R102). -/
def FloatFmt.value (f : FloatFmt) (raw : Nat) : Val :=
  let neg := decide (raw / f.signW % 2 = 1)
  let mag := raw % f.signW
  if f.isNan mag then .nan (f.hasInf && mag / 2 ^ (f.man - 1) % 2 == 0)
  else if f.hasInf && mag == f.maxFin + 1 then .inf neg
  else
    let e := mag / 2 ^ f.man
    let m := mag % 2 ^ f.man
    let n := if e = 0 then m else m + 2 ^ f.man
    let q : Int := (if e = 0 then 1 else (e : Int)) - f.bias - f.man
    let s := scale2 n 1 q
    .fin neg s.1 s.2

/-- An encoding and the flags of producing it. -/
structure Rounded where
  bits : Nat
  flags : FlagSet
deriving DecidableEq, Repr

/-- The sign bit added to a magnitude. -/
def FloatFmt.withSign (f : FloatFmt) (neg : Bool) (mag : Nat) : Nat := if neg then mag + f.signW else mag

/-- A finite magnitude above the largest finite value (Table 5-4). -/
def FloatFmt.overflow (f : FloatFmt) (m : RMode) (neg : Bool) : Rounded :=
  if f.sat then ⟨f.withSign neg f.maxFin, fSA ||| fNX⟩
  else
    let toMax := match m with
      | .rz => true | .rpos => neg | .rneg => !neg | _ => false
    ⟨f.withSign neg (if toMax then f.maxFin else f.maxFin + 1), fOF ||| fNX⟩

/-- The magnitude's encoding before the overflow check, and whether it is inexact. -/
def FloatFmt.roundMag (f : FloatFmt) (m : RMode) (neg : Bool) (num den : Nat) : Nat × Bool :=
  let e := max (floorLog2 num den) f.emin
  let r := roundAt m neg num den (e - f.man)
  ((e - f.emin).toNat * 2 ^ f.man + r.1, r.2)

/-- Whether the result is tiny after rounding to the format's precision with an unbounded exponent (R104). -/
def FloatFmt.tiny (f : FloatFmt) (m : RMode) (neg : Bool) (num den : Nat) : Bool :=
  let e := floorLog2 num den
  if f.emin ≤ e then false
  else
    let r := roundAt m neg num den (e - f.man)
    let s := scale2 r.1 1 (e - f.man - f.emin)
    s.1 < s.2

/-- Round of a nonzero rational (R104, R105). -/
def FloatFmt.roundFin (f : FloatFmt) (m : RMode) (neg : Bool) (num den : Nat) : Rounded :=
  let m := match m with
    | .sr _ => if f.maxFin < (f.roundMag (if neg then .rneg else .rpos) neg num den).1 then .rne else m
    | _ => m
  let r := f.roundMag m neg num den
  if f.maxFin < r.1 then f.overflow m neg
  else ⟨f.withSign neg r.1, flagIf r.2 fNX ||| flagIf (r.2 && f.tiny m neg num den) fUF⟩

/-- Round(x, fmt, rm) of any value, with the special cases of Table 5-4. -/
def FloatFmt.round (f : FloatFmt) (m : RMode) (v : Val) : Rounded :=
  match v with
  | .nan sig =>
    match f.nan with
    | some n => ⟨n, flagIf sig fNV⟩
    | none => ⟨0, fNV⟩
  | .inf neg => if f.hasInf then ⟨f.withSign neg (f.maxFin + 1), 0⟩ else ⟨f.withSign neg f.maxFin, fSA⟩
  | .fin neg num den => if num = 0 then ⟨f.withSign neg 0, 0⟩ else f.roundFin m neg num den

/-- Least and greatest value of an integer format. -/
def intLo (w : Nat) (signed : Bool) : Int := if signed then -(2 ^ (w - 1) : Int) else 0
def intHi (w : Nat) (signed : Bool) : Int := if signed then (2 ^ (w - 1) : Int) - 1 else (2 ^ w : Int) - 1

/-- A value rounded to an integer: the integer, and whether it is inexact. -/
def roundInt (m : RMode) (neg : Bool) (num den : Nat) : Int × Bool :=
  let r := roundAt m neg num den 0
  (if neg then -(r.1 : Int) else (r.1 : Int), r.2)

/-- Conversion of a value to an integer type (R83, Table 5-4): the integer and the flags. -/
def toIntFmt (w : Nat) (signed : Bool) (m : RMode) (v : Val) : Int × FlagSet :=
  match v with
  | .nan _ => (0, fNV)
  | .inf neg => (if neg then intLo w signed else intHi w signed, fSA)
  | .fin neg num den =>
    let r := roundInt m neg num den
    if r.1 < intLo w signed then (intLo w signed, fSA)
    else if intHi w signed < r.1 then (intHi w signed, fSA)
    else (r.1, flagIf r.2 fNX)

/-- Conversion to E8M0 outside a block (R107): NX and SA are the flags it sets, a NaN sets none. -/
def toE8M0 (v : Val) : Rounded :=
  match v with
  | .nan _ => ⟨0xFF, 0⟩
  | .inf _ => ⟨0xFF, 0⟩
  | .fin _ num den =>
    if num = 0 then ⟨0, 0⟩
    else
      let e := floorLog2 num den
      let s := scale2 num den (-e)
      let x := e + 127
      let c := max 0 (min 254 x)
      ⟨c.toNat, flagIf (s.1 ≠ s.2) fNX ||| flagIf (c ≠ x) fSA⟩

/-- The value of an E8M0 byte (R103). -/
def e8m0Value (b : Nat) : Val :=
  if b % 256 = 255 then .nan false
  else
    let s := scale2 1 1 ((b % 256 : Int) - 127)
    .fin false s.1 s.2

/-! ### Arithmetic on binary32 (R81, R82) -/

def f32 (b : Nat) : Val := fmtF32.value (b % 2 ^ 32)
def f32Nan : Nat := 0x7FC00000

def Val.isNan : Val → Bool
  | .nan _ => true
  | _ => false

def Val.isSnan : Val → Bool
  | .nan s => s
  | _ => false

def Val.isZero : Val → Bool
  | .fin _ n _ => n == 0
  | _ => false

def Val.sign : Val → Bool
  | .nan _ => false
  | .inf n => n
  | .fin n _ _ => n

def Val.negate : Val → Val
  | .nan s => .nan s
  | .inf n => .inf (!n)
  | .fin n a b => .fin (!n) a b

/-- A signed numerator over the denominator. -/
def signedNum (neg : Bool) (num : Nat) : Int := if neg then -(num : Int) else (num : Int)

/-- The exact sum of two finite values; an exact zero takes the sign of R81. -/
def addFin (m : RMode) (n1 : Bool) (a1 d1 : Nat) (n2 : Bool) (a2 d2 : Nat) : Val :=
  let s := signedNum n1 (a1 * d2) + signedNum n2 (a2 * d1)
  if s = 0 then .fin (if a1 = 0 ∧ a2 = 0 ∧ n1 = n2 then n1 else m == .rneg) 0 1
  else .fin (s < 0) s.natAbs (d1 * d2)

/-- The exact product with its invalid case: none for 0 × ∞. -/
def mulVal (a b : Val) : Option Val :=
  match a, b with
  | .nan s, .nan t => some (.nan (s || t))
  | .nan s, _ => some (.nan s)
  | _, .nan t => some (.nan t)
  | .inf s, .inf t => some (.inf (s != t))
  | .inf s, .fin t n _ => if n = 0 then none else some (.inf (s != t))
  | .fin s n _, .inf t => if n = 0 then none else some (.inf (s != t))
  | .fin s n d, .fin t n' d' => some (.fin (s != t) (n * n') (d * d'))

/-- The exact sum with its invalid case: none for ∞ − ∞. -/
def addVal (m : RMode) (a b : Val) : Option Val :=
  match a, b with
  | .nan s, .nan t => some (.nan (s || t))
  | .nan s, _ => some (.nan s)
  | _, .nan t => some (.nan t)
  | .inf s, .inf t => if s = t then some (.inf s) else none
  | .inf s, .fin _ _ _ => some (.inf s)
  | .fin _ _ _, .inf t => some (.inf t)
  | .fin s n d, .fin t n' d' => some (addFin m s n d t n' d')

/-- A result rounded to binary32, an invalid operation giving the canonical NaN with NV. -/
def finishF32 (m : RMode) (nv : Bool) (v : Option Val) : Rounded :=
  match v with
  | none => ⟨f32Nan, fNV⟩
  | some v =>
    let r := fmtF32.round m v
    ⟨r.bits, r.flags ||| flagIf nv fNV⟩

def f32Add (m : RMode) (a b : Nat) : Rounded := finishF32 m false (addVal m (f32 a) (f32 b))
def f32Sub (m : RMode) (a b : Nat) : Rounded := finishF32 m false (addVal m (f32 a) (f32 b).negate)
def f32Mul (m : RMode) (a b : Nat) : Rounded := finishF32 m false (mulVal (f32 a) (f32 b))

/-- A × B + C rounded once; 0 × ∞ sets NV even when C is a quiet NaN (R81). -/
def f32Fma (m : RMode) (a b c : Nat) : Rounded :=
  match mulVal (f32 a) (f32 b) with
  | none => ⟨f32Nan, fNV⟩
  | some p => finishF32 m (p.isSnan || (f32 c).isSnan) (addVal m p (f32 c))

/-- The order of binary32 values that are not NaNs, −0 below +0 when `signedZero` holds. -/
def ltVal (signedZero : Bool) (a b : Val) : Bool :=
  match a, b with
  | .inf s, .inf t => s && !t
  | .inf s, .fin _ _ _ => s
  | .fin _ _ _, .inf t => !t
  | .fin s n d, .fin t n' d' =>
    let x := signedNum s (n * d')
    let y := signedNum t (n' * d)
    x < y || (signedZero && x == y && n == 0 && s && !t)
  | _, _ => false

/-- FMIN and FMAX (R82). -/
def f32MinMax (wantMax : Bool) (a b : Nat) : Rounded :=
  let x := f32 a
  let y := f32 b
  let fl := flagIf (x.isSnan || y.isSnan) fNV
  let a := a % 2 ^ 32
  let b := b % 2 ^ 32
  if x.isNan && y.isNan then ⟨f32Nan, fl⟩
  else if x.isNan then ⟨b, fl⟩
  else if y.isNan then ⟨a, fl⟩
  else if ltVal true x y then ⟨if wantMax then b else a, fl⟩
  else ⟨if wantMax then a else b, fl⟩

/-- FCMPEQ, FCMPLT and FCMPLE (R82): the predicate and the flags. -/
def f32CmpEq (a b : Nat) : Bool × FlagSet :=
  let x := f32 a
  let y := f32 b
  (!(x.isNan || y.isNan) && !(ltVal false x y) && !(ltVal false y x), flagIf (x.isSnan || y.isSnan) fNV)

def f32CmpLt (a b : Nat) : Bool × FlagSet :=
  let x := f32 a
  let y := f32 b
  (ltVal false x y, flagIf (x.isNan || y.isNan) fNV)

def f32CmpLe (a b : Nat) : Bool × FlagSet :=
  let x := f32 a
  let y := f32 b
  (!(x.isNan || y.isNan) && !(ltVal false y x), flagIf (x.isNan || y.isNan) fNV)

/-- FCLASS (Table 4-4). -/
def f32Class (a : Nat) : Nat :=
  match f32 a with
  | .nan s => if s then 2 ^ 8 else 2 ^ 9
  | .inf n => if n then 1 else 2 ^ 7
  | .fin n num _ =>
    let mag := a % 2 ^ 31
    if num = 0 then (if n then 2 ^ 3 else 2 ^ 4)
    else if mag < 2 ^ 23 then (if n then 2 ^ 2 else 2 ^ 5)
    else (if n then 2 ^ 1 else 2 ^ 6)

/-! ### Elements read and written under a forme (R106 to R110) -/

/-- Widening to binary32 (R106): exact for every narrower float format and for E8M0. -/
def widenF32 (v : Val) : Rounded := fmtF32.round .rne v

/-- The value of an unscaled element of a float format or of E8M0. -/
def elemVal (fmt raw : Nat) : Val :=
  match floatFmt fmt with
  | some f => f.value raw
  | none => e8m0Value raw

/-- An element under a scale byte (R110): its binary32 bits and flags. -/
def scaledElem (fmt raw scale : Nat) : Rounded :=
  if scale = 0xFF then ⟨f32Nan, 0⟩
  else
    match elemVal fmt raw with
    | .fin n num den =>
      let s := scale2 num den ((scale : Int) - 127)
      fmtF32.round .rne (.fin n s.1 s.2)
    | v => fmtF32.round .rne v

/-- The exponent of the largest finite value (Table 5-3). -/
def emaxOf (fmt : Nat) : Int :=
  match fmt with
  | 0x04 => 8 | 0x05 => 15 | 0x06 => 2 | 0x07 => 4 | _ => 2

/-- A block written to a microscaled tensor (R109): the scale, the elements and the flags. -/
def writeBlock (fmt : Nat) (vs : List Val) : Nat × List Nat × FlagSet :=
  let bad := vs.any fun v => match v with
    | .fin _ _ _ => false
    | _ => true
  if bad then (0xFF, vs.map fun _ => 0, flagIf (vs.any Val.isSnan) fNV)
  else
    let e := vs.foldl (fun acc v => match v with
      | .fin _ num den => if num = 0 then acc else match acc with
        | none => some (floorLog2 num den)
        | some a => some (max a (floorLog2 num den))
      | _ => acc) (none : Option Int)
    let x : Int := match e with
      | none => -127
      | some k => max (-127) (min 127 (k - emaxOf fmt))
    let rs := vs.map fun v => match v, floatFmt fmt with
      | .fin n num den, some f =>
        let s := scale2 num den (-x)
        f.round .rne (.fin n s.1 s.2)
      | _, _ => ⟨0, 0⟩
    ((x + 127).toNat, rs.map Rounded.bits, rs.foldl (fun a r => a ||| r.flags) 0)

/-! ### Residue words (R112 to R115) -/

def rxModulus : Nat := 134217216

/-- The RX word of an integer (R113). -/
def rxEncode (x : Int) : Nat := (x % 511).toNat + (x % 512).toNat * 2 ^ 9 + (x % 513).toNat * 2 ^ 18

/-- The unique integer of the signed range with these residues (R113). -/
def crt (c1 c2 c3 : Nat) : Int :=
  let t := (c1 * 67239936 + c2 * 133955073 + c3 * 67239424) % rxModulus
  if 67108608 ≤ t then (t : Int) - rxModulus else t

/-- An RX word read from memory: its value, and whether RG is set (R115). -/
def rxDecode (w : Nat) : Int × FlagSet :=
  let c1 := w % 2 ^ 9
  let c2 := w / 2 ^ 9 % 2 ^ 9
  let c3 := w / 2 ^ 18 % 2 ^ 10
  (crt (c1 % 511) c2 (c3 % 513), flagIf (511 ≤ c1 || 513 ≤ c3 || w / 2 ^ 28 % 16 ≠ 0) fRG)

/-! ### Packed rows (R100) -/

/-- Bytes of a row of n elements. -/
def rowBytes (fmt n : Nat) : Nat := (n * fmtBits fmt + 7) / 8

/-- The natural number that little-endian bytes hold. -/
def bytesToNat : List Byte → Nat
  | [] => 0
  | b :: bs => b.toNat + 256 * bytesToNat bs

/-- The n little-endian bytes of a number. -/
def natToBytes : Nat → Nat → List Byte
  | 0, _ => []
  | n + 1, x => BitVec.ofNat 8 x :: natToBytes n (x / 256)

/-- The raw bits of element i of a row held as one little-endian number. -/
def elemOfRow (fmt row i : Nat) : Nat := row / 2 ^ (i * fmtBits fmt) % 2 ^ fmtBits fmt

/-- A row of elements as one little-endian number; bits after the last element are zero (R100). -/
def rowOfElems (fmt : Nat) : List Nat → Nat
  | [] => 0
  | e :: es => e % 2 ^ fmtBits fmt + 2 ^ fmtBits fmt * rowOfElems fmt es

end Sys2Proof
end

