-- ==== Sys2Proof/Machine/Arith.lean ====
section
/-! DEFINITION. Integer, modular and address arithmetic on register values (R74 to R80, R89, R92, R96, R97), and the
special functions of R157. -/

namespace Sys2Proof

def b2w (b : Bool) : Word := if b then 1#64 else 0#64

/-- SEXT and ZEXT's width: B[6:0], 64 when that is 0 or above 64 (R74). -/
def extWidth (b : Word) : Nat :=
  let w := b.toNat % 128
  if w = 0 ∨ 64 < w then 64 else w

/-- The low `w` bits sign-extended. -/
def sextBits (w : Nat) (a : Word) : Word :=
  let lo := a.toNat % 2 ^ w
  if 0 < w ∧ 2 ^ (w - 1) ≤ lo then BitVec.ofInt 64 ((lo : Int) - 2 ^ w) else BitVec.ofNat 64 lo

/-- The low `w` bits zero-extended. -/
def zextBits (w : Nat) (a : Word) : Word := BitVec.ofNat 64 (a.toNat % 2 ^ w)

/-- Leading zeros of the low n bits, from the top. -/
def clzAux (a : Word) : Nat → Nat
  | 0 => 0
  | n + 1 => if a.getLsbD n then 0 else 1 + clzAux a n

def clz64 (a : Word) : Nat := clzAux a 64

/-- Trailing zeros, looking at n more bits from bit i. -/
def ctzAux (a : Word) : Nat → Nat → Nat
  | 0, _ => 0
  | n + 1, i => if a.getLsbD i then 0 else 1 + ctzAux a n (i + 1)

def ctz64 (a : Word) : Nat := ctzAux a 64 0

def popAux (a : Word) : Nat → Nat
  | 0 => 0
  | n + 1 => (if a.getLsbD n then 1 else 0) + popAux a n

def popc64 (a : Word) : Nat := popAux a 64

/-- The low w bits of v reversed (R89). -/
def revBits : Nat → Nat → Nat
  | 0, _ => 0
  | w + 1, v => v % 2 * 2 ^ w + revBits w (v / 2)

def brev64 (a : Word) : Word := BitVec.ofNat 64 (revBits 64 a.toNat)

def bswap64 (a : Word) : Word := BitVec.ofNat 64 (bytesToNat (natToBytes 8 a.toNat).reverse)

/-- BFX (R74). -/
def bfx (a : Word) (pos w : Nat) (signed : Bool) : Word :=
  let s := BitVec.ofNat 64 (a.toNat / 2 ^ pos)
  if signed then sextBits w s else zextBits w s

/-- BFI (R74). -/
def bfi (a b : Word) (pos w : Nat) : Word :=
  let lo := a.toNat % 2 ^ pos
  let hi := a.toNat / 2 ^ (pos + w)
  BitVec.ofNat 64 (lo + (b.toNat % 2 ^ w) * 2 ^ pos + hi * 2 ^ (pos + w))

/-- Minimum and maximum, signed and natural (R74). -/
def minS (a b : Word) : Word := if a.slt b then a else b
def maxS (a b : Word) : Word := if a.slt b then b else a
def minN (a b : Word) : Word := if a.ult b then a else b
def maxN (a b : Word) : Word := if a.ult b then b else a

/-- The low 32 bits sign-extended (ADD32, SUB32). -/
def sext32 (a : Word) : Word := (a.setWidth 32).signExtend 64

def mulh (a b : Word) : Word := BitVec.ofInt 64 (a.toInt * b.toInt / 2 ^ 64)
def mulhn (a b : Word) : Word := BitVec.ofNat 64 (a.toNat * b.toNat / 2 ^ 64)

/-- The four divisions (Table 4-3), each with its flags. -/
def divS (a b : Word) : Word × FlagSet :=
  if b = 0#64 then (BitVec.allOnes 64, fDZ)
  else (BitVec.ofInt 64 (Int.tdiv a.toInt b.toInt),
        flagIf (a = BitVec.intMin 64 && b = BitVec.allOnes 64) fOF)

def remS (a b : Word) : Word × FlagSet :=
  if b = 0#64 then (a, fDZ) else (BitVec.ofInt 64 (Int.tmod a.toInt b.toInt), 0)

def divN (a b : Word) : Word × FlagSet :=
  if b = 0#64 then (BitVec.allOnes 64, fDZ) else (BitVec.ofNat 64 (a.toNat / b.toNat), 0)

def remN (a b : Word) : Word × FlagSet :=
  if b = 0#64 then (a, fDZ) else (BitVec.ofNat 64 (a.toNat % b.toNat), 0)

/-- The modular operations (R80, R158), on natural operands: the result and MQ. -/
def modAdd (q a b : Nat) : Nat × FlagSet := ((a % q + b % q) % q, flagIf (q ≤ a || q ≤ b) fMQ)
def modSub (q a b : Nat) : Nat × FlagSet := ((a % q + q - b % q) % q, flagIf (q ≤ a || q ≤ b) fMQ)
def modMul (q a b : Nat) : Nat × FlagSet := ((a % q) * (b % q) % q, flagIf (q ≤ a || q ≤ b) fMQ)

/-- Whether a MODQ register takes this value (R66). -/
def modqOk (v : Word) : Bool := v.getLsbD 0 && 3 ≤ v.toNat && v.toNat < 2 ^ 62

/-- The smallest power of two at or above n, for n of at most k bits. -/
def ceilPow2 (n : Nat) : Nat := if n ≤ 1 then 1 else 2 ^ (Nat.log2 (n - 1) + 1)

/-- Update(a, m) of R89; none is Trap(UNALIGN). -/
def addrUpdate (a m : Word) : Option Word :=
  let step := (m.setWidth 32).signExtend 64
  let len := m.toNat / 2 ^ 32 % 2 ^ 24
  let w := m.toNat / 2 ^ 56 % 2 ^ 6
  match m.toNat / 2 ^ 62 with
  | 0 => some (a + step)
  | 1 =>
    if len = 0 then some a
    else
      let base := a.toNat - a.toNat % ceilPow2 len
      let off := (((a.toNat - base : Nat) : Int) + step.toInt) % (len : Int)
      some (BitVec.ofNat 64 (base + off.toNat))
  | 2 =>
    let lo := a.toNat % 2 ^ w
    let s := step.toNat % 2 ^ w
    some (BitVec.ofNat 64 (a.toNat - lo + revBits w ((revBits w lo + revBits w s) % 2 ^ w)))
  | _ => none

/-! ### Scalar types of Table 2-5 -/

/-- Bytes of a T code. -/
def tBytes (t : Nat) : Nat :=
  match t with
  | 0 | 5 => 1 | 2 | 6 => 2 | 3 | 7 => 4 | _ => 8

/-- Whether a T code is signed. -/
def tSigned (t : Nat) : Bool := t ≤ 4

/-- A value of a T code extended to 64 bits (R86). -/
def tExtend (t : Nat) (v : Nat) : Word :=
  let a := BitVec.ofNat 64 v
  if tSigned t then sextBits (8 * tBytes t) a else zextBits (8 * tBytes t) a

/-- The new value of an atomic operation on `bytes` bytes (Table 4-8). -/
def atomOp (op bytes old c : Nat) : Nat :=
  let w := 8 * bytes
  let old := old % 2 ^ w
  let c := c % 2 ^ w
  let so := (sextBits w (BitVec.ofNat 64 old)).toInt
  let sc := (sextBits w (BitVec.ofNat 64 c)).toInt
  match op with
  | 0 => (old + c) % 2 ^ w
  | 1 => old &&& c
  | 2 => old ||| c
  | 3 => old ^^^ c
  | 4 => if so < sc then old else c
  | 5 => if so < sc then c else old
  | 6 => min old c
  | 7 => max old c
  | _ => c

/-! ### Wide cells (R95 to R97) -/

/-- FXADD: the cell after adding a binary32 value. -/
def fxAdd (cell : Nat) (x : Nat) : Nat :=
  let fix := cell % 2 ^ 448
  let top := cell / 2 ^ 448
  match f32 x with
  | .nan _ => fix + (top ||| 1) * 2 ^ 448
  | .inf false => fix + (top ||| 2) * 2 ^ 448
  | .inf true => fix + (top ||| 4) * 2 ^ 448
  | .fin neg num den =>
    let k := num * 2 ^ 149 / den
    (if neg then (fix + 2 ^ 448 - k) % 2 ^ 448 else (fix + k) % 2 ^ 448) + top * 2 ^ 448

/-- FXRD: the binary32 result and flags. -/
def fxRead (cell : Nat) : Rounded :=
  let fix := cell % 2 ^ 448
  let nanf := cell / 2 ^ 448 % 2 = 1
  let pinf := cell / 2 ^ 449 % 2 = 1
  let ninf := cell / 2 ^ 450 % 2 = 1
  if nanf ∨ (pinf ∧ ninf) then ⟨f32Nan, fNV⟩
  else if pinf then ⟨0x7F800000, 0⟩
  else if ninf then ⟨0xFF800000, 0⟩
  else if fix < 2 ^ 447 then fmtF32.round .rne (.fin false fix (2 ^ 149))
  else fmtF32.round .rne (.fin true (2 ^ 448 - fix) (2 ^ 149))

/-! ### Special functions (R157): each value is computed to far more bits than the hardest case of binary32 needs and
rounded once; a value known to be no dyadic rational is given an odd last bit so that it never looks exact. -/

/-- Working precision in bits. -/
def sfW : Nat := 320

/-- Integer square root by bits. -/
def isqrtGo : Nat → Nat → Nat → Nat
  | 0, _, r => r
  | b + 1, n, r => isqrtGo b n (if (r + 2 ^ b) * (r + 2 ^ b) ≤ n then r + 2 ^ b else r)

def isqrt (n : Nat) : Nat := isqrtGo (Nat.log2 n / 2 + 1) n 0

/-- The sum of z^(2k+1) / (2k+1) in fixed point: 2 × it is ln ((1+z)/(1−z)). -/
def atanhGo : Nat → Nat → Nat → Nat → Nat → Nat
  | 0, _, _, _, acc => acc
  | n + 1, z2, t, k, acc => atanhGo n z2 (t * z2 / 2 ^ sfW) (k + 2) (acc + t / k)

def atanhFix (z : Nat) : Nat := atanhGo 110 (z * z / 2 ^ sfW) z 1 0

/-- ln 2 in fixed point. -/
def ln2Fix : Nat := 2 * atanhFix (2 ^ sfW / 3)

/-- The exponential series in fixed point for an argument below 1. -/
def expGo : Nat → Nat → Nat → Nat → Nat → Nat
  | 0, _, _, _, acc => acc
  | n + 1, r, t, k, acc => expGo n r (t * r / 2 ^ sfW / k) (k + 1) (acc + t)

def expFix (r : Nat) : Nat := expGo 80 r (2 ^ sfW) 1 0

/-- e^(−|x|) in fixed point for x = num / den below 200. -/
def expNegFix (num den : Nat) : Nat :=
  let x := num * 2 ^ sfW / den
  let k := x / ln2Fix + 1
  expFix (k * ln2Fix - x) / 2 ^ k

/-- A quiet result: the rounding of a value, or the canonical NaN with flags. -/
def f32Of (neg : Bool) (num den : Nat) : Rounded := fmtF32.round .rne (.fin neg num den)

/-- VEXP2. -/
def sfExp2 (v : Val) : Rounded :=
  match v with
  | .nan s => ⟨f32Nan, flagIf s fNV⟩
  | .inf neg => if neg then ⟨0, 0⟩ else ⟨0x7F800000, 0⟩
  | .fin neg num den =>
    let x : Int := signedNum neg (num * 2 ^ sfW) / den
    let n0 : Int := x / 2 ^ sfW
    let n : Int := max (-400) (min 400 n0)
    let f := (x % 2 ^ sfW).toNat
    if f = 0 then
      let s := scale2 1 1 n
      f32Of false s.1 s.2
    else
      let y := expFix (f * ln2Fix / 2 ^ sfW)
      let s := scale2 (2 * y + 1) (2 ^ (sfW + 1)) n
      f32Of false s.1 s.2

/-- VLOG2. -/
def sfLog2 (v : Val) : Rounded :=
  match v with
  | .nan s => ⟨f32Nan, flagIf s fNV⟩
  | .inf neg => if neg then ⟨f32Nan, fNV⟩ else ⟨0x7F800000, 0⟩
  | .fin neg num den =>
    if num = 0 then ⟨0xFF800000, fDZ⟩
    else if neg then ⟨f32Nan, fNV⟩
    else
      let e := floorLog2 num den
      let m := scale2 num den (-e)
      if m.1 = m.2 then f32Of (e < 0) e.natAbs 1
      else
        let z := (m.1 - m.2) * 2 ^ sfW / (m.1 + m.2)
        let t : Int := e * 2 ^ sfW + (2 * atanhFix z * 2 ^ sfW / ln2Fix : Nat)
        let t2 : Int := 2 * t + 1
        f32Of (t2 < 0) t2.natAbs (2 ^ (sfW + 1))

/-- VRCP. -/
def sfRcp (v : Val) : Rounded :=
  match v with
  | .nan s => ⟨f32Nan, flagIf s fNV⟩
  | .inf neg => ⟨fmtF32.withSign neg 0, 0⟩
  | .fin neg num den => if num = 0 then ⟨fmtF32.withSign neg 0x7F800000, fDZ⟩ else f32Of neg den num

/-- The square root of a rational, with an odd last bit when it is inexact. -/
def sqrtVal (num den : Nat) : Nat × Nat :=
  let n := num * 2 ^ 400 / den
  let s := isqrt n
  if s * s * den = num * 2 ^ 400 then (s, 2 ^ 200) else (2 * s + 1, 2 ^ 201)

/-- VSQRT. -/
def sfSqrt (v : Val) : Rounded :=
  match v with
  | .nan s => ⟨f32Nan, flagIf s fNV⟩
  | .inf neg => if neg then ⟨f32Nan, fNV⟩ else ⟨0x7F800000, 0⟩
  | .fin neg num den =>
    if num = 0 then ⟨fmtF32.withSign neg 0, 0⟩
    else if neg then ⟨f32Nan, fNV⟩
    else
      let s := sqrtVal num den
      f32Of false s.1 s.2

/-- VRSQ. -/
def sfRsq (v : Val) : Rounded :=
  match v with
  | .nan s => ⟨f32Nan, flagIf s fNV⟩
  | .inf neg => if neg then ⟨f32Nan, fNV⟩ else ⟨0, 0⟩
  | .fin neg num den =>
    if num = 0 then ⟨fmtF32.withSign neg 0x7F800000, fDZ⟩
    else if neg then ⟨f32Nan, fNV⟩
    else
      let s := sqrtVal den num
      f32Of false s.1 s.2

/-- A value just below `num / den`. -/
def justBelow (num den : Nat) : Nat × Nat := (num * (2 ^ 200 - 1), den * 2 ^ 200)

/-- VTANH. -/
def sfTanh (v : Val) : Rounded :=
  match v with
  | .nan s => ⟨f32Nan, flagIf s fNV⟩
  | .inf neg => ⟨fmtF32.withSign neg 0x3F800000, 0⟩
  | .fin neg num den =>
    if num = 0 then ⟨fmtF32.withSign neg 0, 0⟩
    else if num * 2 ^ 60 < den then
      let s := justBelow num den
      f32Of neg s.1 s.2
    else if 64 * den < num then
      let s := justBelow 1 1
      f32Of neg s.1 s.2
    else
      let u := expNegFix (2 * num) den
      f32Of neg (2 * (2 ^ sfW - u) + 1) (2 * (2 ^ sfW + u))

/-- VSIGM. -/
def sfSigm (v : Val) : Rounded :=
  match v with
  | .nan s => ⟨f32Nan, flagIf s fNV⟩
  | .inf neg => if neg then ⟨0, 0⟩ else ⟨0x3F800000, 0⟩
  | .fin neg num den =>
    if num = 0 then ⟨0x3F000000, 0⟩
    else if 128 * den < num then
      if neg then f32Of false 1 (2 ^ 200)
      else
        let s := justBelow 1 1
        f32Of false s.1 s.2
    else
      let u := expNegFix num den
      if neg then f32Of false (2 * u + 1) (2 * (2 ^ sfW + u))
      else f32Of false (2 * 2 ^ sfW + 1) (2 * (2 ^ sfW + u))

end Sys2Proof
end

