-- ==== Sys2Proof/Machine/RunOps.lean ====
section
/-! DEFINITION. Run registers (R122 to R133) and the computations of the run-vector instructions (R136 to R164). -/

namespace Sys2Proof

/-- A run register: its tag (Table 6-1) and its slugs, each a value and a count (R122). -/
structure RunReg where
  tag : Nat := 0x01
  slugs : List (Word × Nat) := []
deriving DecidableEq, Repr

def tagF32 : Nat := 0x01
def tagS64 : Nat := 0x14
def tagN64 : Nat := 0x18
def tagM64 : Nat := 0x19
def tagMask : Nat := 0x30

/-- The tags of Table 6-1. -/
def tagOk (t : Nat) : Bool := [tagF32, tagS64, tagN64, tagM64, tagMask].contains t

/-- The logical length of a slug list. -/
def slugsLen (ss : List (Word × Nat)) : Nat := (ss.map Prod.snd).sum

/-- L (R122). -/
def RunReg.len (r : RunReg) : Nat := slugsLen r.slugs

/-- P (R122). -/
def RunReg.runs (r : RunReg) : Nat := r.slugs.length

/-- The value of the slug that holds element i; zero beyond the end. -/
def slugAt : List (Word × Nat) → Nat → Word
  | [], _ => 0#64
  | (v, c) :: rest, i => if i < c then v else slugAt rest (i - c)

/-- A one-slug register. -/
def RunReg.one (tag : Nat) (v : Word) : RunReg := ⟨tag, [(v, 1)]⟩

/-- Merging of neighbouring equal values (R127); the last slug so far is carried. -/
def mergeGo (cur : Word × Nat) : List (Word × Nat) → List (Word × Nat)
  | [] => [cur]
  | s :: rest => if s.1 = cur.1 then mergeGo (cur.1, cur.2 + s.2) rest else cur :: mergeGo s rest

def mergeSlugs : List (Word × Nat) → List (Word × Nat)
  | [] => []
  | s :: rest => mergeGo s rest

/-- The first n elements of a slug list. -/
def takeSlugs : Nat → List (Word × Nat) → List (Word × Nat)
  | _, [] => []
  | n, (v, c) :: rest => if n = 0 then [] else if n ≤ c then [(v, n)] else (v, c) :: takeSlugs (n - c) rest

/-- All but the first n elements of a slug list. -/
def dropSlugs : Nat → List (Word × Nat) → List (Word × Nat)
  | _, [] => []
  | n, (v, c) :: rest => if n = 0 then (v, c) :: rest else if c ≤ n then dropSlugs (n - c) rest else (v, c - n) :: rest

/-- The segments of two run lists of equal length (R125). The number bounds the segments. -/
def zipRuns {α β : Type} : Nat → List (α × Nat) → List (β × Nat) → List ((α × β) × Nat)
  | 0, _, _ => []
  | n + 1, (x, c) :: xs, (y, d) :: ys =>
    if c = d then ((x, y), c) :: zipRuns n xs ys
    else if c < d then ((x, y), c) :: zipRuns n xs ((y, d - c) :: ys)
    else ((x, y), d) :: zipRuns n ((x, c - d) :: xs) ys
  | _ + 1, _, _ => []

def zipSegs {α β : Type} (xs : List (α × Nat)) (ys : List (β × Nat)) : List ((α × β) × Nat) :=
  zipRuns (xs.length + ys.length) xs ys

/-- A run instruction either raises a precise trap, with its kind and TRAPADDR, or gives a result. RUNOVF carries the clk
for which its bundle is held before it traps (R128). -/
inductive RunErr where
  | lenmis (addr : Word)
  | runovf (addr : Word) (hold : Nat := 0)
  | unalign (addr : Word)
deriving DecidableEq, Repr

/-- The common length of the operands (R124): LENMIS's TRAPADDR when they disagree. -/
def commonLen (ls : List Nat) : Except RunErr Nat :=
  let long := ls.filter (· ≠ 1)
  let l := long.headD 1
  if long.all (· = l) then .ok l
  else .error (.lenmis (BitVec.ofNat 64 (ls.getD 0 0 + ls.getD 1 0 * 2 ^ 16 + ls.getD 2 0 * 2 ^ 32)))

/-- An operand at the common length: a broadcast operand stands for its one value at every index. -/
def spread (l : Nat) (r : RunReg) : List (Word × Nat) :=
  if r.len = 1 ∧ l ≠ 1 then (if l = 0 then [] else [(slugAt r.slugs 0, l)]) else r.slugs

/-- Operand values over one segment: A, B and C (zero when absent). -/
structure Seg where
  a : Word
  b : Word
  c : Word
  n : Nat
deriving DecidableEq, Repr

/-- The segments of one operand. -/
def segs1 (a : RunReg) : List Seg := a.slugs.map fun s => ⟨s.1, 0, 0, s.2⟩

/-- The segments of two operands. -/
def segs2 (a b : RunReg) : Except RunErr (List Seg) := do
  let l ← commonLen [a.len, b.len]
  pure ((zipSegs (spread l a) (spread l b)).map fun s => ⟨s.1.1, s.1.2, 0, s.2⟩)

/-- The segments of three operands. -/
def segs3 (a b c : RunReg) : Except RunErr (List Seg) := do
  let l ← commonLen [a.len, b.len, c.len]
  pure ((zipSegs (zipSegs (spread l a) (spread l b)) (spread l c)).map fun s => ⟨s.1.1.1, s.1.1.2, s.1.2, s.2⟩)

/-- A run result: the register, its segment count P, its flags, and the clk its bundle is held at issue (R128). -/
structure RunRes where
  reg : RunReg
  segs : Nat
  flags : FlagSet
  hold : Nat := 0
deriving DecidableEq, Repr

/-- The capacity rule (R128) for a result of `p` segments. -/
def capacity (coal : Bool) (tag : Nat) (slugs : List (Word × Nat)) (fl : FlagSet) : Except RunErr RunRes :=
  let p := slugs.length
  let out := if coal then mergeSlugs slugs else slugs
  if 128 < out.length then
    .error (.runovf (BitVec.ofNat 64 (out.length + slugsLen (out.take 128) * 2 ^ 16)) (if coal then 2 + (p + 15) / 16 else 0))
  else .ok ⟨⟨tag, out⟩, p, fl, if 128 < p then 2 + (p + 15) / 16 else 0⟩

/-- An element-wise result: each segment's value and flags, then the capacity rule. -/
def mapSegs (coal : Bool) (tag : Nat) (segs : List Seg) (op : Seg → Word × FlagSet) : Except RunErr RunRes :=
  let rs := segs.map fun s => (op s, s.n)
  capacity coal tag (rs.map fun r => (r.1.1, r.2)) (rs.foldl (fun f r => f ||| r.1.2) 0)

/-- Whether a value is selected (R129). -/
def selected (v : Word) : Bool := v ≠ 0#64

/-- A binary32 result as a slug value. -/
def w32 (n : Nat) : Word := BitVec.ofNat 64 (n % 2 ^ 32)

def rnd (r : Rounded) : Word × FlagSet := (w32 r.bits, r.flags)

/-- The element-wise operations of Table 7-2. -/
inductive RunOp where
  | add | sub | mul | min | max | and | or | xor | shl | shr | sar
deriving DecidableEq, Repr

/-- The result tag of Table 7-2. -/
def RunOp.tag (op : RunOp) (t : Nat) : Nat :=
  if t = tagF32 then tagF32
  else if t = tagS64 then tagS64
  else if t = tagMask ∧ (op = .and ∨ op = .or ∨ op = .xor) then tagMask
  else tagN64

/-- One element under Table 7-2. -/
def RunOp.elem (op : RunOp) (t : Nat) (m : RMode) (a b : Word) : Word × FlagSet :=
  let sh5 := b.toNat % 32
  let sh6 := b.toNat % 64
  if t = tagF32 then
    match op with
    | .add => rnd (f32Add m a.toNat b.toNat)
    | .sub => rnd (f32Sub m a.toNat b.toNat)
    | .mul => rnd (f32Mul m a.toNat b.toNat)
    | .min => rnd (f32MinMax false a.toNat b.toNat)
    | .max => rnd (f32MinMax true a.toNat b.toNat)
    | .and => (zextBits 32 (a &&& b), 0)
    | .or => (zextBits 32 (a ||| b), 0)
    | .xor => (zextBits 32 (a ^^^ b), 0)
    | .shl => (zextBits 32 (a <<< sh5), 0)
    | .shr => (zextBits 32 a >>> sh5, 0)
    | .sar => (zextBits 32 ((sext32 a).sshiftRight sh5), 0)
  else
    match op with
    | .add => (a + b, 0)
    | .sub => (a - b, 0)
    | .mul => (a * b, 0)
    | .min => (if t = tagS64 then minS a b else minN a b, 0)
    | .max => (if t = tagS64 then maxS a b else maxN a b, 0)
    | .and => (if t = tagMask then b2w (selected a && selected b) else a &&& b, 0)
    | .or => (if t = tagMask then b2w (selected a || selected b) else a ||| b, 0)
    | .xor => (if t = tagMask then b2w (selected a != selected b) else a ^^^ b, 0)
    | .shl => (a <<< sh6, 0)
    | .shr => (a >>> sh6, 0)
    | .sar => (a.sshiftRight sh6, 0)

/-- VADD to VSAR (R140), with an optional mask. -/
def runBin (op : RunOp) (coal : Bool) (m : RMode) (a b : RunReg) (mask : Option RunReg) : Except RunErr RunRes := do
  match mask with
  | none => mapSegs coal (op.tag a.tag) (← segs2 a b) fun s => op.elem a.tag m s.a s.b
  | some c => mapSegs coal (op.tag a.tag) (← segs3 a b c) fun s =>
      if selected s.c then op.elem a.tag m s.a s.b else (s.a, 0)

/-- VFMA (R141). -/
def runFma (coal : Bool) (m : RMode) (a b c : RunReg) : Except RunErr RunRes := do
  mapSegs coal (RunOp.tag .add a.tag) (← segs3 a b c) fun s =>
    if a.tag = tagF32 then rnd (f32Fma m s.a.toNat s.b.toNat s.c.toNat) else (s.a * s.b + s.c, 0)

/-- VABS and VNEG (R142). -/
def runAbs (coal : Bool) (a : RunReg) : Except RunErr RunRes :=
  mapSegs coal (if a.tag = tagF32 ∨ a.tag = tagS64 ∨ a.tag = tagMask then a.tag else tagN64) (segs1 a) fun s =>
    (if a.tag = tagF32 then s.a &&& ~~~ 0x80000000#64
     else if a.tag = tagS64 then (if s.a.msb then -s.a else s.a) else s.a, 0)

def runNeg (coal : Bool) (a : RunReg) : Except RunErr RunRes :=
  mapSegs coal (if a.tag = tagF32 ∨ a.tag = tagS64 then a.tag else tagN64) (segs1 a) fun s =>
    (if a.tag = tagF32 then s.a ^^^ 0x80000000#64 else -s.a, 0)

/-- The compares of R143. -/
inductive RunCmp where
  | eq | ne | lt | le
deriving DecidableEq, Repr

def RunCmp.elem (op : RunCmp) (t : Nat) (a b : Word) : Bool × FlagSet :=
  if t = tagF32 then
    match op with
    | .eq => f32CmpEq a.toNat b.toNat
    | .ne => let r := f32CmpEq a.toNat b.toNat; (!r.1, r.2)
    | .lt => f32CmpLt a.toNat b.toNat
    | .le => f32CmpLe a.toNat b.toNat
  else
    match op with
    | .eq => (a == b, 0)
    | .ne => (a != b, 0)
    | .lt => (if t = tagS64 then a.slt b else a.ult b, 0)
    | .le => (if t = tagS64 then a.sle b else a.ule b, 0)

def runCmp (op : RunCmp) (coal : Bool) (a b : RunReg) (mask : Option RunReg) : Except RunErr RunRes := do
  match mask with
  | none => mapSegs coal tagMask (← segs2 a b) fun s =>
      let r := op.elem a.tag s.a s.b
      (b2w r.1, r.2)
  | some c => mapSegs coal tagMask (← segs3 a b c) fun s =>
      if selected s.c then
        let r := op.elem a.tag s.a s.b
        (b2w r.1, r.2)
      else (b2w (selected s.a), 0)

/-- A value read under a tag: its low 32 bits under F32, 0 or 1 under MASK, all of it otherwise (R123, R151). -/
def underTag (tag : Nat) (v : Word) : Word :=
  if tag = tagF32 then zextBits 32 v else if tag = tagMask then b2w (selected v) else v

/-- VSEL (R144): both operands are read under A's tag (R123, R137). -/
def runSel (coal : Bool) (a b c : RunReg) : Except RunErr RunRes := do
  mapSegs coal a.tag (← segs3 a b c) fun s => (underTag a.tag (if selected s.c then s.a else s.b), 0)

/-- VCOAL (R145). -/
def runCoal (a : RunReg) : RunRes := ⟨⟨a.tag, mergeSlugs a.slugs⟩, a.runs, 0, 0⟩

/-- VIOTA (R147): slug k holds its first logical index plus the base. -/
def iotaGo (base : Word) : Nat → List (Word × Nat) → List (Word × Nat)
  | _, [] => []
  | s, (_, c) :: rest => (BitVec.ofNat 64 s + base, c) :: iotaGo base (s + c) rest

def runIota (coal : Bool) (base : Word) (a : RunReg) : Except RunErr RunRes :=
  capacity coal tagS64 (iotaGo base 0 a.slugs) 0

/-- The start or length that VSLICE and VSETL take from B or L32 (R148): LENMIS when high bits are set, or when it is
above the length and `cap` holds. -/
def sliceArg (a : RunReg) (v : Word) (cap : Bool) : Except RunErr Nat :=
  let n := v.toNat % 2 ^ 16
  if v.toNat / 2 ^ 16 ≠ 0 ∨ (cap ∧ a.len < n) then .error (.lenmis (BitVec.ofNat 64 (a.len + n * 2 ^ 16)))
  else .ok n

/-- VSLICE (R148). -/
def runSlice (coal : Bool) (a : RunReg) (start : Word) (count : Nat) : Except RunErr RunRes := do
  let s ← sliceArg a start true
  let out := takeSlugs (min count (a.len - s)) (dropSlugs s a.slugs)
  pure ⟨⟨a.tag, if coal then mergeSlugs out else out⟩, a.runs, 0, 0⟩

/-- VCAT (R149): B's slugs are read under A's tag (R123, R137). -/
def runCat (coal : Bool) (a b : RunReg) : Except RunErr RunRes :=
  if 65535 < a.len + b.len then .error (.lenmis (BitVec.ofNat 64 (a.len + b.len * 2 ^ 16)))
  else capacity coal a.tag (a.slugs ++ b.slugs.map fun s => (underTag a.tag s.1, s.2)) 0

/-- The last slug's count grows by n; an empty list becomes one slug of zero. -/
def growLast (n : Nat) : List (Word × Nat) → List (Word × Nat)
  | [] => [(0#64, n)]
  | [(v, c)] => [(v, c + n)]
  | s :: rest => s :: growLast n rest

/-- VSETL (R150). -/
def runSetl (coal : Bool) (a : RunReg) (v : Word) : Except RunErr RunRes := do
  let n ← sliceArg a v false
  let out := if n ≤ a.len then takeSlugs n a.slugs else growLast (n - a.len) a.slugs
  pure ⟨⟨a.tag, if coal then mergeSlugs out else out⟩, a.runs, 0, 0⟩

/-- The covering slug split around element i. -/
def putGo (v : Word) : Nat → List (Word × Nat) → List (Word × Nat)
  | _, [] => []
  | i, (x, c) :: rest =>
    if i < c then
      (if i = 0 then [] else [(x, i)]) ++ [(v, 1)] ++ (if i + 1 = c then [] else [(x, c - i - 1)]) ++ rest
    else (x, c) :: putGo v (i - c) rest

/-- LENMIS of VGET and VPUT: an index at or above the length. -/
def indexErr (r : RunReg) (i : Nat) : RunErr := .lenmis (BitVec.ofNat 64 (r.len + i * 2 ^ 16))

/-- VPUT (R151); its P is Runs(D) + 2 (Table 7-1), but for the hold of `.c`, which takes the slugs that the split makes (DESIGN
CHOICE, log entry 48). -/
def runPut (coal : Bool) (d : RunReg) (v : Word) (i : Nat) : Except RunErr RunRes :=
  if d.len ≤ i then .error (indexErr d i)
  else do
    let r ← capacity coal d.tag (putGo (underTag d.tag v) i d.slugs) 0
    pure { r with segs := d.runs + 2 }

/-- The selected count of each slug of A, and the segment count of the reduction (R130). -/
def selCounts (a : RunReg) (mask : Option RunReg) : Except RunErr (List (Word × Nat) × Nat) :=
  match mask with
  | none => .ok (a.slugs, a.runs)
  | some c =>
    if c.len ≠ 1 ∧ c.len ≠ a.len then .error (.lenmis (BitVec.ofNat 64 (a.len + c.len * 2 ^ 32)))
    else
      let cs := if c.len = 1 ∧ a.len ≠ 1 then (if a.len = 0 then [] else [(slugAt c.slugs 0, a.len)]) else c.slugs
      let tagged := (a.slugs.zipIdx).map fun s => ((s.1.1, s.2), s.1.2)
      let z := zipSegs tagged cs
      let cnt (k : Nat) : Nat := (z.map fun s => if s.1.1.2 = k ∧ selected s.1.2 then s.2 else 0).sum
      .ok ((a.slugs.zipIdx).map fun s => (s.1.1, cnt s.2), z.length)

/-- VREDSUM on F32: each product is exact and rounded once with the sum (R130). -/
def sumF32 (acc : Nat) (fl : FlagSet) : List (Word × Nat) → Nat × FlagSet
  | [] => (acc, fl)
  | (v, c) :: rest =>
    if c = 0 then sumF32 acc fl rest
    else
      let p := match f32 v.toNat with
        | .fin n num den => Val.fin n (num * c) den
        | x => x
      let r := finishF32 .rne false (addVal .rne (f32 acc) p)
      sumF32 r.bits (fl ||| r.flags) rest

/-- The five reductions of Table 6-2. -/
inductive RunRed where
  | sum | max | min | count | first
deriving DecidableEq, Repr

/-- The greatest or least binary32 of the values taken (R130). -/
def extF32 (wantMax : Bool) (vs : List Word) : Rounded :=
  if vs.isEmpty then ⟨if wantMax then 0xFF800000 else 0x7F800000, 0⟩
  else
    let fl := flagIf (vs.any fun v => (f32 v.toNat).isSnan) fNV
    if vs.any fun v => (f32 v.toNat).isNan then ⟨f32Nan, fl⟩
    else
      ⟨vs.foldl (fun acc v => (f32MinMax wantMax acc v.toNat).bits) (if wantMax then 0xFF800000 else 0x7F800000), fl⟩

/-- The least selected index whose value is not zero. -/
def firstGo : Nat → List ((Word × Word) × Nat) → Option Nat
  | _, [] => none
  | i, ((a, m), c) :: rest => if selected a && selected m then some i else firstGo (i + c) rest

/-- The value, flags and segment count of a reduction (R130, R153). -/
def runRed (op : RunRed) (a : RunReg) (mask : Option RunReg) : Except RunErr (Word × FlagSet × Nat) := do
  let (cs, p) ← selCounts a mask
  let taken := (cs.filter fun s => s.2 ≠ 0).map Prod.fst
  match op with
  | .sum =>
    if a.tag = tagF32 then
      let r := sumF32 0 0 cs
      pure (w32 r.1, r.2, p)
    else pure (cs.foldl (fun acc s => acc + s.1 * BitVec.ofNat 64 s.2) 0#64, 0, p)
  | .max =>
    if a.tag = tagF32 then let r := extF32 true taken; pure (w32 r.bits, r.flags, p)
    else if a.tag = tagS64 then pure (taken.foldl maxS (BitVec.intMin 64), 0, p)
    else pure (taken.foldl maxN 0#64, 0, p)
  | .min =>
    if a.tag = tagF32 then let r := extF32 false taken; pure (w32 r.bits, r.flags, p)
    else if a.tag = tagS64 then pure (taken.foldl minS (BitVec.intMax 64), 0, p)
    else pure (taken.foldl minN (BitVec.allOnes 64), 0, p)
  | .count => pure (BitVec.ofNat 64 ((cs.map fun s => if selected s.1 then s.2 else 0).sum), 0, p)
  | .first =>
    let m := match mask with
      | none => if a.len = 0 then [] else [(1#64, a.len)]
      | some c => if c.len = 1 ∧ a.len ≠ 1 then (if a.len = 0 then [] else [(slugAt c.slugs 0, a.len)]) else c.slugs
    pure (BitVec.ofNat 64 ((firstGo 0 (zipSegs a.slugs m)).getD a.len), 0, p)

/-- The tag of a reduction's one-slug result (R153). -/
def RunRed.tag (op : RunRed) (t : Nat) : Nat :=
  match op with
  | .count | .first => tagS64
  | _ => t

/-! ### Conversions (R155, R156) -/

/-- The value of a slug under its tag, an M64 slug as a natural number. -/
def slugVal (tag : Nat) (v : Word) : Val :=
  if tag = tagF32 then f32 v.toNat
  else if tag = tagS64 then Val.ofInt v.toInt
  else Val.ofInt v.toNat

/-- The draw of slug k among the words taken from the random-bit queue (R135). -/
def drawOf (words : List (BitVec 32)) (k : Nat) : Nat := (words.getD (k / 4) 0#32).toNat / 2 ^ (8 * (k % 4)) % 256

/-- The tag that T names in VCVT (Table 2-5). -/
def cvtTag (t : Nat) : Nat :=
  match t with
  | 1 => tagF32 | 4 => tagS64 | 8 => tagN64 | _ => tagM64

/-- The centred value of a canonical residue (R155). -/
def centred (q r : Nat) : Int := if 2 * r ≤ q - 1 then r else (r : Int) - q

/-- One slug of VCVT (Table 7-3). -/
def cvtElem (src dst q : Nat) (m : RMode) (v : Word) : Word × FlagSet :=
  let asInt (i : Int) : Word := BitVec.ofInt 64 i
  if src = tagF32 then
    if dst = tagF32 then
      let x := f32 v.toNat
      if x.isSnan then (w32 f32Nan, fNV) else (zextBits 32 v, 0)
    else if dst = tagM64 then
      match f32 v.toNat with
      | .fin n num den => let r := roundInt m n num den; (asInt (r.1 % q), flagIf r.2 fNX)
      | _ => (0, fNV)
    else
      let r := toIntFmt 64 (dst = tagS64) m (f32 v.toNat)
      (asInt r.1, r.2)
  else if src = tagM64 then
    let r := v.toNat % q
    let fl := flagIf (q ≤ v.toNat) fMQ
    if dst = tagF32 then
      let x := fmtF32.round m (Val.ofInt (centred q r))
      (w32 x.bits, x.flags ||| fl)
    else if dst = tagS64 then (asInt (centred q r), fl)
    else (asInt r, fl)
  else
    let i : Int := if src = tagS64 then v.toInt else v.toNat
    if dst = tagF32 then rnd (fmtF32.round m (Val.ofInt i))
    else if dst = tagM64 then (asInt (i % q), 0)
    else
      let r := toIntFmt 64 (dst = tagS64) .rne (Val.ofInt i)
      (asInt r.1, r.2)

def runCvt (coal : Bool) (dst q rm : Nat) (words : List (BitVec 32)) (a : RunReg) : Except RunErr RunRes :=
  let rs := a.slugs.zipIdx.map fun s => (cvtElem a.tag dst q (RMode.ofCode rm (drawOf words s.2)) s.1.1, s.1.2)
  capacity coal dst (rs.map fun r => (r.1.1, r.2)) (rs.foldl (fun f r => f ||| r.1.2) 0)

/-! ### Forme entries (Table 5-8) -/

/-- A forme entry as its 32 bytes. -/
abbrev Forme := BitVec 256

def Forme.fld (f : Forme) (lo w : Nat) : Nat := f.toNat / 2 ^ lo % 2 ^ w
def Forme.fmt (f : Forme) : Nat := f.fld 0 8
def Forme.rank (f : Forme) : Nat := f.fld 8 4
def Forme.runpk (f : Forme) : Bool := f.fld 12 1 = 1
def Forme.mxb (f : Forme) : Bool := f.fld 13 1 = 1
def Forme.tolscale (f : Forme) : Bool := f.fld 14 1 = 1
def Forme.blk (f : Forme) : Nat := f.fld 16 16
def Forme.d0 (f : Forme) : Nat := f.fld 32 32
def Forme.d1 (f : Forme) : Nat := f.fld 64 32
def Forme.pitch (f : Forme) : Nat := f.fld 96 32
def Forme.scale (f : Forme) : Nat := f.fld 128 64
def Forme.modq (f : Forme) : Nat := f.fld 192 3
def Forme.empty (f : Forme) : Bool := f.fmt = 0

/-- Elements that an instruction moves of n asked for: none of an empty tensor (R118). -/
def Forme.moves (f : Forme) (n : Nat) : Nat := if f.d0 = 0 ∨ f.d1 = 0 then 0 else n

/-- A register as STV writes it: no element goes into an empty tensor (R118). -/
def Forme.carries (f : Forme) (r : RunReg) : RunReg := if f.d0 = 0 ∨ f.d1 = 0 then { r with slugs := [] } else r

/-- Validity of a non-empty entry (R120). -/
def Forme.ok (f : Forme) : Bool :=
  let b := fmtBits f.fmt
  let narrow := [0x04, 0x05, 0x06, 0x07, 0x08].contains f.fmt
  isFmt f.fmt
  && 1 ≤ f.rank && f.rank ≤ 4 && (f.rank ≠ 1 || f.d1 ≤ 1)
  && !(f.mxb && f.tolscale) && !((f.mxb || f.tolscale) && f.runpk)
  && (!(f.mxb || f.tolscale) || narrow)
  && f.blk == (if f.mxb then 32 else 0)
  && (!f.runpk || tagOk f.fmt)
  && (if f.runpk then f.pitch % 16 == 0
      else rowBytes f.fmt f.d0 ≤ f.pitch && (b < 16 || f.pitch % (b / 8) == 0))
  && (f.modq == 0 || f.fmt == 0x19)
  && (f.mxb || (if f.tolscale then f.scale / 256 == 0 else f.scale == 0))
  && f.fld 15 1 == 0 && f.fld 195 61 == 0

/-- An entry that the table takes: valid, or all zero (R121). -/
def Forme.accepted (f : Forme) : Bool := f = 0#256 || (!f.empty && f.ok)

/-- The tag that Table 5-1 reads a format as. -/
def readTag (fmt : Nat) : Nat :=
  if fmt ≤ 0x09 then tagF32
  else if fmt = 0x19 then tagM64
  else if fmt = 0x30 then tagMask
  else if 0x15 ≤ fmt ∧ fmt ≤ 0x18 then tagN64
  else tagS64

/-- An element converted to register type (Table 5-1, R103, R110, R115), with a scale byte when the forme scales. -/
def readElem (fmt : Nat) (scale : Option Nat) (raw : Nat) : Word × FlagSet :=
  match scale with
  | some s => rnd (scaledElem fmt raw s)
  | none =>
    if fmt = 0x01 then (BitVec.ofNat 64 (raw % 2 ^ 32), 0)
    else if fmt ≤ 0x09 then rnd (widenF32 (elemVal fmt raw))
    else if fmt = 0x20 then let r := rxDecode raw; (BitVec.ofInt 64 r.1, r.2)
    else if fmt = 0x30 then (BitVec.ofNat 64 (raw % 2), 0)
    else match intFmt fmt with
      | some (w, true) => (sextBits w (BitVec.ofNat 64 raw), 0)
      | _ => (BitVec.ofNat 64 (raw % 2 ^ fmtBits fmt), 0)

/-- A value rounded to an unblocked element (Table 5-4, R107, R115): its raw bits and flags. `scale` is a whole-tensor
scale (R163). -/
def writeElem (fmt : Nat) (scale : Option Nat) (m : RMode) (v : Val) : Nat × FlagSet :=
  let v := match scale, v with
    | some s, .fin n num den => let t := scale2 num den (127 - (s : Int)); Val.fin n t.1 t.2
    | _, v => v
  match floatFmt fmt with
  | some f => let r := f.round m v; (r.bits, r.flags)
  | none =>
    if fmt = 0x09 then let r := toE8M0 v; (r.bits, r.flags)
    else if fmt = 0x20 then
      match v with
      | .nan _ => (rxEncode 0, fNV)
      | .inf n => (rxEncode (if n then -67108608 else 67108607), fSA)
      | .fin n num den =>
        let r := roundInt m n num den
        if r.1 < -67108608 then (rxEncode (-67108608), fSA)
        else if 67108607 < r.1 then (rxEncode 67108607, fSA)
        else (rxEncode r.1, flagIf r.2 fNX)
    else if fmt = 0x30 then (if v.isZero then 0 else 1, 0)
    else match intFmt fmt with
      | some (w, sg) => let r := toIntFmt w sg m v; ((r.1 % 2 ^ w).toNat, r.2)
      | none => (0, 0)

/-- Block boundaries at multiples of 32 joined to the slugs (R156). -/
def blockCuts (l : Nat) : List (Nat × Nat) :=
  (List.range ((l + 31) / 32)).map fun j => (j, min 32 (l - 32 * j))

/-- VQNT of one unblocked element (R156): the value read back, and the flags of the rounding and of the read (R110).
A NaN through an F32 forme becomes the canonical NaN (R101). -/
def qntElem (fm : Forme) (q tag : Nat) (m : RMode) (v : Word) : Word × FlagSet :=
  let sc := if fm.tolscale then some (fm.scale % 256) else none
  if fm.fmt = 0x19 then
    let x : Int := if tag = tagS64 then v.toInt else v.toNat
    if tag = tagF32 then cvtElem tagF32 tagM64 q m v
    else (BitVec.ofInt 64 (x % q), flagIf (tag = tagM64 && q ≤ v.toNat) fMQ)
  else if fm.fmt = 0x30 then (b2w (selected v), 0)
  else
    let w := writeElem fm.fmt sc m (slugVal tag v)
    let r := readElem fm.fmt sc w.1
    (r.1, w.2 ||| r.2)

/-- VQNT of a microscaled forme: blocks of 32 logical indices (R156). -/
def qntBlocks (fm : Forme) (tag : Nat) (a : RunReg) : List (Word × Nat) × FlagSet :=
  let z := zipSegs a.slugs (blockCuts a.len)
  let one (j : Nat) : List (Word × Nat) × FlagSet :=
    let part := z.filter fun s => s.1.2 = j
    let w := writeBlock fm.fmt (part.map fun s => slugVal tag s.1.1)
    let rs := w.2.1.map fun e => readElem fm.fmt (some w.1) e
    ((part.zip rs).map fun p => (p.2.1, p.1.2), rs.foldl (fun fl r => fl ||| r.2) w.2.2)
  (List.range ((a.len + 31) / 32)).foldl (fun acc j => let r := one j; (acc.1 ++ r.1, acc.2 ||| r.2)) ([], 0)

def runQnt (coal : Bool) (fm : Forme) (q rm : Nat) (words : List (BitVec 32)) (a : RunReg) : Except RunErr RunRes :=
  if fm.mxb then
    let r := qntBlocks fm a.tag a
    capacity coal (readTag fm.fmt) r.1 r.2
  else
    let rs := a.slugs.zipIdx.map fun s => (qntElem fm q a.tag (RMode.ofCode rm (drawOf words s.2)) s.1.1, s.1.2)
    capacity coal (readTag fm.fmt) (rs.map fun r => (r.1.1, r.2)) (rs.foldl (fun f r => f ||| r.1.2) 0)

/-- A special function on every slug (R157). -/
def runSf (coal : Bool) (sf : Val → Rounded) (a : RunReg) : Except RunErr RunRes :=
  mapSegs coal tagF32 (segs1 a) fun s => rnd (sf (f32 s.a.toNat))

/-! ### Modular operations and scaling (R158 to R160) -/

def runMod (op : Nat → Nat → Nat → Nat × FlagSet) (coal : Bool) (q : Nat) (a b : RunReg) (mask : Option RunReg) :
    Except RunErr RunRes := do
  let el (s : Seg) : Word × FlagSet := let r := op q s.a.toNat s.b.toNat; (BitVec.ofNat 64 r.1, r.2)
  match mask with
  | none => mapSegs coal tagM64 (← segs2 a b) el
  | some c => mapSegs coal tagM64 (← segs3 a b c) fun s => if selected s.c then el s else (s.a, 0)

/-- VBFLY (R159): the sum and the difference. -/
def runBfly (coal : Bool) (q : Nat) (a b c : RunReg) : Except RunErr (RunRes × RunRes) := do
  let ss ← segs3 a b c
  let t (s : Seg) : Nat := (s.b.toNat % q) * (s.c.toNat % q) % q
  let fl (s : Seg) : FlagSet := flagIf (q ≤ s.a.toNat || q ≤ s.b.toNat || q ≤ s.c.toNat) fMQ
  let d ← mapSegs coal tagM64 ss fun s => (BitVec.ofNat 64 ((s.a.toNat % q + t s) % q), fl s)
  let e ← mapSegs coal tagM64 ss fun s => (BitVec.ofNat 64 ((s.a.toNat % q + q - t s) % q), fl s)
  pure (d, e)

/-- VBSCALE of one element (R160); `tb` is B's tag. -/
def bscaleElem (tb : Nat) (a b : Word) : Word × FlagSet :=
  let k : Option Int :=
    if tb = tagF32 then
      match f32 b.toNat with
      | .nan _ => none
      | .inf n => some (if n then -512 else 512)
      | .fin n num den => some (max (-512) (min 512 (signedNum n (num / den))))
    else some (max (-512) (min 512 b.toInt))
  match k, f32 a.toNat with
  | none, x => (w32 f32Nan, fNV ||| flagIf x.isSnan fNV)
  | some k, .fin n num den => let s := scale2 num den k; rnd (fmtF32.round .rne (.fin n s.1 s.2))
  | some _, x => rnd (fmtF32.round .rne x)

def runBscale (coal : Bool) (a b : RunReg) (mask : Option RunReg) : Except RunErr RunRes := do
  match mask with
  | none => mapSegs coal tagF32 (← segs2 a b) fun s => bscaleElem b.tag s.a s.b
  | some c => mapSegs coal tagF32 (← segs3 a b c) fun s =>
      if selected s.c then bscaleElem b.tag s.a s.b else (underTag tagF32 s.a, 0)

/-! ### Dense and run-packed rows (R131 to R133, R162 to R164) -/

/-- The slugs of the elements from index c on, newest first, stopping at 128 slugs (R162): slugs reversed, elements
taken, flags. `el` gives element i. -/
def denseGo (el : Nat → Word × FlagSet) : Nat → Nat → List (Word × Nat) → Nat → FlagSet → List (Word × Nat) × Nat × FlagSet
  | 0, c, acc, _, fl => (acc, c, fl)
  | n + 1, c, acc, p, fl =>
    let x := el c
    match acc with
    | (v, k) :: rest =>
      if x.1 = v then denseGo el n (c + 1) ((v, k + 1) :: rest) p (fl ||| x.2)
      else if p = 128 then (acc, c, fl)
      else denseGo el n (c + 1) ((x.1, 1) :: acc) (p + 1) (fl ||| x.2)
    | [] => denseGo el n (c + 1) [(x.1, 1)] 1 (fl ||| x.2)

/-- The count kept when loading stopped at capacity: whole bytes, and whole blocks under MXB (R162). -/
def wholeCount (fm : Forme) (c : Nat) : Nat :=
  let b := fmtBits fm.fmt
  let unit := if fm.mxb then 32 else if b % 8 = 0 then 1 else if b = 4 then 2 else if b = 6 then 4 else 8
  c / unit * unit

/-- A dense row run-encoded (R162): the register and the flags. `raw i` is element i's bits, `sc k` the scale byte of
block k of the span. Elements cut back to a whole byte or block keep their flags, and the one that finds no slug gives none
(DESIGN CHOICE, log entry 48). -/
def loadDense (fm : Forme) (n : Nat) (raw : Nat → Nat) (sc : Nat → Nat) : RunReg × FlagSet :=
  let scale (i : Nat) : Option Nat :=
    if fm.mxb then some (sc (i / 32)) else if fm.tolscale then some (fm.scale % 256) else none
  let r := denseGo (fun i => readElem fm.fmt (scale i) (raw i)) n 0 [] 0 0
  let c := if r.2.1 < n then wholeCount fm r.2.1 else r.2.1
  (⟨readTag fm.fmt, takeSlugs c r.1.reverse⟩, r.2.2)

/-- The elements of a register one by one. -/
def expand (r : RunReg) : List Word := r.slugs.flatMap fun s => List.replicate s.2 s.1

/-- An unblocked element of STV (R163). -/
def storeElem (fm : Forme) (tag : Nat) (v : Word) : Nat × FlagSet :=
  if fm.fmt = 0x19 then (v.toNat, 0)
  else if fm.fmt = 0x30 then (if selected v then 1 else 0, 0)
  else if fm.fmt = 0x01 ∧ tag = tagF32 then (v.toNat % 2 ^ 32, 0)
  else writeElem fm.fmt (if fm.tolscale then some (fm.scale % 256) else none) .rne (slugVal tag v)

/-- A list cut into pieces of 32, with fuel its length. -/
def chunk32 {α : Type} : Nat → List α → List (List α)
  | 0, _ => []
  | _ + 1, [] => []
  | n + 1, xs => xs.take 32 :: chunk32 n (xs.drop 32)

/-- STV's row (R163): raw elements, scale bytes, flags. -/
def storeDense (fm : Forme) (c : RunReg) : List Nat × List Nat × FlagSet :=
  let es := expand c
  if fm.mxb then
    let bs := (chunk32 es.length es).map fun b => writeBlock fm.fmt (b.map (slugVal c.tag))
    (bs.flatMap fun b => b.2.1, bs.map Prod.fst, bs.foldl (fun f b => f ||| b.2.2) 0)
  else
    let rs := es.map (storeElem fm c.tag)
    (rs.map Prod.fst, [], rs.foldl (fun f r => f ||| r.2) 0)

/-- Bytes of one packed slug under a tag (R132). -/
def slugBytes (tag : Nat) : Nat := if tag = tagF32 ∨ tag = tagMask then 8 else 16

/-- The run-packed image of a register (R132). -/
def packRun (r : RunReg) : List Byte :=
  natToBytes 16 (r.runs + r.len * 2 ^ 16 + r.tag * 2 ^ 32)
  ++ r.slugs.flatMap fun s =>
      if slugBytes r.tag = 8 then natToBytes 8 (s.2 + (s.1.toNat % 2 ^ 32) * 2 ^ 32)
      else natToBytes 16 (s.2 + s.1.toNat * 2 ^ 64)

/-- A slug from its image, and whether its zero fields are zero. -/
def unpackSlug (tag : Nat) (x : Nat) : (Word × Nat) × Bool :=
  if slugBytes tag = 8 then
    ((BitVec.ofNat 64 (x / 2 ^ 32 % 2 ^ 32), x % 2 ^ 16),
      x / 2 ^ 16 % 2 ^ 16 == 0 && (tag ≠ tagMask || x / 2 ^ 32 % 2 ^ 32 ≤ 1))
  else ((BitVec.ofNat 64 (x / 2 ^ 64), x % 2 ^ 16), x / 2 ^ 16 % 2 ^ 48 == 0)

/-- The bytes of a run-packed row as far as its header is legal (R132, R133): those of the header alone otherwise. -/
def packedSize (rd : Nat → Nat → Nat) : Nat :=
  let h := rd 0 16
  if !(tagOk (h / 2 ^ 32 % 256)) || h / 2 ^ 8 % 256 ≠ 0 || h / 2 ^ 40 ≠ 0 || 128 < h % 256 then 16
  else 16 + slugBytes (h / 2 ^ 32 % 256) * (h % 256)

/-- A run-packed row read through `rd`, which gives a little-endian number of n bytes at an offset from the header
(R133): the register, or the trap that its checks raise, `hdr` being the header's address. -/
def loadPacked (hdr : Word) (rd : Nat → Nat → Nat) : Except RunErr RunReg :=
  let h := rd 0 16
  let p := h % 256
  let tag := h / 2 ^ 32 % 256
  let l := h / 2 ^ 16 % 2 ^ 16
  if !(tagOk tag) || h / 2 ^ 8 % 256 ≠ 0 || h / 2 ^ 40 ≠ 0 then .error (.lenmis hdr)
  else if 128 < p then .error (.runovf hdr)
  else
    let sb := slugBytes tag
    let ss := (List.range p).map fun k => unpackSlug tag (rd (16 + sb * k) sb)
    let slugs := ss.map Prod.fst
    if ss.any (fun s => !s.2 || s.1.2 == 0) || slugsLen slugs ≠ l then .error (.lenmis hdr)
    else .ok ⟨tag, slugs⟩

end Sys2Proof
end

