-- ==== Sys2Proof/Machine/CoreState.lean ====
section
/-! DEFINITION. The state of one core: its two sequencers, register files, engines, scratchpad, tables and ports. A field's
docstring ends with its width, the rule that names it and its reset value (log entry 1 names the values the spec leaves
open). -/

namespace Sys2Proof.Machine

open Sys2Proof

/-- One loop-stack entry (Table 3-2, R47). -/
structure LoopEntry where
  /-- START [56 bits; 03 R47; 0] -/
  start : Word := 0
  /-- KIND: whether the entry is LOOPS [2 bits; 03 R47; LOOP] -/
  staged : Bool := false
  /-- S [3 bits; 03 R47; 1] -/
  stages : Nat := 1
  /-- STOP [1 bit; 03 R47; 0] -/
  stop : Bool := false
  /-- END [56 bits; 03 R47; 0] -/
  stopAt : Word := 0
  /-- N [64 bits; 03 R47; 0] -/
  n : Word := 0
  /-- E [64 bits; 03 R47; 0] -/
  e : Word := 0
  /-- BASE [64 bits; 03 R47; 0] -/
  base : Word := 0
  /-- LIM [64 bits; 03 R47; 0] -/
  lim : Word := 0
deriving DecidableEq, Repr

/-- The registers that one sequencer owns (R9, R12, R173). -/
structure Bank where
  /-- program counter [56 bits; 01 R12; 0, the launch record's code address at a launch] -/
  pc : Word := 0
  /-- p0 to p15, p0 reading as true [16 x 1 bit; 01 R9, R12; false] -/
  preds : BitVec 16 := 0
  /-- loop stack, innermost entry first [6 entries of 48 bytes; 03 R47; empty] -/
  loops : List LoopEntry := []
  /-- x0 to x31 [32 x 64 bits; 01 R9, R12; 0] -/
  x : Vector Word 32 := Vector.replicate 32 0#64
  /-- y0 to y31 [32 x 64 bits; 01 R9, R12; 0] -/
  y : Vector Word 32 := Vector.replicate 32 0#64
  /-- a0 to a15, then ma0 to ma7 [24 x 64 bits; 01 R9, R12; 0] -/
  a : Vector Word 24 := Vector.replicate 24 0#64
  /-- b0 to b15, then mb0 to mb7 [24 x 64 bits; 01 R9, R12; 0] -/
  b : Vector Word 24 := Vector.replicate 24 0#64
  /-- e0 to e15 [16 x 64 bits; 01 R9, R12; 0] -/
  e : Vector Word 16 := Vector.replicate 16 0#64
deriving DecidableEq, Repr

/-- What a result writes: a 64-bit register or a run register. -/
inductive RegVal where
  | word (v : Word)
  | run (r : RunReg)
deriving DecidableEq, Repr

/-- A result in flight (R14, R15): its register is empty until it lands. -/
structure Pend where
  id : Nat
  hnd : Bool
  slot : Slot
  hdr : Word
  opc : Nat
  /-- the register it writes; none for flags alone -/
  dst : Option (RFile × Nat)
  /-- the clk it lands in; none while its latency is not fixed (R19) -/
  due : Option Nat
  val : RegVal
  flags : FlagSet
deriving DecidableEq, Repr

/-- The engines of R246, R282 and R369. -/
inductive Eng where
  | copy | galley | message | coll | matrix | key
  /-- the object of a SCRUB of kind GANGSP that waits at its home; it uses no engine (R301, R375) -/
  | mark
deriving DecidableEq, Repr

/-- A galley's binding (R259): base DVA, ring descriptor, START, HEAD and forme. -/
structure Galley where
  bound : Bool := false
  base : Word := 0
  ring : Word := 0
  start : Nat := 0
  head : Nat := 0
  forme : Forme := 0
deriving DecidableEq, Repr

/-- A rank of a group (R386). -/
structure Rank where
  pkg : Nat
  ctx : Nat
  queue : Nat
  member : Nat
  gidx : Nat
deriving DecidableEq, Repr

/-- A command in an engine's queue (R246, Table 20-8). -/
structure Cmd where
  id : Nat
  eng : Eng
  opc : Nat
  /-- the instruction's words as issued -/
  f : Fields
  hnd : Bool
  hdr : Word
  /-- e(A), e(B), e(C) as read at issue -/
  ea : Word
  eb : Word
  ec : Word
  /-- the forme entries read at issue -/
  formes : List Forme := []
  /-- the shape block read at issue, or a key command's block -/
  block : List Byte := []
  /-- MODQ as it stood at issue (R116, R288) -/
  q : Nat := 3
  /-- the galley's binding at issue; its head is the first row that a fetch lands, or that a GAL operand counts from -/
  gal : Galley := {}
  /-- chunks performed, rows landed or entries completed -/
  progress : Nat := 0
  started : Bool := false
  /-- the chunk in flight: its data as read -/
  chunk : Option (List Byte) := none
  /-- source bytes held from before the command's first write (R255) -/
  snap : Option (List Byte) := none
  /-- stopped by a recoverable fault (R326) -/
  parked : Bool := false
  /-- its next chunk goes before others of its engine: 1 held at the issue gate (R303), 2 an overrun (R304) -/
  prio : Nat := 0
  /-- entries of a collective that an UNSEAL has installed: its command joins again behind them (R335, R344) -/
  done : Nat := 0
  /-- issued in mode U (Table 11-6, SUP) -/
  user : Bool := true
  /-- a collective's buffer in global memory as it stood at issue (R267) -/
  image : Option (List Byte) := none
  /-- the ranks of its group and its own place among them, as read at issue (R266, R386) -/
  group : List Rank := []
  rank : Nat := 0
deriving DecidableEq, Repr

/-- A pending range of the chase (R251). -/
structure ChaseRange where
  id : Nat
  cmd : Nat
  lo : Nat
  hi : Nat
  write : Bool
deriving DecidableEq, Repr

/-- A plane of the matrix engine (Table 15-1); `elems` holds column n's elements k below K, `scales` its block scales. -/
structure Plane where
  /-- CLASS: 0 EMPTY, 1 F32K, 2 F64K, 3 F128K, 4 R, 5 M [8 bits; 15 R273; EMPTY] -/
  cls : Nat := 0
  /-- FMT [8 bits; 15 R273; 0] -/
  fmt : Nat := 0
  /-- MXB [1 bit; 15 R273; 0] -/
  mxb : Bool := false
  /-- TOLSCALE [1 bit; 15 R273; 0] -/
  tol : Bool := false
  /-- MODQ [3 bits; 15 R273; 0] -/
  modq : Nat := 0
  /-- K [8 bits; 15 R273; 0] -/
  k : Nat := 0
  /-- N [8 bits; 15 R273; 0] -/
  n : Nat := 0
  /-- B(k, n) [up to 128 x 32 elements; 15 R273; empty] -/
  elems : List (List Nat) := []
  /-- BS(g, n) [4 x 32 bytes; 15 R273; empty] -/
  scales : List (List Nat) := []
  /-- BMAX [natural; 15 R273; 0] -/
  bmax : Nat := 0
  /-- XSCP [signed 16 bits; 15 R273; 0] -/
  xscp : Int := 0
deriving DecidableEq, Repr

/-- An accumulator tile (Table 15-1); `cells` lists the cells that are not zero, keyed by 32 i + j. -/
structure Tile where
  /-- MODE: 0 zero, 1 float, 2 residue, 3 modular [2 bits; 15 R273; 0] -/
  mode : Nat := 0
  /-- BOUND [40 bits; 15 R273; 0] -/
  bound : Nat := 0
  /-- XSC [signed 10 bits; 15 R273; 0] -/
  xsc : Int := 0
  /-- CELL(i, j) [128 x 32 x 32 bits; 15 R273; 0] -/
  cells : List (Nat × Nat) := []
deriving DecidableEq, Repr

/-- The front end's view of a plane (R278): class, MODQ field, K, N, XSCP. -/
structure PlaneView where
  cls : Nat := 0
  modq : Nat := 0
  k : Nat := 0
  n : Nat := 0
  xscp : Int := 0
deriving DecidableEq, Repr

/-- A matrix operation's place in the engine (R293). -/
structure MatOp where
  cmd : Cmd
  /-- the tiles it names -/
  tiles : List Nat
  started : Bool := false
  /-- the clk it started in -/
  begun : Nat := 0
  /-- the mode and XSC that the front end gave its tile at issue (R287) -/
  mode : Nat := 0
  xsc : Int := 0
  /-- the plane that a stream meets, and the elements and scale bytes that the operation has read, by row -/
  plane : Plane := {}
  image : List (List Nat) := []
  scales : List (List Nat) := []
  /-- results of MSTAT with `.w` that sample when the operation finishes (R292): tile and result -/
  stats : List (Nat × Nat) := []
deriving DecidableEq, Repr

/-- The message queue (Table 11-2) with the entries accepted and not yet freed. -/
structure MsgQueue where
  /-- MQBASE [64 bits, 21 used; 11 R202; launch record, 0 before] -/
  base : Nat := 0
  /-- MQSIZE [64 bits, 13 used; 11 R202; launch record, 0 before] -/
  size : Nat := 0
  /-- MQHEAD [64 bits, 12 used; 11 R202; 0] -/
  head : Nat := 0
  /-- MQTAIL.TAIL [12 bits; 11 R202; 0] -/
  tail : Nat := 0
  /-- MQTAIL.USED [13 bits; 11 R202; 0] -/
  used : Nat := 0
  /-- entries accepted whose bytes are still to be written, in order of acceptance [64-byte slots; 11 R204; empty] -/
  arriving : List (Nat × List Byte × Bool) := []
deriving DecidableEq, Repr

/-- The per-member message state (Table 20-4 at 0x3_A800). -/
structure PeerState where
  /-- next SEQ from this member [32 bits; 14 R264; 0] -/
  nextSeq : Nat := 0
  /-- REFUSING: this core refuses entries of the member until the refused one returns [1 bit; 14 R264; 0] -/
  refusing : Option Nat := none
  /-- CR, as credits used below MQSIZE of the launch: none before the first entry [13 bits; 14 R264; MQSIZE] -/
  credit : Option Nat := none
  /-- SEQ of this core's next entry to the member [32 bits; 14 R257; 0] -/
  sent : Nat := 0
deriving DecidableEq, Repr

/-- The random-bit generator (R270). -/
structure Rng where
  /-- key [64 bits; 14 R270; GANG.MEMBER at a gang's start, 0 before] -/
  key : Word := 0
  /-- counter of the next block [128 bits; 14 R270; 0] -/
  ctr : Nat := 0
  /-- queue of words, oldest first [64 x 32 bits; 14 R270; empty] -/
  words : List (BitVec 32) := []
  /-- first clk in which a block may land [clk; 14 R270; 0] -/
  ready : Nat := 0
deriving DecidableEq, Repr

/-- The debug mailbox (R339). -/
structure Mailbox where
  /-- CMD [64 bits; 20 R339; 0] -/
  cmd : Word := 0
  /-- ADDR [64 bits; 20 R339; 0] -/
  addr : Word := 0
  /-- DATA [64 bits; 20 R339; 0] -/
  data : Word := 0
  /-- STATUS.STATE: 0 disarmed, 1 running, 2 halted [8 bits; 20 R339; 0] -/
  state : Nat := 0
  /-- STATUS.RESULT [8 bits; 20 R339; 0] -/
  result : Nat := 0
  /-- STATUS break code [16 bits; 20 R339; 0] -/
  code : Nat := 0
  /-- breakpoints [4 x 64 bits; 20 R339; clear] -/
  breaks : List Word := [0, 0, 0, 0]
  /-- bundles a STEP still has to commit, and the clk it began in [16 bits; 20 R339, R340; none] -/
  step : Option (Nat × Nat) := none
  /-- the next bundle issues without a breakpoint test, after RUN or STEP [1 bit; 20 R339; 0] -/
  skip : Bool := false
  /-- HALT waits for the core's next bundle boundary [1 bit; 20 R339; no] -/
  halting : Bool := false
deriving DecidableEq, Repr

/-- Who observes and writes memory (R224), as Table 12-1 places it: a core's sequencers, its engine commands, a cluster's
collective engine or compositor, a unit of the package (the Amindaer), a peer package, and the host side. -/
inductive Observer where
  | core (k : Nat)
  | engine (k : Nat)
  | cluster (c : Nat)
  | package
  | peer
  | host
deriving DecidableEq, Repr

/-- Whether a scope named by a core contains an observer (Table 12-1). -/
def Observer.inScope (o : Observer) (core scope : Nat) : Bool :=
  match o with
  | .core k | .engine k => 2 ≤ scope || (scope = 1 && k / 256 == core / 256) || k == core
  | .cluster c => 2 ≤ scope || (scope = 1 && c == core / 256)
  | .package => 2 ≤ scope
  | .peer => 3 ≤ scope
  | .host => 4 ≤ scope

/-- The core whose translation tables an observer uses. -/
def Observer.tables : Observer → Option Nat
  | .core k | .engine k => some k
  | _ => none

/-- A value that a load still to come may return: bytes as they stood when the core took them, and who has written to them
since (R229, log entry 10). -/
structure Stale where
  pa : Nat
  bytes : List Byte
  writers : List Observer := []
deriving DecidableEq, Repr

/-- A global access accepted and not yet performed (R323, R228). -/
structure GAcc where
  id : Nat
  /-- the core's next number as the access's bundle was first issued: its place in program order (R225, R236) -/
  first : Nat
  hnd : Bool
  slot : Slot
  hdr : Word
  opc : Nat
  f : Fields
  /-- the address in the context's space and the physical address it was translated to -/
  ea : Word
  pa : Nat
  /-- operands B and C -/
  b : Word
  c : Word
  /-- SUBST of the page (Table 11-6) -/
  subst : Nat
  ctx : Nat
deriving DecidableEq, Repr

/-- A cached translation (R210). -/
structure TlbEntry where
  ctx : Nat
  /-- first address of the page and its size in bytes -/
  page : Nat
  size : Nat
  pa : Nat
  w : Bool
  x : Bool
  sup : Bool
  subst : Nat
deriving DecidableEq, Repr

/-- A handler run under way: the first slot of its message and the slots of the whole message (R174, R175). -/
structure HndRun where
  slot : Nat
  slots : Nat
  /-- slots of the message already freed by a CSRWR to MQHEAD -/
  freed : Nat := 0
deriving DecidableEq, Repr

/-- Where a main sequencer stands stopped (Table 20-1). -/
inductive StopPoint where
  | loopCut | yielded | waiting | departed | parked
deriving DecidableEq, Repr

/-- A line of the instruction cache: its address and its sixteen words (R23). -/
structure ICacheLine where
  addr : Word
  words : List (BitVec 32)
deriving DecidableEq, Repr

/-- One core (R9 to R13, R173, Table 20-4). -/
structure Core where
  /-- the main sequencer's bank (R12) -/
  main : Bank := {}
  /-- the handler sequencer's bank (R173) -/
  hnd : Bank := {}
  /-- v0 to v15 [16 run registers of 128 slugs; 06 R122; no slugs, L 0, F32] -/
  v : Vector RunReg 16 := Vector.replicate 16 {}
  /-- w0 to w15 [16 run registers of 128 slugs; 06 R122; no slugs, L 0, F32] -/
  w : Vector RunReg 16 := Vector.replicate 16 {}
  /-- results in flight; a register is empty exactly while one names it [full/empty bit per register; 01 R14; none: full] -/
  pend : List Pend := []
  /-- the core's clock count [clk; 00 R4, 01 R19; 0] -/
  clk : Nat := 0
  /-- STATUS.MODE is S [1 bit; 01 R26, 03 Table 3-9; U until a launch] -/
  modeS : Bool := false
  /-- STATUS.HEN [1 bit; 03 Table 3-9; 0] -/
  hen : Bool := false
  /-- STATUS.INTRAP [1 bit; 03 Table 3-9; 0] -/
  intrap : Bool := false
  /-- GANG (0x002) [64 bits; 09 R170; per launch, 0 before] -/
  gang : Word := 0
  /-- LAUNCH (0x003) [64 bits; 10 Table 10-8; per launch, 0 before] -/
  launch : Word := 0
  /-- ARGP (0x004) [64 bits; 03 Table 3-8; per launch, 0 before] -/
  argp : Word := 0
  /-- TRAPVEC (0x008) [64 bits; 03 Table 3-8; launch record, 0 before] -/
  trapvec : Word := 0
  /-- TRAPPC (0x009) [64 bits; 03 Table 3-8; 0] -/
  trappc : Word := 0
  /-- TRAPREC (0x00A) [64 bits; 03 Table 3-6; 0] -/
  traprec : Word := 0
  /-- TRAPADDR (0x00B) [64 bits; 03 Table 3-8; 0] -/
  trapaddr : Word := 0
  /-- FLAGEN (0x010) [64 bits; 03 Table 3-8; 0] -/
  flagen : Word := 0
  /-- the sticky flags, byte k of slot k [64 bits; 03 R57; 0] -/
  flags : Word := 0
  /-- FIRSTEV (0x011) [64 bits; 03 Table 3-5; 0] -/
  firstev : Word := 0
  /-- FIRSTPC (0x012) [64 bits; 03 R58; 0] -/
  firstpc : Word := 0
  /-- MODQ0 to MODQ7 (0x030 to 0x037) [8 x 64 bits; 03 R66; 3] -/
  modq : Vector Word 8 := Vector.replicate 8 3#64
  /-- MQBASE, MQSIZE, MQHEAD, MQTAIL and the queue's port -/
  mq : MsgQueue := {}
  /-- SRQCNT (0x040), RNGCTR (0x041) and the generator -/
  rng : Rng := {}
  /-- SPGSTAT (0x060): gated groups [8 bits; 03 R69; 0x00] -/
  gated : BitVec 8 := 0
  /-- groups waking and the clk they are awake in [8 x clk; 11 R198, R200; none] -/
  waking : List (Nat × Nat) := []
  /-- scratchpad, listing the bytes that are not zero [2 MiB; 11 R198, R200; zero] -/
  sp : List Host.Cell := []
  /-- scratchpad accesses of the sequencers that are not complete: range, and the clk they are complete in [list; 11 R200;
  none] -/
  spUse : List (Nat × Nat × Nat) := []
  /-- 64-bit words of scratchpad whose error cannot be corrected [262,144 x 1 bit; 11 R201; none] -/
  spBad : List Nat := []
  /-- packed-region table [8 x (lo, hi); 11 R222; empty] -/
  packed : List (Nat × Nat) := []
  /-- forme table t0 to t63 [64 x 256 bits; 05 R117; image at a launch, empty before] -/
  formes : Vector Forme 64 := Vector.replicate 64 0#256
  /-- galleys g0 to g7 [8 x 64 bytes; 14 R259; unbound] -/
  galleys : Vector Galley 8 := Vector.replicate 8 {}
  /-- chase, in order of registration [64 ranges; 14 R251, R253; empty] -/
  chase : List ChaseRange := []
  /-- deque, top entry first [64 x 64 bits; 09 R181; empty] -/
  deque : List Word := []
  /-- ARR [8 bits; 09 R179; 0] -/
  arr : BitVec 8 := 0
  /-- active plane -/
  active : Plane := {}
  /-- shadow plane -/
  shadow : Plane := {}
  /-- acc0 to acc7 -/
  tiles : Vector Tile 8 := Vector.replicate 8 {}
  /-- the front end's view of the active plane [plane state; 15 R278; EMPTY] -/
  fActive : PlaneView := {}
  /-- the front end's view of the shadow plane [plane state; 15 R278; EMPTY] -/
  fShadow : PlaneView := {}
  /-- the front end's view of each tile's MODE and XSC [8 x 12 bits; 15 R278; 0] -/
  fTiles : Vector (Nat × Int) 8 := Vector.replicate 8 (0, 0)
  /-- commands of the copy, galley and message engines and the collective port, in issue order [44 records; 14 R246,
  20 Table 20-8; none] -/
  cmds : List Cmd := []
  /-- the matrix engine's queue, in issue order [8 entries; 15 R282; empty] -/
  mats : List MatOp := []
  /-- the key port's queue [4 entries; 22 R369; empty] -/
  keys : List Cmd := []
  /-- per-member message state, by member [2,048 x 64 bits; 14 R264, 20 Table 20-4; SEQ 0, not refusing, CR = MQSIZE] -/
  peers : List (Nat × PeerState) := []
  /-- MQSIZE of the launch record, the initial credit [13 bits; 14 R264; 0 before a launch] -/
  credits : Nat := 0
  /-- debug mailbox -/
  dbg : Mailbox := {}
  /-- global accesses accepted and not yet performed [any number; 19 R323; none] -/
  gacc : List GAcc := []
  /-- values taken for loads still to come, newest first [any number; 12 R229; none] -/
  stale : List Stale := []
  /-- uncorrectable errors met outside the scratchpad, as structure code and register or entry number [list; 19 R332;
  none] -/
  soft : List (Nat × Nat) := []
  /-- first-level translation table, most recently used first [64 entries; 11 R210; empty] -/
  tlb : List TlbEntry := []
  /-- instruction cache [64 KiB of 64-byte lines; 01 R23; empty] -/
  icache : List ICacheLine := []
  /-- the divider's next free clk [clk; 04 R77; 0] -/
  divFree : Nat := 0
  /-- next free clk of the run units VA and VB [clk; 06 R134; 0] -/
  runFree : Nat × Nat := (0, 0)
  /-- next free clk of the run-memory paths of AGA and AGB [clk; 07 R161; 0] -/
  pathFree : Nat × Nat := (0, 0)
  /-- the handler run under way [one run; 09 R174; none] -/
  run : Option HndRun := none
  /-- whether the main sequencer owes a bundle before the next handler run [1 bit; 09 R174; no] -/
  owes : Bool := false
  /-- handler runs ended since the start of the gang, for WAITEV [count; 09 R185; 0] -/
  runsEnded : Nat := 0
  /-- the gang that holds the core, by the compositor's number [one gang; 09 R168; none] -/
  placed : Option Nat := none
  /-- a gang has held the core since it was last zeroed [1 bit; 22 R366; no] -/
  used : Bool := false
  /-- whether the main sequencer has completed HALT [1 bit; 09 R171; no] -/
  departed : Bool := false
  /-- whether the gang is parked on a recoverable fault [1 bit; 19 R326; no] -/
  parked : Bool := false
  /-- the handler's bundle stands at a recoverable fault [1 bit; 19 R326; no] -/
  hndParked : Bool := false
  /-- tick from which an expander's refusal of the core's accesses to the CXL tier counts, the ticks of slots left out [64
  bits; 11 R218, 16 R301; none] -/
  refusing : Option Nat := none
  /-- an expander has refused the access of the bundle at issue for 100 us [1 bit; 11 R218; no] -/
  refused : Bool := false
  /-- the core is stopped in the sense of R335 [1 bit; 20 R335; no] -/
  quiet : Bool := false
  /-- a stop request is pending [1 bit; 20 R334; no] -/
  stopReq : Bool := false
  /-- where the main sequencer has stopped [Table 20-1; 20 R334; not stopped] -/
  stopped : Option StopPoint := none
  /-- context of the launch the core runs [8 bits; 10 Table 10-8; 0] -/
  ctx : Nat := 0
  /-- next number for commands, ranges, accesses and results [count; the model's own; 0] -/
  nextId : Nat := 0
deriving DecidableEq, Repr

end Sys2Proof.Machine
end

