-- ==== Sys2Proof/Machine/SysState.lean ====
section
/-! DEFINITION. The state outside the cores: queues, launches, gangs, memory, ownership, tenants, keys, links and the
calendar. A field's docstring ends with its width, the rule that names it and its reset value. -/

namespace Sys2Proof.Machine

open Sys2Proof

/-- What a core asks of a unit outside it; the reply lands in a register (R19). -/
inductive Ask where
  /-- a service, and its operand; for CLOCK the operating point as the bundle issued (R307) -/
  | sysc (service : Nat) (arg : Word)
  /-- a SYSC NOTIFY whose record the cluster controller has taken (R327) -/
  | notified
  | resumeg (token : Nat)
  | dqcnt (member : Nat)
  | kstat (selector : Nat) (arg : Word)
deriving DecidableEq, Repr

/-- A request on its way (R64, R182, R188, R376). -/
structure AskReq where
  core : Nat
  hnd : Bool
  id : Nat
  what : Ask
deriving DecidableEq, Repr

/-- A steal or a count at a deque's port (R183). -/
structure DqReq where
  /-- the core whose deque it is, and the core that asks -/
  owner : Nat
  asker : Nat
  hnd : Bool
  /-- tick of its arrival at the port and the owner's clk then, and the member that asks: requests are served in this order (R183) -/
  tick : Word
  clk : Nat
  member : Nat
deriving DecidableEq, Repr

/-- A message entry between two cores (R263, R264). -/
structure Msg where
  src : Nat
  dst : Nat
  handler : Nat
  kind : Nat
  payload : List Byte
  seq : Nat
  /-- refused and waiting to be resent -/
  refused : Bool := false
  /-- the sender's command (R264) -/
  cmd : Nat := 0
  hdr : Word := 0
deriving DecidableEq, Repr

/-- An acknowledgement on its way back to the sender (R204, R264). -/
structure Ack where
  /-- the sender of the entry, and the member that answers -/
  sender : Nat
  member : Nat
  seq : Nat
  accepted : Bool
  free : Nat
  /-- slots of the entry it answers -/
  slots : Nat := 0
  /-- the answer to a probe -/
  probe : Bool := false
deriving DecidableEq, Repr

/-- States of a queue (Table 10-6). -/
inductive QState where
  | disabled | idle | ready | waiting | placing | error
deriving DecidableEq, Repr

/-- A queue descriptor with the compositor's own state of the queue (Table 10-1, R196). -/
structure Queue where
  /-- RING [56 bits; 10 R189; 0] -/
  ring : Word := 0
  /-- NREC [17 bits; 10 R189; 0] -/
  nrec : Nat := 0
  /-- PRIO [3 bits; 10 R189; 0] -/
  prio : Nat := 0
  /-- SOK [1 bit; 10 R189; 0] -/
  sok : Bool := false
  /-- CTX [8 bits; 10 R189; 0] -/
  ctx : Nat := 0
  /-- STATE [3 bits; 10 R189; DISABLED] -/
  state : QState := .disabled
  /-- ERR [8 bits; 10 R189; 0] -/
  err : Nat := 0
  /-- HEAD [16 bits; 10 R189; 0] -/
  head : Nat := 0
  /-- TAIL [16 bits; 10 R189; 0] -/
  tail : Nat := 0
  /-- the launch whose record stands at HEAD [one launch; 10 R193; none] -/
  launch : Option Nat := none
  /-- object and target of the WAIT or dependence at HEAD: address, target, EQ [DVA and 64 bits; 10 R193; none] -/
  wait : Option (Word × Word × Bool) := none
  /-- the wait is a LAUNCH's dependence [1 bit; 10 R193; no] -/
  isDep : Bool := false
  /-- the object has taken a value that meets the wait [1 bit; 10 R193; no] -/
  met : Bool := false
  /-- aged level [3 bits; 10 R196; PRIO] -/
  level : Nat := 0
  /-- periods of the span in progress [count; 10 R196; 0] -/
  span : Nat := 0
deriving DecidableEq, Repr

/-- The first fault of a launch (R330). -/
structure FirstFault where
  kind : Nat
  form : Nat
  gidx : Nat
  member : Nat
  core : Nat
  baddr : Word
  slots : Nat
  addr : Word
  ill : BitVec 128
  tick : Word
deriving DecidableEq, Repr

/-- A launch in flight (R191 to R195). -/
structure Launch where
  id : Nat
  queue : Nat
  slot : Nat
  vf : Nat
  ctx : Nat
  s : Bool
  record : Bool
  code : Word
  args : Word
  formes : List Forme
  gsize : Nat
  tags : Nat
  gcount : Nat
  mqbase : Nat
  mqsize : Nat
  trapvec : Word
  done : Word
  inc : Word
  /-- next gang index to place -/
  nextGang : Nat := 0
  ended : Nat := 0
  /-- no further gang is placed (fatal fault, queue disabled) -/
  dropped : Bool := false
  /-- status word: CODE, KIND, GANG of the first error -/
  status : Nat := 0
  fault : Option FirstFault := none
  /-- cores stopped and dumped under R329 -/
  aborting : Bool := false
  /-- its replay has diverged: it goes on live [1 bit; 20 R342; no] -/
  diverged : Bool := false
deriving DecidableEq, Repr

/-- A gang that is placed (R168, R170). -/
structure Gang where
  id : Nat
  launch : Nat
  gidx : Nat
  token : Nat
  tags : Nat
  /-- the member's cores, in member order -/
  cores : List Nat
  parked : Bool := false
  /-- SCRUB GANGSP has marked it (R375) -/
  scrub : Bool := false
  /-- stop requested of every member (R336) -/
  stopping : Bool := false
deriving DecidableEq, Repr

/-- A rank's arrival in a collective (R266, R267). -/
structure CollRank where
  core : Nat
  cmd : Nat
  ctx : Nat
  handle : Nat
  seq : Nat
  rank : Nat
  kind : Nat
  op : Nat
  forme : Forme
  q : Nat
  count : Nat
  /-- its buffer as it stood at issue -/
  image : List Nat
  /-- ranks of the group -/
  n : Nat
  /-- a rank of another package, whose contribution the fabric brought (R386) -/
  peer : Bool := false
  /-- elements of the result written, and the flags of its elements -/
  written : Nat := 0
  flags : FlagSet := 0
  /-- its command is complete -/
  served : Bool := false
  /-- its next entry is under way, and whether that goes before every other one of its engine: held at the gate, or
  abandoned by a slot (R303, R304) -/
  busy : Bool := false
  first : Bool := false
  /-- packages and contexts that it has still to send its contribution to, and the bytes that the first of them has been
  sent (R386) -/
  far : List (Nat × Nat) := []
  sent : Nat := 0
  /-- of a rank of another package: the tenant, the port its packets came by, the parts that have come and are to be taken,
  and the bytes taken -/
  vf : Nat := 0
  port : Nat := 0
  inbox : List (List Byte) := []
  got : List Byte := []
deriving DecidableEq, Repr

/-- A gang saved in its context's save area (R336 to R338). -/
structure SavedGang where
  launch : Nat
  gidx : Nat
  token : Nat
  tags : Nat
  size : Nat
  ctx : Nat
  /-- first record of the save area -/
  area : Nat
  parked : Bool
  scrub : Bool
  stops : List StopPoint
  /-- the cores it was saved from, in member order -/
  cores : List Nat := []
  /-- each member's commands as they stood, with what an engine record does not hold [per member; 20 R335; none] -/
  cmds : List (List Cmd) := []
  /-- entries refused and awaiting resend, collectives joined, and counts of collectives issued -/
  msgs : List Msg := []
  colls : List CollRank := []
  collSeq : List (Nat × Nat) := []
deriving DecidableEq, Repr

/-- A fault or notify record waiting for its place in the ring (R327). -/
structure FaultRec where
  ctx : Nat
  bytes : Nat
  /-- the gang that a fault record parks -/
  gang : Option Nat
  /-- core and result of a SYSC NOTIFY -/
  notify : Option (Nat × Nat)
  kind : Nat
  launch : Nat
  /-- tick of its detection, and the core -/
  tick : Nat
  core : Nat
  /-- index of its gang in the launch -/
  gidx : Nat := 0
deriving DecidableEq, Repr

/-- One context (Table 23-5, R343). -/
structure Context where
  /-- virtual function that management assigned it to [6 bits; 23 R387; none] -/
  vf : Option Nat := none
  /-- PTROOT [52 bits; 23 R387; 0] -/
  ptroot : Nat := 0
  /-- ENABLE [1 bit; 23 R387; 0] -/
  enable : Bool := false
  /-- WEIGHT [8 bits; 23 R387, 10 R196; 0] -/
  weight : Nat := 0
  /-- save area DVA and bytes [2 x 64 bits; 23 R387; 0] -/
  saveDva : Word := 0
  saveLen : Nat := 0
  /-- dump area DVA and bytes [2 x 64 bits; 23 R387; 0] -/
  dumpDva : Word := 0
  dumpLen : Nat := 0
  /-- fault-queue ring DVA, records, HEAD, TAIL [4 x 64 bits; 23 R387, 19 R327; 0] -/
  fqDva : Word := 0
  fqLen : Nat := 0
  fqHead : Nat := 0
  fqTail : Nat := 0
  /-- SEQ of the next fault record [64 bits; 19 R327; 0] -/
  fqSeq : Nat := 0
  /-- log-ring DVA, entries, HEAD, TAIL [4 x 64 bits; 23 R387, 20 R341; 0] -/
  logDva : Word := 0
  logLen : Nat := 0
  logHead : Nat := 0
  logTail : Nat := 0
  /-- REPLAY [1 bit; 23 R387, 20 R342; 0] -/
  replay : Bool := false
  /-- DIVERGE and the index of the entry that did not match [33 bits; 20 R342; 0] -/
  diverge : Option Nat := none
  /-- entries that replay has consumed, by core: (core, entries) [count; 20 R342; 0] -/
  replayed : List Nat := []
  /-- dirty-log BASE, SIZE, HEAD, TAIL [256 bits; 20 R343; 0] -/
  dlBase : Word := 0
  dlSize : Nat := 0
  dlHead : Nat := 0
  dlTail : Nat := 0
  /-- ARM [1 bit; 20 R343; 0] -/
  dlArm : Bool := false
  /-- LOGOVF [1 bit; 20 R343; 0] -/
  dlOvf : Bool := false
  /-- pages marked since ARM was written [1 bit per 64 KiB page; 20 R343; clear] -/
  dlMarks : List Nat := []
  /-- pages whose entries wait for a slot to close, in order [list; 16 R301; none] -/
  dlOwed : List Nat := []
  /-- group table DVA and entries [2 x 64 bits; 23 R387, 14 R266; 0] -/
  grpDva : Word := 0
  grpLen : Nat := 0
  /-- invalidation command: DVA and pages [2 x 64 bits; 23 R387; 0] -/
  invDva : Word := 0
  invPages : Nat := 0
  /-- ring DVA and buffers of the next security association set up [2 x 64 bits; 23 R388, log entry 7; 0] -/
  espRing : Word := 0
  espBuffers : Nat := 0
  /-- SUBCNT [64 bits; 11 R219; 0] -/
  subcnt : Word := 0
  /-- balance in core-periods [signed; 10 R196; 0] -/
  balance : Int := 0
  /-- stopped for migration [1 bit; 20 R344; no] -/
  migrating : Bool := false
deriving DecidableEq, Repr

/-- TDISP states (R351). -/
inductive Tdisp where
  | unlocked | locked | run | error
deriving DecidableEq, Repr

/-- Binding states (Table 22-4). -/
inductive Bind where
  | unbound | recorded | collecting | bound | quarantined
deriving DecidableEq, Repr

/-- States of the pre-emption ladder (Table 20-3). -/
inductive Ladder where
  | run | soft | hard | kill | clear
deriving DecidableEq, Repr

/-- A secured SPDM session (R352). -/
structure SpdmSession where
  id : Nat
  /-- digest of the requester's certificate -/
  requester : List Byte
  /-- the messages of its key exchange, which the requester signs -/
  transcript : List Byte := []
  established : Bool := false
  /-- key updates made -/
  epoch : Nat := 0
deriving DecidableEq, Repr

/-- One virtual function and its tenant (R351 to R357, R387). -/
structure Vf where
  /-- TDISP state [2 bits; 22 R351; CONFIG_UNLOCKED] -/
  tdisp : Tdisp := .unlocked
  /-- binding state [3 bits; 22 R354; UNBOUND] -/
  bind : Bind := .unbound
  /-- tenant record [832 bytes; 22 R353; empty] -/
  record : List Byte := []
  /-- TID [48 bytes; 22 R353; empty] -/
  tid : List Byte := []
  /-- NPARTY [5 bits; 22 R353; 0] -/
  nparty : Nat := 0
  /-- shares received, by party [16 x 48 bytes; 22 R354; none] -/
  shares : List (Nat × List Byte) := []
  /-- RS [48 bytes; 22 R354; erased] -/
  rs : List Byte := []
  /-- CUR [64 bits; 22 R357; 0] -/
  cur : Nat := 0
  /-- whether OLD is live [1 bit; 22 R357; no] -/
  old : Bool := false
  /-- frames rotated and pages skipped by the running or last KROT [2 x 32 bits; 22 R376; 0] -/
  rotated : Nat := 0
  skipped : Nat := 0
  /-- an unbind waits for the tenant's launches to end [1 bit; 22 R354; no] -/
  unbinding : Bool := false
  /-- SPDM: GET_VERSION, GET_CAPABILITIES and NEGOTIATE_ALGORITHMS done [3 steps; 22 R352; 0] -/
  spdmStep : Nat := 0
  /-- secured sessions [16; 22 R352; none] -/
  sessions : List SpdmSession := []
  /-- frame quota [count; 23 R392; 0] -/
  frameQuota : Nat := 0
  /-- queue quota [count; 23 R392; 0] -/
  queueQuota : Nat := 0
  /-- BAR2 aperture: CTX and BASE [64 bits; 23 R387; 0] -/
  aperture : Word := 0
  /-- frame mailbox OP, F, ARG, STATUS [4 x 64 bits; 23 R387; 0] -/
  mbOp : Nat := 0
  mbF : Nat := 0
  mbArg : Nat := 0
  mbStatus : Nat := 0
  /-- G1 and G2 in periods [8 and 16 bits; 20 R336; 16 and 256] -/
  g1 : Nat := 16
  g2 : Nat := 256
  /-- slice length in periods [count; 10 R196; 64] -/
  sliceLen : Nat := 64
  /-- period in which the slice began [count; 10 R196; 0] -/
  sliceStart : Nat := 0
  /-- ladder state [3 bits; 20 R336; RUN] -/
  ladder : Ladder := .run
  /-- period in which the slice ended, or HARD began [count; 20 R336; 0] -/
  ladderSince : Nat := 0
  /-- context from which a gang was last placed [8 bits; 10 R196; 255] -/
  lastCtx : Nat := 255
  /-- ESP packets dropped [count; 23 R388; 0] -/
  espDropped : Nat := 0
deriving DecidableEq, Repr

/-- An ownership-map entry (Table 11-9); `loc` is none while the frame's own storage serves its name. -/
structure Frame where
  /-- OWNER [6 bits; 11 R213; 0] -/
  owner : Nat := 0
  /-- VALID [1 bit; 11 R213; 0] -/
  valid : Bool := false
  /-- GEN [1 bit; 11 R213; 0] -/
  gen : Nat := 0
  /-- SCRUB is pending [2 bits; 11 R213; clean] -/
  scrub : Bool := false
  /-- COMP: 0 plain, 1 compressed, 2 expanding [2 bits; 11 R213; 0] -/
  comp : Nat := 0
  /-- STFREE [1 bit; 11 R213; 0] -/
  stfree : Bool := false
  /-- LENT [1 bit; 11 R213; 0] -/
  lent : Bool := false
  /-- CTX [8 bits; 11 R213; 0] -/
  ctx : Nat := 0
  /-- NEAR [1 bit; 11 R213; 0] -/
  near : Bool := false
  /-- NCL [3 bits; 11 R213; 0] -/
  ncl : Nat := 0
  /-- RSVD [1 bit; 11 R213; 0] -/
  rsvd : Bool := false
  /-- LOC [29 bits; 11 R213; own F] -/
  loc : Option Nat := none
  /-- SLOT [3 bits; 11 R213; 0] -/
  slot : Nat := 0
  /-- CLEN [3 bits; 11 R213; 0] -/
  clen : Nat := 0
  /-- the page's bytes while it is held compressed [64 KiB; 11 R216; none] -/
  packed : List Host.Cell := []
deriving DecidableEq, Repr

/-- A counter block (Table 22-7), MINORs that are not zero by line. -/
structure CtrBlock where
  /-- MAJOR [64 bits; 22 R360; 0, 1 after the bring-up scrub] -/
  major : Nat := 0
  /-- MINOR k [64 x 6 bits; 22 R360; 0] -/
  minors : List (Nat × Nat) := []
deriving DecidableEq, Repr

/-- A page walk in progress or queued (R211). -/
structure Walk where
  cluster : Nat
  ctx : Nat
  page : Nat
  /-- the cores whose misses joined it -/
  cores : List Nat
  /-- engine commands whose misses joined it: core, command, access code and address -/
  cmds : List (Nat × Nat × Nat × Nat) := []
  /-- fetches whose misses joined it: core, whether its handler's, and the header -/
  fetches : List (Nat × Bool × Word) := []
  /-- PREFGs whose misses joined it: core and address -/
  prefs : List (Nat × Nat) := []
deriving DecidableEq, Repr

/-- An expansion under way (R216). -/
structure Expansion where
  frame : Nat
  ctx : Nat
  /-- the storage frame that it was given -/
  into : Nat
  /-- the access that started it: its core where a sequencer's, its address, and the substitution it takes (R219) -/
  core : Option Nat := none
  dva : Nat := 0
  subst : Nat := 0
deriving DecidableEq, Repr

/-- A section of a SEAL that is read from memory: its type and DVA, and where its bytes are read (R372). -/
structure SealPart where
  typ : Nat
  dva : Nat
  src : Nat
  bytes : Nat
deriving DecidableEq, Repr

/-- A piece of a blob still to be gathered: bytes as they are, then bytes read from an address (R372). -/
structure SealPiece where
  lit : List Byte := []
  src : Nat := 0
  bytes : Nat := 0
deriving DecidableEq, Repr

/-- A SEAL under way (R372): its sequence number, key and header, what is still to be read, the sections so far, and whether
they and the trailer stand in the blob area. -/
structure SealWork where
  seq : Nat
  key : List Byte
  header : List Byte
  todo : List SealPiece
  body : List Byte := []
  written : Bool := false
deriving DecidableEq, Repr

/-- A key command handed off to the Amindaer (R369). -/
structure KeyJob where
  core : Nat
  cmd : Cmd
  launch : Nat
  vf : Nat
  ctx : Nat
  /-- the gang that issued it -/
  gang : Nat
  /-- tick of its hand-off -/
  since : Word := 0
  /-- a rotation of the tenant ran when a KROT was accepted (R370) -/
  busy : Bool := false
  /-- frames that a KROT or a SCRUB PAGES has passed, and those it has done -/
  page : Nat := 0
  count : Nat := 0
  /-- the queue of the launch that issued it (R372) -/
  queue : Option Nat := none
  /-- a SEAL's progress -/
  sealing : Option SealWork := none
  /-- what a failed UNSEAL has still to zero, and its status then (R374) -/
  undo : List (Nat × Nat) := []
  verdict : Option (Nat × Nat × Nat) := none
  /-- CODE, COUNT and VALUE of its status, once they are known -/
  result : Option (Nat × Nat × Nat) := none
deriving DecidableEq, Repr

/-- An open fabric session (R381, R385). -/
structure FabSession where
  num : Nat
  vf : Nat
  peer : Nat
  initiator : Bool
  kI2R : List Byte
  kR2I : List Byte
  ks : List Byte
  /-- highest counter accepted, by sending port -/
  rx : List (Nat × Nat) := []
  /-- packets sent, by sending port -/
  tx : List (Nat × Nat) := []
deriving DecidableEq, Repr

/-- A Nypoelo handshake under way (R384). -/
structure Handshake where
  /-- the FABKEY it serves -/
  core : Nat
  cmd : Nat
  vf : Nat
  peer : Nat
  initiator : Bool
  /-- last message sent or received -/
  step : Nat
  /-- every message so far -/
  transcript : List Byte
  nonce : List Byte
  point : List Byte
  peerPoint : List Byte := []
  peerChain : List Byte := []
  /-- the initiator's count of sessions opened, for the session number -/
  opened : Nat := 0
  peerOpen : Nat := 0
deriving DecidableEq, Repr

/-- A tenant's virtual queue in a cluster's collective engine (R269). -/
structure CollQueue where
  cluster : Nat
  vf : Nat
  weight : Nat := 1
  credit : Nat := 0
deriving DecidableEq, Repr

/-- An overrun register (Table 16-4), with whether an overrun was counted in the slot that is open. -/
structure Mrovr where
  /-- COUNT [32 bits; 16 R305; 0] -/
  count : Nat := 0
  /-- STREAK [3 bits; 16 R305; 0] -/
  streak : Nat := 0
  /-- MCE [1 bit; 16 R305; 0] -/
  mce : Bool := false
  hit : Bool := false
deriving DecidableEq, Repr

/-- An island of 128 cores (R4, R307, R308). -/
structure Island where
  /-- clock in units of 0.1 GHz, 10 to 20 [5 bits; 16 R307; DESIGN CHOICE 10] -/
  point : Nat := 10
  /-- operating point to take effect at the next long slot [5 bits; 16 R307; none] -/
  next : Option Nat := none
  /-- held while the point changes [1 bit; 16 R307; no] -/
  held : Bool := false
  /-- stopped by the thermal trip [1 bit; 16 R308; no] -/
  tripped : Bool := false
  /-- temperature below the release threshold again [1 bit; 16 R308; yes] -/
  cooled : Bool := true
deriving DecidableEq, Repr

/-- CXL port states (R389). -/
inductive CxlState where
  | down | training | active | error
deriving DecidableEq, Repr

/-- An Ethernet security association (R388). -/
structure EspSa where
  spi : Nat
  ctx : Nat
  egress : Bool
  ring : Word
  buffers : Nat
  next : Nat := 0
  /-- highest sequence number accepted or sent, and the anti-replay window below it -/
  seq : Nat := 0
  window : List Nat := []
deriving DecidableEq, Repr

/-- How far bring-up has come (Table 23-6): step 1, step 2, in the bring-up slot of step 3, past it, past step 4, past step 5. -/
inductive Boot where
  | measured | released | training | trained | synced | up
deriving DecidableEq, Repr

/-- Whether the timebase is synchronised: the calendar runs (R298). -/
def Boot.timed (b : Boot) : Bool := b == .synced || b == .up

/-- Whether the bring-up slot has closed. -/
def Boot.linked (b : Boot) : Bool := b == .trained || b.timed

/-- Exactly n bytes of a list, zeros behind it. -/
def sized (n : Nat) (bs : List Byte) : List Byte := (bs ++ List.replicate n 0#8).take n

/-- A measurement of the colophon (Table 22-1), those that firmware updates changed first. -/
def measurementOf (updated : List (Nat × List Byte)) (i : Nat) : List Byte :=
  ((updated.find? fun e => e.1 == i).map Prod.snd).getD (sized 48 (Config.measurement i))

/-- The seven measurements (R350). -/
def measurements (updated : List (Nat × List Byte)) : List Byte := (List.range 7).flatMap fun i => measurementOf updated (i + 1)

/-- The identity key's signature of the measurements. -/
def colophonSign (updated : List (Nat × List Byte)) : List Byte := sized 96 (Config.identitySign (measurements updated))

/-- An answer to the host: a read's bytes, a refusal, a status, or the bytes of a message (R352, R387). -/
inductive HostReply where
  | none
  | bytes (data : List Byte)
  | unsupported
  | status (code : Nat)
  | dropped
deriving DecidableEq, Repr

/-- Everything outside the cores. -/
structure Sys where
  /-- package timebase count [64 bits; 00 R4, 16 R299; 0] -/
  tick : Word := 0
  /-- tenths of a tick carried between clk of the core in focus [4 bits; the model's own, log entry 2; 0] -/
  tenths : Nat := 0
  /-- how far bring-up has come [6 states; 23 R390; step 1] -/
  boot : Boot := .measured
  /-- tick in which the bring-up slot opened [64 bits; 23 R390; 0] -/
  trainAt : Nat := 0
  /-- BOOTNONCE [16 bytes; 22 R350; drawn at reset] -/
  bootNonce : List Byte := []
  /-- the identity key's signature of the colophon [96 bytes; 22 R350; made at reset] -/
  signature : List Byte := []
  /-- PKG [10 bits; 23 R390; 0 until management sets it] -/
  pkg : Nat := 0
  /-- power cap in watts [13 bits; 23 R391; 4200] -/
  powerCap : Nat := 4200
  /-- firmware updates that wait for the next reset: index of Table 22-1, digest [list; 23 R392; none] -/
  firmware : List (Nat × List Byte) := []
  /-- measurements that an update has changed, kept over a reset: index, digest [7 x 48 bytes; 22 R350; as fused] -/
  measured : List (Nat × List Byte) := []
  /-- class of the slot that is open [2 bits; 16 R298; none] -/
  slotOpen : Option Nat := none
  /-- islands of 128 cores [16; 16 R307; 1.0 GHz] -/
  islands : Vector Island 16 := Vector.replicate 16 {}
  /-- overrun registers by resource: HBM controllers 0 to 11, die links 12 to 43, fabric ports 44 to 171, CXL ports
  172 to 175 [176 x 64 bits; 16 R305; 0] -/
  mrovr : List (Nat × Mrovr) := []
  /-- machine-check events raised, newest first [list; 16 R305, R308; none] -/
  mces : List Nat := []
  /-- CXL ports [4 x 2 bits; 23 R389; DOWN] -/
  cxl : Vector CxlState 4 := Vector.replicate 4 .down
  /-- queues by QNUM [8,192 x 256 bits; 10 R189; 0, DISABLED] -/
  queues : List (Nat × Queue) := []
  /-- doorbell map: (function x 512 + k, QNUM) [64 x 512; 10 R189, R190; none] -/
  doorbells : List (Nat × Nat) := []
  /-- launches in flight [list; 10 R193; none] -/
  launches : List Launch := []
  /-- gangs placed [list; 10 R195; none] -/
  gangs : List Gang := []
  /-- gangs saved, in the order they were saved [list; 20 R336; none] -/
  saved : List SavedGang := []
  /-- next number for launches and gangs, and next gang token [counts; the model's own, 19 R327; 1] -/
  nextId : Nat := 1
  nextToken : Nat := 1
  /-- beds assigned to functions: bed, function [128 beds; 09 R172, 23 R392; none] -/
  beds : List (Nat × Nat) := []
  /-- the function that holds each bed at this moment [128 beds; 09 R172; none] -/
  bedNow : List (Nat × Nat) := []
  /-- cores being zeroed for the next tenant [list; 22 R366; none] -/
  zeroing : List Nat := []
  /-- fault and notify records that wait for the ring [list; 19 R327; none] -/
  faults : List FaultRec := []
  /-- contexts [256; 23 R387; all fields 0] -/
  contexts : List (Nat × Context) := []
  /-- virtual functions [64; 22 R351, 23 R387; all as the lines of Vf] -/
  vfs : List (Nat × Vf) := []
  /-- ownership map by frame [one 64-bit entry per frame; 11 R213; FREE] -/
  frames : List (Nat × Frame) := []
  /-- storage by physical address, listing the bytes that are not zero, as plaintext [64 GiB steps and CXL; 11 R212;
  DESIGN CHOICE zero] -/
  mem : List Host.Cell := []
  /-- scrub map by frame: ZL bits [1,024 bits per frame; 22 R364; 0] -/
  zl : List (Nat × BitVec 1024) := []
  /-- counter blocks by 4 KiB group [64 bytes each; 22 R360; MAJOR 0, 1 once the bring-up scrub has passed the frame] -/
  ctrs : List (Nat × CtrBlock) := []
  /-- storage frames whose bring-up scrub is complete [1 bit per frame; 22 R364; none] -/
  clean : List Nat := []
  /-- onion COUNTs by child block, tree x 2^48 + level x 2^40 + child [56 bits each; 22 R362; 0] -/
  onion : List (Nat × Nat) := []
  /-- blocks that the metadata caches have still to write back, and the tick of each block's last write-back [lists;
  22 R362; none] -/
  metaDirty : List Nat := []
  metaBack : List (Nat × Nat) := []
  /-- lines whose error cannot be corrected [1 bit per line; 11 R219; none] -/
  eccBad : List Nat := []
  /-- lines whose tag does not verify [1 bit per line; 11 R220, 22 R363; none] -/
  tagBad : List Nat := []
  /-- counter blocks and onion nodes whose tag does not verify, numbered as in `onion` [list; 22 R363; none] -/
  nodeBad : List Nat := []
  /-- contexts whose tenant is to be quarantined for INTEG that a write of the dirty-page log met [list; 20 R345; none] -/
  owedQuar : List Nat := []
  /-- shared translation tables, most recently used first [8 x 16,384 entries; 11 R210; empty] -/
  tlbs : List (Nat × List TlbEntry) := []
  /-- walks, the first 64 of each cluster in progress [64 walkers per cluster; 11 R211; none] -/
  walks : List Walk := []
  /-- expansions under way [list; 11 R216; none] -/
  expansions : List Expansion := []
  /-- message entries sent and not yet accepted [list; 14 R264; none] -/
  msgs : List Msg := []
  /-- acknowledgements on their way [list; 14 R264; none] -/
  acks : List Ack := []
  /-- requests whose replies are to come [list; 01 R19; none] -/
  asks : List AskReq := []
  /-- steals at deque ports [list; 09 R183; none] -/
  dqReqs : List DqReq := []
  /-- ranks that have issued a collective not yet complete [list; 14 R266; none] -/
  colls : List CollRank := []
  /-- collectives issued so far, by core x 65,536 + handle [count; 14 R266; 0] -/
  collSeq : List (Nat × Nat) := []
  /-- the virtual queues of the collective engines [8 x 64; 14 R269; weight 1] -/
  collQueues : List CollQueue := []
  /-- key commands handed off [list; 22 R369; none] -/
  jobs : List KeyJob := []
  /-- sequence table (TID, LAST) [256 entries, kept over a reset; 22 R373; empty] -/
  seqTable : List (List Byte × Nat) := []
  /-- FLOOR [64 bits, kept over a reset; 22 R373; 0] -/
  floor : Nat := 0
  /-- open fabric sessions [64 per tenant; 23 R383; none] -/
  fabric : List FabSession := []
  /-- sessions opened as initiator since reset [22 bits; 23 R385; 0] -/
  fabOpened : Nat := 0
  /-- peer packages that no fabric path reaches, and the tick since which [list; 23 R385; none] -/
  noPath : List (Nat × Nat) := []
  /-- flits accepted: peer package, its port, data-link sequence number [list; 23 R380; none] -/
  flits : List (Nat × Nat × Nat) := []
  /-- data-link sequence number of the next flit of each port [count; 23 R380; DESIGN CHOICE 0] -/
  flitNext : List (Nat × Nat) := []
  /-- flits stored until the peer has them: port, sequence number, bytes [list; 23 R380; none] -/
  flitsKept : List (Nat × Nat × List Byte) := []
  /-- handshakes under way [list; 23 R384; none] -/
  shakes : List Handshake := []
  /-- security associations of the Ethernet port [list; 23 R388; none] -/
  esp : List EspSa := []
  /-- packets sent to a fabric peer or to Ethernet, newest first [list; 23 R381, R388; none] -/
  sent : List (List Byte) := []
  /-- the last answer to the host or to a requester [one; 22 R352, 23 R387; none] -/
  reply : HostReply := .none
deriving DecidableEq, Repr

end Sys2Proof.Machine
end

