-- ==== Sys2Proof/Machine/State.lean ====
section
/-! DEFINITION. The state of the module, what can stop it, and the state after reset. -/

namespace Sys2Proof.Machine

open Sys2Proof

/-- Why the machine stops with a fault. -/
inductive Fault where
  /-- Raised by `step` when the agenda or the focus names a core outside the 2,048 of R1. Safe: no such core exists. -/
  | noSuchCore (core : Nat)
deriving DecidableEq, Repr

/-- Why an instruction has no meaning. -/
inductive Refusal where
  /-- Raised by a dispatch arm whose meaning is still to be written. Safe: nothing is concluded of such a run. -/
  | notModelled (mnemonic : String)
deriving DecidableEq, Repr

/-- What comes about next: an event of the opcode table, one clk of a core, or time passing (log entry 2). -/
inductive Move where
  | event (i : Instr)
  | turn (core : Nat)
  | tick (n : Nat)
  /-- a core takes the value of n bytes before the load that will return it (R229) -/
  | early (core : Nat) (dva n : Nat)
  /-- a load returns a value that its core took before (R229) -/
  | useEarly (core id : Nat)
  /-- a metadata cache writes a counter block or a node back (R362) -/
  | writeBack (block : Nat)
  /-- a write or a read of a word of a core's debug mailbox, by a function's driver or by firmware (R339) -/
  | mail (vf : Option Nat) (core off : Nat) (value : Option Word)
  /-- a function's interface enters ERROR (R351) -/
  | tdispError (vf : Nat)
  /-- bring-up takes its next step that no event of the table is: 2, the start of 3, or 5 (Table 23-6) -/
  | bringUp
  /-- the fabric paths to a peer package are lost, or there is one again (R383, R385) -/
  | path (peer : Nat) (up : Bool)
  /-- a peer asks for a stored flit of a port again, or has it (R380) -/
  | resend (port seq : Nat)
  | stored (port seq : Nat)
  /-- the host reads bytes of a function's BAR0 (R387) -/
  | bar0Read (vf off n : Nat)
  /-- the host reads or writes BAR0 or BAR2 of a function without the T bit of its IDE stream (R387) -/
  | plainRequest (vf : Nat) (read : Bool)
  /-- a cluster controller chooses an island's next operating point (R307, R391) -/
  | operatingPoint (island point : Nat)
deriving DecidableEq, Repr

/-- A precise trap or fault that a slot raises (R18, R322, R324), with the reason code of an illegal bundle. -/
structure Raise where
  kind : Nat
  slot : Slot
  addr : Word := 0
  reason : Nat := 0
  /-- the access code of a fault record (Table 19-2) -/
  acc : Nat := 0
deriving DecidableEq, Repr

/-- What a bundle waits for while it is held at issue (R174, R177). -/
inductive Hold where
  | tfence | drain (scope : Nat)
  /-- BARA, BARS or ENQ waits for the accesses that its release orders (R230) -/
  | release (scope : Nat)
  | bara (tag : Nat) | barw (tag : Nat) | bars (tag : Nat)
  | waitx (sp : Bool) (addr : Word) (pa : Nat) (target : Word) (eq : Bool)
  | testx
  | steal (member : Nat) | enq (queue offset : Nat) | waitev (mask : Nat) (deadline : Word) | halt
  | untilClk (clk : Nat) | translate (ea : Word) (acc : Nat) | expand (frame : Nat) (start : Bool) (ea : Word) (subst : Nat) | log
  /-- the entry of the log ring that replay needs cannot be read: kind and address (Table 20-11) -/
  | logFault (kind dva : Nat)
deriving DecidableEq, Repr

/-- What a bundle does outside its core when it commits. -/
inductive Post where
  /-- a request to a cluster controller, a deque or the Amindaer whose reply lands in the result `id` (R19) -/
  | ask (id : Nat) (what : Ask)
  /-- a logged event of RECORD mode (Table 20-10) -/
  | log (event : Nat) (value : Word)
  /-- a log entry that replay takes, and one that it does not match (R342) -/
  | consume (index : Nat)
  | diverge (index : Nat)
  /-- CSRWR to SUBCNT, and lines that the bundle's own reads found substituted (R219) -/
  | subcnt (v : Word)
  | subst (lines : Nat)
  /-- an acquire at a scope (R230) -/
  | acquire (scope : Nat)
  /-- a translation that the bundle found in its cluster's table is the most recently used of it (R210) -/
  | shared (e : TlbEntry)
  /-- PREFG of an address (R98) -/
  | prefetch (ea : Word)
  /-- SCRUB of kind GANGSP marks its gang and counts its object (R375) -/
  | scrubGang (m : Cmd)
  /-- SPWAKE and SPGATE of groups (R69) -/
  | spWake (groups : List Nat)
  | spGate (groups : List Nat)
  /-- the value of a completion object in global memory that WAITX or TESTX has read, at an address (R228) -/
  | seen (pa : Nat)
  /-- a value that a completion object in scratchpad takes between two writes of the bundle, where it ends a WAITX (R184) -/
  | met (value : Word)
deriving DecidableEq, Repr

/-- The bundle being issued: `pre` is the core as the bundle reads it, `cur` the core as its slots leave it. The core
itself changes only when the bundle commits (R17). The model's own. -/
structure Bun where
  core : Nat := 0
  hnd : Bool := false
  hdr : Word := 0
  words : Nat := 0
  pre : Core := {}
  cur : Core := {}
  raised : List Raise := []
  /-- a taken transfer's target -/
  target : Option Word := none
  /-- whether the bundle cannot issue yet (R16, R174): it tries again in a later clk -/
  stall : Bool := false
  hold : Option Hold := none
  /-- what the bundle was already held for, newest first -/
  was : List Hold := []
  /-- the answer that a held bundle waited for: a value, and success -/
  answer : Option (Word × Bool) := none
  /-- walks that the bundle waited for and that faulted: 4 KiB page and kind -/
  xlf : List (Nat × Nat) := []
  post : List Post := []
  /-- flags that landed in this clk: slot, flags, header (R59) -/
  landed : List (Slot × FlagSet × Word) := []
  /-- gated scratchpad groups that the bundle's accesses wake (R200) -/
  wake : List Nat := []
  /-- clk and tick in which the bundle was first issued, and the core's next number then -/
  since : Nat := 0
  tick : Word := 0
  first : Nat := 0
  /-- where a handler run has started while the bundle is held: the core from which its slots but CTL take what they do in
  memory and engines, which the core itself has already (R174, log entry 24); and whether its SMSGT has sent by then -/
  mem : Option Core := none
  sent : Bool := false
  /-- whether a `.c` operation holds the bundle, so that every result counts its latency from the commit (R128) -/
  coal : Bool := false
  /-- handler runs ended when a held bundle was first issued (R185) -/
  runs : Nat := 0
  /-- p10 to p15 are written for the innermost entry after every write of the bundle (R51, R62) -/
  stages : Bool := false
  /-- p10 to p15 become false after every write of the bundle (R48) -/
  clears : Bool := false
  /-- break code of a DBGBRK that halts the core (R72) -/
  brk : Option Nat := none
  /-- HALT, HNDRET or YIELD commits with the bundle -/
  halts : Bool := false
  hndret : Bool := false
  yields : Bool := false
deriving DecidableEq, Repr

/-- A bundle held at issue (R174): its core as read at issue and what it waits for. -/
structure Held where
  core : Nat
  hnd : Bool
  hdr : Word
  pre : Core
  hold : Hold
  /-- what it was held for before, newest first -/
  was : List Hold := []
  /-- clk and tick in which it was first issued, and the core's next number then -/
  since : Nat := 0
  tick : Word := 0
  first : Nat := 0
  /-- the core as it stood before what the bundle does in memory and engines was done ahead of a handler run (R174), and
  whether its SMSGT has sent by then -/
  mem : Option Core := none
  sent : Bool := false
  coal : Bool := false
  /-- HNDRET count at issue, for WAITEV (R185) -/
  runs : Nat := 0
  answer : Option (Word × Bool) := none
  xlf : List (Nat × Nat) := []
deriving DecidableEq, Repr

/-- The module. -/
structure State where
  /-- the cores that differ from their reset state, by number [2,048 cores; 00 R1; all as Core's reset] -/
  cores : List (Nat × Core) := []
  /-- moves still to come; empty: the core in focus takes its turns [list; the model's own, log entry 2; empty] -/
  agenda : List Move := []
  /-- the core whose clk passes when the agenda is empty [11 bits; the model's own, log entry 2; DESIGN CHOICE 0] -/
  focus : Nat := 0
  /-- the bundle being issued [one bundle; the model's own, 01 R17; none] -/
  bun : Bun := {}
  /-- bundles held at issue [one per sequencer; 09 R174; none] -/
  held : List Held := []
  /-- counter of free values drawn [count; the model's own; DESIGN CHOICE 1, one being drawn at reset] -/
  free : Nat := 0
  /-- everything outside the cores -/
  sys : Sys := {}
deriving DecidableEq, Repr

/-- The module right after reset (R12, R390): every field at its reset value, a BOOTNONCE drawn and the colophon signed
(R350). -/
def State.reset : State := { free := 1, sys := { bootNonce := sized 16 (Config.freeBytes 0), signature := colophonSign [] } }

end Sys2Proof.Machine
end

