-- ==== Sys2Proof/Machine/Ops.lean ====
section
/-! DEFINITION. The named operations over memory, registers, flags and the bundle in flight. -/

namespace Sys2Proof.Machine

open Sys2Proof

/-! ### Sparse maps and memory -/

/-- The value under a key of a sorted list, or the default. -/
def mget {α : Type} (d : α) : List (Nat × α) → Nat → α
  | [], _ => d
  | (j, w) :: r, k => if j = k then w else mget d r k

/-- A sorted list with the value under a key replaced. -/
def mput {α : Type} : List (Nat × α) → Nat → α → List (Nat × α)
  | [], k, v => [(k, v)]
  | (j, w) :: r, k, v =>
    if k < j then (k, v) :: (j, w) :: r else if k = j then (k, v) :: r else (j, w) :: mput r k v

/-- A sorted list without a key. -/
def mdel {α : Type} : List (Nat × α) → Nat → List (Nat × α)
  | [], _ => []
  | (j, w) :: r, k => if j = k then r else (j, w) :: mdel r k

/-- What a byte of memory that nothing has written reads as: zero (log entry 4). -/
def unlisted : Byte := 0#8

/-- One byte of a memory. -/
def readByte (m : List Host.Cell) (a : Nat) : Byte := mget unlisted m a

/-- Writing one byte; a byte that reads as an unlisted one is not listed. -/
def writeByte (m : List Host.Cell) (a : Nat) (v : Byte) : List Host.Cell :=
  match m with
  | [] => if v = unlisted then [] else [(a, v)]
  | (j, w) :: r =>
    if a < j then (if v = unlisted then (j, w) :: r else (a, v) :: (j, w) :: r)
    else if a = j then (if v = unlisted then r else (a, v) :: r)
    else (j, w) :: writeByte r a v

/-- Keys rise strictly from a lower bound, and no listed byte is zero. -/
def wfFrom (lo : Nat) : List Host.Cell → Bool
  | [] => true
  | (j, w) :: r => decide (lo ≤ j) && decide (w ≠ unlisted) && wfFrom (j + 1) r

/-- The canonical form of a memory. -/
def Memory.wf (m : List Host.Cell) : Bool := wfFrom 0 m

/-- The little-endian number of n bytes from an address. -/
def readN (m : List Host.Cell) (a : Nat) : Nat → Nat
  | 0 => 0
  | n + 1 => (readByte m a).toNat + 256 * readN m (a + 1) n

/-- The bytes from an address. -/
def readBytes (m : List Host.Cell) (a : Nat) : Nat → List Byte
  | 0 => []
  | n + 1 => readByte m a :: readBytes m (a + 1) n

/-- Writing bytes from an address. -/
def writeBytes (m : List Host.Cell) (a : Nat) : List Byte → List Host.Cell
  | [] => m
  | b :: bs => writeBytes (writeByte m a b) (a + 1) bs

/-- Writing the low n bytes of a number. -/
def writeN (m : List Host.Cell) (a n v : Nat) : List Host.Cell := writeBytes m a (natToBytes n v)

/-! ### Kind codes (Table 19-1) -/

def kRUNOVF : Nat := 0x01
def kLENMIS : Nat := 0x02
def kEMPTY : Nat := 0x03
def kUNALIGN : Nat := 0x04
def kTRAPI : Nat := 0x05
def kARITH : Nat := 0x06
def kXLATE : Nat := 0x10
def kPOOLEMPTY : Nat := 0x11
def kCXLBUSY : Nat := 0x12
def kILLB : Nat := 0x20
def kPRIV : Nat := 0x21
def kFMTMIS : Nat := 0x22
def kPKDACC : Nat := 0x23
def kPROT : Nat := 0x24
def kOWN : Nat := 0x25
def kINTEG : Nat := 0x26
def kUNCOR : Nat := 0x27
def kSPSOFT : Nat := 0x28
def kPREEMPTKILL : Nat := 0x29

/-- The order in which a bundle reports its precise kinds (R18, R324). -/
def kindOrder : List Nat :=
  [kILLB, kPRIV, kEMPTY, kPROT, kOWN, kPKDACC, kFMTMIS, kUNALIGN, kLENMIS, kRUNOVF, kXLATE, kPOOLEMPTY, kCXLBUSY]

/-- Kinds that a bundle meets and that end the launch once it has committed (Table 19-1, R323). -/
def lateKinds : List Nat := [kSPSOFT, kUNCOR, kINTEG]

/-! ### Cores and banks -/

/-- A core of the module. -/
def State.coreOf (s : State) (k : Nat) : Core := mget {} s.cores k

def State.setCore (s : State) (k : Nat) (c : Core) : State := { s with cores := mput s.cores k c }

def State.onCore (s : State) (k : Nat) (g : Core → Core) : State := s.setCore k (g (s.coreOf k))

/-- The bank of a sequencer. -/
def Core.bank (c : Core) (hnd : Bool) : Bank := if hnd then c.hnd else c.main

def Core.setBank (c : Core) (hnd : Bool) (b : Bank) : Core := if hnd then { c with hnd := b } else { c with main := b }

/-- A register of a bank; x0 and y0 read as zero (R10). The run files and predicates read as zero here. -/
def Bank.reg (b : Bank) (file : RFile) (n : Nat) : Word :=
  match file with
  | .x => if n = 0 then 0#64 else b.x.toList.getD n 0#64
  | .y => if n = 0 then 0#64 else b.y.toList.getD n 0#64
  | .a => b.a.toList.getD n 0#64
  | .b => b.b.toList.getD n 0#64
  | .e => b.e.toList.getD n 0#64
  | .v | .w | .p => 0#64

/-- Writing a register of a bank; writes of x0 and y0 are discarded (R10). -/
def Bank.setReg (b : Bank) (file : RFile) (n : Nat) (v : Word) : Bank :=
  match file with
  | .x => if n = 0 then b else { b with x := b.x.setIfInBounds n v }
  | .y => if n = 0 then b else { b with y := b.y.setIfInBounds n v }
  | .a => { b with a := b.a.setIfInBounds n v }
  | .b => { b with b := b.b.setIfInBounds n v }
  | .e => { b with e := b.e.setIfInBounds n v }
  | .v | .w | .p => b

/-- A predicate; p0 reads as true (R10). -/
def Bank.pred (b : Bank) (n : Nat) : Bool := n == 0 || b.preds.getLsbD n

/-- Writing a predicate; a write of p0 is discarded (R10). -/
def Bank.setPred (b : Bank) (n : Nat) (v : Bool) : Bank :=
  if n = 0 ∨ 16 ≤ n then b
  else { b with preds := if v then b.preds ||| (1#16 <<< n) else b.preds &&& ~~~ (1#16 <<< n) }

/-- All sixteen predicates, p0 true. -/
def Bank.predWord (b : Bank) : BitVec 16 := b.preds ||| 1#16

/-- A register of a core as a sequencer names it. -/
def Core.reg (c : Core) (hnd : Bool) (file : RFile) (n : Nat) : Word := (c.bank hnd).reg file n

def Core.setReg (c : Core) (hnd : Bool) (file : RFile) (n : Nat) (v : Word) : Core :=
  c.setBank hnd ((c.bank hnd).setReg file n v)

def Core.pred (c : Core) (hnd : Bool) (n : Nat) : Bool := (c.bank hnd).pred n

def Core.setPred (c : Core) (hnd : Bool) (n : Nat) (v : Bool) : Core := c.setBank hnd ((c.bank hnd).setPred n v)

/-- A run register of the v or w file. -/
def Core.runReg (c : Core) (file : RFile) (n : Nat) : RunReg :=
  match file with
  | .v => c.v.toList.getD n {}
  | .w => c.w.toList.getD n {}
  | _ => {}

def Core.setRun (c : Core) (file : RFile) (n : Nat) (r : RunReg) : Core :=
  match file with
  | .v => { c with v := c.v.setIfInBounds n r }
  | .w => { c with w := c.w.setIfInBounds n r }
  | _ => c

/-- Whether a file is a run file, which the main sequencer alone has. -/
def isRunFile : RFile → Bool
  | .v | .w => true
  | _ => false

/-- Writing a result into its register. -/
def Core.writeVal (c : Core) (hnd : Bool) (file : RFile) (n : Nat) (v : RegVal) : Core :=
  match v with
  | .word w => c.setReg hnd file n w
  | .run r => c.setRun file n r

/-! ### Results in flight (R14, R15) -/

/-- Whether a result in flight names the register of this sequencer. -/
def Pend.names (p : Pend) (hnd : Bool) (file : RFile) (n : Nat) : Bool :=
  p.dst == some (file, n) && (isRunFile file || p.hnd == hnd)

/-- Whether a register is empty (R14). -/
def Core.isEmpty (c : Core) (hnd : Bool) (file : RFile) (n : Nat) : Bool := c.pend.any fun p => p.names hnd file n

/-- Whether a destination is discarded (R10). -/
def discards (file : RFile) (n : Nat) : Bool := n == 0 && (file == .x || file == .y || file == .p)

/-- A result issued in the present clk with a latency, or with none fixed (R14, R15, R19). A latency of 1 into a full
register writes at once; every other result is in flight until it lands. Its flags land with it (R57). The answer is
the core and the number of the result. -/
def Core.produce (c : Core) (hnd : Bool) (slot : Slot) (hdr : Word) (opc : Nat) (file : RFile) (n : Nat)
    (lat : Option Nat) (v : RegVal) (fl : FlagSet) : Core :=
  let due := lat.map fun l => c.clk + l
  let id := c.nextId
  let c := { c with nextId := id + 1 }
  if discards file n then
    if fl = 0 then c else { c with pend := c.pend ++ [⟨id, hnd, slot, hdr, opc, none, due, v, fl⟩] }
  else if lat = some 1 ∧ !(c.isEmpty hnd file n) then
    let c := c.writeVal hnd file n v
    if fl = 0 then c else { c with pend := c.pend ++ [⟨id, hnd, slot, hdr, opc, none, due, v, fl⟩] }
  else { c with pend := c.pend ++ [⟨id, hnd, slot, hdr, opc, some (file, n), due, v, fl⟩] }

/-- Whether a result may land: its clk has come and no earlier result stands before it for its register (R15). -/
def Pend.lands (clk : Nat) (held : List (Bool × RFile × Nat)) (p : Pend) : Bool :=
  (match p.due with
    | some d => decide (d ≤ clk)
    | none => false)
  && (match p.dst with
    | some (file, n) => !(held.contains (p.hnd && !isRunFile file, file, n))
    | none => true)

/-- Landing every result due: those left in flight, the core, and the flags that landed. A register takes one result
in a clk (R15). -/
def landGo (clk : Nat) : List Pend → List (Bool × RFile × Nat) → Core → List Pend → List (Slot × FlagSet × Word) →
    Core × List (Slot × FlagSet × Word)
  | [], _, c, kept, fl => ({ c with pend := kept }, fl)
  | p :: ps, held, c, kept, fl =>
    let held' := match p.dst with
      | some (file, n) => (p.hnd && !isRunFile file, file, n) :: held
      | none => held
    if p.lands clk held then
      let c := match p.dst with
        | some (file, n) => c.writeVal p.hnd file n p.val
        | none => c
      landGo clk ps held' c kept (if p.flags = 0 then fl else fl ++ [(p.slot, p.flags, p.hdr)])
    else landGo clk ps held' c (kept ++ [p]) fl

/-! ### Sticky flags (R57, R58) -/

/-- Flags of a slot in the 64-bit layout of R57. -/
def flagWord (k : Slot) (f : FlagSet) : Word := (f.setWidth 64) <<< (8 * k.num)

/-- The lowest bit set of a flag byte. -/
def lowFlag (f : FlagSet) : Nat := ctzAux (f.setWidth 64) 8 0

/-- The first of several events of one clk: the lowest slot, then the lowest flag (R58). -/
def firstEvent : List (Slot × FlagSet × Word) → Option (Slot × Nat × Word)
  | [] => none
  | (k, f, h) :: rest =>
    match firstEvent rest with
    | none => some (k, lowFlag f, h)
    | some (k', b', h') =>
      if k.num < k'.num ∨ (k.num = k'.num ∧ lowFlag f ≤ b') then some (k, lowFlag f, h) else some (k', b', h')

/-- Flags landing in one clk. -/
def Core.stick (c : Core) (fl : List (Slot × FlagSet × Word)) : Core :=
  let w := fl.foldl (fun a e => a ||| flagWord e.1 e.2.1) c.flags
  match firstEvent fl with
  | none => c
  | some (k, b, h) =>
    if c.firstev.getLsbD 63 then { c with flags := w }
    else { c with flags := w, firstev := BitVec.ofNat 64 (2 ^ 63 + b * 2 ^ 8 + k.num), firstpc := h &&& 0x00FFFFFFFFFFFFFF#64 }

/-- The start of a core's clk: results due land and their flags are set. -/
def Core.land (c : Core) : Core × List (Slot × FlagSet × Word) :=
  let r := landGo c.clk c.pend [] c [] []
  (r.1.stick r.2, r.2)

/-- One clk passing without issue, as in the bubble of a taken transfer or a trap (R45, R60). -/
def Core.bubble (c : Core) : Core := ({ c with clk := c.clk + 1 }.land).1

/-- A reply that sets a result's clk (R19): it lands `after` clk from now. -/
def Core.reply (c : Core) (id : Nat) (after : Nat) (v : RegVal) (fl : FlagSet) : Core :=
  { c with pend := c.pend.map fun p =>
      if p.id = id then { p with due := some (c.clk + after), val := v, flags := p.flags ||| fl } else p }

/-! ### The bundle in flight -/

/-- The core that the bundle's slots leave. -/
def State.onCur (s : State) (g : Core → Core) : State := { s with bun := { s.bun with cur := g s.bun.cur } }

/-- Whether an instruction performs: p(G) XOR GN, read from before the bundle (Table 2-2, R17). -/
def guardOf (f : Fields) (s : State) : Bool := (s.bun.pre.pred s.bun.hnd f.g.toNat) != f.gn

/-- A slot instruction: nothing when its guard is false, else its effect on the bundle in flight. -/
def onGuard (f : Fields) (s : State) (body : State → State) : Host.Outcome State Fault Refusal :=
  .next (if guardOf f s then body s else s)

/-- A register as it stood before the bundle (R17). -/
def State.rd (s : State) (file : RFile) (n : Nat) : Word := s.bun.pre.reg s.bun.hnd file n

/-- A run register as it stood before the bundle. -/
def State.rdRun (s : State) (file : RFile) (n : Nat) : RunReg := s.bun.pre.runReg file n

/-- A predicate as it stood before the bundle. -/
def State.rdPred (s : State) (n : Nat) : Bool := s.bun.pre.pred s.bun.hnd n

/-- A result of the issuing instruction. -/
def State.result (s : State) (f : Fields) (opc : Nat) (file : RFile) (n : Nat) (lat : Option Nat) (v : RegVal)
    (fl : FlagSet) : State :=
  s.onCur fun c => c.produce s.bun.hnd f.slot s.bun.hdr opc file n lat v fl

/-- A predicate result: latency 1 (R14). -/
def State.setP (s : State) (n : Nat) (v : Bool) : State := s.onCur fun c => c.setPred s.bun.hnd n v

/-- Flags without a register: they land a latency later in the issuing slot's byte. -/
def State.flagsIn (s : State) (f : Fields) (opc lat : Nat) (fl : FlagSet) : State :=
  if fl = 0 then s
  else s.onCur fun c =>
    { c with nextId := c.nextId + 1,
             pend := c.pend ++ [⟨c.nextId, s.bun.hnd, f.slot, s.bun.hdr, opc, none, some (c.clk + lat), .word 0, fl⟩] }

/-- A precise trap or fault of the issuing instruction. -/
def State.raise (s : State) (f : Fields) (kind : Nat) (addr : Word := 0) (reason : Nat := 0) (acc : Nat := 0) : State :=
  { s with bun := { s.bun with raised := s.bun.raised ++ [⟨kind, f.slot, addr, reason, acc⟩] } }

/-- The bundle cannot issue in this clk. -/
def State.stalls (s : State) : State := { s with bun := { s.bun with stall := true } }

/-- How early a hold comes among those of one bundle: what its accesses need, then the clk of a trap, then the rest. -/
def Hold.rank : Hold → Nat
  | .translate _ _ | .expand _ _ _ _ => 2
  | .untilClk _ => 1
  | _ => 0

/-- Whether a hold takes the place of an earlier one of its bundle. -/
def Hold.replaces (h old : Hold) : Bool :=
  old.rank < h.rank || (match h, old with
    | .untilClk a, .untilClk b => b < a
    | _, _ => h.rank == 0 && old.rank == 0)

/-- The bundle is held at issue. -/
def State.holds (s : State) (h : Hold) : State :=
  { s with bun := { s.bun with hold := match s.bun.hold with
      | none => some h
      | some old => some (if h.replaces old then h else old) } }

/-- Something the bundle does outside its core when it commits. -/
def State.post (s : State) (p : Post) : State := { s with bun := { s.bun with post := s.bun.post ++ [p] } }

/-- The number of slots in flight for the next result, needed to name a reply. -/
def State.nextResult (s : State) : Nat := s.bun.cur.nextId

/-- One free value index; the counter advances (log entry 5). -/
def State.draw (s : State) : Nat × State := (s.free, { s with free := s.free + 1 })

/-! ### Taking a trap and returning from it (R60 to R62, R325) -/

/-- Whether a program-level trap reaches the kernel's handler: the main sequencer raised it, a handler is set and none is
running (R60). -/
def Core.traps (c : Core) (hnd : Bool) : Bool := !hnd && c.trapvec != 0#64 && !c.intrap

/-- TakeTrap (R60): the resume point, kind, slots, depth and address are saved, INTRAP is set and the handler is next. -/
def Core.takeTrap (c : Core) (kind slots : Nat) (addr resume : Word) (depth : Nat) : Core :=
  { c with trappc := resume,
           traprec := BitVec.ofNat 64 (kind + slots * 2 ^ 8 + depth * 2 ^ 16),
           trapaddr := addr,
           intrap := true,
           main := { c.main with pc := c.trapvec } }

/-- Loop entries frozen at the entry of the trap handler that runs (R61). -/
def Core.frozen (c : Core) (hnd : Bool) : Nat := if !hnd && c.intrap then c.traprec.toNat / 2 ^ 16 % 8 else 0

/-- ERET's return (R62): the handler is left, and TRAPPC is next. -/
def Core.leaveTrap (c : Core) : Core := { c with intrap := false, main := { c.main with pc := c.trappc } }

/-! ### Context of the issuing core -/

def Core.vfOf (c : Core) : Nat := c.launch.toNat / 2 ^ 21 % 64
def Core.recording (c : Core) : Bool := c.launch.getLsbD 49
def Core.member (c : Core) : Nat := c.gang.toNat % 2 ^ 11
def Core.gangSize (c : Core) : Nat := c.gang.toNat / 2 ^ 11 % 2 ^ 12
def Core.gangTags (c : Core) : Nat := c.gang.toNat / 2 ^ 23 % 2 ^ 4
def Core.gangClusters (c : Core) : Nat := c.gang.toNat / 2 ^ 27 % 2 ^ 4
def Core.gidx (c : Core) : Nat := c.gang.toNat / 2 ^ 32

/-- Whether every engine command of a core is complete (R71). -/
def Core.enginesIdle (c : Core) : Bool := c.cmds.all (fun m => m.eng == .mark) && c.mats.isEmpty && c.keys.isEmpty

/-- STATUS (Table 3-9). -/
def Core.status (c : Core) (hnd : Bool) : Word :=
  BitVec.ofNat 64 ((if c.modeS then 1 else 0) + (if c.hen then 4 else 0) + (if c.intrap then 8 else 0)
    + (c.bank hnd).loops.length * 16)

def State.context (s : State) (k : Nat) : Context := mget {} s.sys.contexts k
def State.onContext (s : State) (k : Nat) (g : Context → Context) : State :=
  { s with sys := { s.sys with contexts := mput s.sys.contexts k (g (s.context k)) } }
def State.vf (s : State) (k : Nat) : Vf := mget {} s.sys.vfs k
def State.onVf (s : State) (k : Nat) (g : Vf → Vf) : State :=
  { s with sys := { s.sys with vfs := mput s.sys.vfs k (g (s.vf k)) } }
def State.queueOf (s : State) (k : Nat) : Queue := mget {} s.sys.queues k
def State.onQueue (s : State) (k : Nat) (g : Queue → Queue) : State :=
  { s with sys := { s.sys with queues := mput s.sys.queues k (g (s.queueOf k)) } }

/-- The launch or gang of a number. -/
def State.launchOf (s : State) (id : Nat) : Option Launch := s.sys.launches.find? fun l => l.id == id
def State.gangOf (s : State) (id : Nat) : Option Gang := s.sys.gangs.find? fun g => g.id == id
def State.onLaunch (s : State) (id : Nat) (g : Launch → Launch) : State :=
  { s with sys := { s.sys with launches := s.sys.launches.map fun l => if l.id = id then g l else l } }
def State.onGang (s : State) (id : Nat) (g : Gang → Gang) : State :=
  { s with sys := { s.sys with gangs := s.sys.gangs.map fun x => if x.id = id then g x else x } }

/-- The clock of a core's island in units of 0.1 GHz (R307). -/
def State.pointOf (s : State) (k : Nat) : Nat := (s.sys.islands.toList.getD (k / 128) {}).point

/-- Whether a core's island is held or tripped: all its state is kept (R307, R308). -/
def State.islandHeld (s : State) (k : Nat) : Bool :=
  let i := s.sys.islands.toList.getD (k / 128) {}
  i.held || i.tripped

/-- The gang that holds a core. -/
def State.gangAt (s : State) (core : Nat) : Option Gang :=
  match (s.coreOf core).placed with
  | none => none
  | some id => s.gangOf id

/-- The core that holds a member of a core's gang. -/
def State.memberCore (s : State) (core m : Nat) : Option Nat :=
  match s.gangAt core with
  | none => none
  | some g => g.cores[m]?

end Sys2Proof.Machine
end

