-- ==== Sys2Proof/Machine/Load.lean ====
section
/-! DEFINITION. The machine with one instruction ready to be fetched: what a launch from outside brings about (log entry
13). -/

namespace Sys2Proof.Machine

open Sys2Proof

/-- Sixteen words of a line that holds a header and an instruction's words at its start, then empty bundles. -/
def loadedLine (hdr : BitVec 32) (ws : List (BitVec 32)) : List (BitVec 32) :=
  ((hdr :: ws) ++ List.replicate 16 0xB4000000#32).take 16

/-- The header and words of the instruction that a table word stands for; its other words are left out by its length. -/
noncomputable def loadedWords (nbits w : Nat) : BitVec 32 × List (BitVec 32) :=
  match decodeTableWord nbits w with
  | none => (0xB4000001#32, tableWords w)
  | some i => match i.slotPart with
    | none => (0xB4000001#32, tableWords w)
    | some (_, f) => (headerFor f.slot, (tableWords w).take f.len.words)

/-- The gang of one core and its launch that hold core 0. -/
def loadedGang (s : Sys) : Sys :=
  let l : Launch := { id := s.nextId, queue := 0, slot := 0, vf := 0, ctx := 0, s := false, record := false, code := 0,
                      args := 0, formes := [], gsize := 1, tags := 0, gcount := 1, mqbase := 0, mqsize := 0, trapvec := 0,
                      done := 0, inc := 0, nextGang := 1 }
  let g : Gang := { id := s.nextId + 1, launch := s.nextId, gidx := 0, token := s.nextToken, tags := 0, cores := [0] }
  { s with launches := s.launches ++ [l], gangs := s.gangs ++ [g], nextId := s.nextId + 2, nextToken := s.nextToken + 1 }

/-- Core 0 in focus, the one member of a gang, with the instruction alone in a bundle of its instruction cache. -/
noncomputable def State.load (s : State) (nbits w : Nat) : State :=
  let c := s.coreOf 0
  let line := c.main.pc &&& 0x00FFFFFFFFFFFFC0#64
  let ws := loadedWords nbits w
  let c := { c with placed := some (s.sys.nextId + 1), gang := 0x08000800#64, departed := false, parked := false,
                    stopped := none, run := none, hen := false, dbg := {}, main := { c.main with pc := line },
                    icache := [⟨line, loadedLine ws.1 ws.2⟩] }
  { s.setCore 0 c with agenda := [], focus := 0, held := s.held.filter fun h => h.core ≠ 0, sys := loadedGang s.sys }

end Sys2Proof.Machine
end

