-- ==== Sys2Proof/Machine/Calendar.lean ====
section
/-! DEFINITION. The make-ready calendar (R298 to R306). -/

namespace Sys2Proof.Machine

open Sys2Proof

/-- Ticks of a period (R298). -/
def periodTicks : Nat := 3904

/-- Class and length of a period's slot (Table 16-1). -/
def slotOf (p : Nat) : Option (Nat × Nat) :=
  let m := p % 65536
  if m = 0 then some (2, 24576)
  else if m ≤ 6 then none
  else if p % 64 = 0 then some (1, 1408)
  else some (0, 352)

/-- The slot open at a tick: class and ticks left. -/
def slotAt (t : Nat) : Option (Nat × Nat) :=
  let p := t / periodTicks
  let r := p - p % 65536
  if t < r * periodTicks + 24576 then some (2, r * periodTicks + 24576 - t)
  else match slotOf p with
    | some (k, n) => if t < p * periodTicks + n then some (k, p * periodTicks + n - t) else none
    | none => none

/-- The first period after p whose slot has a class (3: any). -/
def nextPeriod (k p : Nat) : Nat :=
  if k = 2 then (p / 65536 + 1) * 65536
  else if k = 1 then
    let q := (p / 64 + 1) * 64
    if q % 65536 = 0 then q + 64 else q
  else
    ((List.range 16).find? fun i => match slotOf (p + 1 + i) with
      | some (c, _) => k = 3 || c = k
      | none => false).getD 0 + p + 1

/-- Opening tick, class and length of the next slot of a class to open after a tick. -/
def nextSlot (k t : Nat) : Nat × Nat × Nat :=
  let q := nextPeriod k (t / periodTicks)
  match slotOf q with
  | some (c, n) => (q * periodTicks, c, n)
  | none => (q * periodTicks, 0, 0)

/-- SLOTQ's value (R68). -/
def slotq (t k : Nat) : Word :=
  let pack (wait span cls : Nat) : Word := BitVec.ofNat 64 (wait + span * 2 ^ 32 + cls * 2 ^ 48)
  let next : Word :=
    let (o, c, n) := nextSlot k t
    pack (o - t) n c
  match slotAt t with
  | some (c, left) => if k = 3 ∨ c = k then pack 0 left c else next
  | none => next

end Sys2Proof.Machine
end

