-- ==== Sys2Proof/Machine/Operands.lean ====
section
/-! DEFINITION. Operand forms: how each form reads A, B and C, and how results are written (Tables 2-3, 3-1, 4-1, 4-5,
7-1, 9-3, 14-1). -/

namespace Sys2Proof.Machine

open Sys2Proof

/-- Register A of the issuing slot's own file. -/
def opA (f : Fields) (s : State) : Word := s.rd f.slot.file f.a.toNat

/-- Register B of the issuing slot's own file. -/
def opBReg (f : Fields) (s : State) : Word := s.rd f.slot.file f.b.toNat

/-- Register C of the issuing slot's own file. -/
def opC (f : Fields) (s : State) : Word := s.rd f.slot.file f.c.toNat

def immI16 (f : Fields) : Word := f.i16.signExtend 64
def immL32 (f : Fields) : Word := f.l32.signExtend 64
def immZ32 (f : Fields) : Word := f.l32.setWidth 64

/-- Operand B of forms A and P: a register, sext64(I16) or sext64(L32) (R35). -/
def opBA (f : Fields) (s : State) : Word :=
  match f.len with
  | .one => opBReg f s
  | .two => immI16 f
  | .three => immL32 f

/-- Operand B of form W: a register, or sext64(L32) (Table 2-3). -/
def opBW (f : Fields) (s : State) : Word :=
  match f.len with
  | .three => immL32 f
  | _ => opBReg f s

/-- Operand B of form F: a register, or the binary32 bits of L32 zero-extended (Table 2-3). -/
def opBF (f : Fields) (s : State) : Word :=
  match f.len with
  | .three => immZ32 f
  | _ => opBReg f s

/-- The literal of form K. -/
def litK (f : Fields) : Word :=
  match f.len with
  | .two => immI16 f
  | _ => immL32 f

/-- Register A of the x file, through CTL's cross read (R44). -/
def opXA (f : Fields) (s : State) : Word := s.rd .x f.a.toNat
def opXB (f : Fields) (s : State) : Word := s.rd .x f.b.toNat

/-- Register A or C of the file that SC names (R38). -/
def opASc (f : Fields) (s : State) : Word := s.rd (fileOfCode f.slot.file f.sc) f.a.toNat
def opCSc (f : Fields) (s : State) : Word := s.rd (fileOfCode f.slot.file f.sc) f.c.toNat

/-- Run registers A, B, C of the slot's own file. -/
def runA (f : Fields) (s : State) : RunReg := s.rdRun f.slot.file f.a.toNat
def runBReg (f : Fields) (s : State) : RunReg := s.rdRun f.slot.file f.b.toNat
def runC (f : Fields) (s : State) : RunReg := s.rdRun f.slot.file f.c.toNat

/-- A literal B: one slug whose value comes from L32, read by A's tag (R137, Table 2-3). -/
def runLit (f : Fields) (a : RunReg) : RunReg :=
  .one a.tag (if a.tag = tagS64 ∨ a.tag = tagM64 then immL32 f else immZ32 f)

/-- Operand B of form V: a run register, or the literal. -/
def runB (f : Fields) (s : State) : RunReg :=
  match f.len with
  | .three => runLit f (runA f s)
  | _ => runBReg f s

/-- The mask: register C when MSK is set (R136). -/
def runMask (f : Fields) (s : State) : Option RunReg := if f.i16.getLsbD 15 then some (runC f s) else none

/-- The offset of form M: sext64(I16) with length 2, sext64(L32) with length 3 (R84). -/
def offM (f : Fields) : Word :=
  match f.len with
  | .two => immI16 f
  | _ => immL32 f

/-- The offset of an atomic or wide-cell instruction: sext64(L32) with length 3, else none. -/
def offMA (f : Fields) : Word :=
  match f.len with
  | .three => immL32 f
  | _ => 0#64

/-- The rounding mode of RM, without a draw. -/
def rmode (f : Fields) : RMode := RMode.ofCode f.rm.toNat 0

/-- Writing a scalar result into D of the slot's own file. -/
def writeD (f : Fields) (opc lat : Nat) (v : Word) (fl : FlagSet) (s : State) : State :=
  s.result f opc f.slot.file f.d.toNat (some lat) (.word v) fl

/-- Writing an x register from CTL by the cross path (R44). -/
def writeX (f : Fields) (opc lat : Nat) (v : Word) (s : State) : State :=
  s.result f opc .x f.d.toNat (some lat) (.word v) 0

/-- The number of slugs of a result or source that its latency counts: ⌈P/16⌉ (R134). -/
def sixteenths (p : Nat) : Nat := (p + 15) / 16

/-- MODQ by index as the bundle reads it (R80). -/
def modqOf (s : State) (k : Nat) : Nat := (s.bun.pre.modq.toList.getD k 3#64).toNat

end Sys2Proof.Machine
end

