-- ==== Sys2Proof/Machine/Flags.lean ====
section
/-! DEFINITION. The flag registers as instructions read and clear them (R57 to R59). -/

namespace Sys2Proof.Machine

open Sys2Proof

/-- The mask of FLAGRD and FLAGCLR: byte k is I16[15:8] when I16[k] is set (R59). -/
def flagMask (i16 : BitVec 16) : Word :=
  BitVec.ofNat 64 (bytesToNat ((List.range 8).map fun k =>
    if i16.getLsbD k then BitVec.ofNat 8 (i16.toNat / 256) else 0#8))

/-- FLAGCLR: the masked flags, FIRSTEV.VALID and FIRSTPC clear, and nothing else of FIRSTEV; flags that landed in the same clk are set again and
recorded (R59). -/
def Core.clearFlags (c : Core) (mask : Word) (landed : List (Slot × FlagSet × Word)) : Core :=
  ({ c with flags := c.flags &&& ~~~ mask, firstev := c.firstev &&& ~~~ (1#64 <<< 63), firstpc := 0 }).stick landed

/-- Flags enabled for TFENCE (R59). -/
def Core.enabledFlags (c : Core) : Word := c.flags &&& c.flagen

/-- The slots with an enabled flag set. -/
def slotsOfFlags (w : Word) : Nat :=
  ((List.range 8).map fun k => if w.toNat / 2 ^ (8 * k) % 256 ≠ 0 then 2 ^ k else 0).sum

end Sys2Proof.Machine
end

