-- ==== Sys2Proof/Machine/Loops.lean ====
section
/-! DEFINITION. The loop engine (R47 to R54). -/

namespace Sys2Proof.Machine

open Sys2Proof

/-- SetStages (R51): p10 to p15 of a pass. -/
def Bank.setStages (b : Bank) (e : LoopEntry) : Bank :=
  let on (s : Nat) : Bool := s < e.stages && s ≤ e.e.toNat && e.e.toNat - s < e.lim.toNat
  (List.range 6).foldl (fun b s => b.setPred (10 + s) (on s)) b

/-- p10 to p15 false. -/
def Bank.clearStages (b : Bank) : Bank := (List.range 6).foldl (fun b s => b.setPred (10 + s) false) b

/-- The stages of a pass, when the entry is LOOPS. -/
def Bank.passStages (b : Bank) (e : LoopEntry) : Bank := if e.staged then b.setStages e else b

/-- A loop opened with n at least 1 (R48). -/
def openLoop (start stop : Word) (staged : Bool) (stages : Nat) (n : Word) : LoopEntry :=
  { start := start, staged := staged, stages := if staged then stages else 1, stopAt := stop, n := n, lim := n }

/-- Whether LOOP or LOOPS cannot open (R49): the stack is full, or the innermost entry in reach is staged. -/
def loopBlocked (loops : List LoopEntry) (frozen : Nat) : Bool :=
  6 ≤ loops.length ||
    (match loops with
      | e :: _ => e.staged && frozen < loops.length
      | [] => false)

/-- LIM under LBRK or a stop request: min(N, E + 1) (R52, R53). -/
def limited (e : LoopEntry) : Word := if e.n.toNat ≤ e.e.toNat + 1 then e.n else e.e + 1

/-- A pending stop request cuts an activation that no request has cut before (R53, R334, log entry 6). -/
def LoopEntry.cut (e : LoopEntry) (stop : Bool) : LoopEntry :=
  if stop && !e.stop then { e with stop := true, lim := limited e } else e

/-- Whether the end event of an entry fires for a committed bundle (R50). -/
def LoopEntry.fires (e : LoopEntry) (hdr next : Word) : Bool :=
  e.start.ule hdr && hdr.ult e.stopAt && e.stopAt.ule next

/-- What the loop engine does at the end of a bundle. -/
structure LoopEnd where
  bank : Bank
  /-- the next address, when the engine sets it -/
  pc : Option Word := none
  /-- the core stops here (R53) -/
  stops : Bool := false
deriving DecidableEq, Repr

/-- The end events of a bundle over the entries in reach, innermost first (R50). After a pop no address is set: the next
bundle is the sequential one, which lies beyond END where END lies inside the closing bundle (log entry 6). -/
def loopEnds (hdr next : Word) (stop : Bool) : Nat → List LoopEntry → Bank → LoopEnd
  | 0, ls, b => { bank := { b with loops := ls } }
  | _ + 1, [], b => { bank := { b with loops := [] } }
  | n + 1, e0 :: ls, b =>
    if !(e0.fires hdr next) then { bank := { b with loops := e0 :: ls } }
    else
      let e := e0.cut stop
      if e.e.toNat + 1 < e.lim.toNat + e.stages - 1 then
        let e := { e with e := e.e + 1 }
        { bank := { b with loops := e :: ls }.passStages e, pc := some e.start }
      else if e.stop && e.lim.ult e.n then { bank := { b with loops := e :: ls }, pc := some e.start, stops := true }
      else loopEnds hdr next stop n ls (if e.staged then b.clearStages else b)

/-- The end events of a bundle of a sequencer, the frozen entries out of reach (R50, R61). -/
def Core.endLoops (c : Core) (hnd : Bool) (hdr next : Word) (stop : Bool) : LoopEnd :=
  let b := c.bank hnd
  loopEnds hdr next stop (b.loops.length - c.frozen hnd) b.loops b

/-- A cut activation becomes a fresh one on resumption (R53). -/
def LoopEntry.resumed (e : LoopEntry) : LoopEntry :=
  if e.stop then { e with base := e.base + e.lim, n := e.n - e.lim, lim := e.n - e.lim, e := 0, stop := false } else e

/-- The loop stack of a bank as a core resumes; the stages of a fresh innermost activation are set (R53), a frozen one's
too (R61, log entry 6). -/
def Bank.resumeLoops (b : Bank) : Bank :=
  let b' := { b with loops := b.loops.map LoopEntry.resumed }
  match b.loops, b'.loops with
  | e :: _, e' :: _ => if e.stop then b'.passStages e' else b'
  | _, _ => b'

/-- LIDX (R54). -/
def lidx (loops : List LoopEntry) (depth stage : Nat) : Word :=
  match loops[depth]? with
  | none => BitVec.allOnes 64
  | some e => if e.stages ≤ stage then BitVec.allOnes 64 else e.base + e.e - BitVec.ofNat 64 stage

end Sys2Proof.Machine
end

