-- ==== Sys2Proof/Machine/Memory.lean ====
section
/-! DEFINITION. Global memory: physical storage, ownership, the scrub map, counter blocks, translation and the dirty-page
log (R207 to R223, R343, R359 to R365); and the scratchpad's checks (R86, R200, R223, R252). -/

namespace Sys2Proof.Machine

open Sys2Proof

/-- Whether two half-open ranges meet. -/
def overlaps (lo hi lo' hi' : Nat) : Bool := lo < hi' && lo' < hi && lo < hi && lo' < hi'

/-! ### Storage -/

def frameBytes : Nat := 65536

/-- The ownership entry of a frame (R213). -/
def State.frame (s : State) (k : Nat) : Frame := mget {} s.sys.frames k

def State.setFrame (s : State) (k : Nat) (g : Frame → Frame) : State :=
  { s with sys := { s.sys with frames := mput s.sys.frames k (g (s.frame k)) } }

/-- Whether a physical address lies in the map of Table 11-8. -/
def inMap (pa : Nat) : Bool := pa < 0xC000000000 || (0x100000000000 ≤ pa && pa < 0x200000000000)

/-- Whether a frame is in the CXL tier, and its port (Table 11-8). -/
def isCxlFrame (k : Nat) : Bool := 2 ^ 28 ≤ k && k < 2 ^ 29
def cxlPortOf (k : Nat) : Nat := k / 2 ^ 26 % 4

/-- The storage address that serves a physical address (R213). -/
def State.storage (s : State) (pa : Nat) : Nat :=
  let k := pa / frameBytes
  ((s.frame k).loc.getD k) * frameBytes + pa % frameBytes

/-- Whether the line of a storage address has its ZL bit set (R364). -/
def State.zlBit (s : State) (st : Nat) : Bool :=
  (mget 0#1024 s.sys.zl (st / frameBytes)).getLsbD (st % frameBytes / 64)

/-- One byte as a reader of the name sees it: a compressed page's data, zero under ZL, else its storage. -/
def State.physByte (s : State) (pa : Nat) : Byte :=
  let fr := s.frame (pa / frameBytes)
  if fr.comp ≠ 0 then readByte fr.packed (pa % frameBytes)
  else
    let st := s.storage pa
    if s.zlBit st then 0#8 else readByte s.sys.mem st

/-- The little-endian number of n bytes at a physical address. -/
def State.physRead (s : State) (pa : Nat) : Nat → Nat
  | 0 => 0
  | n + 1 => (s.physByte pa).toNat + 256 * s.physRead (pa + 1) n

def State.physBytes (s : State) (pa : Nat) : Nat → List Byte
  | 0 => []
  | n + 1 => s.physByte pa :: s.physBytes (pa + 1) n

/-- The counter block of a 4 KiB group (R360). -/
def State.ctr (s : State) (g : Nat) : CtrBlock := mget { major := if s.sys.clean.contains (g / 16) then 1 else 0 } s.sys.ctrs g

/-! ### The onion (R362, R363) -/

/-- The onion that covers a 4 KiB group of storage, 0 to 11 a stack's and 12 to 15 a CXL port's, and the place of the
group's counter block among its leaves (R215, R362). -/
def State.leafOf (s : State) (g : Nat) : Nat × Nat :=
  let fr := s.frame (g / 16)
  if isCxlFrame (g / 16) then (12 + cxlPortOf (g / 16), g % 2 ^ 30)
  else if fr.near then (3 * fr.ncl / 2 + g % 2, Config.nearBlock g % 2 ^ 24)
  else (g % 12, g / 12)

/-- The number of a block of an onion: level 0 the counter blocks, a node one level above its children. -/
def blockKey (tree level i : Nat) : Nat := tree * 2 ^ 48 + level * 2 ^ 40 + i

/-- Levels of an onion: its root is the node of that level. -/
def onionTop (tree : Nat) : Nat := if tree < 12 then 8 else 10

/-- The blocks that a line of a group is verified with below the root (R362): its counter block and the nodes above. -/
def State.blockPath (s : State) (g : Nat) : List Nat :=
  let t := s.leafOf g
  (List.range (onionTop t.1)).map fun l => blockKey t.1 l (t.2 / 8 ^ l)

/-- Whether a block on the path of a storage line does not verify (R363): the path is read up to the first block that the
metadata cache holds (R362), as it does one that it has still to write back. -/
def State.treeBad (s : State) (st : Nat) : Bool :=
  !s.sys.nodeBad.isEmpty
    && ((s.blockPath (st / 4096)).takeWhile fun k => !(s.sys.metaDirty.contains k)).any fun k => s.sys.nodeBad.contains k

/-- A group's counter block changes in its controller's metadata cache. -/
def State.touchBlock (s : State) (g : Nat) : State :=
  let t := s.leafOf g
  let k := blockKey t.1 0 t.2
  if s.sys.metaDirty.contains k then s else { s with sys := { s.sys with metaDirty := k :: s.sys.metaDirty } }

/-- A metadata cache writes a block back, at most once in 64 ticks: the COUNT of its parent grows, and the parent is to be
written back in turn, the root apart (R362). Its tag is made anew. The home's controller does nothing of it in a slot that pauses
it (R300). -/
def State.writeBack (s : State) (k : Nat) : State :=
  let tree := k / 2 ^ 48
  let level := k / 2 ^ 40 % 2 ^ 8
  let last := (s.sys.metaBack.find? fun e => e.1 == k).map Prod.snd
  let paused := s.sys.slotOpen.any fun c => c = 2 || tree < 12
  if !(s.sys.metaDirty.contains k) || paused || last.any (fun t => s.sys.tick.toNat < t + 64) then s
  else
    let up := blockKey tree (level + 1) (k % 2 ^ 40 / 8)
    let rest := s.sys.metaDirty.filter (· ≠ k)
    { s with sys := { s.sys with
        onion := mput s.sys.onion k ((mget 0 s.sys.onion k + 1) % 2 ^ 56), metaBack := mput s.sys.metaBack k s.sys.tick.toNat,
        nodeBad := s.sys.nodeBad.filter (· ≠ k),
        metaDirty := if level + 1 < onionTop tree && !(rest.contains up) then up :: rest else rest } }

/-- The counters of a line before it is written: its MINOR grows, or the group is re-encrypted (R360, R361). -/
def State.bumpLine (s : State) (st : Nat) : State :=
  let g := st / 4096
  let l := st / 64 % 64
  let c := s.ctr g
  let m := mget 0 c.minors l
  let c' : CtrBlock := if m = 63 then { major := c.major + 1, minors := [(l, 1)] } else { c with minors := mput c.minors l (m + 1) }
  ({ s with sys := { s.sys with ctrs := mput s.sys.ctrs g c' } }).touchBlock g

/-- Writing bytes that lie in one line of storage: the counter grows, an unscrubbed line merges against zero and loses
its ZL bit, and a line written as a whole has no error any more (R221, R360, R365, Table 11-10). -/
def State.writeLine (s : State) (st : Nat) (bs : List Byte) : State :=
  let s := s.bumpLine st
  let line := st / 64
  let mem := if s.zlBit st then writeBytes s.sys.mem (line * 64) (List.replicate 64 0#8) else s.sys.mem
  let k := st / frameBytes
  let z := mget 0#1024 s.sys.zl k
  let whole := bs.length == 64 || s.zlBit st
  { s with sys := { s.sys with
      mem := writeBytes mem st bs,
      zl := if s.zlBit st then mput s.sys.zl k (z &&& ~~~ (1#1024 <<< (st % frameBytes / 64))) else s.sys.zl,
      eccBad := if whole then s.sys.eccBad.filter (· ≠ line) else s.sys.eccBad,
      tagBad := if whole then s.sys.tagBad.filter (· ≠ line) else s.sys.tagBad } }

/-- Writing bytes at a physical address, line by line; the number bounds the lines. -/
def State.physWriteGo (s : State) : Nat → Nat → List Byte → State
  | 0, _, _ => s
  | n + 1, pa, bs =>
    match bs with
    | [] => s
    | _ =>
      let room := 64 - pa % 64
      (s.writeLine (s.storage pa) (bs.take room)).physWriteGo n (pa + room) (bs.drop room)

def State.physWrite (s : State) (pa : Nat) (bs : List Byte) : State := s.physWriteGo (bs.length / 64 + 2) pa bs

/-- A write to physical addresses as the values that cores took before meet it (R228, R229): a core's own store drops its
values of these bytes, any other writer is noted. -/
def Core.noted (k : Nat) (o : Observer) (pa n : Nat) (c : Core) : Core :=
  let meets (v : Stale) : Bool := overlaps v.pa (v.pa + v.bytes.length) pa (pa + n)
  let own := o == .core k
  let note (v : Stale) : Stale := if meets v && !(v.writers.contains o) then { v with writers := o :: v.writers } else v
  if c.stale.isEmpty then c
  else { c with stale := (if own then c.stale.filter fun v => !(meets v) else c.stale).map note }

def State.noteWrite (s : State) (o : Observer) (pa n : Nat) : State :=
  let look (e : Nat × Core) : Nat × Core := (e.1, e.2.noted e.1 o pa n)
  { s with cores := s.cores.map look }

/-- Bytes written by an observer. -/
def State.storeFrom (s : State) (o : Observer) (pa : Nat) (bs : List Byte) : State :=
  (s.physWrite pa bs).noteWrite o pa bs.length

/-- No core keeps a value that it took before, as storage changes hands or a mapping ends. -/
def State.forgetEarly (s : State) : State :=
  let look (e : Nat × Core) : Nat × Core := (e.1, { e.2 with stale := [] })
  { s with cores := s.cores.map look }

/-- Lines of storage that n bytes at a physical address touch. -/
def State.linesOf (s : State) (pa n : Nat) : List Nat :=
  if n = 0 then []
  else (List.range ((pa + n - 1) / 64 - pa / 64 + 1)).map fun i => s.storage ((pa / 64 + i) * 64) / 64

/-- Whether a storage line, its ECC clean, fails verification: its own tag, its counter block's or a node's (R220, R363). A
line under ZL reads as zero and is not decrypted (R364). -/
def State.lineFails (s : State) (l : Nat) : Bool :=
  !(s.zlBit (l * 64)) && !(s.sys.eccBad.contains l) && (s.sys.tagBad.contains l || s.treeBad (l * 64))

/-- Whether a storage line has an error that cannot be corrected. -/
def State.lineLost (s : State) (l : Nat) : Bool := s.sys.eccBad.contains l && !(s.zlBit (l * 64))

/-- INTEG of a range: some line fails verification. -/
def State.integBad (s : State) (pa n : Nat) : Bool := (s.linesOf pa n).any s.lineFails

/-- Lines of the range with an error that cannot be corrected. -/
def State.eccLines (s : State) (pa n : Nat) : Nat := ((s.linesOf pa n).filter s.lineLost).length

/-- The fault of a write of n bytes within a line (R219 to R221, R363): every write needs the line's counters, one of less
than the whole line its old bytes too. -/
def State.writeFault (s : State) (pa n : Nat) : Option Nat :=
  if s.treeBad (s.storage pa) then some kINTEG
  else if n = 64 then none
  else if s.integBad pa n then some kINTEG
  else if s.eccLines pa n ≠ 0 then some kUNCOR
  else none

/-! ### Pauses (R300, R301) -/

/-- Whether the storage that serves a physical address lies in the CXL tier. -/
def State.inCxl (s : State) (pa : Nat) : Bool := isCxlFrame (s.storage pa / frameBytes)

/-- Whether a slot that is open pauses the home of a physical address (R300, R301). -/
def State.homePaused (s : State) (pa : Nat) : Bool :=
  match s.sys.slotOpen with
  | none => false
  | some k => k = 2 || !(s.inCxl pa)

/-! ### Access codes and outcomes -/

def accLoad : Nat := 0
def accStore : Nat := 1
def accAtomic : Nat := 2
def accFetch : Nat := 3
def accWalk : Nat := 4
def accERead : Nat := 5
def accEWrite : Nat := 6
def accExpand : Nat := 7

/-- Whether an access code writes (Table 11-7). -/
def accWrites (acc : Nat) : Bool := acc == 1 || acc == 2 || acc == 6

/-- Whether a frame belongs to a function (R214). -/
def State.owns (s : State) (vf pa : Nat) : Bool :=
  let fr := s.frame (pa / frameBytes)
  fr.valid && fr.owner == vf && !fr.rsvd

/-- What an access meets once it is translated (R214, R216 to R218). -/
inductive Gate where
  | go
  | fault (kind : Nat)
  /-- the page is compressed, and a pool frame is free: its expansion starts -/
  | expand
  /-- the page is expanding -/
  | wait
deriving DecidableEq, Repr

/-- The lowest free pool frame of a context (R216); CXL storage is never taken from a pool (R218). -/
def State.poolFrame (s : State) (ctx : Nat) : Option Nat :=
  (s.sys.frames.find? fun e => e.2.stfree && e.2.ctx == ctx && !(isCxlFrame e.1)).map Prod.fst

def State.gate (s : State) (ctx pa : Nat) : Gate :=
  let k := pa / frameBytes
  let fr := s.frame k
  match (s.context ctx).vf with
  | none => .fault kOWN
  | some vf =>
    if !(s.owns vf pa) then .fault kOWN
    else if fr.comp = 1 then (if (s.poolFrame ctx).isSome then .expand else .fault kPOOLEMPTY)
    else if fr.comp = 2 then .wait
    else
      let st := fr.loc.getD k
      if isCxlFrame st && s.sys.cxl.toList.getD (cxlPortOf st) .down != .active then .fault kCXLBUSY
      else .go

/-- The lines of a pack frame that hold a compressed page (R216). -/
def Frame.packLines (fr : Frame) (k : Nat) : List Nat :=
  (List.range (128 * (fr.clen + 1))).map fun i => (fr.loc.getD k) * 1024 + fr.slot * 128 + i

/-- The fault that reading a compressed page's units meets, with a substitution or without (R219, R220). -/
def State.packFault (s : State) (k subst : Nat) : Option Nat :=
  let ls := (s.frame k).packLines k
  if ls.any s.lineFails then some kINTEG
  else if subst = 0 && ls.any s.lineLost then some kUNCOR
  else none

/-- The page-table walk as the tables stand now (R207 to R209): a translation, or the kind of its fault. -/
structure PteView where
  raw : Nat
deriving DecidableEq, Repr

def PteView.bit (p : PteView) (k : Nat) : Bool := p.raw / 2 ^ k % 2 = 1
def PteView.addr (p : PteView) : Nat := p.raw / 2 ^ 12 % 2 ^ 40 * 4096
def PteView.subst (p : PteView) : Nat := p.raw / 2 ^ 5 % 4
def PteView.zeroOk (p : PteView) : Bool := p.raw / 2 ^ 8 % 16 == 0 && p.raw / 2 ^ 52 == 0

/-- One table entry as the walker reads it (R208, R209): an access that touches its page as any other does (R216 to R218),
and that is never substituted. -/
def State.readPte (s : State) (ctx pa : Nat) : Except Nat PteView :=
  if !(inMap pa) then .error kPROT
  else
    let k := pa / frameBytes
    match s.gate ctx pa with
    | .fault x => .error x
    | .go =>
      if s.integBad pa 8 then .error kINTEG
      else if s.eccLines pa 8 ≠ 0 then .error kUNCOR
      else .ok ⟨s.physRead pa 8⟩
    | _ => match s.packFault k 0 with
      | some x => .error x
      | none => .ok ⟨s.physRead pa 8⟩

/-- The 16 entries of a CONT group (R208): the fault of the first that cannot be read, else whether all agree. -/
def State.contGroup (s : State) (ctx base leaf : Nat) (p : PteView) : Except Nat Bool :=
  let at_ (k : Nat) : Except Nat PteView := s.readPte ctx (base + 8 * k)
  let failed (k : Nat) : Option Nat := match at_ k with
    | .error x => some x
    | .ok _ => none
  match (List.range 16).findSome? failed, at_ 0 with
  | some x, _ => .error x
  | none, .error x => .error x
  | none, .ok q0 =>
    .ok ((List.range 16).all fun k => match at_ k with
      | .error _ => false
      | .ok q => q.bit 0 && q.bit 1 && q.bit 4 && q.zeroOk && q.bit 2 == p.bit 2 && q.bit 3 == p.bit 3 && q.subst == p.subst
          && q.addr == q0.addr + k * leaf)

/-- The entry of a table at a level that an address indexes (Table 11-5). -/
def pteIndex (level dva : Nat) : Nat := if level = 4 then dva / 2 ^ 48 % 256 else dva / 2 ^ (12 + 9 * level) % 512

/-- The walk from a level down (4 to 0), with the table's address. -/
def State.walkFrom (s : State) (ctx dva : Nat) : Nat → Nat → Except Nat TlbEntry
  | level, table =>
    let idx := pteIndex level dva
    match s.readPte ctx (table + 8 * idx) with
    | .error k => .error k
    | .ok p =>
      if !(p.bit 0) then .error kXLATE
      else if !p.zeroOk then .error kPROT
      else if p.bit 1 then
        if 3 ≤ level then .error kPROT
        else
          let leaf := 2 ^ (12 + 9 * level)
          if p.bit 4 then
            let base := table + 8 * (idx / 16 * 16)
            let size := 16 * leaf
            match s.contGroup ctx base leaf p, s.readPte ctx base with
            | .error k, _ | _, .error k => .error k
            | .ok good, .ok p0 =>
              if !good || p0.addr % size ≠ 0 || !(inMap p0.addr) then .error kPROT
              else .ok ⟨ctx, dva / size * size, size, p0.addr, p.bit 2, p.bit 3, p.bit 7, p.subst⟩
          else if p.addr % leaf ≠ 0 || !(inMap p.addr) then .error kPROT
          else .ok ⟨ctx, dva / leaf * leaf, leaf, p.addr, p.bit 2, p.bit 3, p.bit 7, p.subst⟩
      else
        match level with
        | 0 => .error kPROT
        | l + 1 => if !(inMap p.addr) || p.bit 4 then .error kPROT else s.walkFrom ctx dva l p.addr

/-- The walk of a context's tables (R207). -/
def State.walkPage (s : State) (ctx dva : Nat) : Except Nat TlbEntry :=
  if (s.context ctx).vf.isNone then .error kOWN
  else
    let root := (s.context ctx).ptroot
    if !(inMap root) then .error kPROT else s.walkFrom ctx dva 4 root

/-- Addresses of the entries that a walk reads, from a level down. -/
def State.entriesFrom (s : State) (ctx dva : Nat) : Nat → Nat → List Nat
  | level, table =>
    let pa := table + 8 * pteIndex level dva
    pa :: match s.readPte ctx pa with
      | .error _ => []
      | .ok p =>
        if !(p.bit 0) || !p.zeroOk || p.bit 1 || p.bit 4 then []
        else match level with
          | 0 => []
          | l + 1 => s.entriesFrom ctx dva l p.addr

/-- Addresses of the entries that the walk of an address reads. -/
def State.tableEntries (s : State) (ctx dva : Nat) : List Nat :=
  if (s.context ctx).vf.isNone || !(inMap (s.context ctx).ptroot) then [] else s.entriesFrom ctx dva 4 (s.context ctx).ptroot

/-- Whether a walk meets a home that an open slot pauses (R301). -/
def State.walkPaused (s : State) (ctx dva : Nat) : Bool := (s.tableEntries ctx dva).any s.homePaused

/-- Whether an address, or a table that leads to it, lies at a home that an open slot pauses (R301). -/
def State.dvaPaused (s : State) (ctx dva : Nat) : Bool :=
  s.sys.slotOpen.isSome && (s.walkPaused ctx dva || match s.walkPage ctx dva with
    | .error _ => false
    | .ok e => s.homePaused (e.pa + (dva - e.page)))

/-- The same of any page of n bytes from an address on. -/
def State.rangePaused (s : State) (ctx dva n : Nat) : Bool :=
  s.sys.slotOpen.isSome && (List.range ((dva % 4096 + n + 4095) / 4096)).any fun i => s.dvaPaused ctx (dva + 4096 * i)

/-- The first table on the walk of an address that is compressed or expanding, and whether it is compressed (R216). -/
def State.tableTouch (s : State) (ctx dva : Nat) : Option (Nat × Bool) :=
  (s.tableEntries ctx dva).findSome? fun pa => match s.gate ctx pa, s.readPte ctx pa with
    | .expand, .ok _ => some (pa / frameBytes, true)
    | .wait, .ok _ => some (pa / frameBytes, false)
    | _, _ => none

/-! ### Expansions (R216 to R220) -/

/-- Starting the expansion of a compressed page (R216, steps 1 and 2): the pool's lowest free frame is taken. -/
def State.startExpansion (s : State) (ctx k : Nat) (core : Option Nat := none) (dva subst : Nat := 0) : State :=
  match s.poolFrame ctx with
  | none => s
  | some st =>
    let s := s.setFrame k fun fr => { fr with comp := 2 }
    let s := s.setFrame st fun fr => { fr with stfree := false, ctx := 0, lent := decide (st ≠ k) }
    { s with sys := { s.sys with expansions := s.sys.expansions ++ [⟨k, ctx, st, core, dva, subst⟩] } }

/-- Lines of a frame's storage written with the bytes of a page. -/
def State.fillFrame (s : State) (st : Nat) (page : List Host.Cell) : State :=
  (List.range 1024).foldl (fun s i => s.writeLine (st * frameBytes + 64 * i) (readBytes page (64 * i) 64)) s

/-- Whether some group of a storage frame cannot be written, because a block on its path does not verify (R363). -/
def State.frameTreeBad (s : State) (st : Nat) : Bool := (List.range 16).any fun i => s.treeBad (st * frameBytes + 4096 * i)

/-- LENT of a frame as the other names stand (Table 11-9): whether one is served from it or packed in it. -/
def State.settleLent (s : State) (k : Nat) : State :=
  s.setFrame k fun fr => { fr with lent := s.sys.frames.any fun e => e.1 ≠ k && e.2.loc == some k }

/-- An expansion that cannot read the packed page leaves the name compressed and gives its frame back (log entry 20). -/
def State.giveUp (s : State) (e : Expansion) : State :=
  let s := s.setFrame e.frame fun fr => { fr with comp := 1 }
  let s := s.setFrame e.into fun fr => { fr with stfree := true, ctx := e.ctx, lent := false }
  { s with sys := { s.sys with expansions := s.sys.expansions.erase e } }

/-- The page that an expansion reads: of packed lines that were substituted, the spec does not say what they decompress to
(log entry 20). Each such line adds to SUBCNT (R219). -/
def State.unpacked (s : State) (e : Expansion) : List Host.Cell × State :=
  let lost := (((s.frame e.frame).packLines e.frame).filter s.lineLost).length
  if lost = 0 then ((s.frame e.frame).packed, s)
  else
    (writeBytes [] 0 ((Config.freeBytes s.free ++ List.replicate frameBytes 0#8).take frameBytes),
      ({ s with free := s.free + 1 }).onContext e.ctx fun c => { c with subcnt := c.subcnt + BitVec.ofNat 64 lost })

/-- The end of an expansion (R216, step 3): the page is in its storage again, or its packed units fail as they are read. -/
def State.expandNow (s : State) (e : Expansion) : Except Nat Unit × State :=
  match (if s.frameTreeBad e.into then some kINTEG else s.packFault e.frame e.subst) with
  | some x => (.error x, s.giveUp e)
  | none =>
    let pack := (s.frame e.frame).loc
    let p := s.unpacked e
    let s := (p.2.fillFrame e.into p.1).setFrame e.frame fun fr =>
      { fr with comp := 0, packed := [], loc := if e.into = e.frame then none else some e.into, slot := 0, clen := 0 }
    let s := { s with sys := { s.sys with expansions := s.sys.expansions.erase e } }
    (.ok (), match pack with
      | none => s
      | some k => s.settleLent k)

/-- The page of a frame, expanded at once if its expansion runs. -/
def State.expanded (s : State) (k : Nat) : Except Nat Unit × State :=
  match s.sys.expansions.find? fun e => e.frame == k with
  | none => (.ok (), s)
  | some e => s.expandNow e

/-- The compressed tables on the walk of an address, expanded at once (R216). The number bounds them. -/
def State.openTables (s : State) (ctx dva : Nat) : Nat → State
  | 0 => s
  | n + 1 => match s.tableTouch ctx dva with
    | none => s
    | some (k, packed) =>
      match (if packed then s.startExpansion ctx k else s).expanded k with
      | (.error _, s) => s
      | (.ok _, s) => s.openTables ctx dva n

/-- Whether a cached translation serves an address. -/
def TlbEntry.covers (e : TlbEntry) (ctx dva : Nat) : Bool := e.ctx == ctx && e.page ≤ dva && dva < e.page + e.size

/-- The physical address of an address the entry covers. -/
def TlbEntry.phys (e : TlbEntry) (dva : Nat) : Nat := e.pa + (dva - e.page)

/-- An entry at the front of a table of n entries, least recently used last (R210). -/
def tlbPut (n : Nat) (e : TlbEntry) (t : List TlbEntry) : List TlbEntry :=
  ((e :: t.filter fun x => !(x.ctx == e.ctx && x.page == e.page && x.size == e.size)).take n)

def State.sharedTlb (s : State) (cluster : Nat) : List TlbEntry := mget [] s.sys.tlbs cluster

/-- A lookup in the core's first-level table, then in the cluster's shared table (R210). -/
def State.tlbFind (s : State) (core ctx dva : Nat) : Option TlbEntry :=
  ((s.coreOf core).tlb.find? fun e => e.covers ctx dva).or
    ((s.sharedTlb (core / 256)).find? fun e => e.covers ctx dva)

def State.setShared (s : State) (cluster : Nat) (e : TlbEntry) : State :=
  { s with sys := { s.sys with tlbs := mput s.sys.tlbs cluster (tlbPut 16384 e (s.sharedTlb cluster)) } }

/-- A translation entering the core's table, and the shared table too after a walk (R210). The tables of a core whose island is held
stand as they are (R307, R308). -/
def State.tlbFill (s : State) (core : Nat) (walked : Bool) (e : TlbEntry) : State :=
  let s := if s.islandHeld core then s else s.onCore core fun c => { c with tlb := tlbPut 64 e c.tlb }
  if walked then s.setShared (core / 256) e else s

/-- A translation that a lookup found is the most recently used of its table; one of the shared table is copied into the
core's (R210). -/
def State.tlbHit (s : State) (core : Nat) (e : TlbEntry) : State :=
  s.tlbFill core (!((s.coreOf core).tlb.contains e)) e

/-- Translation without waiting: cached, or walked now, its tables expanded at once (log entry 20). -/
def State.xlateNow (s : State) (core : Option Nat) (ctx dva : Nat) : Except Nat TlbEntry × State :=
  match core with
  | none =>
    let s := s.openTables ctx dva 24
    (s.walkPage ctx dva, s)
  | some k =>
    match s.tlbFind k ctx dva with
    | some e => (.ok e, s.tlbHit k e)
    | none =>
      let s := s.openTables ctx dva 24
      match s.walkPage ctx dva with
      | .ok e => (.ok e, s.tlbFill k true e)
      | .error x => (.error x, s)

/-- Whether any launch of a context runs (R23). -/
def State.ctxRuns (s : State) (ctx : Nat) : Bool :=
  s.sys.gangs.any fun g => match s.launchOf g.launch with
    | some l => l.ctx == ctx
    | none => false

/-- The permission faults of Table 11-7: `user` for writes issued in mode U, `inside` for writes by cores and engine
commands of the context (R23). -/
def State.permFault (s : State) (e : TlbEntry) (ctx acc : Nat) (user inside : Bool) : Bool :=
  (accWrites acc && (!e.w || (e.sup && user) || (e.x && inside && s.ctxRuns ctx)))
  || (acc == accFetch && !e.x)

/-! ### Whole accesses: translation, checks, data -/

/-- The pattern that a substituted line reads as (R219), repeated over n bytes from an address. -/
def substBytes (subst a n : Nat) : List Byte :=
  (List.range n).map fun i =>
    let k := (a + i) % 4
    match subst with
    | 2 => if k = 3 then 0x7F#8 else if k = 2 then 0xC0#8 else 0#8
    | 3 => if k % 2 = 1 then 0x7F#8 else 0xC0#8
    | _ => 0#8

/-- Bytes read under R219 and R220: the bytes and the lines substituted, or the kind of the fault. -/
def State.dataRead (s : State) (pa n subst : Nat) (substitutes : Bool) : Except Nat (List Byte × Nat) :=
  if s.integBad pa n then .error kINTEG
  else
    let bad := s.eccLines pa n
    if bad = 0 then .ok (s.physBytes pa n, 0)
    else if substitutes && subst ≠ 0 then
      .ok ((List.range n).map fun i =>
        if s.eccLines (pa + i) 1 ≠ 0 then (substBytes subst (pa + i) 1).headD 0#8
        else s.physByte (pa + i), bad)
    else .error kUNCOR

/-- Whether an expander refuses the accesses of a core to addresses of a context, some of which lie in the CXL tier: they wait
(R218). -/
def State.heldOff (s : State) (core ctx : Nat) (as : List Nat) : Bool :=
  (s.coreOf core).refusing.isSome && as.any fun a => match s.walkPage ctx a with
    | .error _ => false
    | .ok e => s.inCxl (e.pa + (a - e.page))

/-- Whether an expander has refused the access of a core to an address in the CXL tier for 100 µs (R218). -/
def State.refuses (s : State) (core : Option Nat) (pa : Nat) : Bool :=
  s.inCxl pa && core.any fun k => (s.coreOf k).refused

/-- One access of up to a line by an engine, the host, the compositor or the device itself: the translated entry and
physical address, or the kind of the fault. A compressed page is expanded at once on this path. -/
def State.reach (s : State) (core : Option Nat) (ctx dva acc : Nat) (user inside : Bool) :
    Except Nat (TlbEntry × Nat) × State :=
  if 2 ^ 56 ≤ dva then (.error kPROT, s)
  else
    match s.xlateNow core ctx dva with
    | (.error k, s) => (.error k, s)
    | (.ok e, s) =>
      if s.permFault e ctx acc user inside then (.error kPROT, s)
      else
        let pa := e.phys dva
        let ready (r : Except Nat Unit × State) : Except Nat (TlbEntry × Nat) × State :=
          match r with
          | (.error x, s) => (.error x, s)
          | (.ok _, s) => (.ok (e, pa), s)
        match s.gate ctx pa with
        | .fault k => (.error k, s)
        | .go => if s.refuses core pa then (.error kCXLBUSY, s) else (.ok (e, pa), s)
        | .wait => ready (s.expanded (pa / frameBytes))
        | .expand =>
          ready ((s.startExpansion ctx (pa / frameBytes) core dva (if acc == accERead then e.subst else 0)).expanded
            (pa / frameBytes))

/-! ### Dirty-page log (R343) -/

/-- The log of a context has overflowed: every mapped page counts as dirty (R343, R345). -/
def State.dirtyLost (s : State) (ctx page : Nat) : State :=
  s.onContext ctx fun c => { c with dlOvf := true, dlMarks := page :: c.dlMarks }

/-- Appending a page's number to the log. A full ring, or any fault of the append, sets LOGOVF (R343, Table 20-11). -/
def State.appendDirty (s : State) (ctx page : Nat) : State :=
  let c := s.context ctx
  if c.dlOvf then s
  else if c.dlSize = 0 || (c.dlTail + 1) % c.dlSize == c.dlHead then s.dirtyLost ctx page
  else
    let at_ := c.dlBase.toNat + 8 * c.dlTail
    let owes (s : State) (x : Nat) : State :=
      if x = kINTEG then { s with sys := { s.sys with owedQuar := ctx :: s.sys.owedQuar } } else s
    match s.reach none ctx at_ accStore false false with
    | (.error x, s) => owes (s.dirtyLost ctx page) x
    | (.ok (_, pa), s) =>
      match s.writeFault pa 8 with
      | some x => owes (s.dirtyLost ctx page) x
      | none => (s.storeFrom .package pa (natToBytes 8 page)).onContext ctx fun c =>
          { c with dlTail := (c.dlTail + 1) % c.dlSize, dlMarks := page :: c.dlMarks }

/-- A write of a context to a page, before it performs: the first one after ARM appends the page's number. An append to a home
that a slot pauses waits there, and later ones wait behind it (R301). -/
def State.dirty (s : State) (ctx dva : Nat) : State :=
  let c := s.context ctx
  let page := dva / frameBytes
  if !c.dlArm || c.dlMarks.contains page || c.dlOvf then s
  else if !c.dlOwed.isEmpty || s.dvaPaused ctx (c.dlBase.toNat + 8 * c.dlTail) then
    s.onContext ctx fun c => { c with dlOwed := c.dlOwed ++ [page], dlMarks := page :: c.dlMarks }
  else s.appendDirty ctx page

/-- The appends that have waited for a slot to close. -/
def State.payDirty (s : State) : State :=
  let pay (s : State) (e : Nat × Context) : State :=
    e.2.dlOwed.foldl (fun s p => s.appendDirty e.1 p) (s.onContext e.1 fun c => { c with dlOwed := [] })
  (s.sys.contexts.filter fun e => !e.2.dlOwed.isEmpty).foldl pay s

/-! ### Reads and writes of a context's space -/

/-- Reading bytes of a context's space line by line: the bytes and the lines substituted. The number bounds the lines. -/
def State.gReadGo (s : State) (core : Option Nat) (ctx acc : Nat) (user inside substitutes : Bool) :
    Nat → Nat → Nat → List Byte → Nat → Except Nat (List Byte × Nat) × State
  | 0, _, _, out, bad => (.ok (out, bad), s)
  | k + 1, dva, n, out, bad =>
    if n = 0 then (.ok (out, bad), s)
    else
      let room := min n (64 - dva % 64)
      match s.reach core ctx dva acc user inside with
      | (.error x, s) => (.error x, s)
      | (.ok (e, pa), s) =>
        match s.dataRead pa room e.subst substitutes with
        | .error x => (.error x, s)
        | .ok (bs, b) => s.gReadGo core ctx acc user inside substitutes k (dva + room) (n - room) (out ++ bs) (bad + b)

/-- Reading n bytes of a context's space. -/
def State.gRead (s : State) (core : Option Nat) (ctx dva n acc : Nat) (substitutes : Bool) (user inside : Bool := false) :
    Except Nat (List Byte) × State :=
  match s.gReadGo core ctx acc user inside substitutes (n / 64 + 2) dva n [] 0 with
  | (.error x, s) => (.error x, s)
  | (.ok (bs, bad), s) =>
    (.ok bs, if bad = 0 then s else s.onContext ctx fun c => { c with subcnt := c.subcnt + BitVec.ofNat 64 bad })

/-- Writing bytes of a context's space line by line. -/
def State.gWriteGo (s : State) (o : Observer) (ctx acc : Nat) (user inside : Bool) :
    Nat → Nat → List Byte → Except Nat Unit × State
  | 0, _, _ => (.ok (), s)
  | k + 1, dva, bs =>
    match bs with
    | [] => (.ok (), s)
    | _ =>
      let room := 64 - dva % 64
      let now := bs.take room
      match s.reach o.tables ctx dva acc user inside with
      | (.error x, s) => (.error x, s)
      | (.ok (_, pa), s) =>
        match s.writeFault pa now.length with
        | some x => (.error x, s)
        | none => ((s.dirty ctx dva).storeFrom o pa now).gWriteGo o ctx acc user inside k (dva + room) (bs.drop room)

/-- Writing bytes of a context's space. -/
def State.gWrite (s : State) (o : Observer) (ctx dva : Nat) (bs : List Byte) (acc : Nat) (user inside : Bool) :
    Except Nat Unit × State :=
  s.gWriteGo o ctx acc user inside (bs.length / 64 + 2) dva bs

/-- An 8-byte counter of a context's space plus an increment: read, then written in one step. -/
def State.gAdd (s : State) (o : Observer) (ctx dva : Nat) (inc : Word) (acc : Nat) (user inside : Bool) :
    Except Nat Unit × State :=
  match s.gRead o.tables ctx dva 8 acc false user inside with
  | (.error x, s) => (.error x, s)
  | (.ok bs, s) => s.gWrite o ctx dva (natToBytes 8 (bytesToNat bs + inc.toNat)) acc user inside

/-! ### Sequencer accesses: translation at issue (R323) -/

/-- What a sequencer's global access meets at issue. -/
inductive Xl where
  | ok (e : TlbEntry) (pa : Nat)
  | fault (kind : Nat)
  /-- both tables miss: a walk is started or joined -/
  | miss
  | expand (frame subst : Nat)
  | wait
deriving DecidableEq, Repr

/-- Translation and acceptance of a global access of the issuing sequencer (R209, R210, R214, R323). -/
def State.accept (s : State) (ea : Word) (acc : Nat) : Xl :=
  let c := s.bun.cur
  let k := s.bun.core
  let dva := ea.toNat
  match (c.tlb.find? fun e => e.covers c.ctx dva).or ((s.sharedTlb (k / 256)).find? fun e => e.covers c.ctx dva) with
  | none => .miss
  | some e =>
    if s.permFault e c.ctx acc (!c.modeS) true then .fault kPROT
    else
      let pa := e.phys dva
      match s.gate c.ctx pa with
      | .fault x => .fault x
      | .expand => .expand (pa / frameBytes) (if acc == accLoad then e.subst else 0)
      | .wait => .wait
      | .go => .ok e pa

/-- A miss of a cluster starts or joins the walk of its 4 KiB page (R211). -/
def State.joinPage (s : State) (cluster ctx dva : Nat) (join : Walk → Walk) : State :=
  let page := dva / 4096
  let it (w : Walk) : Bool := w.cluster == cluster && w.ctx == ctx && w.page == page
  if s.sys.walks.any it then
    { s with sys := { s.sys with walks := s.sys.walks.map fun w => if it w then join w else w } }
  else { s with sys := { s.sys with walks := s.sys.walks ++ [join ⟨cluster, ctx, page, [], [], [], []⟩] } }

/-- A miss of a core's sequencer. -/
def State.joinWalk (s : State) (core ctx dva : Nat) : State :=
  s.joinPage (core / 256) ctx dva fun w => if w.cores.contains core then w else { w with cores := w.cores ++ [core] }

/-- The first address of a list that the tables of a core do not translate. -/
def State.firstMiss (s : State) (core ctx : Nat) (as : List Nat) : Option Nat :=
  as.find? fun a => a < 2 ^ 56 && (s.tlbFind core ctx a).isNone

/-- Misses of an engine command among addresses that it is to access: the walk of the first is started or joined, none
when that one is under way; the answer is what the event does instead (R211). -/
def State.cmdMiss (s : State) (core ctx cmd acc : Nat) (as : List Nat) : Option (Option State) :=
  match s.firstMiss core ctx as with
  | none => none
  | some a =>
    let mine (x : Nat × Nat × Nat × Nat) : Bool := x.1 == core && x.2.1 == cmd
    if s.sys.walks.any fun w => w.ctx == ctx && w.page == a / 4096 && w.cmds.any mine then some none
    else some (some (s.joinPage (core / 256) ctx a fun w => { w with cmds := w.cmds ++ [(core, cmd, acc, a)] }))

/-! ### Scratchpad -/

def spBytes : Nat := 2 ^ 21

/-- Whether a range meets the packed-region table (R223). -/
def Core.meetsPacked (c : Core) (lo hi : Nat) : Bool := c.packed.any fun p => overlaps lo hi p.1 p.2

/-- Whether the chase blocks an access (R252). -/
def Core.chaseBlocks (c : Core) (lo hi : Nat) (write : Bool) : Bool :=
  c.chase.any fun r => (write || r.write) && overlaps lo hi r.lo r.hi

/-- Groups that a range lies in. -/
def groupsOf (lo hi : Nat) : List Nat :=
  if hi ≤ lo then [] else (List.range 8).filter fun g => overlaps lo hi (g * 2 ^ 18) ((g + 1) * 2 ^ 18)

/-- Gated groups of a range, which its first access wakes; and whether some group is not awake (R69, R200). -/
def Core.asleep (c : Core) (lo hi : Nat) : List Nat × Bool :=
  let gs := groupsOf lo hi
  (gs.filter fun g => c.gated.getLsbD g,
   gs.any fun g => c.gated.getLsbD g || c.waking.any fun w => w.1 == g && c.clk < w.2)

/-- Whether a range holds a word whose error cannot be corrected (R201). A partial write merges into its word. -/
def Core.spError (c : Core) (lo hi : Nat) : Bool := c.spBad.any fun w => overlaps lo hi (8 * w) (8 * w + 8)

/-- The offset of the first word of a range whose uncorrectable error an access meets (R201): a read meets every such
word, a write only one that it covers in part. -/
def Core.badWord (c : Core) (lo hi : Nat) (write : Bool) : Option Nat :=
  ((c.spBad.filter fun w => overlaps lo hi (8 * w) (8 * w + 8) && !(write && lo ≤ 8 * w && 8 * w + 8 ≤ hi)).map
    fun w => 8 * w).min?

/-- What SPSOFT records of an offset of the scratchpad (R332): its structure code and the offset. -/
def softAddr (a : Nat) : Word := BitVec.ofNat 64 (0x01 + a * 2 ^ 8)

/-- PKDACC for a range that meets the packed-region table (R223). DESIGN CHOICE: the table is as the bundle's earlier slots leave
it, so that AGB meets what an STVP in AGA has marked (log entry 48). -/
def State.packedCheck (s : State) (f : Fields) (lo hi : Nat) : State :=
  if s.bun.cur.meetsPacked lo hi then s.raise f kPKDACC (BitVec.ofNat 64 lo) else s

/-- Whether the chase or a group that is not awake holds an access back (R200, R252). -/
def Core.spBlocks (c : Core) (lo hi : Nat) (write : Bool) : Bool := c.chaseBlocks lo hi write || (c.asleep lo hi).2

/-- The checks that a scratchpad access of the issuing bundle makes once its range is legal: the packed-region table,
the chase, the power groups, and uncorrectable words once nothing holds it back (R86, R200, R201, R223, R252). An access that
reads the scratchpad as it stood before the bundle (R17) meets the words that were bad then. -/
def State.spChecks (s : State) (f : Fields) (lo hi : Nat) (write : Bool) (packedOk : Bool := false)
    (reads : Bool := !write) (before : Bool := false) : State :=
  let c := s.bun.cur
  let s := if packedOk then s else s.packedCheck f lo hi
  if c.spBlocks lo hi write then
    { s.stalls with bun := { s.stalls.bun with wake := s.bun.wake ++ (c.asleep lo hi).1 } }
  else match (if before then s.bun.pre else c).badWord lo hi (!reads) with
    | some w => s.raise f kSPSOFT (softAddr w)
    | none => s

/-- An access of the issuing sequencer to a range of scratchpad that completes after a latency (R200). -/
def State.uses (s : State) (lo hi lat : Nat) : State :=
  s.onCur fun c => { c with spUse := (lo, hi, c.clk + lat) :: c.spUse.filter fun u => c.clk < u.2.2 }

/-- Writing scratchpad bytes; a whole word written loses its error (R201). -/
def Core.spWrite (c : Core) (a : Nat) (bs : List Byte) : Core :=
  { c with sp := writeBytes c.sp a bs,
           spBad := c.spBad.filter fun w => !(a ≤ 8 * w && 8 * w + 8 ≤ a + bs.length) }

/-- Waking a gated group (R69, R198): it reads as zero. -/
def Core.wakeGroup (c : Core) (g : Nat) : Core :=
  if c.gated.getLsbD g then
    { c with gated := c.gated &&& ~~~ (1#8 <<< g), waking := c.waking ++ [(g, c.clk + 512)] }
  else c

/-- Gating a group: its contents are lost (R69, R200). -/
def Core.gateGroup (c : Core) (g : Nat) : Core :=
  { c with gated := c.gated ||| (1#8 <<< g), waking := c.waking.filter fun w => w.1 ≠ g,
           sp := c.sp.filter fun e => e.1 / 2 ^ 18 ≠ g,
           spBad := c.spBad.filter fun w => w / 2 ^ 15 ≠ g }

/-- The packed-region table after a range, rounded outward to lines, is marked (R222): none when a ninth entry would be
needed. The number bounds the merges. -/
def markPacked : Nat → List (Nat × Nat) → Nat → Nat → List (Nat × Nat)
  | 0, t, lo, hi => t ++ [(lo, hi)]
  | n + 1, t, lo, hi =>
    match t.find? fun p => p.1 ≤ hi && lo ≤ p.2 with
    | some p => markPacked n (t.filter (· ≠ p)) (min lo p.1) (max hi p.2)
    | none => t ++ [(lo, hi)]

def Core.marked (c : Core) (lo hi : Nat) : Option (List (Nat × Nat)) :=
  if hi ≤ lo then some c.packed
  else
    let t : List (Nat × Nat) := markPacked 9 c.packed (lo / 64 * 64) ((hi + 63) / 64 * 64)
    if 8 < t.length then none else some t

/-- Entries that a range covers whole are removed (R222). -/
def Core.unmark (c : Core) (lo hi : Nat) : Core := { c with packed := c.packed.filter fun p => !(lo ≤ p.1 && p.2 ≤ hi) }

end Sys2Proof.Machine
end

