-- ==== Sys2Proof/Machine/Faults.lean ====
section
/-! DEFINITION. Faults and their reach (R322 to R331, R345, R355): parking a gang, ending a launch, and the fault queue. -/

namespace Sys2Proof.Machine

open Sys2Proof

/-- Whether a fault was detected before another: by tick, then by cluster and core (R330). -/
def FirstFault.before (a b : FirstFault) : Bool :=
  a.tick.ult b.tick || (a.tick == b.tick && a.core < b.core)

/-- A fatal fault of a launch: it ends, and the earliest fault is its first (R329, R330). -/
def Launch.condemn (l : Launch) (f : FirstFault) : Launch :=
  let first := match l.fault with
    | none => f
    | some g => if f.before g then f else g
  { l with aborting := true, dropped := true, fault := some first }

/-- A fault without a member: PREEMPTKILL, or a fault of the device's own access. -/
def State.bareFault (s : State) (kind : Nat) : FirstFault :=
  ⟨kind, 0, 0, 0, 0, 0, 0, 0, 0, s.sys.tick⟩

/-- The same of a gang that is known. -/
def State.gangFault (s : State) (kind gidx : Nat) : FirstFault := { s.bareFault kind with gidx := gidx }

/-- A launch ends under R329: its pending fault records are discarded. -/
def State.condemn (s : State) (launch : Nat) (f : FirstFault) : State :=
  let s := s.onLaunch launch fun l => l.condemn f
  { s with sys := { s.sys with faults := s.sys.faults.filter fun r => r.launch ≠ launch } }

/-- The close that this end of a session sends to the other (R385); its form is the model's (log entry 42). -/
def closeNote (e : FabSession) : List Byte := 0xC1#8 :: natToBytes 4 e.num

/-- Sessions closed by this end: their keys are erased, and the peers are told to erase theirs (R385). -/
def Sys.closeSessions (y : Sys) (which : FabSession → Bool) : Sys :=
  { y with fabric := y.fabric.filter fun e => !(which e), sent := (y.fabric.filter which).map closeNote ++ y.sent }

/-- Quarantine of a tenant's keys (R331, R355, R385): every launch of the tenant ends with INTEG, and its fabric
sessions close. -/
def State.quarantine (s : State) (vf : Nat) (f : FirstFault) : State :=
  let s := s.onVf vf fun v => if v.bind == .bound then { v with bind := .quarantined } else v
  let f' := { f with kind := kINTEG }
  let hit (l : Launch) : Launch := if l.vf = vf then l.condemn f' else l
  { s with sys := { s.sys.closeSessions (fun e => e.vf == vf) with
      launches := s.sys.launches.map hit, faults := s.sys.faults.filter fun r => (s.context r.ctx).vf ≠ some vf } }

/-- Quarantine of the tenant of a context. -/
def State.quarantineCtx (s : State) (ctx : Nat) (f : FirstFault) : State :=
  match (s.context ctx).vf with
  | none => s
  | some vf => s.quarantine vf f

/-- Whether the launch that holds a core is being ended (R329). -/
def State.aborting (s : State) (k : Nat) : Bool :=
  match s.gangAt k with
  | none => false
  | some g => match s.launchOf g.launch with
    | none => false
    | some l => l.aborting

/-- The first-fault record of a core's fault. -/
def State.faultOf (s : State) (core kind form : Nat) (baddr : Word) (slots : Nat) (addr : Word) (ill : BitVec 128) :
    FirstFault :=
  let c := s.coreOf core
  ⟨kind, form, c.gidx, c.member, core, baddr, slots, addr, ill, s.sys.tick⟩

/-- A fatal fault raised by a core (R329 to R331). -/
def State.fatal (s : State) (core kind form : Nat) (baddr : Word) (slots : Nat) (addr : Word) (ill : BitVec 128) :
    State :=
  let f := s.faultOf core kind form baddr slots addr ill
  let s := match s.gangAt core with
    | none => s
    | some g => s.condemn g.launch f
  if kind = kINTEG then s.quarantineCtx (s.coreOf core).ctx f else s

/-- INTEG that an access made for a core or a record meets quarantines the tenant, with what is known of it (R220, R330, R345). -/
def State.accessFault (s : State) (ctx kind : Nat) (f : FirstFault) : State :=
  if kind = kINTEG then s.quarantineCtx ctx f else s

/-- A fault that the device's own access meets, other than those Table 20-11 gives another outcome: INTEG quarantines the
tenant (R345). -/
def State.ownAccessFault (s : State) (ctx kind : Nat) : State :=
  if kind = kINTEG then s.quarantineCtx ctx (s.bareFault kINTEG) else s

/-- A program-level trap (R60): the handler is entered after a bubble of 2 clk, or the launch ends with the kind. -/
def State.program (s : State) (core : Nat) (hnd : Bool) (kind slots : Nat) (addr baddr resume : Word) (depth : Nat) :
    State :=
  let c := s.coreOf core
  if c.traps hnd then s.setCore core (c.takeTrap kind slots addr resume depth).bubble.bubble
  else s.fatal core kind (if !hnd && c.intrap then 2 else 1) baddr slots addr 0

/-! ### The fault queue (R327) -/

/-- Whether a ring of n entries is full. -/
def ringFull (n head tail : Nat) : Bool := n = 0 || (tail + 1) % n == head

/-- Writing one record to the fault queue, with its SEQ: none while the ring is full or its home is paused. A write that
faults ends the launch with the kind of the fault that needed the record, or for a notify with its own (Table 20-11). -/
def State.putFault (s : State) (r : FaultRec) : Option State :=
  let c := s.context r.ctx
  let at_ := c.fqDva.toNat + 64 * c.fqTail
  if ringFull c.fqLen c.fqHead c.fqTail || s.dvaPaused r.ctx at_ then none
  else
    let bytes := natToBytes 64 (r.bytes + c.fqSeq * 2 ^ 256)
    match s.gWrite .package r.ctx at_ bytes accStore false false with
    | (.error k, s) =>
      let own : FirstFault := ⟨r.kind, 0, r.gidx, r.bytes / 2 ^ 192 % 2 ^ 16, r.core, BitVec.ofNat 64 (r.bytes / 2 ^ 128 % 2 ^ 56),
        r.bytes / 2 ^ 184 % 2 ^ 8, 0, 0, BitVec.ofNat 64 r.tick⟩
      let f := if r.notify.isSome then s.faultOf r.core k 0 0 0 (BitVec.ofNat 64 at_) 0 else own
      some ((s.condemn r.launch f).accessFault r.ctx k f)
    | (.ok _, s) =>
      some (s.onContext r.ctx fun c => { c with fqTail := (c.fqTail + 1) % c.fqLen, fqSeq := c.fqSeq + 1 })

/-- A record among those that wait: by tick of detection, then by cluster and core (R327). -/
def State.addFault (s : State) (r : FaultRec) : State :=
  let before (x : FaultRec) : Bool := x.tick < r.tick || (x.tick == r.tick && x.core ≤ r.core)
  { s with sys := { s.sys with faults := s.sys.faults.takeWhile before ++ r :: s.sys.faults.dropWhile before } }

/-- Whether a launch is being ended. -/
def State.doomed (s : State) (launch : Nat) : Bool := (s.launchOf launch).any Launch.aborting

/-- Writing every pending record that its ring has room for, in order, once the tick of its detection has passed (R327): an
earlier one of the same tick could still come. Those of a launch that ends are discarded (R329). -/
def flushGo : List FaultRec → State → List FaultRec → State
  | [], s, kept => { s with sys := { s.sys with faults := kept.filter fun r => !(s.doomed r.launch) } }
  | r :: rs, s, kept =>
    if s.doomed r.launch then flushGo rs s kept
    else if s.sys.tick.toNat ≤ r.tick || kept.any fun k => k.ctx == r.ctx then flushGo rs s (kept ++ [r])
    else match s.putFault r with
      | none => flushGo rs s (kept ++ [r])
      | some s => flushGo rs s kept

def State.flushFaults (s : State) : State := if s.sys.faults.isEmpty then s else flushGo s.sys.faults s []

/-- The quarantines that writes of the dirty-page log owe (R345). -/
def State.payQuarantines (s : State) : State :=
  s.sys.owedQuar.foldr (fun ctx s => s.quarantineCtx ctx (s.bareFault kINTEG)) { s with sys := { s.sys with owedQuar := [] } }

/-- The fields of a fault-queue record (Table 19-2) but SEQ. -/
def State.faultBytes (s : State) (typ kind acc token : Nat) (dva baddr : Word) (slots member ctx queue slot : Nat)
    (value : Word) : Nat :=
  typ + kind * 2 ^ 8 + acc * 2 ^ 16 + token * 2 ^ 32 + dva.toNat % 2 ^ 56 * 2 ^ 64 + baddr.toNat % 2 ^ 56 * 2 ^ 128
    + slots * 2 ^ 184 + member * 2 ^ 192 + ctx * 2 ^ 208 + queue * 2 ^ 216 + slot * 2 ^ 240
    + s.sys.tick.toNat * 2 ^ 320 + value.toNat * 2 ^ 384

/-- A gang parks: every member stops at its next bundle boundary (R326). -/
def State.parkGang (s : State) (g : Gang) : State :=
  let s := s.onGang g.id fun x => { x with parked := true }
  g.cores.foldl (fun s k => s.onCore k fun c => { c with parked := true }) s

/-- A recoverable fault of a core: its gang parks and a record is written (R326, R327). The main sequencer then stands at
the stop point `parked`; a handler's own fault holds its bundle. -/
def State.park (s : State) (core : Nat) (hnd engine : Bool) (kind acc : Nat) (dva baddr : Word) (slots : Nat) : State :=
  match s.gangAt core with
  | none => s
  | some g =>
    match s.launchOf g.launch with
    | none => s
    | some l =>
      let c := s.coreOf core
      let b := s.faultBytes 1 kind acc g.token dva baddr slots c.member l.ctx l.queue l.slot 0
      let s := s.parkGang g
      let s := s.onCore core fun c => { c with hndParked := c.hndParked || (hnd && !engine) }
      s.addFault ⟨l.ctx, b, some g.id, none, kind, l.id, s.sys.tick.toNat, core, g.gidx⟩

/-- Resumption of a parked gang (R328): faulted bundles re-issue, and stopped commands continue. -/
def State.unpark (s : State) (g : Gang) : State :=
  let s := s.onGang g.id fun x => { x with parked := false }
  let go (m : Cmd) : Cmd := { m with parked := false }
  let goMat (o : MatOp) : MatOp := { o with cmd := go o.cmd }
  g.cores.foldl (fun s k => s.onCore k fun c =>
    { c with parked := false, hndParked := false, cmds := c.cmds.map go, mats := c.mats.map goMat,
             stopped := if c.stopped = some .parked then none else c.stopped }) s

/-- Whether a kind is recoverable (Table 19-1). -/
def recoverable (kind : Nat) : Bool := kind == kXLATE || kind == kPOOLEMPTY || kind == kCXLBUSY

/-- A command of an engine, or a matrix operation, stopped by a fault. -/
def Core.stopCmd (c : Core) (cmd : Nat) : Core :=
  let stop (m : Cmd) : Cmd := if m.id = cmd then { m with parked := true } else m
  let stopMat (o : MatOp) : MatOp := { o with cmd := stop o.cmd }
  { c with cmds := c.cmds.map stop, mats := c.mats.map stopMat }

/-- A fault that an engine command of a core meets: it stops the command; a recoverable one parks its gang, a fatal one ends
the launch (R250, R326, R329). -/
def State.cmdFault (s : State) (core cmd kind acc : Nat) (dva : Word) : State :=
  let s := s.onCore core fun c => c.stopCmd cmd
  if recoverable kind then
    let acc := match s.walkPage (s.coreOf core).ctx dva.toNat with
      | .error x => if x = kind && kind ≠ kXLATE then accWalk else acc
      | .ok _ => acc
    s.park core false true kind acc dva 0 0
  else s.fatal core kind 0 0 0 (if kind = kFMTMIS then 0 else dva) 0

end Sys2Proof.Machine
end

