-- ==== Sys2Proof/Machine/Record.lean ====
section
/-! DEFINITION. RECORD mode and replay (R341, R342): the log ring. -/

namespace Sys2Proof.Machine

open Sys2Proof

/-- Event codes of Table 20-10. -/
def evMessage : Nat := 0x01
def evDeque : Nat := 0x02
def evAtomic : Nat := 0x03
def evPred : Nat := 0x04
def evWaitev : Nat := 0x05
def evRead : Nat := 0x06
def evReply : Nat := 0x07

/-- Word 0 of a log entry (R341). -/
def logWord (ev : Nat) (c : Core) (hnd : Bool) : Nat :=
  ev + c.member * 2 ^ 8 + (if hnd then 2 ^ 19 else 0) + c.gidx * 2 ^ 32

/-- The address of an entry of the log ring. -/
def Context.logAt (c : Context) (idx : Nat) : Nat := c.logDva.toNat + 16 * idx

/-- Whether n more entries can be written: the log ring has room, and no open slot pauses its home (R301). -/
def State.logRoom (s : State) (ctx n : Nat) : Bool :=
  let c := s.context ctx
  c.logLen ≠ 0 && (c.logTail + c.logLen - c.logHead) % c.logLen + n < c.logLen && !(s.dvaPaused ctx (c.logAt c.logTail))

/-- A fault of an access to the log ring ends the launch with its kind (Table 20-11). -/
def State.logFails (s : State) (core kind dva : Nat) : State :=
  let f := s.faultOf core kind 0 0 0 (BitVec.ofNat 64 dva) 0
  let s := match s.gangAt core with
    | some g => s.condemn g.launch f
    | none => s
  s.accessFault (s.coreOf core).ctx kind f

/-- Appending one entry; a write that faults ends the launch (Table 20-11). -/
def State.putLog (s : State) (core : Nat) (hnd : Bool) (ev : Nat) (v : Word) : State :=
  let k := s.coreOf core
  let c := s.context k.ctx
  let bytes := natToBytes 8 (logWord ev k hnd) ++ natToBytes 8 v.toNat
  match s.gWrite .package k.ctx (c.logAt c.logTail) bytes accStore false false with
  | (.error x, s) => s.logFails core x (c.logAt c.logTail)
  | (.ok _, s) => s.onContext k.ctx fun c => { c with logTail := (c.logTail + 1) % c.logLen }

/-- The launch whose gang a core holds. -/
def State.launchAt (s : State) (c : Core) : Option Launch :=
  c.placed.bind fun g => (s.gangOf g).bind fun g => s.launchOf g.launch

/-- Whether a core takes its logged operations from the ring: until its launch has diverged (R342). -/
def State.replaying (s : State) (c : Core) : Bool :=
  c.recording && (s.context c.ctx).replay && !((s.launchAt c).any fun l => l.diverged)

/-- DIVERGE set with an entry's index; the launch goes on live (R342). -/
def State.diverges (s : State) (c : Core) (i : Nat) : State :=
  let s := s.onContext c.ctx fun x => { x with diverge := some i }
  match s.launchAt c with
  | some l => s.onLaunch l.id fun l => { l with diverged := true }
  | none => s

/-- One entry of the ring: its two words, or the fault of reading it. -/
def State.logEntry (s : State) (ctx idx : Nat) : Except Nat (Nat × Nat) :=
  match (s.gRead none ctx ((s.context ctx).logAt idx) 16 accLoad false).1 with
  | .error x => .error x
  | .ok bs => .ok (bytesToNat (bs.take 8), bytesToNat (bs.drop 8))

/-- Indices of the ring from HEAD to TAIL. -/
def Context.logSpan (c : Context) : List Nat :=
  if c.logLen = 0 then []
  else (List.range ((c.logTail + c.logLen - c.logHead) % c.logLen)).map fun i => (c.logHead + i) % c.logLen

/-- The next entry of a core that neither replay nor this bundle has taken: index and words, or the fault of an entry that
cannot be read, with its address. None while an open slot pauses the ring's home. -/
def State.nextLog (s : State) (c : Core) (taken : List Nat) : Option (Except (Nat × Nat) (Nat × Nat × Nat)) :=
  let x := s.context c.ctx
  let mine (i : Nat) : Option (Except (Nat × Nat) (Nat × Nat × Nat)) :=
    if x.replayed.contains i || taken.contains i then none
    else match s.logEntry c.ctx i with
      | .ok (w0, w1) =>
        if w0 / 2 ^ 8 % 2 ^ 11 = c.member ∧ w0 / 2 ^ 32 = c.gidx then some (.ok (i, w0, w1)) else none
      | .error k => some (.error (k, x.logAt i))
  if s.dvaPaused c.ctx (x.logAt x.logHead) then none else x.logSpan.findSome? mine

/-- What replay gives for one operation. -/
inductive Logged where
  /-- no entry yet: the operation waits -/
  | wait
  | values (vs : List Word) (taken : List Nat)
  | diverges (index : Nat)
  /-- an entry that cannot be read: the kind of the fault and the address -/
  | fails (kind dva : Nat)
deriving DecidableEq, Repr

/-- The entries of one operation with as many values as given. -/
def State.replayOp (s : State) (c : Core) (hnd : Bool) (ev : Nat) : Nat → List Nat → List Word → List Nat → Logged
  | 0, _, out, mine => .values out mine
  | n + 1, taken, out, mine =>
    match s.nextLog c taken with
    | none => .wait
    | some (.error x) => .fails x.1 x.2
    | some (.ok (i, w0, w1)) =>
      if w0 % 2 ^ 8 = ev ∧ (w0 / 2 ^ 19 % 2 = 1) = (hnd = true) then
        s.replayOp c hnd ev n (i :: taken) (out ++ [BitVec.ofNat 64 w1]) (mine ++ [i])
      else .diverges i

/-- Whether a reply is logged (Table 20-10). -/
def Ask.logged : Ask → Bool
  | .sysc _ _ | .notified | .resumeg _ | .dqcnt _ => true
  | .kstat _ _ => false

/-- Operations that a core waits for and that are to be logged before any later entry of the core (R341), by number. -/
def State.logsOwed (s : State) (core : Nat) (c : Core) : List Nat :=
  (c.gacc.filter fun g => [0x12, 0x13, 0x15].contains g.opc).map GAcc.id
    ++ (s.sys.asks.filter fun a => a.core == core && a.what.logged).map AskReq.id

/-- Whether an outstanding operation is the next of its core to be logged. -/
def State.logTurn (s : State) (core id : Nat) : Bool := (s.logsOwed core (s.coreOf core)).all fun i => id ≤ i

/-- Entries that the bundle has taken so far. -/
def Bun.taken (b : Bun) : List Nat := b.post.filterMap fun p => match p with
  | .consume i => some i
  | _ => none

/-- A logged operation of the bundle (R341, R342): its values as it goes on with them. -/
def State.logOp (s : State) (ev : Nat) (vals : List Word) : List Word × State :=
  let c := s.bun.cur
  if !c.recording then (vals, s)
  else if !(s.logsOwed s.bun.core c).isEmpty then (vals, s.holds .log)
  else
    let live (s : State) : State := vals.foldl (fun s v => s.post (.log ev v)) s
    if s.replaying c then
      match s.replayOp c s.bun.hnd ev vals.length s.bun.taken [] [] with
      | .wait => (vals, s.holds .log)
      | .values vs mine => (vs, mine.foldl (fun s i => s.post (.consume i)) s)
      | .diverges i => (vals, live (s.post (.diverge i)))
      | .fails k a => (vals, s.holds (.logFault k a))
    else (vals, live s)

/-- A logged operation outside a bundle: none while it has to wait. -/
def State.logNow (s : State) (core : Nat) (hnd : Bool) (ev : Nat) (v : Word) : Option (Word × State) :=
  let c := s.coreOf core
  if !c.recording then some (v, s)
  else
    let live (s : State) : Option (Word × State) :=
      if s.logRoom c.ctx 1 then some (v, s.putLog core hnd ev v) else none
    if s.replaying c then
      match s.replayOp c hnd ev 1 [] [] [] with
      | .wait => none
      | .values vs mine => some (vs.headD v, s.onContext c.ctx fun x => { x with replayed := x.replayed ++ mine })
      | .diverges i => live (s.diverges c i)
      | .fails k a => some (v, s.logFails core k a)
    else live s

/-- Entries that a bundle appends when it commits. -/
def Bun.logs (b : Bun) : Nat := (b.post.filter fun p => match p with
  | .log _ _ => true
  | _ => false).length

end Sys2Proof.Machine
end

