-- ==== Sys2Proof/Machine/Access.lean ====
section
/-! DEFINITION. What the instructions of a sequencer share when they reach global memory: acceptance at issue, the state of
earlier accesses, and the values of completion objects (R184, R209, R227 to R231, R323). -/

namespace Sys2Proof.Machine

open Sys2Proof

/-- A translation that the issuing core found is the most recently used of its table; one of the cluster's table is copied
into the core's, and is the most recently used of the cluster's as the bundle commits (R210). -/
def State.lookedUp (s : State) (e : TlbEntry) : State :=
  (if s.bun.cur.tlb.contains e then s else s.post (.shared e)).onCur fun c => { c with tlb := tlbPut 64 e c.tlb }

/-- Acceptance of a global access at issue (R323): its translation, or the bundle raises a fault or is held. A walk or an
expansion that it waited for and that failed gives its fault (R211). -/
def State.access (s : State) (f : Fields) (ea : Word) (acc : Nat) : Option (TlbEntry × Nat) × State :=
  match s.bun.xlf.find? fun x => x.1 == ea.toNat / 4096 with
  | some x => (none, s.raise f x.2 ea 0 (if x.2 = kXLATE then acc else accWalk))
  | none =>
  match s.accept ea acc with
  | .ok e pa =>
    if s.inCxl pa && s.bun.cur.refused then (none, s.raise f kCXLBUSY ea 0 acc)
    else if s.inCxl pa && s.bun.cur.refusing.isSome then (none, s.holds (.expand 0 false ea 0))
    else (some (e, pa), s.lookedUp e)
  | .fault k => (none, s.raise f k ea 0 acc)
  | .miss => (none, s.holds (.translate ea acc))
  | .expand k subst => (none, s.holds (.expand k true ea subst))
  | .wait => (none, s.holds (.expand 0 false ea 0))

/-- Opcodes of the global accesses (Table 2-10). -/
def gaLoads (opc : Nat) : Bool := opc == 0x03 || opc == 0x12 || opc == 0x13 || opc == 0x15
def gaStores (opc : Nat) (f : Fields) : Bool :=
  opc == 0x04 || opc == 0x12 || opc == 0x13 || opc == 0x14 || (opc == 0x15 && f.i16.getLsbD 0)

/-- Bytes of a global access. -/
def gaBytes (opc : Nat) (f : Fields) : Nat := if opc = 0x14 ∨ opc = 0x15 then 64 else tBytes f.t.toNat

/-- RM as an ordering annotation: acquire and release (Table 2-6). -/
def GAcc.acq (g : GAcc) : Bool := g.f.rm.getLsbD 0
def GAcc.rel (g : GAcc) : Bool := g.f.rm.getLsbD 1
def GAcc.scope (g : GAcc) : Nat := g.f.sc.toNat

/-- Accesses of the core still to perform that precede the bundle in program order (R225, R236): those of bundles issued
before it. -/
def Bun.earlier (b : Bun) : List GAcc := b.cur.gacc.filter fun g => g.first < b.first

/-- Whether every earlier access of the core is performed as far as a release at a scope orders it (R227, R230). -/
def State.released (s : State) (scope : Nat) : Bool := s.bun.earlier.all fun g => scope < 4 && s.inCxl g.pa

/-- Whether a scope named by a core has observers beside its sequencers, for which accesses are ordered (R226, R227): at
`.core` those are its engine commands; a wider scope has some at every moment, and stores become visible to all of them at
one instant (R232). -/
def Core.releases (c : Core) (scope : Nat) : Bool := scope ≠ 0 || !c.enginesIdle

/-- Whether a DRAIN of a core at a scope lets an access be (R186, R227, R231): it is a store and no atomic, and the scope has
no observer to order it for, or the store is in the CXL tier and the scope is below `.sys`. Every load and atomic has to
return. -/
def State.drainSkips (s : State) (c : Core) (scope : Nat) (g : GAcc) : Bool :=
  gaStores g.opc g.f && !(gaLoads g.opc) && (!(c.releases scope) || (scope < 4 && s.inCxl g.pa))

/-- Whether a DRAIN at a scope is satisfied. -/
def State.drained (s : State) (scope : Nat) : Bool := s.bun.earlier.all (s.drainSkips s.bun.cur scope)

/-- Whether a DRAIN that the main sequencer is held in keeps what a handler run does later at a physical address from being
performed (R231, R236): an access before the DRAIN is still to perform. -/
def State.drainBefore (s : State) (core : Nat) (hnd : Bool) (pa : Nat) : Bool :=
  hnd && s.held.any fun x => x.core == core && !x.hnd && (match x.hold with
    | .drain sc => (sc = 4 || !(s.inCxl pa))
        && (s.coreOf core).gacc.any fun h => h.first < x.first && !(s.drainSkips (s.coreOf core) sc h)
    | _ => false)

/-- An acquire of a core at a scope (R227, R230): of the values that it took before, it keeps those that no observer in
the scope has written to since, and below `.sys` those in the CXL tier. -/
def State.acquired (s : State) (core scope : Nat) : State :=
  if (s.coreOf core).stale.isEmpty then s
  else
    let keeps (v : Stale) : Bool := (scope < 4 && s.inCxl v.pa) || v.writers.all fun o => !(o.inScope core scope)
    s.onCore core fun c => { c with stale := c.stale.filter keeps }

/-- The scope of a gang's barriers and deques (R180, Table 12-2). -/
def Core.gangScope (c : Core) : Nat := if c.gangClusters ≤ 1 then 1 else 2

/-- Whether a read of a bundle at a physical address may take its value now (the number is the bundle's place in program
order): no
earlier acquire is still to come that orders it, and no earlier access of the core to these bytes (R227, R228, R230). -/
def State.mayRead (s : State) (c : Core) (first pa n : Nat) : Bool :=
  c.gacc.all fun g => first ≤ g.first || !(g.acq && (g.scope = 4 || !(s.inCxl pa))) && !(overlaps g.pa (g.pa + gaBytes g.opc g.f) pa (pa + n))

/-! ### Entries of the message queue as acquires (R238) -/

/-- Slots accepted and not yet written (R204). -/
def MsgQueue.unwritten (q : MsgQueue) : Nat := (q.arriving.map fun e => e.2.1.length / 64).sum

/-- SRC, and the slots, of the entry whose header lies at an offset (Table 11-3). -/
def Core.entrySrc (c : Core) (off : Nat) : Nat := readN c.sp (off + 10) 2 % 2 ^ 11
def Core.entryLen (c : Core) (off : Nat) : Nat := (readN c.sp (off + 8) 2 % 2 ^ 10 + 63) / 64 + 1

/-- The senders of the entries that n written slots from one on hold, in order; the first number bounds them. -/
def Core.entrySenders (c : Core) : Nat → Nat → Nat → List Nat
  | 0, _, _ => []
  | k + 1, slot, n =>
    if n = 0 then []
    else
      let off := c.mq.base + 64 * (slot % max 1 c.mq.size)
      c.entrySrc off :: c.entrySenders k (slot + c.entryLen off) (n - c.entryLen off)

/-- The smallest scope that contains two cores (Table 12-1). -/
def scopeOf (a b : Nat) : Nat := if a = b then 0 else if a / 256 = b / 256 then 1 else 2

/-- An acquire of the entries between HEAD and TAIL, at the smallest scope that contains this core and their senders; none
where there is no entry (R238). -/
def State.acquireEntries (s : State) (c : Core) : State :=
  let n := c.mq.used - c.mq.unwritten
  match (c.entrySenders n c.mq.head n).map (scopeOf s.bun.core) with
  | [] => s
  | k :: ks => s.post (.acquire (ks.foldl max k))

/-- A sequencer that has read memory returns no older value of the same bytes later (R228). -/
def Core.seen (c : Core) (pa n : Nat) : Core :=
  { c with stale := c.stale.filter fun v => v.writers.isEmpty || !(overlaps v.pa (v.pa + v.bytes.length) pa (pa + n)) }

/-- What a wait or a test finds at its object. -/
inductive ObjVal where
  | val (v : Word) (pa lines : Nat)
  /-- the bundle raises, stalls or is held -/
  | none (pa : Nat)
deriving DecidableEq, Repr

/-- The value of a completion object as WAITX and TESTX read it (R184). -/
def State.object (s : State) (f : Fields) (ea : Word) : ObjVal × State :=
  if f.i16.getLsbD 0 then
    if 2 ^ 21 ≤ ea.toNat then (.none 0, s.raise f kPROT ea)
    else if ea.toNat % 8 ≠ 0 then (.none 0, (s.packedCheck f ea.toNat (ea.toNat + 8)).raise f kUNALIGN ea)
    else
      let s := s.spChecks f ea.toNat (ea.toNat + 8) false
      if s.bun.stall then (.none 0, s) else (.val (BitVec.ofNat 64 (readN s.bun.cur.sp ea.toNat 8)) 0 0, s)
  else if 2 ^ 56 ≤ ea.toNat then (.none 0, s.raise f kPROT ea 0 accLoad)
  else if ea.toNat % 8 ≠ 0 then (.none 0, (s.access f ea accLoad).2.raise f kUNALIGN ea)
  else
    match s.access f ea accLoad with
    | (Option.none, s) => (.none 0, s)
    | (some (e, pa), s) =>
      if !(s.mayRead s.bun.cur s.bun.first pa 8) || s.drainBefore s.bun.core s.bun.hnd pa || s.homePaused pa then (.none pa, s)
      else match s.dataRead pa 8 e.subst true with
        | .error k => (.none pa, s.raise f k ea 0 accLoad)
        | .ok (bs, n) => (.val (BitVec.ofNat 64 (bytesToNat bs)) pa n, s)

/-- The test of WAITX and TESTX (R184). -/
def objTest (eq : Bool) (v target : Word) : Bool := if eq then v == target else target.ule v

/-- The value with which an object in scratchpad ends the WAITX of the core's other sequencer, as the bundle's slots so far leave
it (R184). -/
def State.passing (s : State) : Option Word :=
  let look (h : Held) : Option Word :=
    match h.hold with
    | .waitx true a _ target eq =>
      let v := BitVec.ofNat 64 (readN s.bun.cur.sp a.toNat 8)
      if h.core = s.bun.core ∧ h.hnd ≠ s.bun.hnd ∧ objTest eq v target
          ∧ !(s.bun.cur.spError a.toNat (a.toNat + 8)) then some v else none
    | _ => none
  s.held.findSome? look

/-- Storing bytes to scratchpad: what AGA has left there is a value that its objects take before AGB writes (R17, R184). -/
def State.spStore (s : State) (f : Fields) (a : Nat) (bs : List Byte) : State :=
  (if f.slot ≠ .aga then (match s.passing with
    | some v => s.post (.met v)
    | none => s) else s).onCur fun c => c.spWrite a bs

/-- Whether a queue's WAIT or dependence is met by the value its object holds, which it must be able to read (R193, Table 10-5). -/
def State.queueMet (s : State) (q : Queue) : Bool :=
  match q.wait with
  | none => false
  | some (obj, target, eq) =>
    match s.walkPage q.ctx obj.toNat with
    | .error _ => false
    | .ok e =>
      let pa := e.phys obj.toNat
      s.gate q.ctx pa == .go && !(s.homePaused pa) && !(s.integBad pa 8) && s.eccLines pa 8 = 0
        && objTest eq (BitVec.ofNat 64 (s.physRead pa 8)) target

/-- The waits of queues whose objects have taken a satisfying value (R193). -/
def State.watchQueues (s : State) : State :=
  let look (e : Nat × Queue) : Nat × Queue :=
    if e.2.state == .waiting && !e.2.met && s.queueMet e.2 then (e.1, { e.2 with met := true }) else e
  { s with sys := { s.sys with queues := s.sys.queues.map look } }

/-- Setting the answer of a bundle held in WAITX whose object has taken a satisfying value that it may read (R184, R228,
R230). A value in error is left to the bundle's own read. -/
def State.watch (s : State) : State :=
  let look (h : Held) : Held :=
    match h.hold with
    | .waitx sp addr pa target eq =>
      if h.answer.isSome then h
      else
        let c := s.coreOf h.core
        let v := if sp then BitVec.ofNat 64 (readN c.sp addr.toNat 8) else BitVec.ofNat 64 (s.physRead pa 8)
        let plain := if sp then !(c.spError addr.toNat (addr.toNat + 8))
          else s.mayRead c h.first pa 8 && !(s.drainBefore h.core h.hnd pa) && !(s.homePaused pa) && !(s.integBad pa 8) && s.eccLines pa 8 = 0
        if plain && objTest eq v target then { h with answer := some (v, true) } else h
    | _ => h
  ({ s with held := s.held.map look }).watchQueues

end Sys2Proof.Machine
end

