-- ==== Sys2Proof/Machine/Control.lean ====
section
/-! DEFINITION. The CTL instructions (R43 to R72, R177 to R188). -/

namespace Sys2Proof.Machine

open Sys2Proof

/-! ### Branches and calls -/

/-- The target of a relative transfer: the bundle's header plus 4 times the offset (R45). -/
def relTarget (f : Fields) (s : State) : Word :=
  s.bun.hdr + 4#64 * (match f.len with
    | .three => immL32 f
    | _ => immI16 f)

/-- The address of the next sequential bundle. -/
def Bun.next (b : Bun) : Word := b.hdr + BitVec.ofNat 64 (4 * b.words)

/-- A taken transfer (R45). -/
def State.goes (s : State) (t : Word) : State := { s with bun := { s.bun with target := some t } }

/-- Whether a register holds a legal transfer target (R45). -/
def targetOk (t : Word) : Bool := t.toNat % 4 = 0 && t.toNat < 2 ^ 56

/-- A transfer to a register's value, or the UNALIGN trap (R45). -/
def State.goesReg (s : State) (f : Fields) (t : Word) : State :=
  if targetOk t then s.goes t else s.raise f kUNALIGN t

/-- NOP (R72): no state changes. -/
def execNop (f : Fields) (s : State) : Host.Outcome State Fault Refusal := onGuard f s fun s => s

/-- BR (R45). -/
def execBr (f : Fields) (s : State) : Host.Outcome State Fault Refusal :=
  onGuard f s fun s => s.goes (relTarget f s)

/-- BRX (R45). -/
def execBrx (f : Fields) (s : State) : Host.Outcome State Fault Refusal :=
  onGuard f s fun s => s.goesReg f (opXA f s)

/-- CALL (R45). -/
def execCall (f : Fields) (s : State) : Host.Outcome State Fault Refusal :=
  onGuard f s fun s => writeX f 0x03 2 s.bun.next (s.goes (relTarget f s))

/-- CALLX (R45). -/
def execCallx (f : Fields) (s : State) : Host.Outcome State Fault Refusal :=
  onGuard f s fun s => writeX f 0x04 2 s.bun.next (s.goesReg f (opXA f s))

/-! ### Loops -/

/-- The iteration count of LOOP and LOOPS (R48). -/
def loopCount (f : Fields) (s : State) : Word :=
  match f.len with
  | .three => immZ32 f
  | _ => opXA f s

/-- LOOP and LOOPS (R48, R49). -/
def openLoops (f : Fields) (staged : Bool) (s : State) : State :=
  let c := s.bun.pre
  let hnd := s.bun.hnd
  let stop := s.bun.hdr + BitVec.ofNat 64 (4 * (f.i16.toNat % 8192))
  let n := loopCount f s
  if loopBlocked (c.bank hnd).loops (c.frozen hnd) then s.raise f kILLB 0 0xB
  else if n = 0#64 then
    let s := s.goes stop
    { s with bun := { s.bun with clears := staged } }
  else
    let e := openLoop s.bun.next stop staged (f.i16.toNat / 8192) n
    let s := s.onCur fun c => c.setBank hnd { c.bank hnd with loops := e :: (c.bank hnd).loops }
    { s with bun := { s.bun with stages := staged } }

/-- LOOP (R48). -/
def execLoop (f : Fields) (s : State) : Host.Outcome State Fault Refusal := onGuard f s (openLoops f false)

/-- LOOPS (R48). -/
def execLoops (f : Fields) (s : State) : Host.Outcome State Fault Refusal := onGuard f s (openLoops f true)

/-- LBRK on the loops in reach (R52). -/
def breakLoop (f : Fields) (s : State) : State :=
  let hnd := s.bun.hnd
  let b := s.bun.pre.bank hnd
  match b.loops with
  | e :: rest =>
    if b.loops.length ≤ s.bun.pre.frozen hnd then s.raise f kILLB 0 0xB
    else if e.staged then
      let e' := { e with lim := limited e }
      s.onCur fun c => c.setBank hnd { c.bank hnd with loops := e' :: rest }
    else (s.onCur fun c => c.setBank hnd { c.bank hnd with loops := rest }).goes e.stopAt
  | [] => s.raise f kILLB 0 0xB

/-- LBRK (R52). -/
def execLbrk (f : Fields) (s : State) : Host.Outcome State Fault Refusal := onGuard f s (breakLoop f)

/-- LIDX (R54). -/
def execLidx (f : Fields) (s : State) : Host.Outcome State Fault Refusal :=
  onGuard f s fun s =>
    writeX f 0x08 2 (lidx (s.bun.pre.bank s.bun.hnd).loops (f.i16.toNat % 8) (f.i16.toNat / 8 % 8)) s

/-! ### Predicates -/

/-- A predicate operation on two predicates (R55). -/
def predOp (f : Fields) (op : Bool → Bool → Bool) (s : State) : State :=
  s.setP f.d.toNat (op (s.rdPred f.a.toNat) (s.rdPred f.b.toNat))

/-- PSET (R55). -/
def execPset (f : Fields) (s : State) : Host.Outcome State Fault Refusal := onGuard f s (predOp f fun a _ => a)
/-- PAND (R55). -/
def execPand (f : Fields) (s : State) : Host.Outcome State Fault Refusal := onGuard f s (predOp f fun a b => a && b)
/-- POR (R55). -/
def execPor (f : Fields) (s : State) : Host.Outcome State Fault Refusal := onGuard f s (predOp f fun a b => a || b)
/-- PXOR (R55). -/
def execPxor (f : Fields) (s : State) : Host.Outcome State Fault Refusal := onGuard f s (predOp f fun a b => a != b)
/-- PANDN (R55). -/
def execPandn (f : Fields) (s : State) : Host.Outcome State Fault Refusal := onGuard f s (predOp f fun a b => a && !b)

/-- PTOX (R56). -/
def execPtox (f : Fields) (s : State) : Host.Outcome State Fault Refusal :=
  onGuard f s fun s => writeX f 0x0E 2 ((s.bun.pre.bank s.bun.hnd).predWord.setWidth 64) s

/-- XTOP (R56). -/
def execXtop (f : Fields) (s : State) : Host.Outcome State Fault Refusal :=
  onGuard f s fun s =>
    let v := opXA f s
    let m := opXB f s
    (List.range 16).foldl (fun s k => if k ≠ 0 ∧ m.getLsbD k then s.setP k (v.getLsbD k) else s) s

/-! ### Flags, traps and services -/

/-- Whether every earlier result of the sequencer has landed and every earlier matrix operation is complete (R59). Numbers from
the bundle's own on are of results and operations behind it. -/
def Core.fenced (c : Core) (hnd : Bool) (first : Nat) : Bool :=
  c.pend.all (fun p => p.hnd != hnd || first ≤ p.id) && c.mats.all fun o => first ≤ o.cmd.id

/-- TFENCE (R59). -/
def execTfence (f : Fields) (s : State) : Host.Outcome State Fault Refusal :=
  onGuard f s fun s =>
    if !(s.bun.cur.fenced s.bun.hnd s.bun.first) then s.holds .tfence
    else if s.bun.cur.enabledFlags = 0#64 then s
    else s.raise f kARITH s.bun.cur.enabledFlags

/-- TRAP (R63). -/
def execTrap (f : Fields) (s : State) : Host.Outcome State Fault Refusal :=
  onGuard f s fun s => s.raise f kTRAPI (f.i16.setWidth 64)

/-- A request whose reply lands in x(D) at a clk that is not fixed (R19). -/
def State.asks (s : State) (f : Fields) (opc : Nat) (file : RFile) (what : Ask) : State :=
  let id := s.nextResult
  (s.result f opc file f.d.toNat none (.word 0) 0).post (.ask id what)

/-- SYSC (R64). -/
def execSysc (f : Fields) (s : State) : Host.Outcome State Fault Refusal :=
  onGuard f s fun s => s.asks f 0x12 .x (.sysc f.i16.toNat (if f.i16 = 2 then s.pointOf s.bun.core else opXA f s))

/-- ERET (R62): outside a handler, or at a changed loop depth, it is illegal; else the handler is left. -/
def execEret (f : Fields) (s : State) : Host.Outcome State Fault Refusal :=
  onGuard f s fun s =>
    let c := s.bun.pre
    if !c.intrap || c.main.loops.length ≠ c.frozen false then s.raise f kILLB 0 0xB
    else
      let s := (s.onCur Core.leaveTrap).goes c.trappc
      let staged := match c.main.loops with
        | e :: _ => e.staged
        | [] => false
      { s with bun := { s.bun with stages := staged } }

/-- FLAGRD (R59). -/
def execFlagrd (f : Fields) (s : State) : Host.Outcome State Fault Refusal :=
  onGuard f s fun s => writeX f 0x14 2 (s.bun.cur.flags &&& flagMask f.i16) s

/-- FLAGCLR (R59). -/
def execFlagclr (f : Fields) (s : State) : Host.Outcome State Fault Refusal :=
  onGuard f s fun s => s.onCur fun c => c.clearFlags (flagMask f.i16) s.bun.landed

/-! ### Control registers -/

/-- A control register as a sequencer of a core reads it (Table 3-8). -/
def State.csr (s : State) (n : Nat) : Word :=
  let c := s.bun.pre
  match n with
  | 0x000 => c.status s.bun.hnd
  | 0x001 => BitVec.ofNat 64 s.bun.core
  | 0x002 => c.gang
  | 0x003 => c.launch
  | 0x004 => c.argp
  | 0x008 => c.trapvec
  | 0x009 => c.trappc
  | 0x00A => c.traprec
  | 0x00B => c.trapaddr
  | 0x010 => c.flagen
  | 0x011 => c.firstev
  | 0x012 => c.firstpc
  | 0x020 => BitVec.ofNat 64 c.mq.base
  | 0x021 => BitVec.ofNat 64 c.mq.size
  | 0x022 => BitVec.ofNat 64 c.mq.head
  | 0x023 => BitVec.ofNat 64 (c.mq.tail + c.mq.used * 2 ^ 16)
  | 0x040 => BitVec.ofNat 64 c.rng.words.length
  | 0x041 => BitVec.ofNat 64 c.rng.ctr
  | 0x050 => slotq s.bun.tick.toNat 3
  | 0x060 => c.gated.setWidth 64
  | 0x070 => (s.context c.ctx).subcnt
  | _ => if 0x030 ≤ n ∧ n < 0x038 then c.modq.toList.getD (n - 0x030) 3#64 else 0#64

/-- Control registers whose reads RECORD logs (Table 20-10). -/
def csrLogged (n : Nat) : Bool := n == 0x050 || n == 0x070 || n == 0x023 || n == 0x040

/-- USED of a value of MQTAIL (Table 11-2). -/
def mqUsed (v : Word) : Nat := v.toNat / 2 ^ 16 % 2 ^ 13

/-- CSRRD (R65): reading MQTAIL is an acquire of the entries that it shows (R238). In replay it waits until the queue shows as
many as its entry (log entry 26). -/
def execCsrrd (f : Fields) (s : State) : Host.Outcome State Fault Refusal :=
  onGuard f s fun s =>
    let v := s.csr f.i16.toNat
    let s := if f.i16.toNat = 0x023 then s.acquireEntries s.bun.pre else s
    if csrLogged f.i16.toNat then
      let (vs, s) := s.logOp evRead [v]
      let w := vs.headD v
      if f.i16.toNat = 0x023 && mqUsed v < mqUsed w then s.holds .log else writeX f 0x16 2 w s
    else writeX f 0x16 2 v s

/-- The access of a control register: whether a mode may write it (Table 3-8). -/
def csrWritable (modeS : Bool) (n : Nat) : Bool :=
  n == 0x008 || n == 0x009 || n == 0x010 || n == 0x022 || (0x030 ≤ n && n < 0x038)
    || (modeS && (n == 0x020 || n == 0x021 || n == 0x070))

/-- An address register whose bits [1:0] and [63:56] are RZ. -/
def codeAddr (v : Word) : Word := v &&& 0x00FFFFFFFFFFFFFC#64

/-- MQHEAD_WRITE (R205): slots are freed, or the write is ignored. The answer is the queue and the slots freed. -/
def MsgQueue.writeHead (q : MsgQueue) (h : Nat) : MsgQueue × Nat :=
  if q.size = 0 then (q, 0)
  else
    let h := h % q.size
    let d := (h + q.size - q.head) % q.size
    if q.used - q.unwritten < d then (q, 0) else ({ q with head := h, used := q.used - d }, d)

/-- Whether a queue's geometry meets the limits of Table 10-3. -/
def geometryOk (base size : Nat) : Bool :=
  base % 64 = 0 && (size = 0 || (16 ≤ size && size ≤ 4096 && 2 ^ Nat.log2 size == size)) && base + 64 * size ≤ 2 ^ 21

/-- MQ_GEOMETRY_WRITE (R202): a new geometry when the queue is empty and the limits hold. -/
def MsgQueue.setGeometry (q : MsgQueue) (base size : Nat) : MsgQueue :=
  if q.used = 0 ∧ geometryOk base size then { q with base := base, size := size, head := 0, tail := 0 } else q

/-- CSRWR to a register that the mode may write (R65, R66, R202, R205). -/
def writeCsr (f : Fields) (n : Nat) (v : Word) (s : State) : State :=
  match n with
  | 0x008 => s.onCur fun c => { c with trapvec := codeAddr v }
  | 0x009 => s.onCur fun c => { c with trappc := codeAddr v }
  | 0x010 => s.onCur fun c => { c with flagen := v }
  | 0x020 => s.onCur fun c => { c with mq := c.mq.setGeometry (v.toNat % 2 ^ 21) c.mq.size }
  | 0x021 => s.onCur fun c => { c with mq := c.mq.setGeometry c.mq.base (v.toNat % 2 ^ 13) }
  | 0x022 => s.onCur fun c =>
      let r := c.mq.writeHead (v.toNat % 2 ^ 12)
      { c with mq := r.1, run := c.run.map fun h => { h with freed := h.freed + r.2 } }
  | 0x070 => s.post (.subcnt v)
  | _ =>
    if modqOk v then s.onCur fun c => { c with modq := c.modq.setIfInBounds (n - 0x030) v }
    else s.flagsIn f 0x17 1 fMQ

/-- CSRWR (R65): a write by a mode whose access is RO raises PRIV. -/
def execCsrwr (f : Fields) (s : State) : Host.Outcome State Fault Refusal :=
  onGuard f s fun s =>
    if csrWritable s.bun.pre.modeS f.i16.toNat then writeCsr f f.i16.toNat (opXA f s) s else s.raise f kPRIV

/-! ### Time, power, stopping -/

/-- A logged read of x(D) with latency 2. -/
def readLogged (f : Fields) (opc : Nat) (v : Word) (s : State) : State :=
  let (vs, s) := s.logOp evRead [v]
  writeX f opc 2 (vs.headD v) s

/-- SLOTQ (R68): it samples the calendar as the bundle issues. -/
def execSlotq (f : Fields) (s : State) : Host.Outcome State Fault Refusal :=
  onGuard f s fun s => readLogged f 0x23 (slotq s.bun.tick.toNat (f.i16.toNat % 4)) s

/-- TICK (R67): the count as the bundle issues. -/
def execTick (f : Fields) (s : State) : Host.Outcome State Fault Refusal :=
  onGuard f s fun s => readLogged f 0x24 s.bun.tick s

/-- YIELD (R70): a boundary for a pending stop request, taken as the bundle commits. -/
def execYield (f : Fields) (s : State) : Host.Outcome State Fault Refusal :=
  onGuard f s fun s => { s with bun := { s.bun with yields := true } }

/-- HALT (R71). -/
def execHalt (f : Fields) (s : State) : Host.Outcome State Fault Refusal :=
  onGuard f s fun s =>
    if s.bun.cur.enginesIdle then { s with bun := { s.bun with halts := true } } else s.holds .halt

/-- Groups of a mask. -/
def maskGroups (v : Word) : List Nat := (List.range 8).filter fun g => v.getLsbD g

/-- SPWAKE (R69): it acts as its bundle commits, so that an access of its own bundle meets the group as it was. -/
def execSpwake (f : Fields) (s : State) : Host.Outcome State Fault Refusal :=
  onGuard f s fun s => s.post (.spWake (maskGroups (opXA f s)))

/-- Slots of the message queue that an accepted entry fills, as ranges of scratchpad. -/
def MsgQueue.slotRanges (q : MsgQueue) (slot n : Nat) : List (Nat × Nat) :=
  (List.range n).map fun i => (q.base + 64 * ((slot + i) % q.size), q.base + 64 * ((slot + i) % q.size) + 64)

/-- Whether a group has a chase range or a message-queue write in flight, or an access of a sequencer that is not complete
(R69, R200). -/
def Core.groupBusy (c : Core) (g : Nat) : Bool :=
  let lo := g * 2 ^ 18
  let hi := (g + 1) * 2 ^ 18
  c.chase.any (fun r => overlaps lo hi r.lo r.hi)
    || c.spUse.any (fun u => c.clk < u.2.2 && overlaps lo hi u.1 u.2.1)
    || c.mq.arriving.any fun e => (c.mq.slotRanges e.1 (e.2.1.length / 64)).any fun r => overlaps lo hi r.1 r.2

/-- SPGATE (R69): its bundle waits for the groups to fall idle, and they are gated as it commits, behind its own accesses. -/
def execSpgate (f : Fields) (s : State) : Host.Outcome State Fault Refusal :=
  onGuard f s fun s =>
    let gs := (maskGroups (opXA f s)).filter fun g => !(s.bun.cur.gated.getLsbD g)
    if gs.any s.bun.cur.groupBusy then s.stalls else s.post (.spGate gs)

/-- DBGBRK (R72): a core whose mailbox is armed halts before the bundle commits. -/
def execDbgbrk (f : Fields) (s : State) : Host.Outcome State Fault Refusal :=
  onGuard f s fun s =>
    if s.bun.pre.dbg.state = 1 ∧ !s.bun.pre.dbg.skip ∧ !s.bun.pre.stopReq then { s with bun := { s.bun with brk := some f.i16.toNat } } else s

/-! ### Waits on completion objects, DRAIN -/

/-- DRAIN (R186, R231). -/
def execDrain (f : Fields) (s : State) : Host.Outcome State Fault Refusal :=
  onGuard f s fun s => if s.drained f.sc.toNat then s.post (.acquire f.sc.toNat) else s.holds (.drain f.sc.toNat)

/-- Lines substituted under a read of the bundle (R219). -/
def State.countSubst (s : State) (n : Nat) : State := if n = 0 then s else s.post (.subst n)

/-- Whether a late kind has ended a wait or a test on an object: the bundle commits, and the launch ends (R323). -/
def State.lost (s : State) (f : Fields) : Bool := s.bun.raised.any fun r => r.slot == f.slot && lateKinds.contains r.kind

/-- The address in memory that the bundle's WAITX has watched. -/
def Bun.waited (b : Bun) : Nat :=
  match b.was.head? with
  | some (.waitx _ _ pa _ _) => pa
  | _ => 0

/-- A value that a wait or a test has observed in memory: no older one is read behind it (R228). -/
def State.seenAt (s : State) (sp : Bool) (pa : Nat) : State := if sp then s else s.post (.seen pa)

/-- WAITX (R184): a wait that ends is an acquire. -/
def execWaitx (f : Fields) (s : State) : Host.Outcome State Fault Refusal :=
  onGuard f s fun s =>
    let sp := f.i16.getLsbD 0
    if s.bun.answer.isSome then (s.seenAt sp s.bun.waited).post (.acquire f.sc.toNat)
    else
      let ea := opXA f s
      let t := opXB f s
      match s.object f ea with
      | (.val v pa n, s) =>
        if objTest f.v v t then ((s.countSubst n).seenAt sp pa).post (.acquire f.sc.toNat)
        else s.holds (.waitx sp ea pa t f.v)
      | (.none pa, s) => if s.lost f then s else s.holds (.waitx sp ea pa t f.v)

/-- TESTX (R184): a test that holds is an acquire. One that replay has hold waits until its object shows it, so that what is read
behind it is read behind the writer's release (R342, log entry 26). -/
def execTestx (f : Fields) (s : State) : Host.Outcome State Fault Refusal :=
  onGuard f s fun s =>
    match s.object f (opXA f s) with
    | (.val v pa n, s) =>
      let b := objTest f.v v (opXB f s)
      let (vs, s) := ((s.countSubst n).seenAt (f.i16.getLsbD 0) pa).logOp evPred [b2w b]
      let ok := (vs.headD 0).getLsbD 0
      if ok && !b then s.holds .testx
      else (if ok then s.post (.acquire f.sc.toNat) else s).setP f.d.toNat ok
    | (.none _, s) => if s.lost f then s else s.holds .testx

/-! ### Barriers -/

/-- The tag of a barrier instruction. -/
def barTag (f : Fields) : Nat := f.i16.toNat % 8

/-- A barrier instruction whose tag the gang has (R178). -/
def onTag (f : Fields) (s : State) (body : State → State) : State :=
  if s.bun.pre.gangTags ≤ barTag f then s.raise f kILLB 0 0xB else body s

/-- BARA (R179): it waits for the release of the phase before, and a wait that saw it is an acquire; then it arrives as a
release. -/
def execBara (f : Fields) (s : State) : Host.Outcome State Fault Refusal :=
  onGuard f s fun s => onTag f s fun s =>
    if s.bun.cur.arr.getLsbD (barTag f) then s.holds (.bara (barTag f))
    else if !(s.released s.bun.cur.gangScope) then s.holds (.release s.bun.cur.gangScope)
    else
      let waited := s.bun.was.contains (.bara (barTag f))
      (if waited then s.post (.acquire s.bun.cur.gangScope) else s).onCur fun c => { c with arr := c.arr ||| (1#8 <<< barTag f) }

/-- BARW (R179): the end of the wait is an acquire. -/
def execBarw (f : Fields) (s : State) : Host.Outcome State Fault Refusal :=
  onGuard f s fun s => onTag f s fun s =>
    if s.bun.cur.arr.getLsbD (barTag f) then s.holds (.barw (barTag f)) else s.post (.acquire s.bun.cur.gangScope)

/-- BARS (R179): the arrival is made as the bundle is held, and made once. -/
def execBars (f : Fields) (s : State) : Host.Outcome State Fault Refusal :=
  onGuard f s fun s => onTag f s fun s =>
    if s.bun.cur.arr.getLsbD (barTag f) then s.holds (.bars (barTag f))
    else if s.bun.was.contains (.bars (barTag f)) then s.post (.acquire s.bun.cur.gangScope)
    else if !(s.released s.bun.cur.gangScope) then s.holds (.release s.bun.cur.gangScope)
    else s.holds (.bars (barTag f))

/-! ### Deques, ENQ, handler, RESUMEG -/

/-- The predicate that I16[3:0] names (R177). -/
def psOf (f : Fields) : Nat := f.i16.toNat % 16

/-- DQPUSH (R182, R239): a push that succeeds is a release, and until the earlier accesses are performed its bundle does not
issue: R174 names no hold of it. -/
def execDqpush (f : Fields) (s : State) : Host.Outcome State Fault Refusal :=
  onGuard f s fun s =>
    let ok := s.bun.cur.deque.length < 64
    if ok && !(s.released s.bun.cur.gangScope) then s.stalls
    else
      let v := opXA f s
      let s := if ok then s.onCur fun c => { c with deque := c.deque ++ [v] } else s
      let (vs, s) := s.logOp evDeque [b2w ok]
      s.setP (psOf f) ((vs.headD 0).getLsbD 0)

/-- The result of a pop or a steal: a predicate and a value, logged as two entries (Table 20-10). -/
def State.dequeResult (s : State) (f : Fields) (opc : Nat) (ok : Bool) (v : Word) : State :=
  let (vs, s) := s.logOp evDeque [b2w ok, v]
  (writeX f opc 2 (vs.getD 1 0) s).setP (psOf f) ((vs.headD 0).getLsbD 0)

/-- DQPOP (R182): a pop that obtains an entry is an acquire (R239). -/
def execDqpop (f : Fields) (s : State) : Host.Outcome State Fault Refusal :=
  onGuard f s fun s =>
    match s.bun.cur.deque.getLast? with
    | some v =>
      ((s.onCur fun c => { c with deque := c.deque.dropLast }).post (.acquire s.bun.cur.gangScope)).dequeResult f 0x1F true v
    | none => s.dequeResult f 0x1F false 0

/-- A member number in x(A), or ILLB with reason 0xB (R182). -/
def onMember (f : Fields) (s : State) (body : Nat → State → State) : State :=
  let v := (opXA f s).toNat
  if s.bun.pre.gangSize ≤ v then s.raise f kILLB 0 0xB else body v s

/-- DQSTEAL (R182): the bundle is held until the deque's answer; a steal that obtains an entry is an acquire (R239). -/
def execDqsteal (f : Fields) (s : State) : Host.Outcome State Fault Refusal :=
  onGuard f s fun s => onMember f s fun m s =>
    match s.bun.answer with
    | some (v, ok) => (if ok then s.post (.acquire s.bun.cur.gangScope) else s).dequeResult f 0x20 ok v
    | none => s.holds (.steal m)

/-- DQCNT (R182). -/
def execDqcnt (f : Fields) (s : State) : Host.Outcome State Fault Refusal :=
  onGuard f s fun s => onMember f s fun m s =>
    if m = s.bun.pre.member then readLogged f 0x21 (BitVec.ofNat 64 s.bun.cur.deque.length) s
    else s.asks f 0x21 .x (.dqcnt m)

/-- Whether management has assigned a queue to a function (R189, R392). -/
def State.hasQueue (s : State) (vf q : Nat) : Bool := s.sys.doorbells.any fun e => e.1 / 512 == vf && e.2 == q

/-- ENQ (R187): the queue and record offset are checked, the append is a release, and the bundle is held until it is
answered. -/
def execEnq (f : Fields) (s : State) : Host.Outcome State Fault Refusal :=
  onGuard f s fun s =>
    let q := opXA f s
    let off := opXB f s
    let bad := off.toNat % 128 ≠ 0 || 2 ^ 21 ≤ off.toNat
    let s := if bad then s.raise f kPROT off else s
    if 2 ^ 13 ≤ q.toNat then s.raise f kPROT q
    else if (s.queueOf q.toNat).ctx ≠ s.bun.pre.ctx ∨ !(s.hasQueue s.bun.pre.vfOf q.toNat) then s.raise f kOWN q
    else if (s.queueOf q.toNat).sok && !s.bun.pre.modeS then s.raise f kPRIV
    else if bad then s
    else match s.bun.answer with
      | some (_, ok) =>
        let (vs, s) := s.logOp evPred [b2w ok]
        s.setP (psOf f) ((vs.headD 0).getLsbD 0)
      | none =>
        let s := s.spChecks f off.toNat (off.toNat + 128) false (before := true)
        if s.bun.stall then s
        else if !(s.released 2) then s.holds (.release 2)
        else s.holds (.enq q.toNat off.toNat)

/-- HNDRET (R175): the run ends as the bundle commits. -/
def execHndret (f : Fields) (s : State) : Host.Outcome State Fault Refusal :=
  onGuard f s fun s => { s with bun := { s.bun with hndret := true } }

/-- HNDEN (R176). -/
def execHnden (f : Fields) (s : State) : Host.Outcome State Fault Refusal :=
  onGuard f s fun s => s.onCur fun c => { c with hen := (opXA f s).getLsbD 0 }

/-- Whether the queue holds a written message (R174). -/
def MsgQueue.hasMessage (q : MsgQueue) : Bool := q.unwritten < q.used

/-- The event code that ends a WAITEV, lowest first (R185). -/
def waitevCode (c : Core) (tick : Word) (mask runs : Nat) (deadline : Word) : Option Nat :=
  if mask = 0 ∧ deadline = 0#64 then some 0
  else if mask % 2 = 1 ∧ c.mq.hasMessage ∧ !c.hen then some 1
  else if mask / 2 % 2 = 1 ∧ runs < c.runsEnded then some 2
  else if deadline ≠ 0#64 ∧ deadline.toNat ≤ tick.toNat then some 3
  else none

/-- Whether replay gives the code of a WAITEV whose own wait is not over (R342). -/
def State.replaysWait (s : State) : Option Logged :=
  let c := s.bun.cur
  if s.replaying c && (s.logsOwed s.bun.core c).isEmpty then some (s.replayOp c s.bun.hnd evWaitev 1 s.bun.taken [] []) else none

/-- WAITEV (R185): code 1 is an acquire of the entries (R238). In replay it waits for its entry instead (R342), and until the
message or the run's end that the entry tells of is there (log entry 26). -/
def execWaitev (f : Fields) (s : State) : Host.Outcome State Fault Refusal :=
  onGuard f s fun s =>
    let mask := f.i16.toNat % 4
    let answer (k : Nat) : State :=
      let (vs, s) := s.logOp evWaitev [BitVec.ofNat 64 k]
      let v := vs.headD 0
      if (v = 1#64 && !s.bun.cur.mq.hasMessage) || (v = 2#64 && s.bun.cur.runsEnded ≤ s.bun.runs) then
        s.holds (.waitev mask (opXA f s))
      else writeX f 0x29 2 v (if v = 1#64 then s.acquireEntries s.bun.cur else s)
    match waitevCode s.bun.cur s.sys.tick mask s.bun.runs (opXA f s), s.replaysWait with
    | some k, _ => answer k
    | none, some (.values _ _) | none, some .wait | none, some (.fails _ _) => answer 0
    | none, some (.diverges _) | none, none => s.holds (.waitev mask (opXA f s))

/-- RESUMEG (R188). -/
def execResumeg (f : Fields) (s : State) : Host.Outcome State Fault Refusal :=
  onGuard f s fun s =>
    let t := opXA f s
    if !s.bun.pre.modeS then s.raise f kPRIV
    else if 2 ^ 32 ≤ t.toNat then s.raise f kPROT t
    else s.asks f 0x2D .x (.resumeg t.toNat)

end Sys2Proof.Machine
end

