-- ==== Sys2Proof/Machine/Address.lean ====
section
/-! DEFINITION. The address instructions of AGA and AGB but for the run transfers (R84 to R98). -/

namespace Sys2Proof.Machine

open Sys2Proof

/-! ### Registers -/

/-- AADD (R90). -/
def execAadd (f : Fields) (s : State) : Host.Outcome State Fault Refusal :=
  onGuard f s fun s => writeD f 0x09 1 (opA f s + opBA f s) 0 s

/-- AADD with an immediate B (R90). -/
def execAaddImm (f : Fields) (s : State) : Host.Outcome State Fault Refusal :=
  onGuard f s fun s => writeD f 0x09 1 (opA f s + opBA f s) 0 s

/-- AMOV (R90). -/
def execAmov (f : Fields) (s : State) : Host.Outcome State Fault Refusal :=
  onGuard f s fun s => writeD f 0x0A 1 (opASc f s) 0 s

/-- MSET (R88). -/
def execMset (f : Fields) (s : State) : Host.Outcome State Fault Refusal :=
  onGuard f s fun s =>
    let len := (opA f s).toNat % 2 ^ 24
    let step := (opBW f s).toNat % 2 ^ 32
    writeD f 0x0B 1 (BitVec.ofNat 64 (step + len * 2 ^ 32 + f.i16.toNat % 2 ^ 8 * 2 ^ 56)) 0 s

/-- An address register updated through a modifier, or the UNALIGN trap of mode 0b11 (R89). -/
def State.update (s : State) (f : Fields) (opc : Nat) (reg : Nat) (m : Word) : State :=
  match addrUpdate (s.rd f.slot.file reg) m with
  | some a => s.result f opc f.slot.file reg (some 1) (.word a) 0
  | none => s.raise f kUNALIGN m

/-- AMOD (R88, R89). -/
def execAmod (f : Fields) (s : State) : Host.Outcome State Fault Refusal :=
  onGuard f s fun s => s.update f 0x0C f.d.toNat (opA f s)

/-- The post-modify of an access, when V is set (R84, R86). It is judged before the access: where the modifier's mode is
0b11 and the address is misaligned too, TRAPADDR is the modifier (R89, log entry 47). -/
def State.postModify (s : State) (f : Fields) (opc : Nat) : State :=
  if f.v then s.update f opc f.a.toNat (opBReg f s) else s

/-! ### Scratchpad -/

/-- The range of an access of n bytes to scratchpad: PROT, UNALIGN (beside PKDACC, which is reported before it), or the
checks of `spChecks` (R86, R324). The answer is the offset, when the access may go on. An access that writes may read what
it writes over. -/
def State.spAccess (s : State) (f : Fields) (ea : Word) (n : Nat) (write : Bool) (reads : Bool := !write)
    (before : Bool := false) : Option Nat × State :=
  if 2 ^ 21 ≤ ea.toNat then (none, s.raise f kPROT ea)
  else if ea.toNat % n ≠ 0 then
    (none, (s.packedCheck f ea.toNat (ea.toNat + n)).raise f kUNALIGN ea)
  else (some ea.toNat, s.spChecks f ea.toNat (ea.toNat + n) write (reads := reads) (before := before))

/-- LD (R86): it reads the scratchpad as it stood before the bundle (R17). -/
def execLd (f : Fields) (s : State) : Host.Outcome State Fault Refusal :=
  onGuard f s fun s =>
    let n := tBytes f.t.toNat
    let file := fileOfCode f.slot.file f.sc
    match (s.postModify f 0x01).spAccess f (opA f s + offM f) n false (before := true) with
    | (none, s) => s
    | (some a, s) =>
      let v := tExtend f.t.toNat (readN s.bun.pre.sp a n)
      let val := if isRunFile file then RegVal.run (.one (if tSigned f.t.toNat then tagS64 else tagN64) v) else .word v
      (s.uses a (a + n) 4).result f 0x01 file f.d.toNat (some 4) val 0

/-- ST (R86). -/
def execSt (f : Fields) (s : State) : Host.Outcome State Fault Refusal :=
  onGuard f s fun s =>
    let n := tBytes f.t.toNat
    let v := opCSc f s
    match (s.postModify f 0x02).spAccess f (opA f s + offM f) n true with
    | (none, s) => s
    | (some a, s) => s.spStore f a (natToBytes n v.toNat)

/-- A read-modify-write of scratchpad bytes in slot order (R93): the old value, and the new one. -/
def State.spAtomic (s : State) (f : Fields) (opc n : Nat) (op : Nat → Nat × Option (Word × FlagSet))
    (reads : Bool := true) : State :=
  match s.spAccess f (opA f s + offMA f) n true reads with
  | (none, s) => s
  | (some a, s) =>
    let r := op (readN s.bun.cur.sp a n)
    let s := (s.uses a (a + n) 6).spStore f a (natToBytes n r.1)
    match r.2 with
    | some (v, fl) => writeD f opc 6 v fl s
    | none => s

/-- ATOM (R92). -/
def execAtom (f : Fields) (s : State) : Host.Outcome State Fault Refusal :=
  onGuard f s fun s =>
    let n := tBytes f.t.toNat
    let c := (opC f s).toNat
    s.spAtomic f 0x0D n fun old => (atomOp f.i16.toNat n old c, some (tExtend f.t.toNat old, 0))

/-- The new value of ACAS and ACASG (R92). -/
def casOp (n old b c : Nat) : Nat := if old = b % 2 ^ (8 * n) then c % 2 ^ (8 * n) else old

/-- ACAS (R92). -/
def execAcas (f : Fields) (s : State) : Host.Outcome State Fault Refusal :=
  onGuard f s fun s =>
    let n := tBytes f.t.toNat
    let b := (opBReg f s).toNat
    let c := (opC f s).toNat
    s.spAtomic f 0x0E n fun old => (casOp n old b c, some (tExtend f.t.toNat old, 0))

/-- FXADD (R96). -/
def execFxadd (f : Fields) (s : State) : Host.Outcome State Fault Refusal :=
  onGuard f s fun s =>
    let c := (opC f s).toNat
    s.spAtomic f 0x0F 64 fun cell => (fxAdd cell c, none)

/-- FXRD (R97): without CLR it only reads. -/
def execFxrd (f : Fields) (s : State) : Host.Outcome State Fault Refusal :=
  onGuard f s fun s =>
    if f.i16.getLsbD 0 then
      s.spAtomic f 0x10 64 fun cell => (0, some (w32 (fxRead cell).bits, (fxRead cell).flags))
    else
      match s.spAccess f (opA f s + offMA f) 64 false with
      | (none, s) => s
      | (some a, s) =>
        let r := fxRead (readN s.bun.cur.sp a 64)
        writeD f 0x10 6 (w32 r.bits) r.flags (s.uses a (a + 64) 6)

/-- FXCLR (R97). -/
def execFxclr (f : Fields) (s : State) : Host.Outcome State Fault Refusal :=
  onGuard f s fun s => s.spAtomic f 0x11 64 (fun _ => (0, none)) (reads := false)

/-! ### Global memory -/

/-- Whether an access reads memory as a load does, and whether it writes (R229, R240). -/
def GAcc.loads (g : GAcc) : Bool := gaLoads g.opc
def GAcc.stores (g : GAcc) : Bool := gaStores g.opc g.f
def GAcc.bytes (g : GAcc) : Nat := gaBytes g.opc g.f

/-- A memory operation: the new value of the bytes, if it writes, and the register result with its flags, if any. -/
structure MemRes where
  write : Option Nat
  val : Option Word
  flags : FlagSet := 0
deriving DecidableEq, Repr

/-- What an access does to the bytes at its home (R91, R92, R94, R96, R97). -/
def GAcc.effect (g : GAcc) (old : Nat) : MemRes :=
  let n := g.bytes
  let t := g.f.t.toNat
  match g.opc with
  | 0x03 => ⟨none, some (tExtend t old), 0⟩
  | 0x04 => ⟨some g.c.toNat, none, 0⟩
  | 0x12 => ⟨some (atomOp g.f.i16.toNat n old g.c.toNat), some (tExtend t old), 0⟩
  | 0x13 => ⟨some (casOp n old g.b.toNat g.c.toNat), some (tExtend t old), 0⟩
  | 0x14 => ⟨some (fxAdd old g.c.toNat), none, 0⟩
  | _ =>
    let r := fxRead old
    ⟨if g.f.i16.getLsbD 0 then some 0 else none, some (w32 r.bits), r.flags⟩

/-- A global access that only reads (R229, R240). -/
def GAcc.plainLoad (g : GAcc) : Bool := g.opc == 0x03 || (g.opc == 0x15 && !(g.f.i16.getLsbD 0))

/-- Whether an access stands before another in the program order of their core (R225, R236): its bundle was issued
earlier, or it is of the same bundle, whose loads come before its stores and atomics. -/
def GAcc.leads (h g : GAcc) : Bool :=
  h.first < g.first || (h.first == g.first && h.hnd == g.hnd && (h.plainLoad || !g.plainLoad))

/-- An access at its place in program order among those not yet performed. -/
def Core.enterAcc (c : Core) (g : GAcc) : Core :=
  { c with gacc := c.gacc.takeWhile (fun h => h.leads g) ++ g :: c.gacc.dropWhile (fun h => h.leads g) }

/-- A global access accepted as the bundle commits (R323); a load or an atomic leaves D empty until it performs. -/
def State.gIssue (s : State) (f : Fields) (opc : Nat) (ea b c : Word) (pa : Nat) (e : TlbEntry) (dest : Bool) : State :=
  let id := s.nextResult
  let ctx := s.bun.cur.ctx
  let s := if dest then s.result f opc f.slot.file f.d.toNat none (.word 0) 0
    else s.onCur fun k => { k with nextId := k.nextId + 1 }
  s.onCur fun k => k.enterAcc ⟨id, s.bun.first, s.bun.hnd, f.slot, s.bun.hdr, opc, f, ea, pa, b, c, e.subst, ctx⟩

/-- A global access at issue, unless it was accepted ahead of a handler run (R174): PROT, then acceptance; a misaligned one is translated and checked too, since its page's kinds
are reported first (R91, R324). -/
def State.gAccess (s : State) (f : Fields) (opc n acc : Nat) (ea b c : Word) (dest : Bool) : State :=
  if s.bun.mem.isSome then s
  else if 2 ^ 56 ≤ ea.toNat then s.raise f kPROT ea 0 acc
  else if ea.toNat % n ≠ 0 then (s.access f ea acc).2.raise f kUNALIGN ea
  else
    match s.access f ea acc with
    | (none, s) => s
    | (some (e, pa), s) => s.gIssue f opc ea b c pa e dest

/-- LDG (R91). -/
def execLdg (f : Fields) (s : State) : Host.Outcome State Fault Refusal :=
  onGuard f s fun s =>
    (s.postModify f 0x03).gAccess f 0x03 (tBytes f.t.toNat) accLoad (opA f s + offM f) 0 0 true

/-- STG (R91). -/
def execStg (f : Fields) (s : State) : Host.Outcome State Fault Refusal :=
  onGuard f s fun s =>
    (s.postModify f 0x04).gAccess f 0x04 (tBytes f.t.toNat) accStore (opA f s + offM f) 0 (opC f s) false

/-- ATOMG (R92, R94). -/
def execAtomg (f : Fields) (s : State) : Host.Outcome State Fault Refusal :=
  onGuard f s fun s => s.gAccess f 0x12 (tBytes f.t.toNat) accAtomic (opA f s + offMA f) 0 (opC f s) true

/-- ACASG (R92, R94). -/
def execAcasg (f : Fields) (s : State) : Host.Outcome State Fault Refusal :=
  onGuard f s fun s => s.gAccess f 0x13 (tBytes f.t.toNat) accAtomic (opA f s + offMA f) (opBReg f s) (opC f s) true

/-- FXADDG (R94, R96). -/
def execFxaddg (f : Fields) (s : State) : Host.Outcome State Fault Refusal :=
  onGuard f s fun s => s.gAccess f 0x14 64 accAtomic (opA f s + offMA f) 0 (opC f s) false

/-- FXRDG (R94, R97): without CLR it is a load. -/
def execFxrdg (f : Fields) (s : State) : Host.Outcome State Fault Refusal :=
  onGuard f s fun s =>
    s.gAccess f 0x15 64 (if f.i16.getLsbD 0 then accAtomic else accLoad) (opA f s + offMA f) 0 0 true

/-- PREFG (R98): it acts as its bundle commits, and raises nothing. -/
def execPrefg (f : Fields) (s : State) : Host.Outcome State Fault Refusal :=
  onGuard f s fun s => s.post (.prefetch (opA f s + offM f))

end Sys2Proof.Machine
end

