-- ==== Sys2Proof/Machine/RunVec.lean ====
section
/-! DEFINITION. The run-vector instructions of VA and VB (R134 to R160). -/

namespace Sys2Proof.Machine

open Sys2Proof

/-! ### Units, holds and results -/

/-- The first free clk of the issuing slot's run unit (R134). -/
def unitFree (f : Fields) (c : Core) : Nat := if f.slot = .va then c.runFree.1 else c.runFree.2

/-- The unit is occupied for n clk from the clk in which the bundle was issued (R134). -/
def Core.occupy (c : Core) (f : Fields) (since n : Nat) : Core :=
  if f.slot = .va then { c with runFree := (since + n, c.runFree.2) } else { c with runFree := (c.runFree.1, since + n) }

/-- A `.c` operation of n clk holds the bundle (R128). -/
def State.coalesces (s : State) (n : Nat) : State := if n = 0 then s else { s with bun := { s.bun with coal := true } }

/-- Whether n clk have passed since the bundle was issued; before that it is held. -/
def State.heldFor (s : State) (n : Nat) (body : State → State) : State :=
  if s.bun.cur.clk < s.bun.since + n then s.holds (.untilClk (s.bun.since + n)) else body s

/-- A trap of a run instruction. -/
def State.runTrap (s : State) (f : Fields) (e : RunErr) : State :=
  match e with
  | .lenmis a => s.raise f kLENMIS a
  | .runovf a n => (s.coalesces n).heldFor n fun s => s.raise f kRUNOVF a
  | .unalign a => s.raise f kUNALIGN a

/-- An instruction that needs the issuing slot's run unit: a bundle that finds it occupied stalls (R134). -/
def onUnit (f : Fields) (s : State) (body : State → State) : State :=
  if s.bun.cur.clk < unitFree f s.bun.cur then s.stalls else body s

/-- A run result: its latency is `base` + ⌈P/div⌉, or it lands as its bundle commits after a hold (R128, R134). -/
def runResult (f : Fields) (opc base div : Nat) (r : Except RunErr RunRes) (s : State) : State :=
  match r with
  | .error e => s.runTrap f e
  | .ok r =>
    (s.coalesces r.hold).heldFor r.hold fun s =>
      let n := (r.segs + div - 1) / div
      let lat := if r.hold = 0 then base + n else 1
      (s.result f opc f.slot.file f.d.toNat (some lat) (.run r.reg) r.flags).onCur fun c => c.occupy f s.bun.since n

/-- A run instruction of latency 2 + ⌈P/16⌉. -/
def runOp (f : Fields) (opc : Nat) (r : State → Except RunErr RunRes) (s : State) : State :=
  onUnit f s fun s => runResult f opc 2 16 (r s) s

/-- A scalar result of P segments into the file that SC names, or a one-slug register under SC = 0 (R152, R153). What is
written under the MASK tag is 0 or 1 (R123): a VREDSUM of a MASK register counts in a scalar register, and its one-slug
result is 1 where that count is not 0 (DEDUCED, log entry 47). -/
def runScalar (f : Fields) (opc tag p : Nat) (v : Word) (fl : FlagSet) (s : State) : State :=
  let file := fileOfCode f.slot.file f.sc
  let val := if isRunFile file then RegVal.run (.one tag (underTag tag v)) else .word v
  (s.result f opc file f.d.toNat (some (2 + sixteenths p)) val fl).onCur fun c => c.occupy f s.bun.since (sixteenths p)

/-- VADD to VSAR (R140). -/
def runArith (f : Fields) (opc : Nat) (op : RunOp) (s : State) : State :=
  runOp f opc (fun s => runBin op f.v (rmode f) (runA f s) (runB f s) (runMask f s)) s

/-- VCMPEQ to VCMPLE (R143). -/
def runCompare (f : Fields) (opc : Nat) (op : RunCmp) (s : State) : State :=
  runOp f opc (fun s => runCmp op f.v (runA f s) (runB f s) (runMask f s)) s

/-- The reductions (R130, R153). -/
def runReduce (f : Fields) (opc : Nat) (op : RunRed) (s : State) : State :=
  onUnit f s fun s =>
    match runRed op (runA f s) (runMask f s) with
    | .error e => s.runTrap f e
    | .ok (v, fl, p) => runScalar f opc (op.tag (runA f s).tag) p v fl s

/-- The special functions (R157): latency 6 + ⌈P/16⌉. -/
def runSpecial (f : Fields) (opc : Nat) (sf : Val → Rounded) (s : State) : State :=
  onUnit f s fun s => runResult f opc 6 16 (runSf f.v sf (runA f s)) s

/-- VMODADD, VMODSUB and VMODMUL (R158). -/
def runModular (f : Fields) (opc : Nat) (op : Nat → Nat → Nat → Nat × FlagSet) (s : State) : State :=
  runOp f opc (fun s => runMod op f.v (modqOf s (f.i16.toNat % 8)) (runA f s) (runB f s) (runMask f s)) s

/-- A conversion that may draw ⌈P/4⌉ words of the random-bit queue: its bundle stalls until they are there (R135). -/
def runDraw (f : Fields) (opc : Nat) (draws : Bool) (r : List (BitVec 32) → Except RunErr RunRes) (s : State) : State :=
  onUnit f s fun s =>
    if f.rm = 4#3 && draws then
      let n := ((runA f s).runs + 3) / 4
      if s.bun.pre.rng.words.length < n then s.stalls
      else
        let s := s.onCur fun c => { c with rng := { c.rng with words := c.rng.words.drop n } }
        runResult f opc 2 4 (r (s.bun.pre.rng.words.take n)) s
    else runResult f opc 2 (if f.rm = 4#3 then 4 else 16) (r []) s

/-- The forme that I16[5:0] names, as the bundle reads it. -/
def formeOf (f : Fields) (s : State) : Forme := s.bun.pre.formes.toList.getD (f.i16.toNat % 64) 0

/-- VADD (R140). -/
def execVadd (f : Fields) (s : State) : Host.Outcome State Fault Refusal :=
  onGuard f s (runArith f 0x01 .add)

/-- VADD with a rounding mode, mask or literal (R140). -/
def execVaddImm (f : Fields) (s : State) : Host.Outcome State Fault Refusal :=
  onGuard f s (runArith f 0x01 .add)

/-- VSUB (R140). -/
def execVsub (f : Fields) (s : State) : Host.Outcome State Fault Refusal :=
  onGuard f s (runArith f 0x02 .sub)

/-- VSUB with a rounding mode, mask or literal (R140). -/
def execVsubImm (f : Fields) (s : State) : Host.Outcome State Fault Refusal :=
  onGuard f s (runArith f 0x02 .sub)

/-- VMUL (R140). -/
def execVmul (f : Fields) (s : State) : Host.Outcome State Fault Refusal :=
  onGuard f s (runArith f 0x03 .mul)

/-- VMUL with a rounding mode, mask or literal (R140). -/
def execVmulImm (f : Fields) (s : State) : Host.Outcome State Fault Refusal :=
  onGuard f s (runArith f 0x03 .mul)

/-- VMIN (R140). -/
def execVmin (f : Fields) (s : State) : Host.Outcome State Fault Refusal :=
  onGuard f s (runArith f 0x05 .min)

/-- VMIN with a rounding mode, mask or literal (R140). -/
def execVminImm (f : Fields) (s : State) : Host.Outcome State Fault Refusal :=
  onGuard f s (runArith f 0x05 .min)

/-- VMAX (R140). -/
def execVmax (f : Fields) (s : State) : Host.Outcome State Fault Refusal :=
  onGuard f s (runArith f 0x06 .max)

/-- VMAX with a rounding mode, mask or literal (R140). -/
def execVmaxImm (f : Fields) (s : State) : Host.Outcome State Fault Refusal :=
  onGuard f s (runArith f 0x06 .max)

/-- VAND (R140). -/
def execVand (f : Fields) (s : State) : Host.Outcome State Fault Refusal :=
  onGuard f s (runArith f 0x09 .and)

/-- VAND with a rounding mode, mask or literal (R140). -/
def execVandImm (f : Fields) (s : State) : Host.Outcome State Fault Refusal :=
  onGuard f s (runArith f 0x09 .and)

/-- VOR (R140). -/
def execVor (f : Fields) (s : State) : Host.Outcome State Fault Refusal :=
  onGuard f s (runArith f 0x0A .or)

/-- VOR with a rounding mode, mask or literal (R140). -/
def execVorImm (f : Fields) (s : State) : Host.Outcome State Fault Refusal :=
  onGuard f s (runArith f 0x0A .or)

/-- VXOR (R140). -/
def execVxor (f : Fields) (s : State) : Host.Outcome State Fault Refusal :=
  onGuard f s (runArith f 0x0B .xor)

/-- VXOR with a rounding mode, mask or literal (R140). -/
def execVxorImm (f : Fields) (s : State) : Host.Outcome State Fault Refusal :=
  onGuard f s (runArith f 0x0B .xor)

/-- VSHL (R140). -/
def execVshl (f : Fields) (s : State) : Host.Outcome State Fault Refusal :=
  onGuard f s (runArith f 0x0C .shl)

/-- VSHL with a rounding mode, mask or literal (R140). -/
def execVshlImm (f : Fields) (s : State) : Host.Outcome State Fault Refusal :=
  onGuard f s (runArith f 0x0C .shl)

/-- VSHR (R140). -/
def execVshr (f : Fields) (s : State) : Host.Outcome State Fault Refusal :=
  onGuard f s (runArith f 0x0D .shr)

/-- VSHR with a rounding mode, mask or literal (R140). -/
def execVshrImm (f : Fields) (s : State) : Host.Outcome State Fault Refusal :=
  onGuard f s (runArith f 0x0D .shr)

/-- VSAR (R140). -/
def execVsar (f : Fields) (s : State) : Host.Outcome State Fault Refusal :=
  onGuard f s (runArith f 0x0E .sar)

/-- VSAR with a rounding mode, mask or literal (R140). -/
def execVsarImm (f : Fields) (s : State) : Host.Outcome State Fault Refusal :=
  onGuard f s (runArith f 0x0E .sar)

/-- VFMA (R141). -/
def execVfma (f : Fields) (s : State) : Host.Outcome State Fault Refusal :=
  onGuard f s (runOp f 0x04 fun s => runFma f.v (rmode f) (runA f s) (runB f s) (runC f s))

/-- VABS (R142). -/
def execVabs (f : Fields) (s : State) : Host.Outcome State Fault Refusal :=
  onGuard f s (runOp f 0x07 fun s => runAbs f.v (runA f s))

/-- VNEG (R142). -/
def execVneg (f : Fields) (s : State) : Host.Outcome State Fault Refusal :=
  onGuard f s (runOp f 0x08 fun s => runNeg f.v (runA f s))

/-- VCMPEQ (R143). -/
def execVcmpeq (f : Fields) (s : State) : Host.Outcome State Fault Refusal :=
  onGuard f s (runCompare f 0x0F .eq)

/-- VCMPEQ with a mask or literal (R143). -/
def execVcmpeqImm (f : Fields) (s : State) : Host.Outcome State Fault Refusal :=
  onGuard f s (runCompare f 0x0F .eq)

/-- VCMPNE (R143). -/
def execVcmpne (f : Fields) (s : State) : Host.Outcome State Fault Refusal :=
  onGuard f s (runCompare f 0x10 .ne)

/-- VCMPNE with a mask or literal (R143). -/
def execVcmpneImm (f : Fields) (s : State) : Host.Outcome State Fault Refusal :=
  onGuard f s (runCompare f 0x10 .ne)

/-- VCMPLT (R143). -/
def execVcmplt (f : Fields) (s : State) : Host.Outcome State Fault Refusal :=
  onGuard f s (runCompare f 0x11 .lt)

/-- VCMPLT with a mask or literal (R143). -/
def execVcmpltImm (f : Fields) (s : State) : Host.Outcome State Fault Refusal :=
  onGuard f s (runCompare f 0x11 .lt)

/-- VCMPLE (R143). -/
def execVcmple (f : Fields) (s : State) : Host.Outcome State Fault Refusal :=
  onGuard f s (runCompare f 0x12 .le)

/-- VCMPLE with a mask or literal (R143). -/
def execVcmpleImm (f : Fields) (s : State) : Host.Outcome State Fault Refusal :=
  onGuard f s (runCompare f 0x12 .le)

/-- VSEL (R144). -/
def execVsel (f : Fields) (s : State) : Host.Outcome State Fault Refusal :=
  onGuard f s (runOp f 0x13 fun s => runSel f.v (runA f s) (runB f s) (runC f s))

/-- VCOAL (R145). -/
def execVcoal (f : Fields) (s : State) : Host.Outcome State Fault Refusal :=
  onGuard f s (runOp f 0x14 fun s => .ok (runCoal (runA f s)))

/-- VSPLAT (R146). -/
def execVsplat (f : Fields) (s : State) : Host.Outcome State Fault Refusal :=
  onGuard f s (runOp f 0x15 fun s =>
    let v := opASc f s
    let n := f.i16.toNat
    .ok ⟨⟨if f.v then tagF32 else tagS64, if n = 0 then [] else [(if f.v then zextBits 32 v else v, n)]⟩, 1, 0, 0⟩)

/-- VIOTA (R147). -/
def execViota (f : Fields) (s : State) : Host.Outcome State Fault Refusal :=
  onGuard f s (runOp f 0x16 fun s => runIota f.v (immI16 f) (runA f s))

/-- The start of VSLICE and the length of VSETL: B's element 0, or L32 (R148, R150). -/
def sliceStart (f : Fields) (s : State) : Word :=
  match f.len with
  | .three => immZ32 f
  | _ => slugAt (runBReg f s).slugs 0

/-- VSLICE (R148). -/
def execVslice (f : Fields) (s : State) : Host.Outcome State Fault Refusal :=
  onGuard f s (runOp f 0x17 fun s => runSlice f.v (runA f s) (sliceStart f s) f.i16.toNat)

/-- VCAT (R149). -/
def execVcat (f : Fields) (s : State) : Host.Outcome State Fault Refusal :=
  onGuard f s (runOp f 0x18 fun s => runCat f.v (runA f s) (runBReg f s))

/-- VSETL (R150). -/
def execVsetl (f : Fields) (s : State) : Host.Outcome State Fault Refusal :=
  onGuard f s (runOp f 0x19 fun s => runSetl f.v (runA f s) (sliceStart f s))

/-- VLEN (R152). -/
def execVlen (f : Fields) (s : State) : Host.Outcome State Fault Refusal :=
  onGuard f s fun s => onUnit f s fun s =>
    runScalar f 0x1A tagS64 (runA f s).runs (BitVec.ofNat 64 (runA f s).len) 0 s

/-- VRUNS (R152). -/
def execVruns (f : Fields) (s : State) : Host.Outcome State Fault Refusal :=
  onGuard f s fun s => onUnit f s fun s =>
    runScalar f 0x1B tagS64 (runA f s).runs (BitVec.ofNat 64 (runA f s).runs) 0 s

/-- VGET (R152). -/
def execVget (f : Fields) (s : State) : Host.Outcome State Fault Refusal :=
  onGuard f s fun s => onUnit f s fun s =>
    let a := runA f s
    if a.len ≤ f.i16.toNat then s.runTrap f (indexErr a f.i16.toNat)
    else runScalar f 0x1C a.tag a.runs (slugAt a.slugs f.i16.toNat) 0 s

/-- VPUT (R151). -/
def execVput (f : Fields) (s : State) : Host.Outcome State Fault Refusal :=
  onGuard f s (runOp f 0x1D fun s => runPut f.v (s.rdRun f.slot.file f.d.toNat) (opASc f s) f.i16.toNat)

/-- VREDSUM (R130, R153). -/
def execVredsum (f : Fields) (s : State) : Host.Outcome State Fault Refusal :=
  onGuard f s (runReduce f 0x1E .sum)

/-- VREDMAX (R130, R153). -/
def execVredmax (f : Fields) (s : State) : Host.Outcome State Fault Refusal :=
  onGuard f s (runReduce f 0x1F .max)

/-- VREDMIN (R130, R153). -/
def execVredmin (f : Fields) (s : State) : Host.Outcome State Fault Refusal :=
  onGuard f s (runReduce f 0x20 .min)

/-- VCOUNT (R130, R153). -/
def execVcount (f : Fields) (s : State) : Host.Outcome State Fault Refusal :=
  onGuard f s (runReduce f 0x21 .count)

/-- VFIRST (R130, R153). -/
def execVfirst (f : Fields) (s : State) : Host.Outcome State Fault Refusal :=
  onGuard f s (runReduce f 0x22 .first)

/-- XMOV into a run register (R154): V = 1 coalesces as in every run result (R136). From a scalar file the latency is the 2 of
R154, the instruction's own rule, where R13 and Table 1-3 count one slug more (DEDUCED, log entry 47). -/
def execXmovRun (f : Fields) (s : State) : Host.Outcome State Fault Refusal :=
  onGuard f s fun s => onUnit f s fun s =>
    let file := fileOfCode f.slot.file f.sc
    if isRunFile file then
      let r := s.rdRun file f.a.toNat
      runResult f 0x23 2 16 (capacity f.v r.tag r.slugs 0) s
    else
      (s.result f 0x23 f.slot.file f.d.toNat (some 2) (.run (.one tagS64 (opASc f s))) 0).onCur fun c =>
        c.occupy f s.bun.since 1

/-- VCVT (R155). -/
def execVcvt (f : Fields) (s : State) : Host.Outcome State Fault Refusal :=
  onGuard f s (runDraw f 0x30 true fun ws =>
    runCvt f.v (cvtTag f.t.toNat) (modqOf s (f.i16.toNat % 8)) f.rm.toNat ws (runA f s))

/-- VQNT (R156): an empty or run-packed forme raises FMTMIS, and a microscaled one draws nothing. -/
def execVqnt (f : Fields) (s : State) : Host.Outcome State Fault Refusal :=
  onGuard f s fun s =>
    let fm := formeOf f s
    if fm.empty || fm.runpk then s.raise f kFMTMIS
    else runDraw f 0x31 (!fm.mxb) (fun ws => runQnt f.v fm (modqOf s fm.modq) f.rm.toNat ws (runA f s)) s

/-- VEXP2 (R157). -/
def execVexp2 (f : Fields) (s : State) : Host.Outcome State Fault Refusal :=
  onGuard f s (runSpecial f 0x32 sfExp2)

/-- VLOG2 (R157). -/
def execVlog2 (f : Fields) (s : State) : Host.Outcome State Fault Refusal :=
  onGuard f s (runSpecial f 0x33 sfLog2)

/-- VRCP (R157). -/
def execVrcp (f : Fields) (s : State) : Host.Outcome State Fault Refusal :=
  onGuard f s (runSpecial f 0x34 sfRcp)

/-- VRSQ (R157). -/
def execVrsq (f : Fields) (s : State) : Host.Outcome State Fault Refusal :=
  onGuard f s (runSpecial f 0x35 sfRsq)

/-- VSQRT (R157). -/
def execVsqrt (f : Fields) (s : State) : Host.Outcome State Fault Refusal :=
  onGuard f s (runSpecial f 0x36 sfSqrt)

/-- VTANH (R157). -/
def execVtanh (f : Fields) (s : State) : Host.Outcome State Fault Refusal :=
  onGuard f s (runSpecial f 0x37 sfTanh)

/-- VSIGM (R157). -/
def execVsigm (f : Fields) (s : State) : Host.Outcome State Fault Refusal :=
  onGuard f s (runSpecial f 0x38 sfSigm)

/-- VMODADD (R158). -/
def execVmodadd (f : Fields) (s : State) : Host.Outcome State Fault Refusal :=
  onGuard f s (runModular f 0x39 modAdd)

/-- VMODSUB (R158). -/
def execVmodsub (f : Fields) (s : State) : Host.Outcome State Fault Refusal :=
  onGuard f s (runModular f 0x3A modSub)

/-- VMODMUL (R158). -/
def execVmodmul (f : Fields) (s : State) : Host.Outcome State Fault Refusal :=
  onGuard f s (runModular f 0x3B modMul)

/-- VBFLY (R159): D takes the sum and D + 1 the difference. -/
def execVbfly (f : Fields) (s : State) : Host.Outcome State Fault Refusal :=
  onGuard f s fun s => onUnit f s fun s =>
    match runBfly f.v (modqOf s (f.i16.toNat % 8)) (runA f s) (runBReg f s) (runC f s) with
    | .error e => s.runTrap f e
    | .ok (d, e) =>
      (s.coalesces d.hold).heldFor d.hold fun s =>
        let n := sixteenths d.segs
        let lat := if d.hold = 0 then 2 + n else 1
        let s := s.result f 0x3C f.slot.file f.d.toNat (some lat) (.run d.reg) d.flags
        (s.result f 0x3C f.slot.file (f.d.toNat + 1) (some lat) (.run e.reg) e.flags).onCur fun c =>
          c.occupy f s.bun.since n

/-- VBSCALE (R160). -/
def execVbscale (f : Fields) (s : State) : Host.Outcome State Fault Refusal :=
  onGuard f s (runOp f 0x3D fun s => runBscale f.v (runA f s) (runB f s) (runMask f s))

end Sys2Proof.Machine
end

