-- ==== Sys2Proof/Machine/Engine.lean ====
section
/-! DEFINITION. What the engine instructions share at issue: engine addresses, completion descriptors, the chase, queues,
shapes and group tables (R246 to R256, R263 to R267, R386). -/

namespace Sys2Proof.Machine

open Sys2Proof

/-! ### Checks at issue (R250) -/

/-- A kind that an instruction raises at issue, with the value it records. -/
structure Check where
  kind : Nat
  val : Word
  reason : Nat := 0
deriving DecidableEq, Repr

/-- A check that fails when its condition holds. -/
def chk (bad : Bool) (kind : Nat) (v : Word) : List Check := if bad then [⟨kind, v, 0⟩] else []

/-- Every failed check raises its kind; with none, the instruction goes on. -/
def State.checked (s : State) (f : Fields) (cs : List Check) (body : State → State) : State :=
  match cs with
  | [] => body s
  | _ => cs.foldl (fun s c => s.raise f c.kind c.val c.reason) s

/-- A privileged instruction raises PRIV in mode U (R27). -/
def onSuper (f : Fields) (s : State) (body : State → State) : State :=
  if s.bun.pre.modeS then body s else s.raise f kPRIV

/-- ADDR and SPACE of an engine address (Table 14-2). -/
def eaAddr (v : Word) : Nat := v.toNat % 2 ^ 56
def eaSpace (v : Word) : Nat := v.toNat / 2 ^ 56 % 4

/-- PROT for an engine address with a nonzero zero bit, a SPACE that the operand does not take, or a member beyond the
gang (Table 14-4). -/
def engChecks (v : Word) (spaces : List Nat) (size : Nat) : List Check :=
  chk (2 ^ 58 ≤ v.toNat || !(spaces.contains (eaSpace v)) || (eaSpace v = 0 && 2 ^ 21 ≤ eaAddr v)
    || (eaSpace v = 2 && size ≤ eaAddr v)) kPROT v

/-- Fields of a completion descriptor (Table 14-3). -/
def compAddr (v : Word) : Nat := v.toNat % 2 ^ 56
def compSp (v : Word) : Bool := v.getLsbD 56
def compNone (v : Word) : Bool := v.getLsbD 57
def compInc (v : Word) : Nat := v.toNat / 2 ^ 58 + 1

/-- The checks of a completion descriptor: `spOk` where the object may lie in scratchpad, `packedOk` where the command may
reach packed regions (R223, R249, R368). -/
def compChecks (c : Core) (v : Word) (spOk packedOk : Bool) : List Check :=
  if compNone v then chk (v.toNat ≠ 2 ^ 57) kPROT v
  else
    chk (compSp v && (!spOk || 2 ^ 21 ≤ compAddr v)) kPROT v
    ++ chk (compAddr v % 8 ≠ 0) kUNALIGN (BitVec.ofNat 64 (compAddr v))
    ++ chk (compSp v && !packedOk && c.meetsPacked (compAddr v) (compAddr v + 8)) kPKDACC (BitVec.ofNat 64 (compAddr v))

/-- PROT for a range of a SPACE that ends beyond it, from an integer bound. -/
def rangeChecks (space : Nat) (lo hi : Int) : List Check :=
  let top : Int := if space = 0 then 2 ^ 21 else 2 ^ 56
  chk (lo < 0 || top < hi) kPROT (BitVec.ofInt 64 lo)

/-- PKDACC for a scratchpad range that meets the packed-region table (R223). -/
def packedChecks (c : Core) (lo hi : Nat) : List Check := chk (c.meetsPacked lo hi) kPKDACC (BitVec.ofNat 64 lo)

/-! ### The chase (R251 to R253) -/

/-- Registering a command's ranges: empty ones take no entry. -/
def Core.claim (c : Core) (cmd : Nat) (reads writes : List (Nat × Nat)) : Core :=
  let add (w : Bool) (c : Core) (r : Nat × Nat) : Core :=
    if r.1 < r.2 then { c with nextId := c.nextId + 1, chase := c.chase ++ [⟨c.nextId, cmd, r.1, r.2, w⟩] } else c
  writes.foldl (add true) (reads.foldl (add false) c)

/-- Freeing a command's ranges of one kind. -/
def Core.freeRanges (c : Core) (cmd : Nat) (write : Bool) : Core :=
  { c with chase := c.chase.filter fun r => !(r.cmd == cmd && r.write == write) }

def Core.freeAll (c : Core) (cmd : Nat) : Core := { c with chase := c.chase.filter fun r => r.cmd ≠ cmd }

/-- Whether a range registered before one of the command's own blocks it (R252). -/
def chaseWaits (cmd : Nat) : List ChaseRange → List ChaseRange → Bool
  | _, [] => false
  | seen, r :: rest =>
    (r.cmd == cmd && seen.any fun q => q.cmd ≠ cmd && (q.write || r.write) && overlaps q.lo q.hi r.lo r.hi)
      || chaseWaits cmd (seen ++ [r]) rest

def Core.engineWaits (c : Core) (cmd : Nat) : Bool := chaseWaits cmd [] c.chase

/-- The write range of a galley fetch shrinks past one landed row (R261). -/
def shrinkGo (cmd by_ : Nat) : List ChaseRange → List ChaseRange
  | [] => []
  | r :: rest =>
    if r.cmd = cmd ∧ r.write then (if r.lo + by_ < r.hi then { r with lo := r.lo + by_ } :: rest else rest)
    else r :: shrinkGo cmd by_ rest

/-! ### Issue (R246) -/

/-- Queue entries of each engine. -/
def Eng.depth : Eng → Nat
  | .copy => 16 | .galley => 8 | .message => 16 | .coll => 4 | .matrix => 8 | .key => 4 | .mark => 44

/-- Entries in use in an engine's queue. -/
def Core.queued (c : Core) (e : Eng) : Nat :=
  match e with
  | .matrix => c.mats.length
  | .key => c.keys.length
  | e => (c.cmds.filter fun m => m.eng == e).length

/-- The command of the issuing instruction. -/
def State.command (s : State) (f : Fields) (e : Eng) (opc : Nat) : Cmd :=
  { id := s.bun.cur.nextId, eng := e, opc := opc, f := f, hnd := s.bun.hnd, hdr := s.bun.hdr,
    ea := opA f s, eb := opBReg f s, ec := opC f s, user := !s.bun.pre.modeS }

/-- Issuing a command: its bundle stalls while the queue or the chase has no room for it. -/
def State.fork (s : State) (m : Cmd) (reads writes : List (Nat × Nat)) (enter : Core → Core) : State :=
  let n := ((reads ++ writes).filter fun r => r.1 < r.2).length
  if m.eng.depth ≤ s.bun.cur.queued m.eng ∨ 64 < s.bun.cur.chase.length + n then s.stalls
  else s.onCur fun c => enter ({ c with nextId := c.nextId + 1 }.claim m.id reads writes)

/-- Issuing a command of an engine other than the matrix engine and the key port. -/
def State.forkCmd (s : State) (m : Cmd) (reads writes : List (Nat × Nat)) : State :=
  s.fork m reads writes fun c => { c with cmds := c.cmds ++ [m] }

/-! ### Shapes (R254 to R256) -/

/-- A copy's shape: handler, and for each dimension its extent and strides. -/
structure Shape where
  handler : Nat
  dims : List (Nat × Int × Int)
deriving DecidableEq, Repr

/-- Bits of a block. -/
def blockBits (b : List Byte) (lo w : Nat) : Nat := bytesToNat b / 2 ^ lo % 2 ^ w

/-- The shape of a 256-byte block, none when it is malformed (Table 14-6). -/
def shapeOfBlock (b : List Byte) (toQueue : Bool) : Option Shape :=
  let nd := blockBits b 0 64
  let entry (k : Nat) : Nat := blockBits b (128 + 192 * k) 192
  let dim (k : Nat) : Nat × Int × Int :=
    let e := entry k
    (e % 2 ^ 32, (BitVec.ofNat 64 (e / 2 ^ 64)).toInt, (BitVec.ofNat 64 (e / 2 ^ 128)).toInt)
  let h := blockBits b 64 64
  if nd = 0 || 9 < nd || 2 ^ 56 ≤ h || (!toQueue && h ≠ 0) || blockBits b 1856 192 ≠ 0
      || (List.range 9).any (fun k => if k < nd then entry k / 2 ^ 32 % 2 ^ 32 ≠ 0 else entry k ≠ 0) then none
  else some ⟨h, (List.range nd).map dim⟩

/-- The stride of dimension 0 in a forme's own order: none for a packed row (R255, R256). -/
def formeStep (f : Forme) : Int := if f.runpk || fmtBits f.fmt < 8 then 0 else fmtBits f.fmt / 8

/-- The shape of a length 2 COPY (R254). -/
def shapeOfFormes (fs fd : Forme) : Shape :=
  ⟨0, [(fs.d0, formeStep fs, formeStep fd), (fs.d1, fs.pitch, fd.pitch)]⟩

/-- A dense side's unit in bytes, and its dimensions as extents of units and strides: a row of elements narrower than a
byte is a row of bytes. -/
def denseDims (bits : Nat) (dims : List (Nat × Int)) : Nat × List (Nat × Int) :=
  if bits < 8 then
    match dims with
    | (e, _) :: r => (1, (e * bits / 8, 1) :: r)
    | [] => (1, [])
  else (bits / 8, dims)

/-- Elements of a list of dimensions. -/
def dimCount (dims : List (Nat × Int)) : Nat := (dims.map Prod.fst).foldl (· * ·) 1

/-- The offset of the k-th element in linear order. -/
def offsetAt : List (Nat × Int) → Nat → Int
  | [], _ => 0
  | (e, st) :: r, k => (k % e : Nat) * st + offsetAt r (k / e)

/-- The half-open bounds of pieces of a size laid out from a base; empty when no piece moves. -/
def dimBounds (base size : Nat) (dims : List (Nat × Int)) : Int × Int :=
  if dimCount dims = 0 then (base, base)
  else
    let lo := dims.foldl (fun (a : Int) d => a + min 0 (((d.1 : Int) - 1) * d.2)) (base : Int)
    let hi := dims.foldl (fun (a : Int) d => a + max 0 (((d.1 : Int) - 1) * d.2)) (base : Int)
    (lo, hi + size)

/-- The most bytes that n elements of a tag take as run-packed records, and the least (R132, R256). -/
def packedMost (tag n : Nat) : Nat :=
  let sb := slugBytes tag
  n / 128 * (16 + 128 * sb) + (if n % 128 = 0 then 0 else (16 + n % 128 * sb + 15) / 16 * 16)
def packedLeast (tag : Nat) : Nat := (16 + slugBytes tag + 15) / 16 * 16

/-- One side of a copy: its bounds at most and at least, and the rows' own least ranges of a run-packed side. -/
structure Side where
  most : Int × Int
  least : Int × Int
  rows : List (Int × Int)
deriving DecidableEq, Repr

def sideOf (fm : Forme) (base : Nat) (dims : List (Nat × Int)) : Side :=
  if fm.runpk then
    let tail := dims.drop 1
    let n := (dims.headD (0, 0)).1
    if n = 0 then ⟨(base, base), (base, base), []⟩
    else
      let w := packedLeast fm.fmt
      ⟨dimBounds base (packedMost fm.fmt n) tail, dimBounds base w tail,
        (List.range (dimCount tail)).map fun k =>
          let o : Int := base + offsetAt tail k
          (o, o + w)⟩
  else
    let d := denseDims (fmtBits fm.fmt) dims
    let b := dimBounds base d.1 d.2
    ⟨b, b, []⟩

/-- A scratchpad range as the chase holds it. -/
def spRange (r : Int × Int) : Nat × Nat := (r.1.toNat, min r.2.toNat (2 ^ 21))

/-! ### Formes and coordinates of matrix operands (R275 to R281) -/

/-- Class of a forme (Table 15-2): 1 F32K, 2 F64K, 3 F128K, 4 R, 5 M; 0 none. -/
def classOf (fm : Forme) : Nat :=
  if fm.runpk then 0
  else match fm.fmt with
    | 0x02 | 0x03 => 1
    | 0x04 | 0x05 | 0x06 | 0x07 => 2
    | 0x08 => if fm.tolscale then 4 else 3
    | 0x10 | 0x11 => 4
    | 0x19 => 5
    | _ => 0

/-- Ks of a class. -/
def classKs (cls : Nat) : Nat :=
  match cls with
  | 1 => 32 | 2 => 64 | 3 => 128 | 4 => 128 | 5 => 8 | _ => 0

/-- The mode of a class: 1 float, 2 residue, 3 modular. -/
def classMode (cls : Nat) : Nat := if cls = 4 then 2 else if cls = 5 then 3 else 1

/-- The exponent of a residue operand (R277). -/
def imageExp (fm : Forme) : Int := if fm.fmt = 0x08 then -1 + ((fm.scale % 256 : Nat) - 127 : Int) else 0

/-- ROW0 and COL0 (Table 15-4). -/
def coordRow (v : Word) : Nat := v.toNat % 2 ^ 32
def coordCol (v : Word) : Nat := v.toNat / 2 ^ 32

/-- The elements of a forme that a matrix operation reaches: its rows and columns cut at the forme, as byte bounds of the
elements and of the block scales; empty when there are none (R280). -/
structure Patch where
  elems : Nat × Nat
  scales : Nat × Nat
deriving DecidableEq, Repr

def patchOf (fm : Forme) (base : Nat) (coord : Word) (rows cols : Nat) : Patch :=
  let r0 := coordRow coord
  let c0 := coordCol coord
  let r1 := min (r0 + rows) fm.d1
  let c1 := min (c0 + cols) fm.d0
  if r1 ≤ r0 ∨ c1 ≤ c0 then ⟨(0, 0), (0, 0)⟩
  else
    let b := fmtBits fm.fmt
    let w := (fm.d0 + 31) / 32
    ⟨(base + r0 * fm.pitch + c0 * b / 8, base + (r1 - 1) * fm.pitch + (c1 * b + 7) / 8),
      if fm.mxb then (fm.scale + r0 * w + c0 / 32, fm.scale + (r1 - 1) * w + (c1 - 1) / 32 + 1) else (0, 0)⟩

/-- PROT and PKDACC of a patch (R281). -/
def Patch.checks (p : Patch) (c : Core) : List Check :=
  chk (2 ^ 21 < p.elems.2) kPROT (BitVec.ofNat 64 p.elems.1)
  ++ chk (2 ^ 21 < p.scales.2) kPROT (BitVec.ofNat 64 p.scales.1)
  ++ packedChecks c p.elems.1 p.elems.2 ++ packedChecks c p.scales.1 p.scales.2

/-- UNALIGN of a base and of coordinates (R281). -/
def coordChecks (fm : Forme) (base : Nat) (coord : Word) : List Check :=
  let b := fmtBits fm.fmt
  chk (8 ≤ b && base % (b / 8) ≠ 0) kUNALIGN (BitVec.ofNat 64 base)
  ++ chk (coordCol coord * b % 8 ≠ 0 || (fm.mxb && coordCol coord % 32 ≠ 0)) kUNALIGN coord

/-! ### Group tables (R266, R386) -/

def rankOf (v : Nat) : Rank :=
  ⟨v % 2 ^ 10, v / 2 ^ 10 % 2 ^ 8, v / 2 ^ 18 % 2 ^ 13, v / 2 ^ 31 % 2 ^ 11, v / 2 ^ 64 % 2 ^ 32⟩

/-- The device's read of a context's space, without its effects on translation. -/
def State.peek (s : State) (ctx dva n : Nat) : Except Nat (List Byte) := (s.gRead none ctx dva n accLoad false).1

/-- The address of entry n of a group table: each entry follows the one before it. -/
def State.groupAt (s : State) (ctx : Nat) : Nat → Nat → Except Nat Nat
  | 0, a => .ok a
  | n + 1, a =>
    match s.peek ctx a 16 with
    | .error k => .error k
    | .ok h => s.groupAt ctx n (a + 16 + 16 * (bytesToNat h % 2 ^ 17))

/-- The ranks of a handle, in order; OWN where the table has no such entry. -/
def State.groupOf (s : State) (ctx handle : Nat) : Except Nat (List Rank) :=
  let c := s.context ctx
  if c.grpLen ≤ handle then .error kOWN
  else match s.groupAt ctx handle c.grpDva.toNat with
    | .error k => .error k
    | .ok a =>
      match s.peek ctx a 16 with
      | .error k => .error k
      | .ok h =>
        let n := bytesToNat h
        if n = 0 ∨ 65536 < n then .error kOWN
        else match s.peek ctx (a + 16) (16 * n) with
          | .error k => .error k
          | .ok bs => .ok ((List.range n).map fun i => rankOf (bytesToNat ((bs.drop (16 * i)).take 16)))

/-- Whether a slot that is open pauses a home of the table up to a handle's entry (R300, R301). -/
def State.groupPaused (s : State) (ctx handle : Nat) : Bool :=
  let c := s.context ctx
  s.sys.slotOpen.isSome && handle < c.grpLen && (match s.groupAt ctx (handle + 1) c.grpDva.toNat with
    | .ok a => s.rangePaused ctx c.grpDva.toNat (a - c.grpDva.toNat)
    | .error _ => s.dvaPaused ctx c.grpDva.toNat)

/-- The core of this package that a rank names: member MEMBER of gang GIDX of the launch most recently placed from its
queue. -/
def State.rankCore (s : State) (r : Rank) : Option Nat :=
  let ls := s.sys.launches.filter fun l => l.queue == r.queue && l.ctx == r.ctx && s.sys.gangs.any fun g => g.launch == l.id
  match ls.getLast? with
  | none => none
  | some l =>
    match s.sys.gangs.find? fun g => g.launch == l.id && g.gidx == r.gidx with
    | none => none
    | some g => g.cores[r.member]?

/-- The open session of a tenant with a package that has the highest number (R386). -/
def State.sessionWith (s : State) (vf pkg : Nat) : Option FabSession :=
  (s.sys.fabric.filter fun e => e.vf == vf && e.peer == pkg).foldl (fun a e => match a with
    | none => some e
    | some b => if b.num < e.num then some e else some b) none

end Sys2Proof.Machine
end

