-- ==== Sys2Proof/Machine/CopyPlan.lean ====
section
/-! DEFINITION. What a COPY moves: its pieces, its run-packed rows and the records of a run-packed destination (R254 to
R257). -/

namespace Sys2Proof.Machine

open Sys2Proof

/-- The shape of a COPY as issued. -/
def Cmd.shape (m : Cmd) : Shape :=
  let fs := m.formes.headD 0
  let fd := m.formes.getD 1 0
  match m.f.len with
  | .three => (shapeOfBlock m.block (eaSpace m.eb = 2)).getD ⟨0, []⟩
  | _ => shapeOfFormes fs fd

/-- Piece size and the dimensions of the source and of the destination, in pieces. -/
def Cmd.pieces (m : Cmd) : Nat × List (Nat × Int) × List (Nat × Int) :=
  let b := fmtBits (m.formes.headD 0).fmt
  let dims := m.shape.dims
  let a := denseDims b (dims.map fun d => (d.1, d.2.1))
  (a.1, a.2, (denseDims b (dims.map fun d => (d.1, d.2.2))).2)

/-- Pieces of a COPY. -/
def Cmd.total (m : Cmd) : Nat := dimCount m.pieces.2.1

/-- Bytes of one chunk: 4 KiB, or a message entry of 960 (R257, R258). -/
def Cmd.chunkBytes (m : Cmd) : Nat := if eaSpace m.eb = 2 then 960 else 4096

/-- The pieces of chunk k: the first, and how many. -/
def Cmd.chunkSpan (m : Cmd) (k : Nat) : Nat × Nat :=
  let per := m.chunkBytes / max 1 m.pieces.1
  (k * per, min per (m.total - k * per))

/-- The chunk that a COPY of n chunks performs as its k-th. Its writes to global memory are unordered among themselves (R234):
the order is a free value. -/
def Cmd.turn (m : Cmd) (n k : Nat) : Nat :=
  let o := Config.chunkOrder m.id m.ea m.eb n
  if n ≤ 1 ∨ eaSpace m.eb ≠ 1 then k
  else if o.length = n ∧ (List.range n).all (fun i => o.contains i) then o.getD k k
  else k

/-- Addresses of n pieces from a first one. -/
def pieceAddrs (base : Nat) (dims : List (Nat × Int)) (first n : Nat) : List Nat :=
  (List.range n).map fun i => ((base : Int) + offsetAt dims (first + i)).toNat

def Cmd.sources (m : Cmd) (first n : Nat) : List Nat := pieceAddrs (eaAddr m.ea) m.pieces.2.1 first n
def Cmd.targets (m : Cmd) (first n : Nat) : List Nat := pieceAddrs (eaAddr m.eb) m.pieces.2.2 first n

def Cmd.fromPacked (m : Cmd) : Bool := (m.formes.headD 0).runpk
def Cmd.toPacked (m : Cmd) : Bool := (m.formes.getD 1 0).runpk

/-- Whether a COPY reads its whole source before it writes: a run-packed side, two ranges of one scratchpad that meet, or
two sides in global memory (R255). -/
def Cmd.readsAhead (m : Cmd) : Bool :=
  let p := m.pieces
  let a := dimBounds (eaAddr m.ea) p.1 p.2.1
  let b := dimBounds (eaAddr m.eb) p.1 p.2.2
  m.fromPacked || m.toPacked || (eaSpace m.ea = 1 && eaSpace m.eb = 1)
    || (eaSpace m.ea = 0 && eaSpace m.eb = 0 && overlaps a.1.toNat a.2.toNat b.1.toNat b.2.toNat)

/-- Elements of a run-packed row from its records (R256): FMTMIS when a record is malformed, carries another tag or
overruns the row. -/
def unpackRow (c : Core) (tag : Nat) : Nat → Nat → Nat → Except (Nat × Word) (List Nat)
  | _, _, 0 => .ok []
  | 0, a, _ => .error (kFMTMIS, BitVec.ofNat 64 a)
  | n + 1, a, left =>
    let v := BitVec.ofNat 64 a
    if 2 ^ 21 < a + 16 then .error (kPROT, v)
    else
      let rd (off k : Nat) : Nat := readN c.sp (a + off) k
      let size := packedSize rd
      if 2 ^ 21 < a + size then .error (kPROT, v)
      else if let some w := c.badWord a (a + size) false then .error (kSPSOFT, softAddr w)
      else match loadPacked v rd with
      | .error _ => .error (kFMTMIS, v)
      | .ok r =>
        if r.tag ≠ tag ∨ left < r.len then .error (kFMTMIS, v)
        else match unpackRow c tag n ((a + size + 15) / 16 * 16) (left - r.len) with
          | .error e => .error e
          | .ok rest => .ok ((expand r).map (fun w => w.toNat % 2 ^ fmtBits tag) ++ rest)

/-- The bytes of a row of raw elements. -/
def rowImage (fmt : Nat) (es : List Nat) : List Byte := natToBytes (rowBytes fmt es.length) (rowOfElems fmt es)

/-- Where a run-packed row of n elements ends as scratchpad stands, none where its records do not make it up (R256). -/
def rowEnd (sp : List Host.Cell) (tag : Nat) : Nat → Nat → Nat → Option Nat
  | _, a, 0 => some a
  | 0, _, _ => none
  | n + 1, a, left =>
    let rd (off k : Nat) : Nat := readN sp (a + off) k
    match loadPacked (BitVec.ofNat 64 a) rd with
    | .error _ => none
    | .ok r =>
      if r.tag ≠ tag ∨ left < r.len then none
      else if left = r.len then some (a + packedSize rd)
      else rowEnd sp tag n ((a + packedSize rd + 15) / 16 * 16) (left - r.len)

/-- The rows of a run-packed source, one after another as dense bytes. -/
def unpackRows (c : Core) (m : Cmd) (ext : Nat) : List Nat → List Byte → Except (Nat × Word) (List Byte)
  | [], out => .ok out
  | a :: rest, out =>
    match unpackRow c (m.formes.headD 0).fmt 131073 a ext with
    | .error e => .error e
    | .ok es => unpackRows c m ext rest (out ++ rowImage (m.formes.headD 0).fmt es)

/-- Base addresses of the rows of a side. -/
def Cmd.rowBases (m : Cmd) (base : Nat) (stride : Nat × Int × Int → Int) : List Nat :=
  let tail := (m.shape.dims.drop 1).map fun d => (d.1, stride d)
  if (m.shape.dims.headD (0, 0, 0)).1 = 0 then [] else pieceAddrs base tail 0 (dimCount tail)

/-- Raw elements of a dense buffer's bytes. -/
def rawElems (fmt n : Nat) (bs : List Byte) : List Nat :=
  let x := bytesToNat bs
  (List.range n).map fun i => elemOfRow fmt x i

/-- The records that a row of raw elements makes (R256): each takes the first slugs of what remains. -/
def packRow (fmt : Nat) : Nat → List Nat → List RunReg
  | _, [] => []
  | 0, _ => []
  | n + 1, es =>
    let r := denseGo (fun i => readElem fmt none (es.getD i 0)) es.length 0 [] 0 0
    ⟨readTag fmt, r.1.reverse⟩ :: packRow fmt n (es.drop (max 1 r.2.1))

/-- Records one after another from an address, each on a 16-byte boundary. -/
def placeRecords : Nat → List RunReg → List (Nat × List Byte)
  | _, [] => []
  | a, r :: rest => (a, packRun r) :: placeRecords ((a + (packRun r).length + 15) / 16 * 16) rest

/-- Every record of a run-packed destination: address and bytes. -/
def Cmd.records (m : Cmd) (stream : List Byte) : List (Nat × List Byte) :=
  let fmt := (m.formes.headD 0).fmt
  let ext := (m.shape.dims.headD (0, 0, 0)).1
  let w := rowBytes fmt ext
  let rows := m.rowBases (eaAddr m.eb) fun d => d.2.2
  (rows.zipIdx).flatMap fun r =>
    let bs := (stream.drop (r.2 * w)).take w
    placeRecords r.1 (packRow fmt ext (rawElems fmt ext bs))

/-- Bytes of a COPY's source as its dense stream has them. -/
def Cmd.streamLen (m : Cmd) : Nat := m.total * m.pieces.1

/-- Source bytes held so far by a command that reads ahead. -/
def Cmd.held (m : Cmd) : Nat := (m.snap.getD []).length

/-- Whether a COPY still reads its source in global memory ahead of its first write. -/
def Cmd.copyReading (m : Cmd) : Bool := m.readsAhead && !m.fromPacked && eaSpace m.ea = 1 && m.held < m.streamLen

/-- Chunks of a COPY once its stream is known, or the least number it has before. -/
def Cmd.chunks (m : Cmd) : Nat :=
  if m.toPacked then
    match (if m.copyReading then none else m.snap) with
    | some bs => (m.records bs).length
    | none => min 1 m.total
  else
    let per := m.chunkBytes / max 1 m.pieces.1
    (m.total + per - 1) / max 1 per

/-- The chunk that comes next: its first piece, and how many. -/
def Cmd.nextSpan (m : Cmd) : Nat × Nat := m.chunkSpan (m.turn m.chunks m.progress)

end Sys2Proof.Machine
end

