-- ==== Sys2Proof/Machine/EngineIssue.lean ====
section
/-! DEFINITION. The engine instructions of XE at issue, but for the matrix engine's and the key port's (R246 to R272,
R375). -/

namespace Sys2Proof.Machine

open Sys2Proof

/-- A forme of the bundle's table. -/
def State.formeAt (s : State) (n : Nat) : Forme := s.bun.pre.formes.toList.getD (n % 64) 0

/-! ### COPY -/

/-- FMTMIS of a copy's formes (R254, R256). -/
def copyFormes (fs fd : Forme) (a b : Nat) : List Check :=
  chk (fs.empty || fd.empty || fs.fmt ≠ fd.fmt || fs.mxb != fd.mxb || fs.tolscale != fd.tolscale
    || (fs.runpk && (fd.runpk || a ≠ 0)) || (fd.runpk && b ≠ 0)) kFMTMIS 0

/-- The checks of a shape against the formes (R255, R256). DESIGN CHOICE: a SPACE 2 destination, whose DSTR places nothing
(R257), has no stride to be aligned (log entry 48). -/
def shapeChecks (fs fd : Forme) (sh : Shape) (src dst : Nat) (toQueue : Bool) : List Check :=
  let b := fmtBits fs.fmt
  let d0 := sh.dims.headD (0, 0, 0)
  let packed := fs.runpk || fd.runpk
  let bad (fm : Forme) (st : Int) : Bool := fm.runpk && st ≠ 0
  let size : Int := b / 8
  let odd (fm : Forme) (v : Int) : Bool := if fm.runpk then v % 16 ≠ 0 else 8 ≤ b && v % size ≠ 0
  let strides := sh.dims.flatMap fun d =>
    chk (odd fs d.2.1) kUNALIGN (BitVec.ofInt 64 d.2.1)
    ++ chk (!toQueue && odd fd d.2.2) kUNALIGN (BitVec.ofInt 64 d.2.2)
  chk (b < 8 && (d0.2.1 ≠ 0 || d0.2.2 ≠ 0 || d0.1 * b % 8 ≠ 0)) kFMTMIS 0
  ++ chk (bad fs d0.2.1 || bad fd d0.2.2 || (packed && 65535 < d0.1)) kFMTMIS 0
  ++ chk (sh.handler % 4 ≠ 0) kUNALIGN (BitVec.ofNat 64 sh.handler)
  ++ chk (odd fs src) kUNALIGN (BitVec.ofNat 64 src)
  ++ chk (!toQueue && odd fd dst) kUNALIGN (BitVec.ofNat 64 dst)
  ++ strides

/-- The packed-region table after a run-packed destination has marked its rows, none when a ninth entry would be
needed. -/
def markRows (c : Core) (rows : List (Int × Int)) : Option Core :=
  rows.foldl (fun a r => match a with
    | none => none
    | some c => (c.marked r.1.toNat r.2.toNat).map fun t => { c with packed := t }) (some c)

/-- The bounds of the bytes that one side reads from scratchpad (R251): those of the records that make up the rows of a
run-packed side, when they can be read as the command issues, else of as many records as the rows could have. -/
def sourceSpan (c : Core) (fs : Forme) (base : Nat) (dims : List (Nat × Int)) : Int × Int :=
  let tail := dims.drop 1
  let n := (dims.headD (0, 0)).1
  if !fs.runpk then (sideOf fs base dims).most
  else if n = 0 ∨ dimCount tail = 0 then (base, base)
  else
    let rows := (List.range (dimCount tail)).map fun k => ((base : Int) + offsetAt tail k).toNat
    let ends := rows.filterMap fun a => rowEnd c.sp fs.fmt 131073 a n
    let lo := rows.foldl min (rows.headD 0)
    let hi := ends.foldl max 0
    if ends.length = rows.length && !(c.chaseBlocks lo hi false) then (lo, hi)
    else dimBounds base (n * packedLeast fs.fmt) tail

/-- The bytes of a range of the context's space as the accesses issued before the bundle leave them (R233), none where it
cannot be read. -/
def State.asIssued (s : State) (a n : Nat) : Option (List Byte) :=
  let put (s : State) (g : GAcc) : State := match (g.effect (s.physRead g.pa g.bytes)).write with
    | none => s
    | some v => s.physWrite g.pa (natToBytes g.bytes v)
  match (s.bun.earlier.foldl put s).peek s.bun.cur.ctx a n with
  | .ok bs => some bs
  | .error _ => none

/-- Pieces of one size of the context's space, as `asIssued` reads them. -/
def State.piecesIssued (s : State) (size : Nat) : List Nat → Option (List Byte)
  | [] => some []
  | a :: rest => match s.asIssued a size, s.piecesIssued size rest with
    | some x, some y => some (x ++ y)
    | _, _ => none

/-- The ranges of the records that a run-packed destination will take, from its source as the command issues; none while that
cannot be read: a pending write of the chase meets it, or an access to it faults (log entry 48). -/
def packedTargets (s : State) (m : Cmd) (src : Int × Int) : Option (List (Int × Int)) :=
  let c := s.bun.cur
  let known :=
    if !m.toPacked then none
    else if eaSpace m.ea = 1 then s.piecesIssued m.pieces.1 (m.sources 0 m.total)
    else if 0 ≤ src.1 && src.2 ≤ 2 ^ 21 && !(c.chaseBlocks src.1.toNat src.2.toNat false) then
      some ((m.sources 0 m.total).flatMap fun a => readBytes c.sp a m.pieces.1)
    else none
  known.map fun bs => (m.records bs).map fun r => ((r.1 : Int), ((r.1 + r.2.length : Nat) : Int))

/-- The destination side of a copy, its run-packed rows as they will be where that is known. -/
def targetSide (fd : Forme) (base : Nat) (dims : List (Nat × Int)) (known : Option (List (Int × Int))) : Side :=
  let d := sideOf fd base dims
  match known with
  | none => d
  | some rs =>
    let b : Int × Int := (rs.foldl (fun a r => min a r.1) ((rs.map Prod.fst).headD base), rs.foldl (fun a r => max a r.2) base)
    ⟨b, b, rs⟩

/-- PKDACC of a scratchpad destination (R206, R222, R223). The entries that a run-packed one takes are judged where its records
are known; else as each is written (log entry 48). -/
def destChecks (c : Core) (fd : Forme) (d : Side) (known : Bool) : List Check :=
  let r := spRange d.least
  let v := BitVec.ofNat 64 r.1
  if fd.runpk then
    chk (d.rows.any fun r => overlaps r.1.toNat r.2.toNat c.mq.base (c.mq.base + 64 * c.mq.size)) kPKDACC v
    ++ chk (known && (markRows c d.rows).isNone) kPKDACC v
  else chk (c.packed.any fun p => overlaps r.1 r.2 p.1 p.2 && !(r.1 ≤ p.1 && p.2 ≤ r.2)) kPKDACC v

/-- The packed-region table as a COPY issues: a dense destination takes the entries that it covers whole out, a run-packed one
whose records are known is marked (R222). -/
def markTarget (fd : Forme) (d : Side) (known : Bool) (c : Core) : Core :=
  if !fd.runpk then c.unmark (spRange d.most).1 (spRange d.most).2
  else if known then (markRows c d.rows).getD c
  else c

/-- Bytes of the destination stream of a SPACE 2 copy. -/
def streamBytes (fm : Forme) (sh : Shape) : Nat := dimCount (sh.dims.map fun d => (d.1, (0 : Int))) * fmtBits fm.fmt / 8

/-- COPY once its shape is known. -/
def copyWith (f : Fields) (block : List Byte) (sh : Shape) (pre : List Check) (s : State) : State :=
  let c := s.bun.cur
  let fs := s.formeAt (f.i16.toNat % 64)
  let fd := s.formeAt (f.i16.toNat / 64 % 64)
  let m := { s.command f .copy 0x10 with formes := [fs, fd], block := block }
  let a := eaSpace m.ea
  let b := eaSpace m.eb
  let src := sideOf fs (eaAddr m.ea) (sh.dims.map fun d => (d.1, d.2.1))
  let reads := sourceSpan c fs (eaAddr m.ea) (sh.dims.map fun d => (d.1, d.2.1))
  let known := packedTargets s m reads
  let dst := targetSide fd (eaAddr m.eb) (sh.dims.map fun d => (d.1, d.2.2)) known
  let first := (min 960 (streamBytes fd sh) + 63) / 64
  let cs := pre ++ shapeChecks fs fd sh (eaAddr m.ea) (eaAddr m.eb) (b = 2)
    ++ rangeChecks a src.least.1 src.least.2
    ++ (if b = 2 then chk (first ≠ 0 && c.credits < first + 1) kPROT (BitVec.ofNat 64 (first + 1))
        else rangeChecks b dst.least.1 dst.least.2)
    ++ (if b = 0 then destChecks { c with mq := s.bun.pre.mq } fd dst known.isSome else [])
  s.checked f cs fun s =>
    let reads := if a = 0 then [spRange reads] else []
    let writes := if b = 0 then [spRange dst.most] else []
    s.fork m reads writes fun c =>
      (fun k => if b = 0 then markTarget fd dst known.isSome k else k) { c with cmds := c.cmds ++ [m] }

/-- COPY (R254 to R257). -/
def execCopy (f : Fields) (s : State) : Host.Outcome State Fault Refusal :=
  onGuard f s fun s =>
    let fs := s.formeAt (f.i16.toNat % 64)
    let fd := s.formeAt (f.i16.toNat / 64 % 64)
    let a := eaSpace (opA f s)
    let b := eaSpace (opBReg f s)
    let pre := engChecks (opA f s) [0, 1] 0
      ++ engChecks (opBReg f s) (if a = 0 then [0, 1, 2] else [0, 1]) s.bun.pre.gangSize
      ++ compChecks s.bun.cur (opC f s) true true ++ copyFormes fs fd a b
    match f.len with
    | .three =>
      let o := f.l32.toNat
      let bad := chk (2 ^ 21 < o + 256) kPROT (BitVec.ofNat 64 o)
        ++ (if o % 64 ≠ 0 then packedChecks s.bun.cur o (o + 256) ++ chk true kUNALIGN (BitVec.ofNat 64 o) else [])
      if !bad.isEmpty then s.checked f (pre ++ bad) id
      else
        let s := s.spChecks f o (o + 256) false (before := true)
        if s.bun.stall then s.checked f pre id
        else
          let block := readBytes s.bun.pre.sp o 256
          match shapeOfBlock block (b = 2) with
          | none => s.checked f (pre ++ chk true kFMTMIS 0) id
          | some sh => copyWith f block sh pre s
    | _ =>
      let pre := pre ++ chk (fs.d0 ≠ fd.d0 || fs.d1 ≠ fd.d1) kFMTMIS 0
      copyWith f [] (shapeOfFormes fs fd) pre s

/-! ### Galleys -/

/-- Fields of a ring descriptor (Table 14-8). -/
def ringBase (v : Word) : Nat := v.toNat % 2 ^ 21
def ringRow (v : Word) : Nat := v.toNat / 2 ^ 24 % 2 ^ 16
def ringRows (v : Word) : Nat := v.toNat / 2 ^ 40 % 2 ^ 12

/-- Whether a ring descriptor meets its limits (R259). -/
def ringOk (v : Word) : Bool :=
  v.toNat / 2 ^ 21 % 8 == 0 && v.toNat / 2 ^ 52 == 0 && ringBase v % 64 == 0 && ringRow v % 64 == 0
    && 64 ≤ ringRow v && 2 ≤ ringRows v && ringRows v ≤ 4095 && ringBase v + ringRow v * ringRows v ≤ 2 ^ 21

/-- The ring slot of a row. -/
def Galley.slot (g : Galley) (row : Nat) : Nat := (row - g.start) % ringRows g.ring

/-- The ranges of n rows from a row on: two where they wrap (R261). -/
def Galley.ranges (g : Galley) (row n : Nat) : List (Nat × Nat) :=
  let rows := ringRows g.ring
  let w := ringRow g.ring
  let b := ringBase g.ring
  let k := g.slot row
  if n = 0 ∨ rows = 0 then []
  else if rows ≤ n then [(b + k * w, b + rows * w), (b, b + k * w)]
  else if k + n ≤ rows then [(b + k * w, b + (k + n) * w)]
  else [(b + k * w, b + rows * w), (b, b + (k + n - rows) * w)]

/-- Galley g of a core. -/
def Core.galley (c : Core) (g : Nat) : Galley := c.galleys.toList.getD (g % 8) {}

def Core.setGalley (c : Core) (g : Nat) (v : Galley) : Core := { c with galleys := c.galleys.setIfInBounds (g % 8) v }

/-- PKDACC of a galley's ring (R223). -/
def ringChecks (c : Core) (rs : List (Nat × Nat)) : List Check := rs.flatMap fun r => packedChecks c r.1 r.2

/-- GALSET (R259). -/
def execGalset (f : Fields) (s : State) : Host.Outcome State Fault Refusal :=
  onGuard f s fun s =>
    let c := s.bun.cur
    let m := s.command f .galley 0x11
    let fm := s.formeAt (f.i16.toNat / 8 % 64)
    let start := match f.len with
      | .three => f.l32.toNat
      | _ => 0
    let g : Galley := ⟨true, BitVec.ofNat 64 (eaAddr m.ea), m.eb, start, start, fm⟩
    let rs := g.ranges start (ringRows m.eb)
    let cs := engChecks m.ea [1] 0 ++ compChecks c m.ec true false ++ chk (!(ringOk m.eb)) kPROT m.eb
      ++ chk (fm.empty || fm.runpk || (ringOk m.eb && ringRow m.eb < rowBytes fm.fmt fm.d0)) kFMTMIS 0
      ++ (if ringOk m.eb then ringChecks c rs else [])
    s.checked f cs fun s =>
      (s.forkCmd { m with formes := [fm], gal := g } [] rs).onCur fun c => c.setGalley (f.i16.toNat) g

/-- GALADV (R260). -/
def execGaladv (f : Fields) (s : State) : Host.Outcome State Fault Refusal :=
  onGuard f s fun s =>
    let c := s.bun.cur
    let m := s.command f .galley 0x12
    let n := f.i16.toNat / 8
    let g := c.galley f.i16.toNat
    if !g.bound ∨ ringRows g.ring < n then s.raise f kILLB 0 0xB
    else
      let first := g.head + ringRows g.ring
      let rs := g.ranges first n
      s.checked f (compChecks c m.ec true false ++ ringChecks c rs) fun s =>
        (s.forkCmd { m with formes := [g.forme], gal := { g with head := first } } [] rs).onCur fun c =>
          c.setGalley f.i16.toNat { g with head := g.head + n }

/-- GALREL (R262): the galley is unbound as the command completes. -/
def execGalrel (f : Fields) (s : State) : Host.Outcome State Fault Refusal :=
  onGuard f s fun s =>
    let c := s.bun.cur
    let m := s.command f .galley 0x13
    let g := c.galley f.i16.toNat
    s.checked f (compChecks c m.ec true false) fun s => s.forkCmd { m with gal := g } [] []

/-! ### Messages -/

/-- Per-member message state of a core. -/
def Core.peer (c : Core) (m : Nat) : PeerState := mget {} c.peers m
def Core.setPeer (c : Core) (m : Nat) (p : PeerState) : Core := { c with peers := mput c.peers m p }

/-- CR of a member (R264). -/
def Core.creditOf (c : Core) (m : Nat) : Nat := (c.peer m).credit.getD c.credits

/-- Whether an entry of a core to a member waits to be resent (R264). -/
def State.resending (s : State) (src dst : Nat) : Bool :=
  s.sys.msgs.any fun e => e.src == src && e.dst == dst && e.refused

/-- The handler operand of SMSG. -/
def smsgHandler (f : Fields) (s : State) : Word :=
  match f.len with
  | .three => immZ32 f
  | _ => opBReg f s

/-- The checks of SMSG and SMSGT (R263, R264). -/
def smsgChecks (f : Fields) (s : State) : List Check :=
  let c := s.bun.cur
  let n := (f.i16.toNat % 1024 + 63) / 64
  let lo := eaAddr (opC f s)
  let h := smsgHandler f s
  chk (c.gangSize ≤ (opA f s).toNat) kPROT (opA f s)
  ++ engChecks (opC f s) [0] 0
  ++ chk (2 ^ 21 < lo + f.i16.toNat % 1024) kPROT (BitVec.ofNat 64 lo)
  ++ chk (2 ^ 56 ≤ h.toNat) kPROT h
  ++ chk (c.credits < n + 1) kPROT (BitVec.ofNat 64 (n + 1))
  ++ chk (lo % 8 ≠ 0) kUNALIGN (BitVec.ofNat 64 lo)
  ++ chk (h.toNat % 4 ≠ 0) kUNALIGN h
  ++ packedChecks c lo (lo + f.i16.toNat % 1024)

/-- Whether a core may send an entry of n payload slots to a member now (R264). -/
def State.maySend (s : State) (core : Nat) (c : Core) (member n : Nat) : Bool :=
  n + 1 ≤ c.creditOf member &&
    !(match s.memberCore core member with
      | some d => s.resending core d
      | none => false)

/-- Sending: the command is queued and the credits are taken. -/
def sendMsg (f : Fields) (opc : Nat) (s : State) : State :=
  let m := s.command f .message opc
  let n := (f.i16.toNat % 1024 + 63) / 64
  let lo := eaAddr m.ec
  let k := m.ea.toNat
  (s.forkCmd m [(lo, lo + f.i16.toNat % 1024)] []).onCur fun c =>
    c.setPeer k { c.peer k with credit := some (c.creditOf k - (n + 1)) }

/-- SMSG (R263, R264). -/
def execSmsg (f : Fields) (s : State) : Host.Outcome State Fault Refusal :=
  onGuard f s fun s => s.checked f (smsgChecks f s) fun s =>
    let n := (f.i16.toNat % 1024 + 63) / 64
    if s.maySend s.bun.core s.bun.cur (opA f s).toNat n then sendMsg f 0x14 s else s.stalls

/-- SMSGT (R263, R264): a send that replay demands waits until it can be made. One that has sent ahead of a handler run has sent
as its bundle commits (R174). -/
def execSmsgt (f : Fields) (s : State) : Host.Outcome State Fault Refusal :=
  onGuard f s fun s => s.checked f (smsgChecks f s) fun s =>
    let n := (f.i16.toNat % 1024 + 63) / 64
    let can := if s.bun.mem.isSome then s.bun.sent else s.maySend s.bun.core s.bun.cur (opA f s).toNat n
    let (vs, s) := s.logOp evPred [b2w can]
    let go := (vs.headD 0).getLsbD 0
    let s := s.setP (f.i16.toNat / 1024 % 16) go
    if !go then s else if can then sendMsg f 0x15 s else s.stalls

/-! ### OBJADD, COLL -/

/-- The increment of OBJADD. -/
def objInc (f : Fields) (s : State) : Word :=
  match f.len with
  | .three => immZ32 f
  | _ => opBReg f s

/-- OBJADD (R265). -/
def execObjadd (f : Fields) (s : State) : Host.Outcome State Fault Refusal :=
  onGuard f s fun s =>
    let v := opA f s
    let cs := compChecks s.bun.cur v true false ++ chk (compNone v || compInc v ≠ 1) kPROT v
    s.checked f cs fun s =>
      s.forkCmd { s.command f .coll 0x16 with eb := objInc f s } [] []

/-- KIND, OP, forme and count of a COLL. -/
def collKind (f : Fields) : Nat := f.i16.toNat % 4
def collOp (f : Fields) : Nat := f.i16.toNat / 4 % 4
def collCount (f : Fields) (fm : Forme) : Nat :=
  match f.len with
  | .three => fm.moves f.l32.toNat
  | _ => fm.d0 * fm.d1

/-- FMTMIS of a COLL over n ranks (R267); without a group no count fails to divide. -/
def collChecks (f : Fields) (fm : Forme) (n : Nat) : List Check :=
  chk (fm.empty || fm.runpk || fm.mxb || (n ≠ 0 && collCount f fm % n ≠ 0) || collOp f = 3
    || (collOp f ≠ 0 && (fm.fmt = 0x20 || fm.fmt = 0x19 || 2 ≤ collKind f))) kFMTMIS 0

/-- The bytes of rank i's buffer that a collective over n ranks writes, from its base: the rank's own chunk for KIND 1, else
all (R251, R267). -/
def collSpan (bits kind count n i : Nat) : Nat × Nat :=
  let w := count / max 1 n
  if kind = 1 then (i * w * bits / 8, ((i + 1) * w * bits + 7) / 8) else (0, (count * bits + 7) / 8)

/-- COLL (R266, R267, R386). -/
def execColl (f : Fields) (s : State) : Host.Outcome State Fault Refusal :=
  onGuard f s fun s =>
    let c := s.bun.cur
    let m := s.command f .coll 0x17
    let fm := s.formeAt (f.i16.toNat / 16 % 64)
    let bytes := rowBytes fm.fmt (collCount f fm)
    let lo := eaAddr m.eb
    let b := fmtBits fm.fmt
    let cs := chk (2 ^ 16 ≤ m.ea.toNat) kPROT m.ea ++ engChecks m.eb [0, 1] 0 ++ compChecks c m.ec true false
      ++ rangeChecks (eaSpace m.eb) lo (lo + bytes)
      ++ chk (8 ≤ b && lo % (b / 8) ≠ 0) kUNALIGN (BitVec.ofNat 64 lo)
      ++ (if eaSpace m.eb = 0 then packedChecks c lo (lo + bytes) else [])
    if m.ea.toNat < 2 ^ 16 ∧ s.groupPaused c.ctx m.ea.toNat then s.stalls
    else
      let group := if m.ea.toNat < 2 ^ 16 then s.groupOf c.ctx m.ea.toNat else .ok []
      let ranks := match group with
        | .ok rs => rs
        | .error _ => []
      let own (r : Rank) : Bool := r.pkg == s.sys.pkg && s.rankCore r == some s.bun.core
      let far (r : Rank) : Bool := r.pkg ≠ s.sys.pkg && (s.sessionWith c.vfOf r.pkg).isNone
      let table := match group with
        | .error k => chk true k m.ea
        | .ok _ => chk (m.ea.toNat < 2 ^ 16 && (!(ranks.any own) || ranks.any far)) kOWN m.ea
      s.checked f (cs ++ table ++ collChecks f fm ranks.length) fun s =>
        let sp := eaSpace m.eb = 0
        let i := (ranks.findIdx? own).getD 0
        let part := collSpan b (collKind f) (collCount f fm) ranks.length i
        s.forkCmd { m with formes := [fm], q := (modqOf s fm.modq), group := ranks, rank := i,
                           image := if sp then none else s.asIssued lo bytes } (if sp then [(lo, lo + bytes)] else [])
          (if sp then [(lo + part.1, lo + part.2)] else [])

/-! ### Random bits, formes, register moves -/

/-- RNGCFG (R270): the first block lands 12 clk after it issues. -/
def execRngcfg (f : Fields) (s : State) : Host.Outcome State Fault Refusal :=
  onGuard f s fun s =>
    let r : Rng := { key := opA f s, ctr := (opBReg f s).toNat + (opC f s).toNat * 2 ^ 64, words := [],
                     ready := s.bun.cur.clk + 12 }
    s.onCur fun c => { c with rng := r }

/-- The offset of TIDWR and TIDRD (R271). -/
def onTid (f : Fields) (s : State) (write : Bool) (body : Nat → State → State) : State :=
  let v := opA f s
  let odd := if eaAddr v % 32 ≠ 0 then
    packedChecks s.bun.cur (eaAddr v) (eaAddr v + 32) ++ chk true kUNALIGN (BitVec.ofNat 64 (eaAddr v)) else []
  s.checked f (engChecks v [0] 0 ++ odd) fun s =>
    let s := s.spChecks f (eaAddr v) (eaAddr v + 32) write (before := !write)
    if s.bun.stall then s else body (eaAddr v) s

/-- TIDWR (R121, R271). -/
def execTidwr (f : Fields) (s : State) : Host.Outcome State Fault Refusal :=
  onGuard f s fun s => onTid f s false fun a s =>
    let fm : Forme := BitVec.ofNat 256 (readN s.bun.pre.sp a 32)
    if fm.accepted then s.onCur fun c => { c with formes := c.formes.setIfInBounds (f.i16.toNat % 64) fm }
    else s.raise f kFMTMIS

/-- TIDRD (R271). -/
def execTidrd (f : Fields) (s : State) : Host.Outcome State Fault Refusal :=
  onGuard f s fun s => onTid f s true fun a s =>
    let fm := s.formeAt f.i16.toNat
    s.spStore f a (natToBytes 32 fm.toNat)

/-- XMOV in XE (R79, R272). -/
def execXmovXe (f : Fields) (s : State) : Host.Outcome State Fault Refusal :=
  onGuard f s fun s =>
    let file := fileOfCode f.slot.file f.sc
    if isRunFile file then
      let r := s.rdRun file f.a.toNat
      writeD f 0x1B (2 + sixteenths r.runs) (slugAt r.slugs 0) 0 s
    else writeD f 0x1B 2 (opASc f s) 0 s

/-- ELIT (R272). -/
def execElit (f : Fields) (s : State) : Host.Outcome State Fault Refusal :=
  onGuard f s fun s => writeD f 0x1C 1 (litK f) 0 s

/-! ### SCRUB of kinds SP and GANGSP (R375) -/

/-- SCRUB of kind SP. -/
def execScrubSp (f : Fields) (s : State) : Host.Outcome State Fault Refusal :=
  onGuard f s fun s =>
    let m := s.command f .copy 0x23
    let lo := eaAddr m.ea
    let n := m.eb.toNat
    let cs := engChecks m.ea [0] 0 ++ compChecks s.bun.cur m.ec true true
      ++ chk (lo % 64 ≠ 0 || n % 64 ≠ 0 || 2 ^ 21 < lo + n) kPROT (BitVec.ofNat 64 lo)
    s.checked f cs fun s => (s.forkCmd m [] [(lo, lo + n)]).onCur fun c => c.unmark lo (lo + n)

/-- SCRUB of kind GANGSP: no command; it takes effect and counts its object as its bundle commits (R246, R375). -/
def execScrubGangsp (f : Fields) (s : State) : Host.Outcome State Fault Refusal :=
  onGuard f s fun s =>
    let m := s.command f .mark 0x23
    s.checked f (compChecks s.bun.cur m.ec true true) fun s =>
      (s.onCur fun c => { c with nextId := c.nextId + 1 }).post (.scrubGang m)

end Sys2Proof.Machine
end

