-- ==== Sys2Proof/Machine/KeyIssue.lean ====
section
/-! DEFINITION. The key commands and KSTAT at issue (R367 to R369, R376, R382). -/

namespace Sys2Proof.Machine

open Sys2Proof

/-- Fields of a key command block (Table 22-12). -/
def kbStat (b : List Byte) : Nat := blockBits b 0 56
def kbBase (b : List Byte) : Nat := blockBits b 64 56
def kbLen (b : List Byte) : Nat := blockBits b 128 64
def kbList (b : List Byte) : Nat := blockBits b 192 56
def kbNlist (b : List Byte) : Nat := blockBits b 256 16
def kbSession (b : List Byte) : Nat := blockBits b 288 32
def kbBind (b : List Byte) : Bool := blockBits b 320 1 = 1
def kbSave (b : List Byte) : Bool := blockBits b 321 1 = 1
def kbQueues (b : List Byte) : Bool := blockBits b 322 1 = 1
def kbDest (b : List Byte) : Bool := blockBits b 323 1 = 1
def kbTarget (b : List Byte) : Nat := blockBits b 336 8
def kbGen (b : List Byte) : Nat := blockBits b 352 64

/-- Fields of a FABKEY block (Table 23-2). -/
def fbPeer (b : List Byte) : Nat := blockBits b 64 10
def fbClose (b : List Byte) : Bool := blockBits b 74 1 = 1
def fbSession (b : List Byte) : Nat := blockBits b 96 32

/-- Whether some field of a list of (low bit, width) is not zero. -/
def someSet (b : List Byte) (fs : List (Nat × Nat)) : Bool := fs.any fun p => blockBits b p.1 p.2 ≠ 0

/-- Zero fields of every key command block. -/
def kbZero : List (Nat × Nat) := [(56, 8), (120, 8), (248, 8), (272, 16), (324, 12), (344, 8), (416, 96)]

/-- PROT for a block's values, by command: 0 KROT, 1 SEAL, 2 UNSEAL, 3 PAGES, 4 KEYS (R368). -/
def kbBad (k : Nat) (b : List Byte) : Bool :=
  let base := (64, 56)
  let len := (128, 64)
  let list := (192, 56)
  let nlist := (256, 16)
  let ses := (288, 32)
  let bind := (320, 1)
  let flags := (321, 2)
  let dest := (323, 1)
  let target := (336, 8)
  let gen := (352, 64)
  let paged : Bool := kbBase b % frameBytes ≠ 0 || kbLen b % frameBytes ≠ 0
  let lined : Bool := kbBase b % 64 ≠ 0 || kbLen b % 64 ≠ 0 || (!(kbBind b) && kbSession b ≠ 0)
  someSet b kbZero ||
    (match k with
      | 0 => paged || someSet b [list, nlist, ses, bind, flags, dest, target, gen]
      | 1 => lined || kbList b % 16 ≠ 0 || 4096 < kbNlist b || someSet b [dest, target, gen]
      | 2 => lined || someSet b [list, nlist, flags, dest, gen]
      | 3 => paged || someSet b [list, nlist, ses, bind, flags, target, gen]
      | _ => someSet b [base, len, list, nlist, ses, bind, flags, dest, target])

/-- A key command: mode, block, descriptor; then the key port (R368, R369). -/
def keyCommand (f : Fields) (opc : Nat) (bad : List Byte → Bool) (s : State) : State :=
  onSuper f s fun s =>
    let m := s.command f .key opc
    let a := eaAddr m.ea
    let pre := engChecks m.ea [0] 0 ++ compChecks s.bun.cur m.ec false false
      ++ chk (a % 64 ≠ 0) kUNALIGN (BitVec.ofNat 64 a)
    s.checked f pre fun s =>
      let s := s.spChecks f a (a + 64) false (before := true)
      if s.bun.stall then s
      else
        let b := readBytes s.bun.pre.sp a 64
        s.checked f (chk (bad b) kPROT m.ea ++ chk (kbStat b % 16 ≠ 0) kUNALIGN (BitVec.ofNat 64 (kbStat b))) fun s =>
          s.fork { m with block := b } [(a, a + 64)] [] fun c => { c with keys := c.keys ++ [{ m with block := b }] }

/-- KROT (R370). -/
def execKrot (f : Fields) (s : State) : Host.Outcome State Fault Refusal := onGuard f s (keyCommand f 0x20 (kbBad 0))

/-- SEAL (R372). -/
def execKeySeal (f : Fields) (s : State) : Host.Outcome State Fault Refusal := onGuard f s (keyCommand f 0x21 (kbBad 1))

/-- UNSEAL (R374). -/
def execKeyUnseal (f : Fields) (s : State) : Host.Outcome State Fault Refusal := onGuard f s (keyCommand f 0x22 (kbBad 2))

/-- SCRUB of kind PAGES (R375). -/
def execScrubPages (f : Fields) (s : State) : Host.Outcome State Fault Refusal :=
  onGuard f s (keyCommand f 0x23 (kbBad 3))

/-- SCRUB of kind KEYS (R375). -/
def execScrubKeys (f : Fields) (s : State) : Host.Outcome State Fault Refusal :=
  onGuard f s (keyCommand f 0x23 (kbBad 4))

/-- PROT for a FABKEY block (R382). -/
def fbBad (pkg : Nat) (b : List Byte) : Bool :=
  someSet b [(56, 8), (75, 21), (128, 384)] ||
    (if fbClose b then fbPeer b ≠ 0 else fbPeer b == pkg || fbSession b ≠ 0)

/-- FABKEY (R382). -/
def execFabkey (f : Fields) (s : State) : Host.Outcome State Fault Refusal :=
  onGuard f s fun s => keyCommand f 0x24 (fbBad s.sys.pkg) s

/-- KSTAT (R376). -/
def execKstat (f : Fields) (s : State) : Host.Outcome State Fault Refusal :=
  onGuard f s fun s => s.asks f 0x25 .e (.kstat (f.i16.toNat % 4) (opA f s))

end Sys2Proof.Machine
end

