-- ==== Sys2Proof/Machine/EngineOps.lean ====
section
/-! DEFINITION. What the engines' events share: data in and out of an engine address, completion objects, the make-ready
issue gate and the order of an engine's commands (R200, R233 to R235, R246, R249 to R252, R302, R303, R400). -/

namespace Sys2Proof.Machine

open Sys2Proof

/-! ### Commands of a core -/

/-- The command of a number in the queues of the copy, galley and message engines and the collective port. -/
def Core.cmdOf (c : Core) (id : Nat) : Option Cmd := c.cmds.find? fun m => m.id == id

def Core.setCmd (c : Core) (m : Cmd) : Core :=
  let put (x : Cmd) : Cmd := if x.id = m.id then m else x
  { c with cmds := c.cmds.map put }

/-- A command leaving its queue, with every range that it still holds. -/
def Core.dropCmd (c : Core) (id : Nat) : Core := { c.freeAll id with cmds := c.cmds.filter fun m => m.id ≠ id }

/-- Whether a core's engines stand: their island is held or stopped, or the core is stopped or halted (R307, R308, R335,
R340). -/
def State.enginesHeld (s : State) (k : Nat) : Bool :=
  let i := s.sys.islands.toList.getD (k / 128) {}
  i.held || i.tripped || (s.coreOf k).quiet || (s.coreOf k).dbg.state = 2 || 2048 ≤ k

/-- Whether a core's engines start no chunk and complete no command: they stand, or their launch ends (R329). -/
def State.enginesIdled (s : State) (k : Nat) : Bool := s.enginesHeld k || s.aborting k

/-- Whether every access before a command in its issuer's program order is performed, as far as the release of its issue
orders them (R227, R233). -/
def State.forked (s : State) (c : Core) (id : Nat) : Bool := c.gacc.all fun g => id < g.id || s.inCxl g.pa

/-- Whether a range of scratchpad is awake; a gated group of it starts to wake (R200). -/
def Core.rouse (c : Core) (lo hi : Nat) : Bool × Core :=
  let z := c.asleep lo hi
  (!z.2, z.1.foldl Core.wakeGroup c)

/-- Every range of a list awake. -/
def Core.rouseAll (c : Core) : List (Nat × Nat) → Bool × Core
  | [] => (true, c)
  | r :: rest =>
    let a := c.rouse r.1 r.2
    let b := a.2.rouseAll rest
    (a.1 && b.1, b.2)

/-! ### Data -/

/-- The address of the first line of n bytes whose access fails alone, as a fault records it. -/
def State.badLine (s : State) (core ctx a n : Nat) (acc : Nat) (user : Bool) : Word :=
  let lines := a :: (List.range (n / 64 + 1)).map fun i => (a / 64 + i + 1) * 64
  let fails (l : Nat) : Bool := match (s.reach (some core) ctx l acc user true).1 with
    | .error _ => true
    | .ok (_, pa) => s.integBad pa 1 || s.eccLines pa 1 ≠ 0
  BitVec.ofNat 64 (((lines.filter fun l => l < a + max n 1).find? fails).getD a)

/-- Bytes at an engine address of SPACE 0 or 1, as a command reads them (R201, R219, R250), lines substituted not counted: the
kind and value of a fault otherwise. -/
def State.engRead (s : State) (core ctx space a n : Nat) : Except (Nat × Word) (List Byte) × State :=
  let c := s.coreOf core
  if space = 0 then
    if 2 ^ 21 < a + n then (.error (kPROT, BitVec.ofNat 64 a), s)
    else match c.badWord a (a + n) false with
      | some w => (.error (kSPSOFT, softAddr w), s)
      | none => (.ok (readBytes c.sp a n), s)
  else
    match s.gReadGo (some core) ctx accERead false true true (n / 64 + 2) a n [] 0 with
    | (.error k, t) => (.error (k, s.badLine core ctx a n accERead false), t)
    | (.ok (bs, _), s) => (.ok bs, s)

/-- Lines of pieces of n bytes of a context's space that have just been read as substituted: each adds to SUBCNT once
(R219). -/
def State.countLost (s : State) (core ctx n : Nat) (as : List Nat) : State :=
  if s.sys.eccBad.isEmpty || n = 0 then s
  else
    let lines (a : Nat) : List Nat := (List.range ((a + n - 1) / 64 - a / 64 + 1)).map fun i => a / 64 + i
    let lost (l : Nat) : Bool := match s.tlbFind core ctx (64 * l) with
      | none => false
      | some e => s.eccLines (e.phys (64 * l)) 1 ≠ 0
    let k := ((as.flatMap lines).eraseDups.filter lost).length
    s.onContext ctx fun c => { c with subcnt := c.subcnt + BitVec.ofNat 64 k }

/-- Bytes written to an engine address of SPACE 0 or 1. -/
def State.engWrite (s : State) (core ctx : Nat) (user : Bool) (space a : Nat) (bs : List Byte) :
    Except (Nat × Word) Unit × State :=
  let c := s.coreOf core
  if space = 0 then
    if 2 ^ 21 < a + bs.length then (.error (kPROT, BitVec.ofNat 64 a), s)
    else match c.badWord a (a + bs.length) true with
      | some w => (.error (kSPSOFT, softAddr w), s)
      | none => (.ok (), s.setCore core (c.spWrite a bs))
  else
    match s.gWrite (.engine core) ctx a bs accEWrite user true with
    | (.error k, t) => (.error (k, s.badLine core ctx a bs.length accEWrite user), t)
    | (.ok _, s) => (.ok (), s)

/-- Pieces of one size, read in order. -/
def State.gatherGo (s : State) (core ctx space size : Nat) : List Nat → List Byte →
    Except (Nat × Word) (List Byte) × State
  | [], out => (.ok out, s)
  | a :: rest, out =>
    match s.engRead core ctx space a size with
    | (.error e, s) => (.error e, s)
    | (.ok bs, s) => s.gatherGo core ctx space size rest (out ++ bs)

/-- Pieces of one size as one access of an engine: a line of several pieces that is substituted counts once (R219). -/
def State.gather (s : State) (core ctx space size : Nat) (as : List Nat) : Except (Nat × Word) (List Byte) × State :=
  match s.gatherGo core ctx space size as [] with
  | (.error e, s) => (.error e, s)
  | (.ok bs, s) => (.ok bs, if space = 1 then s.countLost core ctx size as else s)

/-- Pieces of one size, written in order. -/
def State.scatter (s : State) (core ctx : Nat) (user : Bool) (space size : Nat) : List Nat → List Byte →
    Except (Nat × Word) Unit × State
  | [], _ => (.ok (), s)
  | a :: rest, bs =>
    match s.engWrite core ctx user space a (bs.take size) with
    | (.error e, s) => (.error e, s)
    | (.ok _, s) => s.scatter core ctx user space size rest (bs.drop size)

/-! ### Completion objects (R235, R249) -/

/-- What an increment of a completion object meets. -/
inductive Count where
  | done
  | waits
  | fault (kind : Nat) (dva : Word)
deriving DecidableEq, Repr

/-- An increment of the object of a completion descriptor, as one step at its home (R249). -/
def State.countObj (s : State) (core ctx : Nat) (user : Bool) (d : Word) (inc : Nat) : Count × State :=
  let a := compAddr d
  if compNone d then (.done, s)
  else if compSp d then
    let r := (s.coreOf core).rouse a (a + 8)
    if !r.1 then (.waits, s.setCore core r.2)
    else if r.2.spError a (a + 8) then (.fault kSPSOFT (softAddr a), s)
    else (.done, s.setCore core (r.2.spWrite a (natToBytes 8 (readN r.2.sp a 8 + inc))))
  else if s.dvaPaused ctx a then (.waits, s)
  else
    match s.gAdd (.engine core) ctx a (BitVec.ofNat 64 inc) accEWrite user true with
    | (.error k, s) => (.fault k (BitVec.ofNat 64 a), s)
    | (.ok _, s) => (.done, s)

/-- What an increment does first: its object's address is to be translated, and it waits while a slot pauses the home or a
walk is under way (R211, R301), or an expander refuses it (R218). -/
def State.objMiss (s : State) (core : Nat) (m : Cmd) (d : Word) : Option (Option State) :=
  let ctx := (s.coreOf core).ctx
  let a := compAddr d
  if compNone d || compSp d then none
  else if s.dvaPaused ctx a || s.heldOff core ctx [a] then some none
  else s.cmdMiss core ctx m.id accEWrite [a]

/-- Flags of a command landing in XE's byte (R57). -/
def Core.landFlags (c : Core) (m : Cmd) (fl : FlagSet) : Core :=
  if fl = 0 then c else c.stick [(Slot.xe, fl, m.hdr)]

/-! ### The issue gate (R302, R303, R400) -/

/-- What a chunk reaches (Table 16-3): whether HBM, whether the CXL tier, another die's scratchpad, a peer package. -/
structure Reach where
  hbm : Bool := false
  cxl : Bool := false
  die : Bool := false
  peer : Bool := false
deriving DecidableEq, Repr

/-- Whether a chunk is memory-bound. -/
def Reach.bound (r : Reach) : Bool := r.hbm || r.cxl || r.die || r.peer

/-- The bound of Table 16-3 for n bytes. -/
def Reach.ticks (r : Reach) (n : Nat) : Nat :=
  (if r.peer then 4000 else if r.cxl then 2500 else if r.hbm then 600 else 400) + (n + 63) / 64

/-- Whether only retrain slots pause what the chunk reaches (Table 16-2, R400). -/
def Reach.retrainOnly (r : Reach) : Bool := r.peer || !r.hbm

/-- Whether the gate admits a chunk of n bytes now. -/
def State.admits (s : State) (r : Reach) (n : Nat) : Bool :=
  let t := s.sys.tick.toNat
  let pausing (k : Nat) : Bool := k = 2 || !r.retrainOnly
  let now := match slotAt t, s.sys.slotOpen with
    | some (k, _), some j => pausing k || pausing j
    | some (k, _), none => pausing k
    | none, some j => pausing j
    | none, none => false
  !r.bound || (!now && t + r.ticks n ≤ (nextSlot (if r.retrainOnly then 2 else 3) t).1)

/-- An address in every page of n bytes from one on. -/
def pagesOf (a n : Nat) : List Nat :=
  if n = 0 then [] else a :: (List.range ((a + n - 1) / 4096 - a / 4096)).map fun i => (a / 4096 + i + 1) * 4096

/-- What addresses of a SPACE reach. -/
def State.reachAll (s : State) (ctx space : Nat) (as : List Nat) : Reach :=
  if space ≠ 1 then {}
  else as.foldl (fun r a => match s.walkPage ctx a with
    | .error _ => { r with hbm := true }
    | .ok e => if s.inCxl (e.phys a) then { r with cxl := true } else { r with hbm := true }) {}

def Reach.join (a b : Reach) : Reach := ⟨a.hbm || b.hbm, a.cxl || b.cxl, a.die || b.die, a.peer || b.peer⟩

/-- What an entry to a member's queue reaches: another die's scratchpad, or nothing that a slot pauses. -/
def State.reachMember (s : State) (core member : Nat) : Reach :=
  match s.memberCore core member with
  | none => {}
  | some d => { die := d / 256 ≠ core / 256 }

/-! ### Order within an engine (R246) -/

/-- Commands of an engine that stand before one in its queue. -/
def Core.before (c : Core) (m : Cmd) : List Cmd :=
  (c.cmds.takeWhile fun x => x.id ≠ m.id).filter fun x => x.eng == m.eng

end Sys2Proof.Machine
end

