-- ==== Sys2Proof/Machine/Fabric.lean ====
section
/-! DEFINITION. Packets of a fabric session (R381, R383, R385). -/

namespace Sys2Proof.Machine

open Sys2Proof

/-- The key of a session's sending and of its receiving end (R381). -/
def FabSession.sendKey (e : FabSession) : List Byte := if e.initiator then e.kI2R else e.kR2I
def FabSession.recvKey (e : FabSession) : List Byte := if e.initiator then e.kR2I else e.kI2R

/-- The nonce of a packet: {sending port [95:89], zero, counter [63:0]} (R381). -/
def fabNonce (port ctr : Nat) : List Byte := natToBytes 12 (port % 2 ^ 7 * 2 ^ 89 + ctr % 2 ^ 64)

/-- A text enciphered or deciphered with the key stream of a key and a nonce. -/
def gcmCrypt (key nonce text : List Byte) : List Byte := text.zipIdx.map fun p => p.1 ^^^ Config.gcmByte key nonce p.2

/-- A flit sent from a port: its data-link sequence number and its bytes, stored until the peer has it (R380). -/
def State.sendFlit (s : State) (port : Nat) (pkt : List Byte) : State :=
  let q := mget 0 s.sys.flitNext port
  let flit := natToBytes 8 q ++ pkt
  { s with sys := { s.sys with sent := flit :: s.sys.sent, flitNext := mput s.sys.flitNext port (q + 1),
                               flitsKept := s.sys.flitsKept ++ [(port, q, flit)] } }

/-- Sending bytes over a session from a port: the counter grows by 1, and the packet is ciphertext and tag (R381). -/
def State.fabSend (s : State) (num port : Nat) (plain : List Byte) : State :=
  match s.sys.fabric.find? fun e => e.num == num with
  | none => s
  | some e =>
    let ctr := mget 0 e.tx port + 1
    let n := fabNonce port ctr
    let pkt := gcmCrypt e.sendKey n plain ++ Config.gcmTag e.sendKey n [] plain
    let up (x : FabSession) : FabSession := if x.num = num then { x with tx := mput x.tx port ctr } else x
    ({ s with sys := { s.sys with fabric := s.sys.fabric.map up } }).sendFlit port pkt

/-- The plaintext of a packet's body. -/
def bodyBytes : FabricBody → List Byte
  | .read ctx dva n => [0x01] ++ natToBytes 1 ctx ++ natToBytes 8 dva.toNat ++ natToBytes 8 n
  | .write ctx dva bs => [0x02] ++ natToBytes 1 ctx ++ natToBytes 8 dva.toNat ++ bs
  | .atomic ctx dva op n x =>
    [0x03] ++ natToBytes 1 ctx ++ natToBytes 8 dva.toNat ++ natToBytes 1 op ++ natToBytes 1 n ++ natToBytes 8 x.toNat
  | .reply bs => [0x04] ++ bs
  | .collect ctx h q r k op fm n bs =>
    [0x05] ++ natToBytes 1 ctx ++ natToBytes 2 h ++ natToBytes 8 q ++ natToBytes 4 r ++ natToBytes 1 k ++ natToBytes 1 op
      ++ natToBytes 1 fm ++ natToBytes 8 n ++ bs

end Sys2Proof.Machine
end

