-- ==== Sys2Proof/Machine/Collective.lean ====
section
/-! DEFINITION. Collectives: ranks that join, reductions, and the collective engines' entries (R266 to R269, R386). -/

namespace Sys2Proof.Machine

open Sys2Proof

/-! ### Reductions (R268) -/

/-- An RX word plus another, channel by channel. -/
def rxAdd (a b : Nat) : Nat :=
  let f (lo w m : Nat) : Nat := (a / 2 ^ lo % 2 ^ w + b / 2 ^ lo % 2 ^ w) % m * 2 ^ lo
  f 0 9 511 + f 9 9 512 + f 18 10 513

/-- One step of a reduction on register words of a tag. -/
def combine (tag op q : Nat) (a x : Word) : Word × FlagSet :=
  if tag = tagF32 then
    match op with
    | 0 => rnd (f32Add .rne a.toNat x.toNat)
    | 1 => rnd (f32MinMax true a.toNat x.toNat)
    | _ => rnd (f32MinMax false a.toNat x.toNat)
  else if tag = tagM64 then
    let r := modAdd q a.toNat x.toNat
    (BitVec.ofNat 64 r.1, r.2)
  else
    match op with
    | 0 => (a + x, 0)
    | 1 => (if tag = tagS64 then maxS a x else maxN a x, 0)
    | _ => (if tag = tagS64 then minS a x else minN a x, 0)

/-- An element's register word under a dense forme (R267, R268). -/
def collRead (fm : Forme) (raw : Nat) : Word × FlagSet :=
  readElem fm.fmt (if fm.tolscale then some (fm.scale % 256) else none) raw

/-- The reduced element of the ranks' raw elements, in rank order: its raw bits and flags. -/
def reduceElem (fm : Forme) (op q : Nat) : List Nat → Nat × FlagSet
  | [] => (0, 0)
  | r :: rest =>
    if fm.fmt = 0x20 then
      let fl := (r :: rest).foldl (fun a x => a ||| (rxDecode x).2) 0
      (rest.foldl rxAdd (rxAdd r 0), fl)
    else
      let tag := readTag fm.fmt
      let first := collRead fm r
      let first : Word × FlagSet :=
        if tag = tagM64 ∧ rest.isEmpty then
          (BitVec.ofNat 64 (first.1.toNat % q), first.2 ||| flagIf (q ≤ first.1.toNat) fMQ)
        else first
      let step (a : Word × FlagSet) (x : Nat) : Word × FlagSet :=
        let y := collRead fm x
        let z := combine tag op q a.1 y.1
        (z.1, a.2 ||| y.2 ||| z.2)
      let v := rest.foldl step first
      let w := storeElem fm tag v.1
      (w.1, v.2 ||| w.2)

/-- Bytes of a rank's buffer. -/
def CollRank.bytes (c : CollRank) : Nat := rowBytes c.forme.fmt c.count

/-- Whether a rank's contribution is here: one of another package has been taken whole (R386). -/
def CollRank.whole (c : CollRank) : Bool := !c.peer || (c.inbox.isEmpty && c.bytes ≤ c.got.length)

/-- Ranks of one collective whose contributions are here, in rank order. -/
def collRanks (cs : List CollRank) (c : CollRank) : List CollRank :=
  let mine := cs.filter fun x => x.ctx == c.ctx && x.handle == c.handle && x.seq == c.seq && x.whole
  (List.range c.n).filterMap fun i => mine.find? fun x => x.rank == i

/-- Elements of a rank's buffer that its result changes (R267): the first, and how many. -/
def CollRank.span (c : CollRank) : Nat × Nat :=
  let w := c.count / max 1 c.n
  if c.kind = 1 then (c.rank * w, w) else (0, c.count)

/-- Element e of a rank's buffer after the collective, with the flags of a reduced element. -/
def CollRank.result (c : CollRank) (rs : List CollRank) (e : Nat) : Nat × FlagSet :=
  let w := max 1 (c.count / max 1 c.n)
  let j := e / w
  let at_ (r k : Nat) : Nat := match rs[r]? with
    | some x => x.image.getD k 0
    | none => 0
  match c.kind with
  | 2 => (at_ j e, 0)
  | 3 => (at_ j (c.rank * w + e % w), 0)
  | _ => reduceElem c.forme c.op c.q (rs.map fun x => x.image.getD e 0)

/-! ### Joining (R266, R386) -/

/-- Elements of one entry: 64 KiB of a buffer, within the 256 KiB of R269. -/
def entryElems (fmt : Nat) : Nat := 8 * (65536 / max 1 (fmtBits fmt))

/-- The virtual queue of a function in a cluster's collective engine, made when it is first used (R269). -/
def State.collQueue (s : State) (cluster vf : Nat) : State :=
  if s.sys.collQueues.any fun q => q.cluster == cluster && q.vf == vf then s
  else { s with sys := { s.sys with collQueues := s.sys.collQueues ++ [(⟨cluster, vf, 1, 0⟩ : CollQueue)] } }

/-- The ranks of a COLL's group: as its issue read them, or, of a command that an UNSEAL has installed, as the table gives
them (R344, R386). -/
def State.ranksOf (s : State) (core : Nat) (m : Cmd) : Except Nat (List Rank) :=
  if m.group.isEmpty then s.groupOf (s.coreOf core).ctx (m.ea.toNat % 2 ^ 16) else .ok m.group

/-- The place of a COLL's core among the ranks. -/
def State.rankIndex (s : State) (core : Nat) (m : Cmd) (ranks : List Rank) : Option Nat :=
  if m.group.isEmpty then ranks.findIdx? fun r => r.pkg == s.sys.pkg && s.rankCore r == some core else some m.rank

/-- A COLL joins its collective with the bytes of its buffer; each context of another package that has ranks is to be sent
them (R266, R267, R385, R386). -/
def State.joinColl (s : State) (core : Nat) (m : Cmd) (bs : List Byte) : Except (Nat × Word) Unit × State :=
  let c := s.coreOf core
  let fm := m.formes.headD 0
  let count := collCount m.f fm
  let h := m.ea.toNat % 2 ^ 16
  match s.ranksOf core m with
  | .error k => (.error (k, m.ea), s)
  | .ok ranks =>
    match s.rankIndex core m ranks with
    | none => (.error (kOWN, m.ea), s)
    | some i =>
      let far := ((ranks.filter fun x => x.pkg ≠ s.sys.pkg).map fun x => (x.pkg, x.ctx)).eraseDups
      if far.any fun p => (s.sessionWith c.vfOf p.1).isNone then (.error (kOWN, m.ea), s)
      else
        let key := core * 65536 + h
        let k := mget 0 s.sys.collSeq key
        let r : CollRank := { core := core, cmd := m.id, ctx := c.ctx, handle := h, seq := k, rank := i,
                              kind := collKind m.f, op := collOp m.f, forme := fm, q := m.q, count := count,
                              image := rawElems fm.fmt count bs, n := ranks.length, far := far }
        let r := { r with written := min r.span.2 (m.done * entryElems fm.fmt) }
        let s := s.collQueue (core / 256) c.vfOf
        (.ok (), { s with sys := { s.sys with colls := s.sys.colls ++ [r], collSeq := mput s.sys.collSeq key (k + 1) } })

/-- A part of the contribution of a rank of another package has come for a context, by a port: the cluster's engine there is
to take it (R269, R386). -/
def State.joinFar (s : State) (vf port ctx handle seq rank kind op fmt count : Nat) (data : List Byte) : State :=
  let it (x : CollRank) : Bool := x.peer && x.ctx == ctx && x.handle == handle && x.seq == seq && x.rank == rank
  if s.sys.colls.any it then
    { s with sys := { s.sys with colls := s.sys.colls.map fun x => if it x then { x with inbox := x.inbox ++ [data] } else x } }
  else
    let r : CollRank := { core := 2048, cmd := 0, ctx := ctx, handle := handle, seq := seq, rank := rank, kind := kind,
                          op := op, forme := BitVec.ofNat 256 fmt, q := 3, count := count, image := [],
                          n := 0, peer := true, served := true, vf := vf, port := port, inbox := [data] }
    let s := s.collQueue (port / 16 % 8) vf
    { s with sys := { s.sys with colls := s.sys.colls ++ [r] } }

/-! ### Entries (R269) -/

/-- Whether two ranks of one collective agree (R267). -/
def CollRank.agrees (a b : CollRank) : Bool :=
  a.kind == b.kind && a.op == b.op && a.forme.fmt == b.forme.fmt && a.count == b.count

/-- Whether a collective has every rank and the ranks differ in KIND, OP, format or count (R267). -/
def State.disagree (s : State) (c : CollRank) : Bool :=
  let rs := collRanks s.sys.colls c
  rs.length == c.n && rs.any fun r => !(c.agrees r)

/-- FMTMIS for every rank of a collective (R267). -/
def State.collMismatch (s : State) (c : CollRank) : State :=
  (collRanks s.sys.colls c).foldl (fun s r => if r.peer then s else s.cmdFault r.core r.cmd kFMTMIS accEWrite 0) s

/-- The cluster whose engine works for a rank, and the tenant whose virtual queue it stands in. -/
def CollRank.cluster (c : CollRank) : Nat := if c.peer then c.port / 16 % 8 else c.core / 256
def State.rankVf (s : State) (c : CollRank) : Nat := if c.peer then c.vf else (s.coreOf c.core).vfOf

/-- Whether a rank's next entry is a step between packages: a part of its contribution to be sent, or one to be taken
(R386). -/
def CollRank.steps (c : CollRank) : Bool := c.peer || !c.far.isEmpty

/-- A rank whose next entry may run: a part of a contribution is to be sent or taken, or its collective has every rank; its
command is not stopped. -/
def State.entryReady (s : State) (c : CollRank) : Bool :=
  if c.peer then !c.busy && !c.inbox.isEmpty
  else
    !c.served && !c.busy && !(s.enginesIdled c.core)
      && (!c.far.isEmpty || (c.written < c.span.2 && (collRanks s.sys.colls c).length == c.n))
      && (match (s.coreOf c.core).cmdOf c.cmd with
        | some m => !m.parked
        | none => false)

/-- The bytes of a rank's next entry: offset and length in its buffer, and the elements. -/
def CollRank.entry (c : CollRank) : Nat × Nat × Nat × Nat :=
  let b := fmtBits c.forme.fmt
  let first := c.span.1 + c.written
  let n := min (entryElems c.forme.fmt) (c.span.2 - c.written)
  let lo := first * b / 8
  let hi := ((first + n) * b + 7) / 8
  (lo, hi - lo, first, n)

/-- The part of its contribution that a rank sends next: an entry's worth of its bytes (R269). -/
def CollRank.part (c : CollRank) : List Byte :=
  ((natToBytes c.bytes (rowOfElems c.forme.fmt c.image)).drop c.sent).take 65536

/-- Bytes of a rank's next entry. -/
def CollRank.size (c : CollRank) : Nat :=
  if c.peer then (c.inbox.headD []).length else if c.far.isEmpty then c.entry.2.1 else c.part.length

/-- What an entry of a result reaches (R302, R400). A step between packages reaches the peer. -/
def State.entryReach (s : State) (c : CollRank) (m : Cmd) : Reach :=
  let e := c.entry
  let lo := eaAddr m.eb + e.1
  let rs := collRanks s.sys.colls c
  (s.reachAll c.ctx (eaSpace m.eb) (pagesOf lo e.2.1)).join
    ⟨false, false, rs.any fun r => !r.peer && r.core / 256 ≠ c.core / 256, rs.any fun r => r.peer⟩

/-- The result's bytes of an entry, with the flags of the elements in them; a byte that the entry before it ended in has that
entry's elements again. -/
def CollRank.entryBytes (c : CollRank) (rs : List CollRank) : List Byte × FlagSet :=
  let b := fmtBits c.forme.fmt
  let e := c.entry
  let start := e.1 * 8 / max 1 b
  let stop := min c.count (((e.1 + e.2.1) * 8 + b - 1) / max 1 b)
  let one (k : Nat) : Nat × FlagSet :=
    if c.span.1 ≤ k ∧ k < e.2.2.1 + e.2.2.2 then c.result rs k else (c.image.getD k 0, 0)
  let xs := (List.range (stop - start)).map fun i => one (start + i)
  let x := rowOfElems c.forme.fmt (xs.map Prod.fst) / 2 ^ (e.1 * 8 - start * b)
  (natToBytes e.2.1 x, xs.foldl (fun a p => a ||| p.2) 0)

def State.setRank (s : State) (c : CollRank) : State :=
  let put (x : CollRank) : CollRank :=
    if x.core = c.core ∧ x.cmd = c.cmd ∧ x.peer = c.peer ∧ (!x.peer ∨ (x.ctx = c.ctx ∧ x.handle = c.handle ∧ x.seq = c.seq
      ∧ x.rank = c.rank)) then c else x
  { s with sys := { s.sys with colls := s.sys.colls.map put } }

/-- One entry of a rank: its part of the result is written. -/
def State.runEntry (s : State) (c : CollRank) (m : Cmd) : State :=
  let rs := collRanks s.sys.colls c
  let e := c.entry
  let r := c.entryBytes rs
  match s.engWrite c.core c.ctx m.user (eaSpace m.eb) (eaAddr m.eb + e.1) r.1 with
  | (.error x, _) => s.cmdFault c.core c.cmd x.1 accEWrite x.2
  | (.ok _, s) =>
    let c := { c with written := c.written + e.2.2.2, flags := c.flags ||| r.2 }
    (s.setRank c).onCore c.core fun k =>
      let k := k.setCmd { m with progress := m.progress + 1 }
      if c.written < c.span.2 then k else k.freeAll c.cmd

/-- The first ready rank of a virtual queue, in order of arrival. -/
def State.readyRank (s : State) (q : CollQueue) : Option CollRank :=
  s.sys.colls.find? fun c => s.entryReady c && c.cluster == q.cluster && s.rankVf c == q.vf

/-- The queue that the arbiter serves next and the queues after its turn: the first with a ready entry, when its credit
covers the entry, else the next one, with its grant of weight × 64 KiB (R269). -/
def State.arbitrate (s : State) (cluster : Nat) : Option (CollRank × List CollQueue) :=
  let qs := s.sys.collQueues
  let live (q : CollQueue) : Bool := q.cluster == cluster && (s.readyRank q).isSome
  let spend (q : CollQueue) (n : Nat) : List CollQueue → List CollQueue :=
    List.map fun x => if x.cluster = q.cluster ∧ x.vf = q.vf then { x with credit := q.credit - n } else x
  match qs.find? live with
  | none => none
  | some q =>
    match s.readyRank q with
    | none => none
    | some c =>
      let n := c.size
      if n ≤ q.credit then some (c, spend q n qs)
      else
        let qs := (qs.filter fun x => !(x.cluster == q.cluster && x.vf == q.vf)) ++ [q]
        match qs.find? live with
        | none => none
        | some q =>
          match s.readyRank q with
          | none => none
          | some c => some (c, spend { q with credit := q.credit + q.weight * 65536 } c.size qs)

/-- A rank of a cluster's engine whose entry is under way, and one that goes before every other (R303, R304). -/
def State.busyRank (s : State) (cluster : Nat) : Option CollRank := s.sys.colls.find? fun c => c.busy && c.cluster == cluster
def State.firstRank (s : State) (cluster : Nat) : Option CollRank :=
  s.sys.colls.find? fun c => c.first && s.entryReady c && c.cluster == cluster

/-- The start of a rank's entry: one that the gate does not admit waits, before every later one of its engine (R303). -/
def State.startEntry (s : State) (c : CollRank) (m : Cmd) : Option State :=
  let lo := eaAddr m.eb + c.entry.1
  let w := (s.coreOf c.core).rouse lo (lo + c.entry.2.1)
  if s.disagree c then some (s.collMismatch c)
  else if !(s.admits (s.entryReach c m) c.entry.2.1) then
    (if c.first then none else some (s.setRank { c with first := true }))
  else if eaSpace m.eb = 0 && !w.1 then some (s.setCore c.core w.2)
  else some (s.setRank { c with busy := true, first := false })

/-- The end of an entry under way: its writes perform together; at a paused controller they wait (R301, R304, R400). -/
def State.endEntry (s : State) (c : CollRank) (m : Cmd) : Option State :=
  let as := if eaSpace m.eb = 1 then pagesOf (eaAddr m.eb + c.entry.1) c.entry.2.1 else []
  if s.enginesHeld c.core || s.heldOff c.core c.ctx as || (eaSpace m.eb = 1 && s.rangePaused c.ctx (eaAddr m.eb + c.entry.1) c.entry.2.1) then
    none
  else if let some t := (if eaSpace m.eb = 1 then
      s.cmdMiss c.core c.ctx c.cmd accEWrite (pagesOf (eaAddr m.eb + c.entry.1) c.entry.2.1) else none) then t
  else
    let c := { c with busy := false }
    some ((s.setRank c).runEntry c m)

/-- What a step between packages reaches (R302, R400). -/
def stepReach : Reach := { peer := true }

/-- The start of a step between packages: held at the gate, it waits before every later entry of its engine (R303, R400). -/
def State.startStep (s : State) (c : CollRank) : Option State :=
  if !(s.admits stepReach c.size) then (if c.first then none else some (s.setRank { c with first := true }))
  else some (s.setRank { c with busy := true, first := false })

/-- A rank sends a part of its contribution over the session with the package that is next (R381, R386). -/
def State.sendPart (s : State) (c : CollRank) : State :=
  match c.far with
  | [] => s
  | p :: rest =>
    match s.sessionWith (s.rankVf c) p.1 with
    | none => s.cmdFault c.core c.cmd kOWN accERead 0
    | some e =>
      let n := c.sent + c.part.length
      let last := decide (c.bytes ≤ n)
      (s.fabSend e.num (16 * c.cluster)
        (bodyBytes (.collect p.2 c.handle c.seq c.rank c.kind c.op c.forme.fmt c.count c.part))).setRank
        { c with busy := false, far := if last then rest else c.far, sent := if last then 0 else n }

/-- A part of a contribution from another package is taken. -/
def CollRank.take (c : CollRank) : CollRank :=
  let got := c.got ++ c.inbox.headD []
  { c with busy := false, inbox := c.inbox.drop 1, got := got, image := rawElems c.forme.fmt c.count got }

/-- The end of a step under way; the ports wait for a retrain slot to close (R300). -/
def State.endStep (s : State) (c : CollRank) : Option State :=
  if s.sys.slotOpen = some 2 || (!c.peer && s.enginesHeld c.core) then none
  else if c.peer then some (s.setRank c.take)
  else some (s.sendPart c)

/-- COLL_ENTRY: the collective engine of a cluster starts an entry, or ends the one under way (R269, R303, R304, R386). -/
def tryCollEntry (cluster : Nat) (s : State) : Option State :=
  let run (s : State) (c : CollRank) (step : State → CollRank → Option State) (go : State → CollRank → Cmd → Option State) :
      Option State :=
    if c.steps then step s c
    else match (s.coreOf c.core).cmdOf c.cmd with
      | none => none
      | some m => go s c m
  match s.busyRank cluster, s.firstRank cluster with
  | some c, _ => run s c State.endStep State.endEntry
  | none, some c => run s c State.startStep State.startEntry
  | none, none =>
    match s.arbitrate cluster with
    | none => none
    | some (c, qs) => run { s with sys := { s.sys with collQueues := qs } } c State.startStep State.startEntry

def execCollEntry (cluster : Nat) (s : State) : Host.Outcome State Fault Refusal :=
  .next ((tryCollEntry cluster s).getD s)

/-- A rank's command is complete: a collective whose every rank is served is forgotten. -/
def State.serveRank (s : State) (c : CollRank) : State :=
  let s := s.setRank { c with served := true }
  let rs := collRanks s.sys.colls c
  if rs.all fun r => r.served then
    { s with sys := { s.sys with colls := s.sys.colls.filter fun x =>
        !(x.ctx == c.ctx && x.handle == c.handle && x.seq == c.seq) } }
  else s

end Sys2Proof.Machine
end

