-- ==== Sys2Proof/Machine/Chunks.lean ====
section
/-! DEFINITION. The chunks of COPY, SCRUB SP, galley fetches, messages and collectives, and the completion of commands
(R249 to R265, R302 to R304, R375). -/

namespace Sys2Proof.Machine

open Sys2Proof

/-- The source of a COPY that reads ahead from scratchpad, as one dense stream. -/
def State.readAhead (s : State) (core : Nat) (m : Cmd) : Except (Nat × Word) (List Byte) × State :=
  let c := s.coreOf core
  if m.fromPacked then
    (unpackRows c m (m.shape.dims.headD (0, 0, 0)).1 (m.rowBases (eaAddr m.ea) fun d => d.2.1) [], s)
  else s.gather core c.ctx (eaSpace m.ea) m.pieces.1 (m.sources 0 m.total)

/-! ### Every engine's chunks -/

/-- Chunks of a command: a galley's are its rows, a message has one. -/
def Cmd.count (m : Cmd) : Nat :=
  match m.eng with
  | .copy => if m.opc = 0x10 then m.chunks else (m.eb.toNat + 4095) / 4096
  | .galley => if m.opc = 0x11 then ringRows m.eb else if m.opc = 0x12 then m.f.i16.toNat / 8 else 0
  | .message => 1
  | .coll => if m.opc = 0x17 then 1 else 0
  | _ => 0

/-- Whether an engine may work on a command: it starts commands in order, and the copy engine works on four (R246). A command
without chunks, or past them, holds no other back. -/
def Core.mayWork (c : Core) (m : Cmd) : Bool :=
  m.started || ((c.before m).all (fun x => x.started || x.count ≤ x.progress) &&
    (m.eng ≠ .copy || (c.cmds.filter fun x => x.eng == .copy && x.started).length < 4))

/-- The galley that a galley command names. -/
def Cmd.galley (m : Cmd) : Nat := m.f.i16.toNat % 8

/-- Whether no earlier galley command of a galley is still in the engine. -/
def Core.galleyFree (c : Core) (m : Cmd) : Bool := (c.before m).all fun x => x.galley ≠ m.galley

/-- The galley row that comes next. -/
def Cmd.row (m : Cmd) : Nat := m.gal.head + m.progress

/-- The member that a command sends to. -/
def Cmd.member (m : Cmd) : Nat := if m.eng = .message then m.ea.toNat % 2 ^ 11 else eaAddr m.eb

/-- The part of a collective's buffer that it reads next (R267): address and bytes, an entry's worth of global memory or the
whole of a buffer in scratchpad. -/
def Cmd.nextPart (m : Cmd) : Nat × Nat :=
  let fm := m.formes.headD 0
  let left := rowBytes fm.fmt (collCount m.f fm) - m.held
  (eaAddr m.eb + m.held, if eaSpace m.eb = 1 then min left 65536 else left)

/-- The pieces that a COPY reads ahead next: the first, and how many. -/
def Cmd.aheadSpan (m : Cmd) : Nat × Nat :=
  let size := max 1 m.pieces.1
  (m.held / size, min (max 1 (4096 / size)) (m.total - m.held / size))

/-- Addresses of a context's space that a command's next chunk reads, one in each page of each piece. -/
def Cmd.chunkReads (m : Cmd) : List Nat :=
  let sp := if m.copyReading then m.aheadSpan else m.nextSpan
  match m.eng with
  | .copy =>
    if m.opc = 0x10 ∧ eaSpace m.ea = 1 ∧ (m.copyReading ∨ !m.readsAhead) then
      (m.sources sp.1 sp.2).flatMap fun a => pagesOf a m.pieces.1
    else []
  | .galley =>
    if m.row < m.gal.forme.d1 then
      pagesOf (m.gal.base.toNat + m.row * m.gal.forme.pitch) (rowBytes m.gal.forme.fmt m.gal.forme.d0)
    else []
  | .coll => if m.opc = 0x17 ∧ eaSpace m.eb = 1 then pagesOf m.nextPart.1 m.nextPart.2 else []
  | _ => []

/-- The same of what it writes. -/
def Cmd.chunkWrites (m : Cmd) : List Nat :=
  let sp := m.nextSpan
  if m.eng = .copy ∧ m.opc = 0x10 ∧ eaSpace m.eb = 1 ∧ !m.copyReading then
    (m.targets sp.1 sp.2).flatMap fun a => pagesOf a m.pieces.1
  else []

/-- Bytes of the next chunk and what it reaches (R302, Table 16-3). A collective's read of its contribution is no chunk: its
entries are (R269, R302). -/
def State.nextReach (s : State) (core : Nat) (m : Cmd) : Reach × Nat :=
  let ctx := (s.coreOf core).ctx
  match m.eng with
  | .copy =>
    if m.opc ≠ 0x10 then ({}, 0)
    else if m.copyReading then
      let sp := m.aheadSpan
      (s.reachAll ctx 1 (m.sources sp.1 sp.2), sp.2 * m.pieces.1)
    else if eaSpace m.eb = 2 then (s.reachMember core m.member, m.nextSpan.2 * m.pieces.1)
    else
      let sp := m.nextSpan
      let src := if m.readsAhead then {} else s.reachAll ctx (eaSpace m.ea) (m.sources sp.1 sp.2)
      let dst := if m.toPacked then {} else s.reachAll ctx (eaSpace m.eb) (m.targets sp.1 sp.2)
      (src.join dst, min 4096 (sp.2 * m.pieces.1))
  | .galley =>
    let fm := m.gal.forme
    let n := rowBytes fm.fmt fm.d0
    if m.row < fm.d1 then
      let a := m.gal.base.toNat + m.row * fm.pitch
      (s.reachAll ctx 1 (pagesOf a n), n)
    else ({}, 0)
  | .message => (s.reachMember core m.member, m.f.i16.toNat % 1024)
  | _ => ({}, 0)

/-- Whether the issue gate holds a command's next chunk. -/
def State.gated (s : State) (core : Nat) (m : Cmd) : Bool :=
  let r := s.nextReach core m
  m.chunk.isNone && !m.parked && m.progress < m.count && !((s.coreOf core).engineWaits m.id) && !(s.admits r.1 r.2)

/-- Whether a command sends entries to a message queue. -/
def Cmd.sendsEntries (m : Cmd) : Bool := m.eng = .message || (m.eng = .copy && m.opc = 0x10 && eaSpace m.eb = 2)

/-- Whether every entry of a command has been sent. -/
def Cmd.allSent (m : Cmd) : Bool := if m.eng = .message then m.started else m.count ≤ m.progress

/-- Credits taken or given back. -/
def Core.takeCredit (c : Core) (member n : Nat) : Core :=
  c.setPeer member { c.peer member with credit := some (c.creditOf member - n) }
def Core.giveCredit (c : Core) (member n : Nat) : Core :=
  c.setPeer member { c.peer member with credit := some (c.creditOf member + n) }

/-- Credits that the SMSGs issued after a command hold for the entries they send to its member behind it (R264). -/
def Core.heldBehind (c : Core) (m : Cmd) : Nat :=
  ((c.cmds.filter fun x => x.eng = .message && !x.started && x.member = m.member && m.id < x.id).map fun x =>
    (x.f.i16.toNat % 1024 + 63) / 64 + 1).sum

/-- Whether the credits of a SPACE 2 copy's next entry let it go (R257, R264). Those that a later SMSG has taken count: its
entry goes behind this one, and would else wait for it for ever (log entry 44). -/
def State.creditFits (s : State) (core : Nat) (m : Cmd) : Bool :=
  let c := s.coreOf core
  m.eng ≠ .copy || m.opc ≠ 0x10 || eaSpace m.eb ≠ 2
    || s.maySend core (c.giveCredit m.member (c.heldBehind m)) m.member ((m.nextSpan.2 * m.pieces.1 + 63) / 64)

/-- Whether a command's next entry may leave: its credits allow it, and the commands issued before it have sent every entry
of theirs to the same member (R238, R257, R264). -/
def State.entryFits (s : State) (core : Nat) (m : Cmd) : Bool :=
  s.creditFits core m
    && (!m.sendsEntries
      || (s.coreOf core).cmds.all fun x => !(x.id < m.id && x.sendsEntries && x.member == m.member) || x.allSent)

/-- Whether a command's next chunk could start but for the gate: the engine works on it, no chunk of it is under way, and
neither the chase nor an earlier access holds it (R233, R246, R252). A collective reads its buffer behind those before it, a
galley is set behind what is still to land in it (R259). -/
def State.couldStart (s : State) (core : Nat) (m : Cmd) : Bool :=
  let c := s.coreOf core
  !(s.enginesIdled core) && !m.parked && m.chunk.isNone && m.progress < m.count && c.mayWork m
    && !(c.engineWaits m.id) && s.forked c m.id && s.entryFits core m
    && (m.eng ≠ .galley || m.opc ≠ 0x11 || c.galleyFree m)
    && (m.eng ≠ .coll || (c.before m).all fun x => x.opc ≠ 0x17 || x.progress = 1)
    && (m.eng ≠ .message || !m.started)

/-- Whether a chunk goes before another of its engine: an overrun, then one that the gate held, each in the order of the
queue (R303, R304). -/
def Cmd.precedes (x m : Cmd) : Bool := x.eng == m.eng && (m.prio < x.prio || (m.prio == x.prio && x.prio ≠ 0 && x.id < m.id))

/-- Whether a command's next chunk may start: the gate holds neither it nor an earlier command of the engine, and no other
chunk goes before it (R303, R304). -/
def State.chunkReady (s : State) (core : Nat) (m : Cmd) : Bool :=
  let c := s.coreOf core
  s.couldStart core m && !(s.gated core m) && (c.before m).all (fun x => !(s.gated core x))
    && c.cmds.all fun x => !(x.precedes m) || !(s.couldStart core x)

/-- Scratchpad that a chunk touches as it starts; of a run-packed source, all that the command may read. -/
def Core.touches (c : Core) (m : Cmd) : List (Nat × Nat) :=
  let sp := m.nextSpan
  let held (w : Bool) : List (Nat × Nat) := (c.chase.filter fun r => r.cmd == m.id && r.write == w).map fun r => (r.lo, r.hi)
  match m.eng with
  | .copy =>
    if m.opc ≠ 0x10 then
      let lo := eaAddr m.ea + 4096 * m.progress
      [(lo, min (lo + 4096) (eaAddr m.ea + m.eb.toNat))]
    else
      let rs := if m.fromPacked then held false else if eaSpace m.ea = 0 then (m.sources sp.1 sp.2).map fun a => (a, a + m.pieces.1) else []
      let ws := if m.toPacked then [] else if eaSpace m.eb = 0 then (m.targets sp.1 sp.2).map fun a => (a, a + m.pieces.1) else []
      rs ++ ws
  | .galley =>
    let a := ringBase m.gal.ring + m.gal.slot m.row * ringRow m.gal.ring
    [(a, a + ringRow m.gal.ring)]
  | .message => [(eaAddr m.ec, eaAddr m.ec + m.f.i16.toNat % 1024)]
  | .coll => if eaSpace m.eb = 0 then
      [(eaAddr m.eb, eaAddr m.eb + rowBytes (m.formes.headD 0).fmt (collCount m.f (m.formes.headD 0)))] else []
  | _ => []

/-! ### Sending an entry (R203, R257, R263, R264) -/

/-- The next SEQ of a core's entries to a member. -/
def Core.nextSeq (c : Core) (m : Nat) : Nat := (c.peer m).sent

/-- An entry leaving for a member's queue. -/
def State.sendEntry (s : State) (core : Nat) (m : Cmd) (handler kind : Nat) (bs : List Byte) : State :=
  match s.memberCore core m.member with
  | none => s
  | some d =>
    let c := s.coreOf core
    let e : Msg := { src := core, dst := d, handler := handler, kind := kind, payload := bs, seq := c.nextSeq m.member,
                     cmd := m.id, hdr := m.hdr }
    let p := c.peer m.member
    let s := s.setCore core (c.setPeer m.member { p with sent := (p.sent + 1) % 2 ^ 32 })
    { s with sys := { s.sys with msgs := s.sys.msgs ++ [e] } }

/-- Slots of an entry of n payload bytes. -/
def entrySlots (n : Nat) : Nat := (n + 63) / 64 + 1

/-- The handler address of an SMSG as issued. -/
def Cmd.handler (m : Cmd) : Nat :=
  match m.f.len with
  | .three => m.f.l32.toNat
  | _ => m.eb.toNat

/-! ### CHUNK_START -/

/-- The chunk's data, and the command with what it has read. -/
def State.readChunk (s : State) (core : Nat) (m : Cmd) : Except (Nat × Word) Cmd × State :=
  let c := s.coreOf core
  match m.eng with
  | .copy =>
    if m.opc ≠ 0x10 then (.ok { m with chunk := some [] }, s)
    else
      let (snap, s) := match (if m.copyReading then none else m.snap) with
        | some bs => ((.ok (some bs) : Except (Nat × Word) (Option (List Byte))), s)
        | none =>
          if m.copyReading then (.ok none, s) else
          if m.readsAhead then
            match s.readAhead core m with
            | (.error e, s) => (.error e, s)
            | (.ok bs, s) => (.ok (some bs), s)
          else (.ok none, s)
      match snap with
      | .error e => (.error e, s)
      | .ok (some bs) =>
        let m := { m with snap := some bs }
        let sp := m.nextSpan
        let data := if m.toPacked then [] else (bs.drop (sp.1 * m.pieces.1)).take (sp.2 * m.pieces.1)
        (.ok { m with chunk := some data }, s)
      | .ok none =>
        let sp := if m.copyReading then m.aheadSpan else m.nextSpan
        match s.gather core c.ctx (eaSpace m.ea) m.pieces.1 (m.sources sp.1 sp.2) with
        | (.error e, s) => (.error e, s)
        | (.ok bs, s) => (.ok { m with chunk := some bs }, s)
  | .galley =>
    let fm := m.gal.forme
    if m.row < fm.d1 then
      match s.gather core c.ctx 1 (rowBytes fm.fmt fm.d0) [m.gal.base.toNat + m.row * fm.pitch] with
      | (.error e, s) => (.error e, s)
      | (.ok bs, s) => (.ok { m with chunk := some bs }, s)
    else (.ok { m with chunk := some [] }, s)
  | .message =>
    match s.engRead core c.ctx 0 (eaAddr m.ec) (m.f.i16.toNat % 1024) with
    | (.error e, s) => (.error e, s)
    | (.ok bs, s) => (.ok { m with chunk := some bs }, s)
  | .coll =>
    match s.gather core c.ctx (eaSpace m.eb) m.nextPart.2 [m.nextPart.1] with
    | (.error e, s) => (.error e, s)
    | (.ok bs, s) => (.ok { m with chunk := some (match m.image with
      | some old => (old.drop m.held).take m.nextPart.2
      | none => bs) }, s)
  | _ => (.ok { m with chunk := some [] }, s)

/-- Whether a COPY has its whole source once its chunk under way is read, and no slot can make it read that chunk again
(R251, R304); a collective has what it reads of scratchpad. -/
def State.sourceDone (s : State) (core : Nat) (m : Cmd) : Bool :=
  (m.eng = .coll && eaSpace m.eb = 0) || m.eng = .copy && m.opc = 0x10 && !m.copyReading && (m.snap.isSome || m.count ≤ m.progress + 1)
    && !(s.nextReach core m).1.bound

/-- A command that sends entries has read its source for good once none of them that a retrain slot could send back is on its
way (R251, R304). -/
def State.freeSource (s : State) (core cmd : Nat) : State :=
  let back (e : Msg) : Bool := e.src == core && e.cmd == cmd && !e.refused && e.dst / 256 ≠ core / 256
  match (s.coreOf core).cmdOf cmd with
  | none => s
  | some m => if m.allSent && !(s.sys.msgs.any back) then s.onCore core fun c => c.freeRanges cmd false else s

/-- What follows once a chunk's data are read: a message leaves; other chunks are then under way. -/
def State.launchChunk (s : State) (core : Nat) (m : Cmd) : State :=
  let m := { m with prio := 0 }
  match m.eng with
  | .message =>
    let s := s.sendEntry core m m.handler 0 (m.chunk.getD [])
    (s.onCore core fun c => c.setCmd { m with chunk := none, progress := 1, started := true }).freeSource core m.id
  | _ =>
    let s := s.onCore core fun c => c.setCmd { m with started := true }
    let s := if s.sourceDone core m then s.onCore core fun c => c.freeRanges m.id false else s
    if m.eng = .copy ∧ m.opc = 0x10 ∧ eaSpace m.eb = 2 then
      s.onCore core fun c => c.takeCredit m.member (entrySlots (m.chunk.getD []).length)
    else s

/-- CHUNK_START (R258, R261, R263, R303): a chunk that may start reads its data. -/
def tryChunkStart (core cmd : Nat) (s : State) : Option State :=
  match (s.coreOf core).cmdOf cmd with
  | none => none
  | some m =>
    if !(s.chunkReady core m) ∨ (m.eng = .coll ∧ eaSpace m.eb = 1 ∧ s.rangePaused (s.coreOf core).ctx m.nextPart.1 m.nextPart.2)
        ∨ s.heldOff core (s.coreOf core).ctx m.chunkReads then none
    else if let some t := s.cmdMiss core (s.coreOf core).ctx cmd accERead m.chunkReads then t
    else
      let w := (s.coreOf core).rouseAll ((s.coreOf core).touches m)
      if !w.1 then some (s.setCore core w.2)
      else match s.readChunk core m with
        | (.error e, _) => some (s.cmdFault core cmd e.1 accERead e.2)
        | (.ok m, s) => some (s.launchChunk core m)

def execChunkStart (core cmd : Nat) (s : State) : Host.Outcome State Fault Refusal :=
  .next ((tryChunkStart core cmd s).getD s)

/-! ### CHUNK_COMPLETE -/

/-- A copy's command after a chunk: the ranges are freed with the last chunk, and the read range once the whole source is
held (R251). -/
def Core.afterChunk (c : Core) (m : Cmd) : Core :=
  let m := { m with chunk := none, progress := m.progress + 1 }
  let c := c.setCmd m
  if m.count ≤ m.progress then c.freeAll m.id else if m.snap.isSome then c.freeRanges m.id false else c

/-- A record of a run-packed destination, marked and written (R206, R222, R256). -/
def Core.putRecord (c : Core) (a : Nat) (bs : List Byte) : Except (Nat × Word) Core :=
  let v := BitVec.ofNat 64 a
  let hi := a + bs.length
  if 2 ^ 21 < hi then .error (kPROT, v)
  else if overlaps a hi c.mq.base (c.mq.base + 64 * c.mq.size) then .error (kPKDACC, v)
  else match c.marked a hi with
    | none => .error (kPKDACC, v)
    | some t => .ok { c.spWrite a bs with packed := t }

/-- A part of a source or of a contribution is held; a collective whose contribution is whole joins (R255, R267). -/
def State.holdPart (s : State) (core : Nat) (m : Cmd) (bs : List Byte) : State :=
  let m := { m with chunk := none, snap := some (m.snap.getD [] ++ bs) }
  let s := s.onCore core fun c => c.setCmd m
  if m.eng ≠ .coll ∨ m.nextPart.2 ≠ 0 then s
  else match s.joinColl core m (m.snap.getD []) with
    | (.error e, _) => s.cmdFault core m.id e.1 accERead e.2
    | (.ok _, s) => s.onCore core fun c => (c.setCmd { m with progress := 1, snap := none }).freeRanges m.id false

/-- CHUNK_COMPLETE (R258, R304): the chunk's writes perform together. -/
def tryChunkComplete (core cmd : Nat) (s : State) : Option State :=
  let c := s.coreOf core
  match c.cmdOf cmd with
  | none => none
  | some m =>
    match m.chunk with
    | none => none
    | some bs =>
      if (m.eng ≠ .copy ∧ m.eng ≠ .coll) ∨ m.parked ∨ s.enginesHeld core ∨ s.heldOff core c.ctx m.chunkWrites then none
      else if m.eng = .coll ∧ m.group.isEmpty ∧ s.groupPaused c.ctx (m.ea.toNat % 2 ^ 16) then none
      else if m.eng = .coll ∨ (m.opc = 0x10 ∧ m.copyReading) then some (s.holdPart core m bs)
      else if m.opc ≠ 0x10 then
        let lo := eaAddr m.ea + 4096 * m.progress
        let n := min 4096 (m.eb.toNat - 4096 * m.progress)
        some (s.setCore core ((c.spWrite lo (List.replicate n 0#8)).afterChunk m))
      else if eaSpace m.eb = 2 then
        let s := s.sendEntry core m m.shape.handler 1 bs
        some ((s.onCore core fun c => c.setCmd { m with chunk := none, progress := m.progress + 1 }).freeSource core m.id)
      else if m.toPacked then
        match (m.records (m.snap.getD []))[m.progress]? with
        | none => some (s.setCore core (c.afterChunk m))
        | some r =>
          let w := c.rouse r.1 (r.1 + r.2.length)
          if !w.1 then some (s.setCore core w.2)
          else match w.2.putRecord r.1 r.2 with
          | .error e => some (s.cmdFault core cmd e.1 accEWrite e.2)
          | .ok c => some (s.setCore core (c.afterChunk m))
      else if let some t := s.cmdMiss core c.ctx cmd accEWrite m.chunkWrites then t
      else
        let sp := m.nextSpan
        match s.scatter core c.ctx m.user (eaSpace m.eb) m.pieces.1 (m.targets sp.1 sp.2) bs with
        | (.error e, _) => some (s.cmdFault core cmd e.1 accEWrite e.2)
        | (.ok _, s) => some (s.onCore core fun c => c.afterChunk m)

def execChunkComplete (core cmd : Nat) (s : State) : Host.Outcome State Fault Refusal :=
  .next ((tryChunkComplete core cmd s).getD s)

/-- An overrun chunk is abandoned: what it read is discarded, and it starts again later (R304). -/
def Core.abandon (c : Core) (m : Cmd) (prio : Nat := 0) : Core :=
  let c := if m.eng = .copy ∧ m.opc = 0x10 ∧ eaSpace m.eb = 2 then
    c.giveCredit m.member (entrySlots (m.chunk.getD []).length) else c
  let again := m.eng = .coll || m.copyReading || m.progress ≠ 0
  c.setCmd { m with chunk := none, prio := prio, snap := if again then m.snap else none }

/-! ### GALLEY_ROW_LAND -/

/-- GALLEY_ROW_LAND (R260, R261): the row's bytes and zeros to the slot's end, and the fetch's range shrinks past them. -/
def tryGalleyRowLand (core cmd : Nat) (s : State) : Option State :=
  let c := s.coreOf core
  match c.cmdOf cmd with
  | none => none
  | some m =>
    match m.chunk with
    | none => none
    | some bs =>
      if m.eng ≠ .galley ∨ m.parked ∨ s.enginesHeld core then none
      else
        let w := ringRow m.gal.ring
        let a := ringBase m.gal.ring + m.gal.slot m.row * w
        let c := c.spWrite a (bs ++ List.replicate (w - bs.length) 0#8)
        some (s.setCore core ({ c with chase := shrinkGo m.id w c.chase }.setCmd
          { m with chunk := none, progress := m.progress + 1 }))

def execGalleyRowLand (core cmd : Nat) (s : State) : Host.Outcome State Fault Refusal :=
  .next ((tryGalleyRowLand core cmd s).getD s)

/-! ### Completion (R249, R262, R265) -/

/-- The collective of a COLL. -/
def State.rankAt (s : State) (core cmd : Nat) : Option CollRank :=
  s.sys.colls.find? fun c => c.core == core && c.cmd == cmd && !c.peer

/-- Whether a command has fully performed, its object apart. -/
def State.performed (s : State) (core : Nat) (m : Cmd) : Bool :=
  let c := s.coreOf core
  m.chunk.isNone && m.count ≤ m.progress && (m.eng == .mark || s.forked c m.id) &&
    (match m.eng with
      | .copy => !(s.sys.msgs.any fun e => e.src == core && e.cmd == m.id)
      | .message => !(s.sys.msgs.any fun e => e.src == core && e.cmd == m.id)
      | .galley => m.opc ≠ 0x13 || !m.gal.bound || c.galleyFree m
      | .coll =>
        m.opc = 0x17 && (c.before m).all (fun x => x.opc ≠ 0x16) && (match s.rankAt core m.id with
          | some r => r.far.isEmpty && r.span.2 ≤ r.written && (collRanks s.sys.colls r).length == r.n
          | none => false)
      | _ => true)

/-- Whether a COLL that has not fully performed needs a session that is not open: its group has a rank of a package that no
session of the tenant reaches (R385, R386). -/
def State.cutOff (s : State) (core : Nat) (m : Cmd) : Bool :=
  m.eng == .coll && m.opc == 0x17 && !(s.performed core m) && (match s.ranksOf core m with
    | .error _ => false
    | .ok rs => rs.any fun r => r.pkg ≠ s.sys.pkg && (s.sessionWith (s.coreOf core).vfOf r.pkg).isNone)

/-- A launch whose COLL needs a closed session ends with OWN (R385). -/
def State.endCutOff (s : State) : State :=
  (s.cores.map Prod.fst).foldl (fun s k => match (s.coreOf k).cmds.find? (s.cutOff k) with
    | none => s
    | some m => s.cmdFault k m.id kOWN accERead m.ea) s

/-- The completion descriptor of a command: SMSG has none. -/
def Cmd.object (m : Cmd) : Word := if m.eng = .message then BitVec.ofNat 64 (2 ^ 57) else m.ec

/-- A galley that a GALREL finds bound is unbound as the command completes, unless it has been set again (R259, R262). -/
def Core.unbind (c : Core) (m : Cmd) : Core :=
  if m.eng ≠ .galley || m.opc ≠ 0x13 || !m.gal.bound
      || c.cmds.any (fun x => x.eng == .galley && x.opc == 0x11 && m.id < x.id && x.galley == m.galley) then c
  else { c with galleys := c.galleys.setIfInBounds m.galley { c.galley m.galley with bound := false } }

/-- A command leaves its queue; the flags of a collective's elements land (R268). -/
def State.retire (s : State) (core : Nat) (m : Cmd) : State :=
  match s.rankAt core m.id with
  | none => s.onCore core fun c => (c.unbind m).dropCmd m.id
  | some r => (s.serveRank r).onCore core fun c => (c.landFlags m r.flags).dropCmd m.id

/-- Adding to an object and leaving the queue, or the fault that the addition meets; none while it waits. -/
def State.countAndDrop (s : State) (core : Nat) (m : Cmd) (d : Word) (inc : Nat) : Option State :=
  match s.objMiss core m d with
  | some t => t
  | none => match s.countObj core (s.coreOf core).ctx m.user d inc with
    | (.done, s) => some (s.retire core m)
    | (.waits, s) => some s
    | (.fault k a, _) => some (s.cmdFault core m.id k accEWrite a)

/-- COMMAND_COMPLETE: a command that has fully performed adds its increment (R235, R249). -/
def tryCommandComplete (core cmd : Nat) (s : State) : Option State :=
  match (s.coreOf core).cmdOf cmd with
  | none => none
  | some m =>
    if s.enginesIdled core || m.parked || !(s.performed core m) then none
    else match (s.rankAt core m.id).filter (s.disagree ·) with
      | some r => some (s.collMismatch r)
      | none => s.countAndDrop core m m.object (compInc m.object)

def execCommandComplete (core cmd : Nat) (s : State) : Host.Outcome State Fault Refusal :=
  .next ((tryCommandComplete core cmd s).getD s)

/-- Whether an OBJADD still waits for a command issued before it (R265). -/
def State.objWaits (s : State) (core id : Nat) : Bool :=
  let c := s.coreOf core
  c.cmds.any (fun x => x.id < id && x.eng ≠ .mark)
    || c.mats.any (fun o => o.cmd.id < id && o.cmd.opc ≠ 0x02 && o.cmd.opc ≠ 0x06)
    || c.keys.any (fun x => x.id < id)
    || s.sys.jobs.any (fun j => j.core == core && c.placed == some j.gang && j.cmd.id < id)

/-- OBJADD_PERFORM (R265): once every earlier command is complete and every earlier access performed. -/
def tryObjaddPerform (core cmd : Nat) (s : State) : Option State :=
  let c := s.coreOf core
  match c.cmdOf cmd with
  | none => none
  | some m =>
    if m.opc ≠ 0x16 ∨ m.eng ≠ .coll ∨ s.enginesIdled core ∨ m.parked ∨ s.objWaits core cmd
        ∨ !(c.gacc.all fun g => cmd < g.id) then none
    else s.countAndDrop core m m.ea m.eb.toNat

def execObjaddPerform (core cmd : Nat) (s : State) : Host.Outcome State Fault Refusal :=
  .next ((tryObjaddPerform core cmd s).getD s)

end Sys2Proof.Machine
end

