-- ==== Sys2Proof/Machine/MatrixIssue.lean ====
section
/-! DEFINITION. The matrix instructions at issue: checks, the front end's state and the queue (R275 to R292). -/

namespace Sys2Proof.Machine

open Sys2Proof

/-- Entry into the matrix engine's queue. -/
def State.forkMat (s : State) (o : MatOp) (reads writes : List (Nat × Nat)) (front : Core → Core) : State :=
  s.fork o.cmd reads writes fun c => front { c with mats := c.mats ++ [o] }

/-- K, N or M of length 3, or the default. -/
def dimOf (f : Fields) (lo w dflt : Nat) : Nat :=
  match f.len with
  | .three => f.l32.toNat / 2 ^ lo % 2 ^ w
  | _ => dflt

/-- The front end's state of a tile. -/
def Core.frontTile (c : Core) (t : Nat) : Nat × Int := c.fTiles.toList.getD (t % 8) (0, 0)

def Core.setFrontTile (c : Core) (t : Nat) (v : Nat × Int) : Core := { c with fTiles := c.fTiles.setIfInBounds (t % 8) v }

/-- MLOAD (R278 to R283). -/
def execMload (f : Fields) (s : State) : Host.Outcome State Fault Refusal :=
  onGuard f s fun s =>
    let c := s.bun.cur
    let m := s.command f .matrix 0x01
    let fm := s.formeAt f.i16.toNat
    let cls := classOf fm
    let cap := if cls = 5 then 8 else 32
    let k := dimOf f 0 8 (classKs cls)
    let n := dimOf f 8 6 cap
    let p := patchOf fm (eaAddr m.ea) m.eb n k
    let cs := engChecks m.ea [0] 0 ++ compChecks c m.ec true false
      ++ chk (cls = 0 || classKs cls < k || (cls = 5 && 8 < n)) kFMTMIS 0
      ++ coordChecks fm (eaAddr m.ea) m.eb ++ p.checks c
    s.checked f cs fun s =>
      s.forkMat { cmd := { m with formes := [fm] }, tiles := [] } [p.elems, p.scales] [] fun c =>
        { c with fShadow := ⟨cls, fm.modq, k, n, if cls = 4 then imageExp fm else 0⟩ }

/-- MSWAP (R284). -/
def execMswap (f : Fields) (s : State) : Host.Outcome State Fault Refusal :=
  onGuard f s fun s =>
    s.forkMat { cmd := s.command f .matrix 0x02, tiles := [] } [] [] fun c =>
      { c with fActive := c.fShadow, fShadow := c.fActive }

/-- Operands of MMUL and MMOD: tile, CLR, GAL, rows. -/
def mmTile (f : Fields) : Nat := f.i16.toNat % 8
def mmClr (f : Fields) : Bool := f.i16.getLsbD 9
def mmGal (f : Fields) : Bool := f.i16.getLsbD 10
def mmRows (f : Fields) : Nat := dimOf f 0 8 128

/-- The front end's tile state after an MMUL or MMOD (R287). -/
def mmAfter (f : Fields) (mode : Nat) (xsc : Int) (t : Nat × Int) : Nat × Int :=
  if mmRows f = 0 then t else if mmClr f ∨ t.1 = 0 then (mode, xsc) else t

/-- FMTMIS of a tile (Table 15-5). -/
def mmTileBad (f : Fields) (mode : Nat) (xsc : Int) (t : Nat × Int) : Bool :=
  (!(mmClr f) && t.1 ≠ 0 && t.1 ≠ mode)
    || (mode = 2 && t.1 = 2 && t.2 ≠ xsc && !(mmClr f && mmRows f = 128))

/-- MMUL and MMOD (R276, R281, R285, R288). -/
def streamInto (f : Fields) (opc : Nat) (modular : Bool) (s : State) : State :=
  let c := s.bun.cur
  let m := s.command f .matrix opc
  let p := c.fActive
  let rows := mmRows f
  let g := c.galley (f.i16.toNat / 2 ^ 11)
  let fm := if mmGal f then g.forme else s.formeAt (f.i16.toNat / 8 % 64)
  let cls := classOf fm
  let mode := classMode cls
  let xsc : Int := if cls = 4 then imageExp fm + p.xscp else 0
  let t := c.frontTile (mmTile f)
  let pair := cls ≠ 0 && cls == p.cls && (if modular then cls == 5 && fm.modq == p.modq else cls ≠ 5)
  let patch := patchOf fm (eaAddr m.ea) m.eb rows p.k
  let rs := if mmGal f then g.ranges (g.head + coordRow m.eb) rows else [patch.elems, patch.scales]
  let place : List Check :=
    if mmGal f then
      chk (!g.bound || ringRows g.ring < coordRow m.eb + rows) kPROT m.eb
      ++ coordChecks fm 0 m.eb ++ chk fm.mxb kFMTMIS 0 ++ ringChecks c rs
    else engChecks m.ea [0] 0 ++ coordChecks fm (eaAddr m.ea) m.eb ++ (if rows = 0 then [] else patch.checks c)
  let cs := place ++ compChecks c m.ec true false ++ chk (!pair || mmTileBad f mode xsc t) kFMTMIS 0
  s.checked f cs fun s =>
    let o : MatOp := { cmd := { m with formes := [fm], gal := g, q := modqOf s p.modq }, tiles := [mmTile f],
                       mode := mode, xsc := xsc }
    s.forkMat o (if rows = 0 then [] else rs) [] fun c => c.setFrontTile (mmTile f) (mmAfter f mode xsc t)

/-- MMUL (R285 to R287). -/
def execMmul (f : Fields) (s : State) : Host.Outcome State Fault Refusal := onGuard f s (streamInto f 0x03 false)

/-- MMOD (R288). -/
def execMmod (f : Fields) (s : State) : Host.Outcome State Fault Refusal := onGuard f s (streamInto f 0x04 true)

/-- Whether a drain of a tile mode may write a format (Table 15-8). -/
def drainOk (fm : Forme) (mode : Nat) (xsc : Int) : Bool :=
  let float := [0x01, 0x02, 0x03, 0x04, 0x05, 0x06, 0x07, 0x08].contains fm.fmt
  let int := [0x10, 0x12, 0x13, 0x14].contains fm.fmt
  let residue := fm.fmt == 0x20 || int || fm.fmt ≤ 0x03
  !fm.empty && !fm.runpk &&
    (match mode with
      | 1 => float
      | 2 => residue && (!int || xsc == 0)
      | 3 => fm.fmt == 0x19
      | _ => float || residue || fm.fmt == 0x19)

/-- MDRAIN (R281, R289, R290). -/
def execMdrain (f : Fields) (s : State) : Host.Outcome State Fault Refusal :=
  onGuard f s fun s =>
    let c := s.bun.cur
    let m := s.command f .matrix 0x05
    let fm := s.formeAt (f.i16.toNat / 8 % 64)
    let t := c.frontTile (mmTile f)
    let rows := dimOf f 0 8 128
    let n := dimOf f 8 6 (if t.1 = 3 then 8 else 32)
    let p := patchOf fm (eaAddr m.ea) m.eb rows n
    let b := fmtBits fm.fmt
    let cs := engChecks m.ea [0] 0 ++ compChecks c m.ec true false
      ++ chk (!(drainOk fm t.1 t.2) || (t.1 = 3 && 8 < n)) kFMTMIS 0
      ++ coordChecks fm (eaAddr m.ea) m.eb ++ chk (n * b % 8 ≠ 0) kUNALIGN m.eb ++ p.checks c
    s.checked f cs fun s =>
      let o : MatOp := { cmd := { m with formes := [fm] }, tiles := [mmTile f] }
      s.forkMat o [] [p.elems, p.scales] fun c =>
        if f.i16.getLsbD 9 then c.setFrontTile (mmTile f) (0, 0) else c

/-- MZERO (R291): an empty mask does nothing. -/
def execMzero (f : Fields) (s : State) : Host.Outcome State Fault Refusal :=
  onGuard f s fun s =>
    let ts := (List.range 8).filter fun k => f.i16.getLsbD k
    if ts.isEmpty then s
    else
      s.forkMat { cmd := s.command f .matrix 0x06, tiles := ts } [] [] fun c =>
        ts.foldl (fun c t => c.setFrontTile t (0, 0)) c

/-- Whether a tile is busy (R273, R293). -/
def Core.busy (c : Core) (t : Nat) : Bool := c.mats.any fun o => o.tiles.contains t

/-- MSTAT's value (Table 15-9). -/
def Core.mstat (c : Core) (t : Nat) : Word :=
  let x := c.tiles.toList.getD (t % 8) {}
  let busy := ((List.range 8).filter c.busy).foldl (fun a k => a + 2 ^ k) 0
  let bit (b : Bool) (k : Nat) : Nat := if b then 2 ^ k else 0
  BitVec.ofNat 64 (busy + x.mode * 2 ^ 8 + bit (c.mats.any fun o => o.cmd.opc == 0x01) 10
    + bit (67108607 < x.bound) 11 + x.bound * 2 ^ 12 + (x.xsc % 1024).toNat * 2 ^ 52)

/-- A result waiting on the last operation that names a tile. -/
def addStat (t id : Nat) : List MatOp → List MatOp
  | [] => []
  | o :: rest =>
    if o.tiles.contains t ∧ !(rest.any fun p => p.tiles.contains t) then { o with stats := o.stats ++ [(t, id)] } :: rest
    else o :: addStat t id rest

/-- MSTAT (R292). A bundle that took its place ahead of a handler run has it already (R174). -/
def execMstat (f : Fields) (s : State) : Host.Outcome State Fault Refusal :=
  onGuard f s fun s =>
    let t := mmTile f
    if f.v && s.bun.cur.busy t then
      if s.bun.mem.isSome then s
      else
      let id := s.nextResult
      (s.result f 0x07 .e f.d.toNat none (.word 0) 0).onCur fun c => { c with mats := addStat t id c.mats }
    else writeD f 0x07 2 (s.bun.cur.mstat t) 0 s

end Sys2Proof.Machine
end

