-- ==== Sys2Proof/Machine/Matrix.lean ====
section
/-! DEFINITION. The matrix engine at work: the start and the finish of its operations (R274, R277, R280, R283 to R297). -/

namespace Sys2Proof.Machine

open Sys2Proof

/-! ### Rows of operands (R280) -/

/-- Elements of a forme's row from a column on, as encoded: those outside the forme are zero. -/
def rowElems (sp : List Host.Cell) (fm : Forme) (at_ col n : Nat) : List Nat :=
  let have_ := min n (fm.d0 - col)
  let x := readN sp (at_ + col * fmtBits fm.fmt / 8) (rowBytes fm.fmt have_)
  (List.range n).map fun i => if i < have_ then elemOfRow fm.fmt x i else 0

/-- Row r of the elements that an operation with a base reads; a row beyond the forme is zero. -/
def tensorRow (sp : List Host.Cell) (fm : Forme) (base : Nat) (coord : Word) (r n : Nat) : List Nat :=
  let row := coordRow coord + r
  if row < fm.d1 then rowElems sp fm (base + row * fm.pitch) (coordCol coord) n else List.replicate n 0

/-- Row r of a galley's stream from its ring slot (R285). -/
def galleyRow (sp : List Host.Cell) (g : Galley) (coord : Word) (r n : Nat) : List Nat :=
  let row := g.head + coordRow coord + r
  rowElems sp g.forme (ringBase g.ring + g.slot row * ringRow g.ring) (coordCol coord) n

/-- Scale bytes of the groups of row r that scale an element read; 0x7F elsewhere (R283, R285). -/
def tensorScales (sp : List Host.Cell) (fm : Forme) (coord : Word) (r n : Nat) : List Nat :=
  let row := coordRow coord + r
  let col := coordCol coord
  (List.range ((n + 31) / 32)).map fun g =>
    if fm.mxb then
      if row < fm.d1 ∧ col + 32 * g < fm.d0 then
        (readByte sp (fm.scale + row * ((fm.d0 + 31) / 32) + col / 32 + g)).toNat
      else 0x7F
    else if fm.tolscale then fm.scale % 256 else 0x7F

/-- The integer image of an element in residue mode (R277). -/
def imageOf (fmt raw : Nat) : Int :=
  match fmt with
  | 0x10 => (sextBits 8 (BitVec.ofNat 64 raw)).toInt
  | 0x11 => (sextBits 4 (BitVec.ofNat 64 raw)).toInt
  | _ =>
    match elemVal fmt raw with
    | .fin neg num den => signedNum neg (2 * num / den)
    | _ => 0

/-! ### The sums of R285 and R288 -/

/-- An element's value in float mode: a NaN under scale 0xFF (R286). -/
def matVal (fmt raw scale : Nat) : Val := if scale = 0xFF then .nan false else elemVal fmt raw

/-- A product scaled by both scales, and whether it sets NV. -/
def matProd (fa fb a b sa sb : Nat) : Val × Bool :=
  let x := matVal fa a sa
  let y := matVal fb b sb
  match mulVal x y with
  | none => (.nan false, true)
  | some (.fin n num den) =>
    let t := scale2 num den ((sa : Int) + sb - 254)
    (.fin n t.1 t.2, false)
  | some v => (v, x.isSnan || y.isSnan)

/-- The exact sum of a group and NV (R286): +0 when it is zero, a NaN when it holds one or both infinities. -/
def groupSum (ps : List (Val × Bool)) : Val × Bool :=
  let nv := ps.any Prod.snd
  let has (v : Val) : Bool := ps.any fun p => p.1 == v
  let step (a : Val) (p : Val × Bool) : Val := match a, p.1 with
    | .fin s n d, .fin s' n' d' => addFin .rne s n d s' n' d'
    | a, _ => a
  if has (.inf false) && has (.inf true) then (.nan false, true)
  else if ps.any fun p => p.1.isNan then (.nan false, nv)
  else if has (.inf false) then (.inf false, nv)
  else if has (.inf true) then (.inf true, nv)
  else match ps.foldl step (.fin false 0 1) with
    | .fin n num den => (.fin (n && num ≠ 0) num den, nv)
    | v => (v, nv)

/-- One group added to a cell: Round(acc + s) (R285). -/
def addGroup (acc : Nat) (s : Val × Bool) : Rounded :=
  match f32 acc, s.1 with
  | .nan _, _ => ⟨f32Nan, flagIf s.2 fNV⟩
  | _, .nan _ => ⟨f32Nan, flagIf s.2 fNV⟩
  | a, v => finishF32 .rne s.2 (addVal .rne a v)

/-- A cell of a float tile after every group of one row. -/
def floatCell (fa fb : Nat) (sas sbs : List Nat) (prods : List (Nat × Nat)) : Nat → Nat → Nat → FlagSet → Nat × FlagSet
  | 0, _, acc, fl => (acc, fl)
  | n + 1, g, acc, fl =>
    let here := (prods.drop (32 * g)).take 32
    let sa := sas.getD g 0x7F
    let sb := sbs.getD g 0x7F
    let r := addGroup acc (groupSum (here.map fun p => matProd fa fb p.1 p.2 sa sb))
    floatCell fa fb sas sbs prods n (g + 1) r.bits (fl ||| r.flags)

/-- A cell of a residue tile: its value in the three moduli (R285). -/
def residueCell (fa fb acc : Nat) (prods : List (Nat × Nat)) : Nat :=
  let s : Int := (prods.map fun p => imageOf fa p.1 * imageOf fb p.2).foldl (· + ·) 0
  let c1 : Nat := acc % 2 ^ 9
  let c2 : Nat := acc / 2 ^ 9 % 2 ^ 9
  let c3 : Nat := acc / 2 ^ 18 % 2 ^ 10
  (((c1 : Int) + s) % 511).toNat + (((c2 : Int) + s) % 512).toNat * 2 ^ 9 + (((c3 : Int) + s) % 513).toNat * 2 ^ 18

/-- A modular sum, with MQ (R288). -/
def modCell (q d : Nat) : List (Nat × Nat) → Nat × FlagSet
  | [] => (d % q, flagIf (q ≤ d) fMQ)
  | p :: rest =>
    let m := modMul q p.1 p.2
    let a := modAdd q (d % q) m.1
    let r := modCell q a.1 rest
    (r.1, r.2 ||| m.2 ||| flagIf (q ≤ d) fMQ)

/-! ### Tiles -/

/-- CELL(i, j) (R273). -/
def Tile.cell (t : Tile) (i j : Nat) : Nat := mget 0 t.cells (32 * i + j)

def Tile.setCell (t : Tile) (i j v : Nat) : Tile :=
  { t with cells := if v = 0 then mdel t.cells (32 * i + j) else mput t.cells (32 * i + j) v }

/-- Residue D(i, j) of a modular tile (R274). -/
def Tile.res (t : Tile) (i j : Nat) : Nat := t.cell i (2 * j) + 2 ^ 32 * t.cell i (2 * j + 1)

def Tile.setRes (t : Tile) (i j v : Nat) : Tile :=
  (t.setCell i (2 * j) (v % 2 ^ 32)).setCell i (2 * j + 1) (v / 2 ^ 32)

def Core.tile (c : Core) (t : Nat) : Tile := c.tiles.toList.getD (t % 8) {}
def Core.setTile (c : Core) (t : Nat) (v : Tile) : Core := { c with tiles := c.tiles.setIfInBounds (t % 8) v }

/-- Column n of a plane, elements k below K. -/
def Plane.column (p : Plane) (n : Nat) : List Nat := p.elems.getD n []
def Plane.colScales (p : Plane) (n : Nat) : List Nat := p.scales.getD n []

/-- Row r of a tile after a stream's row in float or residue mode (R285), with flags. -/
def streamRow (f : Fields) (fm : Forme) (p : Plane) (mode r : Nat) (row scales : List Nat) (t : Tile) :
    Tile × FlagSet :=
  let clr := mmClr f
  let one (a : Tile × FlagSet) (n : Nat) : Tile × FlagSet :=
    if p.n ≤ n ∨ p.k = 0 then (if clr then (a.1.setCell r n 0, a.2) else a)
    else
      let prods := row.zip (p.column n)
      let acc := if clr then 0 else a.1.cell r n
      if mode = 1 then
        let x := floatCell fm.fmt p.fmt scales (p.colScales n) prods ((p.k + 31) / 32) 0 acc 0
        (a.1.setCell r n x.1, a.2 ||| x.2)
      else (a.1.setCell r n (residueCell fm.fmt p.fmt acc prods), a.2)
  (List.range 32).foldl one (t, 0)

/-- Row r of a tile after an MMOD's row (R288). -/
def modularRow (f : Fields) (p : Plane) (q r : Nat) (row : List Nat) (t : Tile) : Tile × FlagSet :=
  let clr := mmClr f
  let one (a : Tile × FlagSet) (j : Nat) : Tile × FlagSet :=
    if p.n ≤ j ∨ p.k = 0 then (if clr then (a.1.setRes r j 0, a.2) else a)
    else
      let x := modCell q (if clr then 0 else a.1.res r j) (row.zip (p.column j))
      (a.1.setRes r j x.1, a.2 ||| x.2)
  let done := (List.range 8).foldl one (t, 0)
  ((List.range 16).foldl (fun x j => x.setCell r (16 + j) 0) done.1, done.2)

/-- The largest image of the elements read (R283, R287). -/
def maxImage (fmt : Nat) (rows : List (List Nat)) : Nat :=
  rows.foldl (fun a r => r.foldl (fun a e => max a (imageOf fmt e).natAbs) a) 0

/-- A tile's MODE, BOUND and XSC after an MMUL or MMOD, and rows M to 127 zeroed where R287 says so. -/
def streamState (o : MatOp) (contrib : Nat) (t : Tile) : Tile :=
  let f := o.cmd.f
  let m := mmRows f
  let top := 2 ^ 40 - 1
  let b (n : Nat) : Nat := if o.mode = 2 then min n top else 0
  if mmClr f then
    if t.mode ≠ o.mode ∧ t.mode ≠ 0 then
      { t with mode := o.mode, bound := b contrib, xsc := o.xsc, cells := t.cells.filter fun e => e.1 < 32 * m }
    else if m = 128 then { t with mode := o.mode, bound := b contrib, xsc := o.xsc }
    else { t with mode := o.mode, bound := b (max t.bound contrib), xsc := o.xsc }
  else if t.mode = 0 then { t with mode := o.mode, bound := b contrib, xsc := o.xsc }
  else { t with bound := b (t.bound + contrib) }

/-- Whether a bound leaves the exact range (R287, R290). -/
def overBound (b : Nat) : Bool := 67108607 < b

/-- A tile after an MMUL or MMOD finishes, with its flags; one with M = 0 raises none, whatever the BOUND (DESIGN CHOICE, log
entry 48). -/
def MatOp.stream (o : MatOp) (t : Tile) : Tile × FlagSet :=
  let f := o.cmd.f
  let fm := o.cmd.formes.headD 0
  if mmRows f = 0 then (t, 0)
  else
    let contrib := if o.mode = 2 then o.plane.k * maxImage fm.fmt o.image * o.plane.bmax else 0
    let t := streamState o contrib t
    let one (a : Tile × FlagSet) (r : Nat) : Tile × FlagSet :=
      let row := o.image.getD r []
      let x := if o.mode = 3 then modularRow f o.plane o.cmd.q r row a.1
        else streamRow f fm o.plane o.mode r row (o.scales.getD r []) a.1
      (x.1, a.2 ||| x.2)
    let out := (List.range (mmRows f)).foldl one (t, 0)
    (out.1, out.2 ||| flagIf (o.mode = 2 && overBound t.bound) fRG)

/-! ### MLOAD -/

/-- Block scales of a column: one per group of Ks, those that scale nothing read 0x7F (R283). -/
def planeScales (sp : List Host.Cell) (fm : Forme) (coord : Word) (n k ks : Nat) (live : Bool) : List Nat :=
  let have_ := if live then tensorScales sp fm coord n k else []
  (List.range (ks / 32)).map fun g => have_.getD g (if fm.tolscale then fm.scale % 256 else 0x7F)

/-- The plane that an MLOAD leaves (R283). -/
def planeOf (m : Cmd) (fm : Forme) (k n : Nat) (rows scales : List (List Nat)) : Plane :=
  let cls := classOf fm
  { cls := cls, fmt := fm.fmt, mxb := fm.mxb, tol := fm.tolscale, modq := fm.modq, k := k, n := n,
    elems := rows.take n, scales := scales, bmax := if cls = 4 then maxImage fm.fmt (rows.take n) else 0,
    xscp := if cls = 4 then imageExp (m.formes.headD 0) else 0 }

/-! ### MDRAIN (R289, R290) -/

/-- The value of a tile's cell for a drain. -/
def drainVal (t : Tile) (i j : Nat) : Val :=
  match t.mode with
  | 1 => f32 (t.cell i j)
  | 2 =>
    match Val.ofInt (rxDecode (t.cell i j)).1 with
    | .fin n num den => let s := scale2 num den t.xsc; .fin n s.1 s.2
    | v => v
  | _ => .fin false 0 1

/-- The flag of reading a cell for a drain: RG where a residue cell holds a field out of range or nonzero bits [31:28]
(R115). -/
def drainFlag (t : Tile) (i j : Nat) : FlagSet := if t.mode = 2 then (rxDecode (t.cell i j)).2 else 0

/-- One element of a drain outside a block: its bits and flags (Table 15-8). -/
def drainElem (fm : Forme) (rm : RMode) (t : Tile) (i j : Nat) : Nat × FlagSet :=
  if t.mode = 3 then (t.res i j, 0)
  else if t.mode = 0 then (0, 0)
  else if fm.fmt = 0x20 then (t.cell i j, 0)
  else if t.mode = 1 ∧ fm.fmt = 0x01 then (t.cell i j, 0)
  else
    let w := writeElem fm.fmt (if fm.tolscale then some (fm.scale % 256) else none) rm (drainVal t i j)
    (w.1, w.2 ||| drainFlag t i j)

/-- One row of a drain: elements, the scale byte under MXB, flags. -/
def drainRow (fm : Forme) (rm : RMode) (t : Tile) (i n : Nat) : List Nat × Option Nat × FlagSet :=
  if fm.mxb then
    let b := writeBlock fm.fmt ((List.range n).map fun j => drainVal t i j)
    (b.2.1, some b.1, (List.range n).foldl (fun a j => a ||| drainFlag t i j) b.2.2)
  else
    let es := (List.range n).map fun j => drainElem fm rm t i j
    (es.map Prod.fst, none, es.foldl (fun a e => a ||| e.2) 0)

/-- Writing one row of a drain: elements outside the forme are not written. -/
def Core.drainTo (c : Core) (m : Cmd) (fm : Forme) (rm : RMode) (t : Tile) (n i : Nat) : Core × FlagSet :=
  let row := coordRow m.eb + i
  let col := coordCol m.eb
  let n := min n (fm.d0 - col)
  if fm.d1 ≤ row ∨ n = 0 then (c, 0)
  else
    let r := drainRow fm rm t i n
    let at_ := eaAddr m.ea + row * fm.pitch + col * fmtBits fm.fmt / 8
    let c := c.spWrite at_ (natToBytes (rowBytes fm.fmt n) (rowOfElems fm.fmt r.1))
    let c := match r.2.1 with
      | none => c
      | some b => c.spWrite (fm.scale + row * ((fm.d0 + 31) / 32) + col / 32) [BitVec.ofNat 8 b]
    (c, r.2.2)

/-- N of a drain, its default taken from the tile it drains. -/
def drainCols (f : Fields) (t : Tile) : Nat := dimOf f 8 6 (if t.mode = 3 then 8 else 32)

/-- A drain's effect on its core: the rows written, the tile zeroed under Z, the flags; RG also where no cell is drained (DESIGN
CHOICE, log entry 48). -/
def Core.drain (c : Core) (m : Cmd) : Core × FlagSet :=
  let fm := m.formes.headD 0
  let k := mmTile m.f
  let t := c.tile k
  let rows := dimOf m.f 0 8 128
  let n := drainCols m.f t
  let rm := RMode.ofCode m.f.rm.toNat 0
  let one (a : Core × FlagSet) (i : Nat) : Core × FlagSet :=
    let x := a.1.drainTo m fm rm t n i
    (x.1, a.2 ||| x.2)
  let r := (List.range rows).foldl one (c, 0)
  let c := if m.f.i16.getLsbD 9 then r.1.setTile k {} else r.1
  (c, r.2 ||| flagIf (t.mode = 2 && overBound t.bound) fRG)

/-! ### Start (R284, R293) -/

/-- Whether a stream has passed its last row, one row per clk (Table 15-10). -/
def MatOp.streamed (o : MatOp) (clk : Nat) : Bool :=
  (o.cmd.opc ≠ 0x03 && o.cmd.opc ≠ 0x04) || o.begun + mmRows o.cmd.f ≤ clk

/-- Whether the operations before one let it start (Table 15-10). -/
def startsAfter (clk : Nat) (before : List MatOp) (o : MatOp) : Bool :=
  let opc (p : MatOp) : Nat := p.cmd.opc
  let shares (p : MatOp) : Bool := p.tiles.any o.tiles.contains
  before.all fun p =>
    p.started && (match o.cmd.opc with
      | 0x01 => opc p ≠ 0x01 && opc p ≠ 0x02
      | 0x02 => opc p ≠ 0x01 && opc p ≠ 0x02 && p.streamed clk
      | 0x03 | 0x04 => opc p ≠ 0x02 && p.streamed clk && !(shares p && (opc p == 0x04 || opc p == 0x05 || opc p == 0x06))
      | _ => !(shares p))

/-- The bytes that row r of an operand of n elements takes: its elements and its block scales. -/
def rowSpans (fm : Forme) (at_ : Nat) (coord : Word) (row n : Nat) : List (Nat × Nat) :=
  let col := coordCol coord
  let n := min n (fm.d0 - col)
  if n = 0 then []
  else
    let a := at_ + col * fmtBits fm.fmt / 8
    let sc := fm.scale + row * ((fm.d0 + 31) / 32) + col / 32
    (a, a + rowBytes fm.fmt n) :: (if fm.mxb then [(sc, sc + (n + 31) / 32)] else [])

/-- The spans of rows of a tensor. -/
def tensorSpans (fm : Forme) (base : Nat) (coord : Word) (rows n : Nat) : List (Nat × Nat) :=
  (List.range rows).flatMap fun r =>
    let row := coordRow coord + r
    if row < fm.d1 then rowSpans fm (base + row * fm.pitch) coord row n else []

/-- Bytes of scratchpad that an operation reads, and those that it writes. -/
def MatOp.reads (o : MatOp) (c : Core) : List (Nat × Nat) :=
  let m := o.cmd
  let fm := m.formes.headD 0
  match m.opc with
  | 0x01 =>
    let cls := classOf fm
    tensorSpans fm (eaAddr m.ea) m.eb (dimOf m.f 8 6 (if cls = 5 then 8 else 32)) (dimOf m.f 0 8 (classKs cls))
  | 0x03 | 0x04 =>
    if mmGal m.f then
      (List.range (mmRows m.f)).flatMap fun r =>
        let row := m.gal.head + coordRow m.eb + r
        rowSpans fm (ringBase m.gal.ring + m.gal.slot row * ringRow m.gal.ring) m.eb row c.active.k
    else tensorSpans fm (eaAddr m.ea) m.eb (mmRows m.f) c.active.k
  | _ => []

def MatOp.writes (o : MatOp) (c : Core) : List (Nat × Nat) :=
  let m := o.cmd
  if m.opc = 0x05 then
    tensorSpans (m.formes.headD 0) (eaAddr m.ea) m.eb (dimOf m.f 0 8 128) (drainCols m.f (c.tile (mmTile m.f)))
  else []

/-- The clk that a started operation finishes in, nothing delaying it (Table 15-10). -/
def MatOp.due (o : MatOp) (c : Core) : Nat :=
  let m := o.cmd
  o.begun + (match m.opc with
    | 0x01 => (((o.reads c).map fun r => r.2 - r.1).sum + 127) / 128 + 7
    | 0x03 => mmRows m.f - 1 + 16
    | 0x04 => mmRows m.f - 1 + 24
    | 0x05 => dimOf m.f 0 8 128 - 1 + 10
    | 0x06 => 4 * o.tiles.length - 1
    | _ => 0)

/-- The first word whose error cannot be corrected that the spans meet (R201, R297). -/
def Core.softRead (c : Core) (rs : List (Nat × Nat)) : Option Nat := rs.findSome? fun r => c.badWord r.1 r.2 false

/-- A write that merges into such a word. -/
def Core.softMerge (c : Core) (rs : List (Nat × Nat)) : Option Nat :=
  rs.findSome? fun r => c.badWord r.1 r.2 true

/-- The operation with what it reads (R283, R285). -/
def Core.readMat (c : Core) (o : MatOp) : MatOp :=
  let m := o.cmd
  let fm := m.formes.headD 0
  match m.opc with
  | 0x01 =>
    let cls := classOf fm
    let k := dimOf m.f 0 8 (classKs cls)
    let n := dimOf m.f 8 6 (if cls = 5 then 8 else 32)
    { o with image := (List.range n).map fun i => tensorRow c.sp fm (eaAddr m.ea) m.eb i k,
             scales := (List.range 32).map fun i => planeScales c.sp fm m.eb i k (classKs cls) (decide (i < n)) }
  | 0x03 | 0x04 =>
    let p := c.active
    let rows := mmRows m.f
    { o with plane := p,
             image := (List.range rows).map fun r =>
               if mmGal m.f then galleyRow c.sp m.gal m.eb r p.k else tensorRow c.sp fm (eaAddr m.ea) m.eb r p.k,
             scales := (List.range rows).map fun r => tensorScales c.sp fm m.eb r p.k }
  | _ => o

def Core.setMat (c : Core) (o : MatOp) : Core :=
  let put (x : MatOp) : MatOp := if x.cmd.id = o.cmd.id then o else x
  { c with mats := c.mats.map put }

/-- An operation leaving the queue; results of MSTAT with `.w` that waited for it sample (R292). -/
def Core.dropMat (c : Core) (o : MatOp) : Core :=
  let c := { c.freeAll o.cmd.id with mats := c.mats.filter fun x => x.cmd.id ≠ o.cmd.id }
  o.stats.foldl (fun c t => c.reply t.2 2 (.word (c.mstat t.1)) 0) c

/-- MATRIX_OP_START: the first operation not yet started starts, once Table 15-10 and the chase let it. An MSWAP
exchanges the planes as it starts (R284). -/
def tryMatrixOpStart (core : Nat) (s : State) : Option State :=
  if s.enginesHeld core then none
  else
    let c := s.coreOf core
    match c.mats.find? fun o => !o.started with
    | none => none
    | some o =>
      let before := c.mats.takeWhile fun x => x.cmd.id ≠ o.cmd.id
      if o.cmd.parked || !(startsAfter c.clk before o) || c.engineWaits o.cmd.id || !(s.forked c o.cmd.id) then none
      else
        let w := c.rouseAll (o.reads c)
        if !w.1 then some (s.setCore core w.2)
        else match c.softRead (o.reads c) with
          | some a => some (s.cmdFault core o.cmd.id kSPSOFT accERead (softAddr a))
          | none =>
            if o.cmd.opc = 0x02 then some (s.setCore core { c.dropMat o with active := c.shadow, shadow := c.active })
            else some (s.setCore core ((c.setMat { c.readMat o with started := true, begun := c.clk }).freeRanges o.cmd.id false))

def execMatrixOpStart (core : Nat) (s : State) : Host.Outcome State Fault Refusal :=
  .next ((tryMatrixOpStart core s).getD s)

/-! ### Finish -/

/-- The operation's effect on the core and its flags. -/
def Core.effect (c : Core) (o : MatOp) : Core × FlagSet :=
  let m := o.cmd
  let fm := m.formes.headD 0
  match m.opc with
  | 0x01 =>
    let cls := classOf fm
    let n := dimOf m.f 8 6 (if cls = 5 then 8 else 32)
    ({ c with shadow := planeOf m fm (dimOf m.f 0 8 (classKs cls)) n o.image o.scales }, 0)
  | 0x03 | 0x04 =>
    let r := o.stream (c.tile (mmTile m.f))
    (c.setTile (mmTile m.f) r.1, r.2)
  | 0x05 => c.drain m
  | 0x06 => (o.tiles.foldl (fun c t => c.setTile t {}) c, 0)
  | _ => (c, 0)

/-- Whether an operation takes a completion object (R282). -/
def takesObject (opc : Nat) : Bool := opc == 0x01 || opc == 0x03 || opc == 0x04 || opc == 0x05

/-- MATRIX_OP_FINISH: a started operation whose time has come and that no earlier one of its tiles stands before takes effect; its flags land, its
object counts, and its tiles may cease to be busy (R249, R287 to R293). -/
def tryMatrixOpFinish (core cmd : Nat) (s : State) : Option State :=
  if s.enginesHeld core then none
  else
    let c := s.coreOf core
    match c.mats.find? fun o => o.cmd.id == cmd with
    | none => none
    | some o =>
      let before := c.mats.takeWhile fun x => x.cmd.id ≠ cmd
      if !o.started || o.cmd.parked || c.clk < o.due c || before.any (fun p => p.tiles.any o.tiles.contains) then none
      else if !(c.rouseAll (o.writes c)).1 then some (s.setCore core (c.rouseAll (o.writes c)).2)
      else match c.softMerge (o.writes c) with
        | some a => some (s.cmdFault core cmd kSPSOFT accEWrite (softAddr a))
        | none =>
          let e := c.effect o
          let done := (e.1.landFlags o.cmd e.2)
          if !(takesObject o.cmd.opc) then some (s.setCore core (done.dropMat o))
          else if let some t := s.objMiss core o.cmd o.cmd.ec then t
          else match (s.setCore core done).countObj core c.ctx o.cmd.user o.cmd.ec (compInc o.cmd.ec) with
            | (.done, t) => some (t.onCore core fun c => c.dropMat o)
            | (.waits, _) =>
              let d := compAddr o.cmd.ec
              some (if compSp o.cmd.ec then s.setCore core (c.rouse d (d + 8)).2 else s)
            | (.fault k a, _) => some (s.cmdFault core cmd k accEWrite a)

def execMatrixOpFinish (core cmd : Nat) (s : State) : Host.Outcome State Fault Refusal :=
  .next ((tryMatrixOpFinish core cmd s).getD s)

end Sys2Proof.Machine
end

