-- ==== Sys2Proof/Machine/Image.lean ====
section
/-! DEFINITION. The core record (R338, Tables 20-4 to 20-8 and 20-12) as saves, dumps and the debugger write and read it, and
the pending-write list (R340). -/

namespace Sys2Proof.Machine

open Sys2Proof

/-- Bytes of a core record. -/
def recordBytes : Nat := 0x240000

/-- A part of a record: offset and bytes. -/
abbrev Part := Nat × List Byte

/-- A 64-bit word of a record. -/
def word8 (off : Nat) (v : Word) : Part := (off, natToBytes 8 v.toNat)

/-- Consecutive 64-bit words. -/
def words8 (off : Nat) (vs : List Word) : Part := (off, vs.flatMap fun v => natToBytes 8 v.toNat)

/-! ### Writing -/

/-- One loop-stack entry (Table 3-2). -/
def LoopEntry.image (e : LoopEntry) : List Byte :=
  natToBytes 48 (e.start.toNat % 2 ^ 56 + (if e.staged then 2 else 1) * 2 ^ 56 + e.stages % 8 * 2 ^ 58
    + (if e.stop then 2 ^ 61 else 0) + e.stopAt.toNat % 2 ^ 56 * 2 ^ 64 + e.n.toNat * 2 ^ 128 + e.e.toNat * 2 ^ 192
    + e.base.toNat * 2 ^ 256 + e.lim.toNat * 2 ^ 320)

/-- Full bits of n registers of a file. -/
def Core.fullBits (c : Core) (hnd : Bool) (file : RFile) (n : Nat) : Nat :=
  ((List.range n).map fun i => if c.isEmpty hnd file i then 0 else 2 ^ i).sum

/-- A sequencer's bank (Table 20-7). -/
def Core.bankParts (c : Core) (hnd : Bool) (off : Nat) : List Part :=
  let b := c.bank hnd
  let runs := if hnd then 0 else c.fullBits hnd .v 16 * 2 ^ 16 + c.fullBits hnd .w 16 * 2 ^ 32
  [word8 off b.pc,
   (off + 0x08, natToBytes 8 b.predWord.toNat),
   (off + 0x10, natToBytes 8 (c.fullBits hnd .x 32 + c.fullBits hnd .y 32 * 2 ^ 32)),
   (off + 0x18, natToBytes 8 (c.fullBits hnd .a 24 + c.fullBits hnd .b 24 * 2 ^ 24)),
   (off + 0x20, natToBytes 8 (c.fullBits hnd .e 16 + runs)),
   (off + 0x40, b.loops.reverse.flatMap LoopEntry.image),
   words8 (off + 0x160) b.x.toList, words8 (off + 0x260) b.y.toList, words8 (off + 0x360) b.a.toList,
   words8 (off + 0x420) b.b.toList, words8 (off + 0x4E0) b.e.toList]

/-- A run register with every slug in 16-byte form. -/
def runImage (r : RunReg) : List Byte :=
  natToBytes 16 (r.runs + r.len * 2 ^ 16 + r.tag * 2 ^ 32)
    ++ r.slugs.flatMap fun s => natToBytes 16 (s.2 + s.1.toNat * 2 ^ 64)

/-- A signed number in w bits. -/
def signedBits (w : Nat) (v : Int) : Nat := (v % (2 ^ w : Int)).toNat

/-- A plane (Table 20-12, then the scales of all 32 columns, R283, and the columns loaded). -/
def Plane.parts (p : Plane) (off : Nat) : List Part :=
  let st := p.cls + p.fmt * 2 ^ 8 + (if p.mxb then 2 ^ 16 else 0) + (if p.tol then 2 ^ 17 else 0) + p.modq * 2 ^ 24
    + p.k * 2 ^ 32 + p.n * 2 ^ 40 + p.bmax % 2 ^ 64 * 2 ^ 64 + signedBits 16 p.xscp * 2 ^ 128
  let scale (n g : Nat) : Part := (off + 0x40 + 32 * g + n, natToBytes 1 ((p.colScales n).getD g 0))
  let col (n : Nat) : Part := (off + 0x100 + 128 * n, natToBytes (rowBytes p.fmt p.k) (rowOfElems p.fmt ((p.column n).take p.k)))
  let cols := if p.cls = 0 then 0 else 32
  (off, natToBytes 64 st) :: ((List.range cols).flatMap fun n => [scale n 0, scale n 1, scale n 2, scale n 3])
    ++ (List.range p.n).map col

/-- A tile's state and its cells. -/
def Tile.parts (t : Tile) (i : Nat) : List Part :=
  (0x12200 + 16 * i, natToBytes 16 (t.bound % 2 ^ 40 + signedBits 10 t.xsc * 2 ^ 64 + t.mode * 2 ^ 80))
    :: t.cells.map fun p => (0x15000 + 0x4000 * i + 4 * p.1, natToBytes 4 p.2)

/-- The words of a command's instruction as issued. -/
def Cmd.words (m : Cmd) : List IWord := [packWord0 m.opc m.f, packWord1 m.f, m.f.l32].take m.f.len.words

/-- ENGINE of Table 20-8. -/
def Eng.code : Eng → Nat
  | .copy => 0 | .galley => 1 | .message => 2 | .coll => 3
  | .matrix | .key | .mark => 0

/-- PROGRESS of a command (Tables 20-2 and 20-8): chunks performed or rows landed; entries accepted, of which the refused
ones are none; of a collective, entries completed behind its joining. -/
def Cmd.recorded (m : Cmd) (refused : Nat) : Nat :=
  if m.eng = .coll ∧ m.opc = 0x17 then m.done + (m.progress - 1) else m.progress - refused

/-- An engine record (Table 20-8); `refused` says how many entries of the command await resending. -/
def Cmd.parts (m : Cmd) (refused : Nat) (off : Nat) : List Part :=
  [(off, m.words.flatMap fun w => natToBytes 4 w.toNat),
   words8 (off + 16) [m.ea, m.eb, m.ec],
   (off + 48, natToBytes 8 (m.recorded refused)),
   (off + 56, natToBytes 8 (m.eng.code + (if m.started then 4 else 0) + (if refused = 0 then 0 else 8))),
   (off + 64, (m.formes.take 2).flatMap fun (fm : Forme) => natToBytes 32 fm.toNat),
   (off + 128, m.block.take 256)]

/-- A galley's binding. -/
def Galley.image (g : Galley) : List Byte :=
  natToBytes 8 (g.base.toNat % 2 ^ 56 + (if g.bound then 2 ^ 63 else 0)) ++ natToBytes 8 g.ring.toNat
    ++ natToBytes 8 (g.start % 2 ^ 32 + g.head % 2 ^ 32 * 2 ^ 32) ++ natToBytes 8 0 ++ natToBytes 32 g.forme.toNat

/-- An entry of the chase, with the index of its engine record. -/
def ChaseRange.image (r : ChaseRange) (cmds : List Cmd) : List Byte :=
  let k := (cmds.findIdx? fun m => m.id == r.cmd).getD 0
  natToBytes 16 (r.lo % 2 ^ 32 + r.hi % 2 ^ 32 * 2 ^ 32 + 2 ^ 64 + (if r.write then 2 ^ 65 else 0) + k % 64 * 2 ^ 66)

/-- The STOP code of Table 20-1. -/
def StopPoint.code : StopPoint → Nat
  | .loopCut => 0 | .yielded => 1 | .waiting => 2 | .departed => 3 | .parked => 4

/-- The per-member message state. -/
def Core.peerPart (c : Core) (m : Nat) : Part :=
  let p := c.peer m
  (0x3A800 + 8 * m, natToBytes 8 (p.nextSeq % 2 ^ 32 + (if p.refusing.isSome then 2 ^ 32 else 0)
    + c.creditOf m % 2 ^ 13 * 2 ^ 48))

/-- The parts of a core record below the scratchpad (Table 20-4). -/
def Core.parts (c : Core) (stop tick : Nat) (refused : Cmd → Nat) : List Part :=
  let seq : List (Nat × Cmd) := c.cmds.zipIdx.map fun p => (p.2, p.1)
  [(0, natToBytes 64 (1 + stop * 2 ^ 8 + c.member * 2 ^ 16 + c.gidx * 2 ^ 32 + c.launch.toNat * 2 ^ 64 + tick * 2 ^ 128
      + c.cmds.length % 64 * 2 ^ 192)),
   words8 0x40 [c.status false, c.trapvec, c.trappc, c.traprec, c.trapaddr, c.flagen, c.flags, c.firstev, c.firstpc,
     BitVec.ofNat 64 c.mq.base, BitVec.ofNat 64 c.mq.size, BitVec.ofNat 64 c.mq.head,
     BitVec.ofNat 64 (c.mq.tail + c.mq.used * 2 ^ 16)],
   words8 0xA8 c.modq.toList,
   words8 0xE8 [c.rng.key, BitVec.ofNat 64 c.rng.ctr, BitVec.ofNat 64 (c.rng.ctr / 2 ^ 64),
     BitVec.ofNat 64 c.rng.words.length],
   words8 0x108 [c.gated.setWidth 64, c.arr.setWidth 64, BitVec.ofNat 64 c.deque.length],
   (0x140, c.rng.words.flatMap fun w => natToBytes 4 w.toNat),
   words8 0x240 c.deque,
   (0x440, c.packed.flatMap fun r => natToBytes 8 r.1 ++ natToBytes 8 r.2),
   (0x4C0, c.galleys.toList.flatMap Galley.image),
   (0x700, c.chase.flatMap fun r => r.image c.cmds),
   (0xB00, c.formes.toList.flatMap fun (fm : Forme) => natToBytes 32 fm.toNat)]
  ++ c.bankParts false 0x1300 ++ c.bankParts true 0x1880
  ++ (c.v.toList ++ c.w.toList).zipIdx.map (fun p => ((0x2000 + 2064 * p.2, runImage p.1) : Part))
  ++ c.tiles.toList.zipIdx.flatMap (fun p => p.1.parts p.2)
  ++ c.active.parts 0x12300 ++ c.shadow.parts 0x13400
  ++ seq.flatMap (fun p => p.2.parts (refused p.2) (0x35000 + 512 * p.1))
  ++ (List.range 2048).map c.peerPart

/-- A core record as a small memory of its own, gated groups as zero. -/
def Core.image (c : Core) (stop tick : Nat) (refused : Cmd → Nat) : List Host.Cell :=
  let low := (c.parts stop tick refused).foldl (fun m p => writeBytes m p.1 p.2) []
  low ++ (c.sp.filter fun p => !(c.gated.getLsbD (p.1 / 2 ^ 18))).map fun p => ((p.1 + 0x40000, p.2) : Host.Cell)

/-- The bytes of a record. -/
def imageBytes (m : List Host.Cell) : List Byte := readBytes m 0 recordBytes

/-! ### The pending-write list (R340) -/

/-- The entry of a register that is empty. -/
def Pend.pending (p : Pend) (clk : Nat) : Option Nat :=
  p.dst.map fun d => d.1.code + d.2 % 32 * 2 ^ 4 + (if p.hnd then 2 ^ 9 else 0)
    + (match p.due with
      | some t => min (t - clk) 0xFFFE
      | none => 0xFFFF) * 2 ^ 16
    + p.opc * 2 ^ 32 + p.slot.num * 2 ^ 40

/-- The first result in flight of each register. -/
def firstPends : List Pend → List (Option (RFile × Nat) × Bool) → List Pend
  | [], _ => []
  | p :: ps, seen =>
    if p.dst.isNone ∨ seen.contains (p.dst, p.hnd) then firstPends ps seen else p :: firstPends ps ((p.dst, p.hnd) :: seen)

/-- Clk that an operation still takes, as the list gives them: those of Table 15-10 once it has started. -/
def Core.matClk (c : Core) (o : MatOp) : Nat := if o.started && !o.cmd.parked then min (o.due c - c.clk) 0xFFFE else 0xFFFF

/-- The list: one entry for each empty register, then one for each busy tile, of the first operation that names it. -/
def Core.pendingList (c : Core) : List Byte :=
  let regs := (firstPends c.pend []).filterMap fun p => p.pending c.clk
  let busy (t : Nat) : Option Nat := (c.mats.find? fun o => o.tiles.contains t).map fun o =>
    8 + t * 2 ^ 4 + (if o.cmd.hnd then 2 ^ 9 else 0) + c.matClk o * 2 ^ 16 + o.cmd.opc * 2 ^ 32 + 7 * 2 ^ 40
  (regs ++ (List.range 8).filterMap busy).flatMap (natToBytes 8)

/-! ### Reading -/

/-- A word of a record. -/
def rec8 (m : List Host.Cell) (off : Nat) : Word := BitVec.ofNat 64 (readN m off 8)

/-- A bit field of a record. -/
def recBits (m : List Host.Cell) (off lo w : Nat) : Nat := readN m off ((lo + w + 7) / 8) / 2 ^ lo % 2 ^ w

/-- A two's-complement field. -/
def ofSigned (w v : Nat) : Int := if 2 ^ (w - 1) ≤ v then (v : Int) - 2 ^ w else (v : Int)

/-- A loop-stack entry read back. -/
def loopAt (m : List Host.Cell) (off : Nat) : LoopEntry :=
  { start := BitVec.ofNat 64 (recBits m off 0 56), staged := recBits m off 56 2 = 2, stages := recBits m off 58 3,
    stop := recBits m off 61 1 = 1, stopAt := BitVec.ofNat 64 (recBits m off 64 56), n := rec8 m (off + 16),
    e := rec8 m (off + 24), base := rec8 m (off + 32), lim := rec8 m (off + 40) }

/-- Words of a record. -/
def recWords (m : List Host.Cell) (off n : Nat) : List Word := (List.range n).map fun i => rec8 m (off + 8 * i)

/-- A bank read back, with a number of loop-stack entries. -/
def bankAt (m : List Host.Cell) (off depth : Nat) : Bank :=
  { pc := BitVec.ofNat 64 (recBits m off 0 56),
    preds := BitVec.ofNat 16 (recBits m (off + 8) 0 16),
    loops := ((List.range depth).map fun i => loopAt m (off + 0x40 + 48 * i)).reverse,
    x := Vector.ofFn fun i => rec8 m (off + 0x160 + 8 * i.val),
    y := Vector.ofFn fun i => rec8 m (off + 0x260 + 8 * i.val),
    a := Vector.ofFn fun i => rec8 m (off + 0x360 + 8 * i.val),
    b := Vector.ofFn fun i => rec8 m (off + 0x420 + 8 * i.val),
    e := Vector.ofFn fun i => rec8 m (off + 0x4E0 + 8 * i.val) }

/-- A run register read back as it stands, also where it breaks R122 (DESIGN CHOICE, log entry 48). -/
def runAt (m : List Host.Cell) (off : Nat) : RunReg :=
  ⟨recBits m off 32 8, (List.range (recBits m off 0 8)).map fun i =>
    (rec8 m (off + 24 + 16 * i), recBits m (off + 16 + 16 * i) 0 16)⟩

/-- A plane read back. -/
def planeAt (m : List Host.Cell) (off : Nat) : Plane :=
  let fmt := recBits m off 8 8
  let k := recBits m off 32 8
  let n := recBits m off 40 8
  let col (j : Nat) : List Nat :=
    let row := readN m (off + 0x100 + 128 * j) (rowBytes fmt k)
    (List.range k).map fun i => elemOfRow fmt row i
  { cls := recBits m off 0 8, fmt := fmt, mxb := recBits m off 16 1 = 1, tol := recBits m off 17 1 = 1,
    modq := recBits m off 24 3, k := k, n := n, elems := (List.range n).map col,
    scales := (List.range (if recBits m off 0 8 = 0 then 0 else 32)).map fun j =>
      (List.range 4).map fun g => readN m (off + 0x40 + 32 * g + j) 1,
    bmax := recBits m off 64 64, xscp := ofSigned 16 (recBits m off 128 16) }

/-- A tile read back. -/
def tileAt (m : List Host.Cell) (i : Nat) : Tile :=
  let off := 0x12200 + 16 * i
  let cell (k : Nat) : Option (Nat × Nat) :=
    let v := readN m (0x15000 + 0x4000 * i + 4 * k) 4
    if v = 0 then none else some (k, v)
  { mode := recBits m off 80 2, bound := recBits m off 0 40, xsc := ofSigned 10 (recBits m off 64 10),
    cells := (List.range 4096).filterMap cell }

def PlaneView.of (p : Plane) : PlaneView := ⟨p.cls, p.modq, p.k, p.n, p.xscp⟩

/-- A galley's binding read back. -/
def galleyAt (m : List Host.Cell) (off : Nat) : Galley :=
  { bound := recBits m off 63 1 = 1, base := BitVec.ofNat 64 (recBits m off 0 56), ring := rec8 m (off + 8),
    start := recBits m (off + 16) 0 32, head := recBits m (off + 16) 32 32,
    forme := BitVec.ofNat 256 (readN m (off + 32) 32) }

/-- The engine of a code and an opcode. -/
def engOf (code : Nat) : Eng := if code = 0 then .copy else if code = 1 then .galley else if code = 2 then .message else .coll

/-- A command read back. `old` is the command as the core held it when it was saved, with what a record does not hold; where an
UNSEAL has brought the record, refused entries are sent again, and a collective joins again behind the entries that it has
completed (R335, R344). -/
def cmdAt (m : List Host.Cell) (off id : Nat) (user : Bool) (old : Option Cmd) : Cmd :=
  let w (i : Nat) : IWord := BitVec.ofNat 32 (readN m (off + 4 * i) 4)
  let eng := engOf (recBits m (off + 56) 0 2)
  let f := unpack .xe ((lenOf (w 0)).getD .one) (w 0) (w 1) (w 2)
  let fm (i : Nat) : Forme := BitVec.ofNat 256 (readN m (off + 64 + 32 * i) 32)
  let n := recBits m (off + 48) 0 64
  let coll := eng = .coll && opcOf (w 0) == 0x17
  let o : Cmd := old.getD
    { id := id, eng := eng, opc := 0, f := f, hnd := false, hdr := 0, ea := 0, eb := 0, ec := 0,
      progress := if coll then 0 else n, done := if coll then n else 0,
      started := recBits m (off + 56) 2 1 = 1 && !(eng = .message && n = 0) }
  { o with
    id := id, eng := eng, opc := opcOf (w 0), f := f, ea := rec8 m (off + 16), eb := rec8 m (off + 24),
    ec := rec8 m (off + 32), formes := [fm 0, fm 1], block := readBytes m (off + 128) 256, chunk := none, parked := o.parked, user := user }

/-- A galley command that no core has kept takes its rows from the binding: the last rows asked for end at its HEAD. -/
def rebind (c : Core) (later : List Cmd) (m : Cmd) : Cmd :=
  if m.eng ≠ .galley ∨ m.gal.bound then m
  else
    let g := c.galley m.f.i16.toNat
    let same (x : Cmd) : Bool := x.eng == .galley && x.opc == 0x12 && x.f.i16.toNat % 8 == m.f.i16.toNat % 8
    let after := ((m :: later).filter same).foldl (fun n x => n + x.f.i16.toNat / 8) 0
    { m with gal := { g with head := if m.opc = 0x11 then g.start else g.head + ringRows g.ring - after } }

/-- Every command of a core, each with those after it. -/
def rebindAll (c : Core) : List Cmd → List Cmd
  | [] => []
  | m :: rest => rebind c rest m :: rebindAll c rest

/-- A chase entry read back; `first` is the number of the first engine record's command. -/
def chaseAt (m : List Host.Cell) (off id first : Nat) : Option ChaseRange :=
  if recBits m off 64 1 = 0 then none
  else some ⟨id, first + recBits m off 66 6, recBits m off 0 32, recBits m off 32 32, recBits m off 65 1 = 1⟩

/-- The packed-region table read back. -/
def packedAt (m : List Host.Cell) : List (Nat × Nat) :=
  let at_ (i : Nat) : Nat × Nat := (readN m (0x440 + 16 * i) 8, readN m (0x448 + 16 * i) 8)
  ((List.range 8).map at_).filter fun r => r.1 < r.2

/-- Per-member message state read back: what differs from its start. -/
def peersAt (m : List Host.Cell) (credits : Nat) : List (Nat × PeerState) :=
  let at_ (k : Nat) : Option (Nat × PeerState) :=
    let off := 0x3A800 + 8 * k
    let p : PeerState := { nextSeq := recBits m off 0 32, refusing := if recBits m off 32 1 = 1 then some 0 else none,
                           credit := if recBits m off 48 13 = credits then none else some (recBits m off 48 13) }
    if p = {} then none else some (k, p)
  (List.range 2048).filterMap at_

/-- Cells of a record's scratchpad; gated groups are not read back. -/
def scratchAt (m : List Host.Cell) (gated : BitVec 8) : List Host.Cell :=
  (m.filter fun p => 0x40000 ≤ p.1 && p.1 < recordBytes && !(gated.getLsbD ((p.1 - 0x40000) / 2 ^ 18))).map fun p => ((p.1 - 0x40000, p.2) : Host.Cell)

/-- A register loses the results still on their way to it; their flags stay on theirs (R57). -/
def Core.cancel (c : Core) (hnd : Bool) (file : RFile) (n : Nat) : Core :=
  let cut (p : Pend) : Pend := if p.names hnd file n then { p with dst := none } else p
  { c with pend := c.pend.map cut }

/-- A register that a record has full or empty: full, it loses the results on their way to it; empty, it waits for a result that
nothing brings (log entry 43). -/
def Core.setFull (c : Core) (hnd : Bool) (file : RFile) (n : Nat) (full : Bool) : Core :=
  if full == !(c.isEmpty hnd file n) then c
  else if full then c.cancel hnd file n
  else { c with pend := c.pend ++ [⟨c.nextId, hnd, .ctl, 0, 0, some (file, n), none, .word 0, 0⟩], nextId := c.nextId + 1 }

/-- The full/empty words of a bank (Table 20-7). -/
def Core.withFull (c : Core) (m : List Host.Cell) (hnd : Bool) (off : Nat) : Core :=
  let set (word lo : Nat) (file : RFile) (c : Core) (i : Nat) : Core :=
    c.setFull hnd file i ((readN m (off + word) 8).testBit (lo + i))
  let c := (List.range 32).foldl (set 0x10 0 .x) c
  let c := (List.range 32).foldl (set 0x10 32 .y) c
  let c := (List.range 24).foldl (set 0x18 0 .a) c
  let c := (List.range 24).foldl (set 0x18 24 .b) c
  let c := (List.range 16).foldl (set 0x20 0 .e) c
  if hnd then c else (List.range 16).foldl (set 0x20 32 .w) ((List.range 16).foldl (set 0x20 16 .v) c)

/-- The banks and run registers of a record (R339). -/
def Core.withRegs (c : Core) (m : List Host.Cell) : Core :=
  let depth := recBits m 0x40 4 3
  let live (off i : Nat) : Bool := recBits m (off + 0x40 + 48 * i) 56 2 ≠ 0
  let hdepth := ((List.range 6).takeWhile (live 0x1880)).length
  let c := (c.withFull m false 0x1300).withFull m true 0x1880
  { c with main := bankAt m 0x1300 depth, hnd := bankAt m 0x1880 hdepth,
           v := Vector.ofFn fun i => runAt m (0x2000 + 2064 * i.val),
           w := Vector.ofFn fun i => runAt m (0x2000 + 2064 * (16 + i.val)) }

/-- A core restored from its record (R337, Table 20-5); `old` lists its commands as they were saved. Its engines' commands
take numbers from `c.nextId` on. -/
def Core.restored (c : Core) (m : List Host.Cell) (old : List Cmd) : Core :=
  let n := recBits m 0 192 6
  let status := readN m 0x40 8
  let credits := readN m (0x40 + 8 * 10) 8 % 2 ^ 13
  let cmds := (List.range n).map fun i => cmdAt m (0x35000 + 512 * i) (c.nextId + i) (status % 2 = 0) old[i]?
  let active := planeAt m 0x12300
  let shadow := planeAt m 0x13400
  let tiles : Vector Tile 8 := Vector.ofFn fun i => tileAt m i.val
  let used := recBits m (0x40 + 8 * 12) 16 13
  let c := c.withRegs m
  let c := { c with
    modeS := status % 2 = 1, hen := status / 4 % 2 = 1, intrap := status / 8 % 2 = 1,
    trapvec := rec8 m 0x48, trappc := rec8 m 0x50, traprec := rec8 m 0x58, trapaddr := rec8 m 0x60, flagen := rec8 m 0x68,
    flags := rec8 m 0x70, firstev := rec8 m 0x78, firstpc := rec8 m 0x80,
    mq := { base := readN m 0x88 8, size := credits, head := readN m 0x98 8, tail := recBits m 0xA0 0 12, used := used },
    modq := Vector.ofFn fun i => rec8 m (0xA8 + 8 * i.val),
    rng := { key := rec8 m 0xE8, ctr := readN m 0xF0 16, ready := c.clk,
             words := (List.range (min 64 (readN m 0x100 8))).map fun i => BitVec.ofNat 32 (readN m (0x140 + 4 * i) 4) },
    gated := BitVec.ofNat 8 (readN m 0x108 1), waking := [], arr := BitVec.ofNat 8 (readN m 0x110 1),
    deque := recWords m 0x240 (min 64 (readN m 0x118 8)), packed := packedAt m,
    galleys := Vector.ofFn fun i => galleyAt m (0x4C0 + 64 * i.val),
    formes := Vector.ofFn fun i => BitVec.ofNat 256 (readN m (0xB00 + 32 * i.val) 32),
    tiles := tiles, active := active, shadow := shadow, fActive := PlaneView.of active, fShadow := PlaneView.of shadow }
  let c := { c with
    fTiles := Vector.ofFn fun i => ((tileAt m i.val).mode, (tileAt m i.val).xsc),
    cmds := cmds, chase := (List.range 64).filterMap fun i => chaseAt m (0x700 + 16 * i) (c.nextId + 44 + i) c.nextId,
    peers := peersAt m c.credits, sp := scratchAt m c.gated, spBad := [], nextId := c.nextId + 44 + 64 }
  { c with cmds := rebindAll c c.cmds }

/-- The words of a record that a launch's mode may write, as CSRWR writes them (R339, Table 3-8). -/
def Core.withWords (c : Core) (m : List Host.Cell) : Core :=
  let set (v : Word) (old : Word) : Word := if modqOk v then v else old
  let c := { c with trapvec := codeAddr (rec8 m 0x48), trappc := codeAddr (rec8 m 0x50), flagen := rec8 m 0x68,
                    modq := Vector.ofFn fun i => set (rec8 m (0xA8 + 8 * i.val)) (c.modq.toList.getD i.val 3#64) }
  let base := readN m 0x88 8 % 2 ^ 21
  let size := readN m 0x90 8 % 2 ^ 13
  let head := readN m 0x98 8 % 2 ^ 12
  let q := if c.modeS && (base ≠ c.mq.base || size ≠ c.mq.size) then c.mq.setGeometry base size else c.mq
  let q := if head = q.head then q else (q.writeHead head).1
  { c with mq := q }

end Sys2Proof.Machine
end

