-- ==== Sys2Proof/Machine/Messages.lean ====
section
/-! DEFINITION. Message entries between cores: arrival, writing, acknowledgement, resending and probes (R171, R203 to R206,
R238, R264). -/

namespace Sys2Proof.Machine

open Sys2Proof

/-- Whether the path between two cores is open: a retrain slot pauses the die links (Table 16-2). -/
def State.pathOpen (s : State) (a b : Nat) : Bool := a / 256 == b / 256 || s.sys.slotOpen ≠ some 2

/-- Free slots of a queue (R202). -/
def MsgQueue.free (q : MsgQueue) : Nat := q.size - q.used

/-- The header slot of an entry (Table 11-3). -/
def headerSlot (handler bytes kind src seq : Nat) : List Byte :=
  natToBytes 64 (handler % 2 ^ 56 + bytes % 2 ^ 10 * 2 ^ 64 + kind % 4 * 2 ^ 74 + src % 2 ^ 11 * 2 ^ 80
    + seq % 2 ^ 32 * 2 ^ 96)

/-- The bytes of an entry: header, payload, zeros to the end of its last slot (R203). -/
def entryImage (e : Msg) (seq : Nat) : List Byte :=
  let n := e.payload.length
  headerSlot e.handler n e.kind e.src seq ++ e.payload ++ List.replicate ((n + 63) / 64 * 64 - n) 0#8

/-- The slot after every accepted entry. -/
def MsgQueue.nextSlot (q : MsgQueue) : Nat := (q.head + q.used) % max 1 q.size

/-- An entry accepted: its slots are taken (R204). -/
def MsgQueue.accept (q : MsgQueue) (bs : List Byte) : MsgQueue :=
  { q with used := q.used + bs.length / 64, arriving := q.arriving ++ [(q.nextSlot, bs, false)] }

/-- Whether replay accepts an entry now: it is its core's next logged event (R342). The entry of the ring it takes, or the
fault and the address of one that cannot be read. -/
def State.replayEntry (s : State) (c : Core) (v : Word) : Option (Except (Nat × Nat) (Option Nat)) :=
  if !(s.replaying c) then some (.ok none)
  else match s.nextLog c [] with
    | some (.ok (i, w0, w1)) => if w0 % 2 ^ 8 = evMessage ∧ BitVec.ofNat 64 w1 = v then some (.ok (some i)) else none
    | some (.error x) => some (.error x)
    | none => none

def State.dropMsg (s : State) (e : Msg) : State := { s with sys := { s.sys with msgs := s.sys.msgs.erase e } }

def State.sendAck (s : State) (a : Ack) : State := { s with sys := { s.sys with acks := s.sys.acks ++ [a] } }

/-- An entry refused: the sender keeps it, and the receiver refuses the sender's later ones (R264). One that no slot
count of the receiver fits ends the launch (R264). -/
def State.refuseEntry (s : State) (e : Msg) : State :=
  let c := s.coreOf e.dst
  let k := (s.coreOf e.src).member
  let p := c.peer k
  let n := entrySlots e.payload.length
  let s := s.setCore e.dst (c.setPeer k { p with refusing := some (p.refusing.getD e.seq) })
  let mark (x : Msg) : Msg := if x = e then { e with refused := true } else x
  let s := { s with sys := { s.sys with msgs := s.sys.msgs.map mark } }
  let s := (s.sendAck { sender := e.src, member := c.member, seq := e.seq, accepted := false, free := c.mq.free, slots := n }).freeSource
    e.src e.cmd
  if c.mq.size < n then s.fatal e.src kPROT 0 e.hdr (2 ^ 7) (BitVec.ofNat 64 n) 0 else s

/-- An entry accepted (R204, R264). -/
def State.acceptEntry (s : State) (e : Msg) (taken : Option Nat) (v : Word) : State :=
  let c := s.coreOf e.dst
  let k := (s.coreOf e.src).member
  let p := c.peer k
  let q := c.mq.accept (entryImage e p.nextSeq)
  let s := s.setCore e.dst ({ c with mq := q }.setPeer k
    { p with nextSeq := (p.nextSeq + 1) % 2 ^ 32, refusing := none })
  let s := (s.dropMsg e).sendAck
    { sender := e.src, member := c.member, seq := e.seq, accepted := true, free := q.free, slots := entrySlots e.payload.length }
  let s := s.freeSource e.src e.cmd
  match taken with
  | some i => s.onContext c.ctx fun x => { x with replayed := x.replayed ++ [i] }
  | none => if c.recording then s.putLog e.dst false evMessage v else s

/-- MQ_ENTRY_ARRIVAL (R204, R264): the first entry on its way from one core to another is decided. -/
def tryMqEntryArrival (src dst : Nat) (s : State) : Option State :=
  match s.sys.msgs.find? fun e => e.src == src && e.dst == dst && !e.refused with
  | none => none
  | some e =>
    let c := s.coreOf dst
    let k := (s.coreOf src).member
    let n := entrySlots e.payload.length
    if c.placed.isNone || !(s.pathOpen src dst) || s.islandHeld dst then none
    else
      let later := match (c.peer k).refusing with
        | some q => q ≠ e.seq
        | none => false
      if later || c.mq.free < n then some (s.refuseEntry e)
      else
        let v := BitVec.ofNat 64 (src + (c.peer k).nextSeq * 2 ^ 32)
        if c.recording && !(s.replaying c) && !(s.logRoom c.ctx 1) then none
        else match s.replayEntry c v with
          | none => none
          | some (.error x) => if s.aborting dst then none else some (s.logFails dst x.1 x.2)
          | some (.ok taken) => some (s.acceptEntry e taken v)

def execMqEntryArrival (src dst : Nat) (s : State) : Host.Outcome State Fault Refusal :=
  .next ((tryMqEntryArrival src dst s).getD s)

/-- An entry's bytes in its slots, wrapping at the end of the ring. -/
def Core.writeSlots (c : Core) : Nat → List Byte → Nat → Core
  | _, _, 0 => c
  | slot, bs, n + 1 =>
    let a := c.mq.base + 64 * (slot % max 1 c.mq.size)
    (c.spWrite a (bs.take 64)).writeSlots (slot + 1) (bs.drop 64) n

/-- TAIL passing every entry written with all before it. -/
def passWritten (size tail : Nat) : List (Nat × List Byte × Bool) → Nat × List (Nat × List Byte × Bool)
  | [] => (tail, [])
  | e :: rest => if e.2.2 then passWritten size ((tail + e.2.1.length / 64) % max 1 size) rest else (tail, e :: rest)

/-- MQ_ENTRY_WRITTEN (R204): the k-th accepted entry is written in full. Slots in a gated group wake it first (R200). -/
def tryMqEntryWritten (core k : Nat) (s : State) : Option State :=
  let c := s.coreOf core
  match c.mq.arriving[k]? with
  | none => none
  | some e =>
    if e.2.2 || s.islandHeld core then none
    else
      let w := c.rouseAll (c.mq.slotRanges e.1 (e.2.1.length / 64))
      if !w.1 then some (s.setCore core w.2)
      else
        let c := c.writeSlots e.1 e.2.1 (e.2.1.length / 64)
        let r := passWritten c.mq.size c.mq.tail (c.mq.arriving.set k (e.1, e.2.1, true))
        some (s.setCore core { c with mq := { c.mq with tail := r.1, arriving := r.2 } })

def execMqEntryWritten (core k : Nat) (s : State) : Host.Outcome State Fault Refusal :=
  .next ((tryMqEntryWritten core k s).getD s)

/-- Slots of the entries to a member that a core's commands hold credits for and have not sent (R264). -/
def Core.unsent (c : Core) (member : Nat) : Nat :=
  let slots (m : Cmd) : Nat :=
    if m.member ≠ member then 0
    else if m.eng = .message then (if m.started then 0 else entrySlots (m.f.i16.toNat % 1024))
    else if m.sendsEntries then (match m.chunk with
      | some bs => entrySlots bs.length
      | none => 0)
    else 0
  (c.cmds.map slots).sum

/-- Slots of a core's entries to another that are sent and not yet decided, as the core knows (R264). -/
def State.undecided (s : State) (src dst : Nat) : Nat :=
  let m := (s.coreOf dst).member
  ((s.sys.msgs.filter fun e => e.src == src && e.dst == dst && !e.refused).map fun e => entrySlots e.payload.length).sum
    + ((s.sys.acks.filter fun a => a.sender == src && a.member == m && !a.probe).map Ack.slots).sum

/-- MQ_ACK_RECEIVE (R264): CR becomes the free count less the slots still undecided, those of entries whose credits are taken
and that are yet to leave among them. -/
def tryMqAckReceive (src dst : Nat) (s : State) : Option State :=
  let m := (s.coreOf dst).member
  match s.sys.acks.find? fun a => a.sender == src && a.member == m with
  | none => none
  | some a =>
    if !(s.pathOpen src dst) || s.islandHeld src then none
    else
      let s := { s with sys := { s.sys with acks := s.sys.acks.erase a } }
      let n := a.free - s.undecided src dst - (s.coreOf src).unsent m
      some (s.onCore src fun c => c.setPeer m { c.peer m with credit := some n })

def execMqAckReceive (src dst : Nat) (s : State) : Host.Outcome State Fault Refusal :=
  .next ((tryMqAckReceive src dst s).getD s)

/-- MQ_RESEND (R264): the first refused entry goes again once CR allows. -/
def tryMqResend (src dst : Nat) (s : State) : Option State :=
  match s.sys.msgs.find? fun e => e.src == src && e.dst == dst && e.refused with
  | none => none
  | some e =>
    let m := (s.coreOf dst).member
    let n := entrySlots e.payload.length
    if (s.coreOf src).creditOf m < n || s.enginesHeld src then none
    else
      let go (x : Msg) : Msg := if x = e then { e with refused := false } else x
      let s := { s with sys := { s.sys with msgs := s.sys.msgs.map go } }
      some (s.onCore src fun c => c.takeCredit m n)

def execMqResend (src dst : Nat) (s : State) : Host.Outcome State Fault Refusal :=
  .next ((tryMqResend src dst s).getD s)

/-- The XE slot of a bundle's words behind its header, the last slot of a bundle: its opcode and fields (R20, R21). -/
def xeSlot : List Slot → List IWord → Option (Nat × Fields)
  | [], _ => none
  | k :: ks, ws =>
    match ws with
    | [] => none
    | w0 :: rest =>
      match lenOf w0 with
      | none => none
      | some n => if k = .xe then some (opcOf w0, unpack .xe n w0 (rest.getD 0 0) (rest.getD 1 0)) else xeSlot ks (ws.drop n.words)

/-- Whether the bundle that a core's sequencer stands at is an SMSG to a member that stalls for credits (R264). -/
def State.smsgStalls (s : State) (src : Nat) (member : Nat) : Bool :=
  let c := s.coreOf src
  let hnd := c.run.isSome
  let pc := (c.bank hnd).pc
  if s.held.any fun h => h.core == src && h.hnd == hnd then false
  else match c.icache.find? fun l => l.addr.toNat == pc.toNat / 64 * 64 with
    | none => false
    | some l =>
      match l.words.drop (pc.toNat % 64 / 4) with
      | [] => false
      | hdr :: ws =>
        match xeSlot (presentSlots hdr) ws with
        | none => false
        | some (opc, f) =>
          let s := { s with bun := ({ core := src, hnd := hnd, hdr := pc, pre := c, cur := c } : Bun) }
          opc == 0x14 && guardOf f s && (opA f s).toNat == member
            && c.creditOf member < (f.i16.toNat % 1024 + 63) / 64 + 1

/-- Whether a SPACE 2 COPY's next entry to a member stalls for credits (R257, R264). -/
def State.copyStalls (s : State) (src member : Nat) : Bool :=
  (s.coreOf src).cmds.any fun m => m.member == member && !(s.creditFits src m)

/-- MQ_PROBE (R264): a sender that waits to resend, or whose SMSG or COPY entry stalls for credits with nothing undecided,
asks for the free count. -/
def tryMqProbe (src dst : Nat) (s : State) : Option State :=
  let c := s.coreOf src
  let d := s.coreOf dst
  let stalls := s.smsgStalls src d.member || s.copyStalls src d.member
  let waits := s.resending src dst || (s.undecided src dst = 0 && stalls)
  if !waits || s.enginesHeld src || !(s.pathOpen src dst) || c.placed.isNone || c.placed ≠ d.placed
      || (s.sys.acks.any fun a => a.sender == src && a.member == d.member && a.probe) then none
  else some (s.sendAck { sender := src, member := d.member, seq := 0, accepted := false, free := d.mq.free, probe := true })

def execMqProbe (src dst : Nat) (s : State) : Host.Outcome State Fault Refusal :=
  .next ((tryMqProbe src dst s).getD s)

end Sys2Proof.Machine
end

