-- ==== Sys2Proof/Machine/Sequencer.lean ====
section
/-! DEFINITION. What the turn of a core is made of: its clock, the choice of a sequencer, instruction fetch, the checks of
R16, and what becomes of a bundle once its slots are done. -/

namespace Sys2Proof.Machine

open Sys2Proof

/-! ### Random bits (R270) -/

/-- One round of Philox4x32-10. -/
def philoxRound (x : Nat × Nat × Nat × Nat) (k0 k1 : Nat) : Nat × Nat × Nat × Nat :=
  let p0 := 0xD2511F53 * x.1
  let p1 := 0xCD9E8D57 * x.2.2.1
  let h0 := p0 / 2 ^ 32
  let l0 := p0 % 2 ^ 32
  let h1 := p1 / 2 ^ 32
  let l1 := p1 % 2 ^ 32
  (Nat.xor (Nat.xor h1 x.2.1) k0, l1, Nat.xor (Nat.xor h0 x.2.2.2) k1, l0)

/-- n rounds. -/
def philoxGo : Nat → Nat × Nat × Nat × Nat → Nat → Nat → Nat × Nat × Nat × Nat
  | 0, x, _, _ => x
  | n + 1, x, k0, k1 => philoxGo n (philoxRound x k0 k1) ((k0 + 0x9E3779B9) % 2 ^ 32) ((k1 + 0xBB67AE85) % 2 ^ 32)

/-- The four words of the block of a counter under a key. -/
def philox (key ctr : Nat) : List (BitVec 32) :=
  let r := philoxGo 10 (ctr % 2 ^ 32, ctr / 2 ^ 32 % 2 ^ 32, ctr / 2 ^ 64 % 2 ^ 32, ctr / 2 ^ 96 % 2 ^ 32) (key % 2 ^ 32)
    (key / 2 ^ 32 % 2 ^ 32)
  [BitVec.ofNat 32 r.1, BitVec.ofNat 32 r.2.1, BitVec.ofNat 32 r.2.2.1, BitVec.ofNat 32 r.2.2.2]

/-- The block of this clk: none while fewer than four words are free, or before the first block is due. -/
def Rng.block (r : Rng) (clk : Nat) : Option Rng :=
  if 60 < r.words.length ∨ clk < r.ready then none
  else some { r with words := r.words ++ philox r.key.toNat r.ctr, ctr := (r.ctr + 1) % 2 ^ 128, ready := clk + 1 }

/-! ### Clocks -/

/-- Whether a core's clock stands: its island is held or tripped, or the debugger has halted it (R307, R308, R340). -/
def State.clockHeld (s : State) (k : Nat) : Bool := s.islandHeld k || (s.coreOf k).dbg.state = 2

/-- One clk of a core: results land, and a random block. The flags that landed are kept for the bundle (R59). -/
def State.clock (s : State) (k : Nat) : State :=
  let c := s.coreOf k
  let r := { c with clk := c.clk + 1 }.land
  let c := if c.placed.isSome then { r.1 with rng := (r.1.rng.block r.1.clk).getD r.1.rng } else r.1
  { s.setCore k c with bun := { core := k, landed := r.2 } }

/-! ### Which sequencer -/

inductive Who where
  | none | start | hnd | main
deriving DecidableEq, Repr

/-- Whether the main sequencer may issue: placed, not departed, not stopped, not parked. -/
def Core.mainLive (c : Core) : Bool := c.placed.isSome && !c.departed && c.stopped.isNone && !c.parked

/-- Whether a handler run starts, the main sequencer at a boundary (R174): an owed main bundle goes first. -/
def Core.runStarts (c : Core) : Bool :=
  c.hen && c.run.isNone && c.placed.isSome && !c.parked && c.stopped.isNone && c.mq.hasMessage
    && !(c.owes && c.mainLive)

/-- Whether a bundle held at issue stands at a boundary (R174): it waits for an answer or a condition that R174 names, and
for no clk of a run operation or a transfer (R128, R161), no walk, no expansion and no log entry. -/
def Hold.boundary : Hold → Bool
  | .untilClk _ | .translate _ _ | .expand _ _ _ _ | .log | .logFault _ _ => false
  | .tfence | .drain _ | .release _ | .bara _ | .barw _ | .bars _ | .waitx _ _ _ _ _ | .testx | .steal _ | .enq _ _
  | .waitev _ _ | .halt => true

/-- The main bundle of a core that is held at issue. -/
def State.heldMain (s : State) (k : Nat) : Option Held := s.held.find? fun h => h.core == k && !h.hnd

/-- Whether the main sequencer stands at a bundle boundary (R174). -/
def State.atBoundary (s : State) (k : Nat) : Bool := (s.heldMain k).all fun h => h.hold.boundary

/-- Whether a parked core still has the answer of a steal or an append to take, whose bundle then commits and the core
stops behind it, the end of a wait part of whose bundle has been done ahead of a handler run (log entry 24), or the fault of
a walk that it joined, which has a record of its own (R211, R327). -/
def State.owedAnswer (s : State) (k : Nat) : Bool :=
  (s.heldMain k).any fun h => h.mem.isSome || (match h.hold with
    | .steal _ | .enq _ _ => h.answer.isSome
    | .translate _ _ => !h.xlf.isEmpty
    | _ => false)

def State.who (s : State) (k : Nat) : Who :=
  let c := s.coreOf k
  if c.placed.isNone || c.quiet || s.aborting k then .none
  else if c.run.isSome then (if c.hndParked then .none else .hnd)
  else if c.runStarts && s.atBoundary k then .start
  else if c.mainLive then .main
  else if c.parked && !c.departed && c.stopped.isNone && s.owedAnswer k then .main
  else .none

/-- The start of a handler run (R174, R238): its PC and its own a0 are set from the message, a0 over what an earlier run may
have left on its way to it. The start is an acquire of the entry, at the smallest scope that contains its sender. A gated
group that holds the message's first bytes is woken and waited for (R200), and an uncorrectable word of them ends the launch
(R201). -/
def State.startRun (s : State) (k : Nat) : Option State :=
  let c := s.coreOf k
  if !(c.runStarts && s.atBoundary k) then Option.none
  else
    let off := c.mq.base + 64 * c.mq.head
    let z := c.asleep off (off + 16)
    if z.2 then some (s.setCore k (z.1.foldl Core.wakeGroup c)) else
    match c.badWord off (off + 16) false with
    | some w => some (s.fatal k kSPSOFT 0 0 0 (softAddr w) 0)
    | Option.none =>
    let h := readN c.sp off 8 % 2 ^ 56
    let b := { c.hnd with pc := BitVec.ofNat 64 h, loops := [] }.setReg .a 0 (BitVec.ofNat 64 off)
    let c := { c.cancel true .a 0 with hnd := b, run := some ⟨c.mq.head, c.entryLen off, 0⟩ }
    some ((s.setCore k c).acquired k (scopeOf k (c.entrySrc off)))

/-! ### Fetch (R22, R23, R209) -/

/-- The words of the line that holds a header, from the header on, when the instruction cache has the line. -/
def Core.lineWords (c : Core) (pc : Word) : Option (List (BitVec 32)) :=
  let a := pc.toNat / 64 * 64
  match c.icache.find? fun l => l.addr.toNat == a with
  | Option.none => Option.none
  | some l => some (l.words.drop (pc.toNat % 64 / 4))

/-- The sixteen words of a line's bytes. -/
def wordsOf (bs : List Byte) : List (BitVec 32) :=
  (List.range 16).map fun i => BitVec.ofNat 32 (bytesToNat ((bs.drop (4 * i)).take 4))

/-- A line entering the instruction cache of 1,024 lines. -/
def Core.cacheLine (c : Core) (a : Nat) (ws : List (BitVec 32)) : Core :=
  { c with icache := ((⟨BitVec.ofNat 64 a, ws⟩ : ICacheLine) :: c.icache).take 1024 }

/-- A fault of an instruction fetch: recoverable kinds park, the others end the launch. -/
def State.fetchFault (s : State) (k : Nat) (hnd : Bool) (kind : Nat) (pc : Word) : State :=
  if recoverable kind then s.park k hnd false kind accFetch pc pc 0 else s.fatal k kind 0 pc 0 pc 0

/-- FETCH_MISS_FILL: the line of a header is read. A miss in both tables starts or joins a walk (R211); while its home is
paused the fetch waits. -/
def State.fillLine (s : State) (k : Nat) (hnd : Bool) (pc : Word) : State :=
  let c := s.coreOf k
  let a := pc.toNat / 64 * 64
  if (s.firstMiss k c.ctx [a]).isSome then
    s.joinPage (k / 256) c.ctx a fun w =>
      if w.fetches.contains (k, hnd, pc) then w else { w with fetches := w.fetches ++ [(k, hnd, pc)] }
  else
  match s.reach (some k) c.ctx a accFetch false true with
  | (.error x, s) => s.fetchFault k hnd x pc
  | (.ok (_, pa), s) =>
    if s.homePaused pa || s.heldOff k c.ctx [a] then s
    else match s.dataRead pa 64 0 false with
      | .error x => s.fetchFault k hnd x pc
      | .ok (bs, _) => s.onCore k fun c => c.cacheLine a (wordsOf bs)

/-! ### Issue -/

/-- EMPTY_BUNDLE: a header with no slots issues in one clk and changes no state (R22). -/
def execEmptyBundle (s : State) : Host.Outcome State Fault Refusal := .next s

/-- Whether a breakpoint stops the bundle at a header before it issues (R339). -/
def Core.atBreak (c : Core) (pc : Word) : Bool :=
  c.dbg.state = 1 && !c.dbg.skip && !c.stopReq && c.dbg.breaks.any fun b => b ≠ 0#64 && b == pc

/-- A main sequencer that has had its clk after a handler run: it issues a bundle, or has none ready to issue (R174). -/
def State.paid (s : State) (k : Nat) (hnd : Bool) : State :=
  if hnd || !(s.coreOf k).owes then s else s.onCore k fun c => { c with owes := false }

/-- A bundle first issued in this clk. -/
def State.fresh (s : State) (k : Nat) (hnd : Bool) (pc : Word) (words : Nat) : State :=
  let s := s.paid k hnd
  let c := s.coreOf k
  { s with bun := { core := k, hnd := hnd, hdr := pc, words := words, pre := c, cur := c, landed := s.bun.landed,
                    since := c.clk, tick := s.sys.tick, first := c.nextId, runs := c.runsEnded } }

/-- A held bundle tried again: it reads its registers as at issue (R174). -/
def State.again (s : State) (h : Held) (words : Nat) : State :=
  let s := s.paid h.core h.hnd
  { s with bun := { core := h.core, hnd := h.hnd, hdr := h.hdr, words := words, pre := h.pre, cur := s.coreOf h.core,
                    was := h.hold :: h.was, answer := h.answer, xlf := h.xlf, landed := s.bun.landed,
                    since := h.since, tick := h.tick, first := h.first, mem := h.mem, sent := h.sent, coal := h.coal, runs := h.runs } }

/-- Sources that are empty (R16). -/
def emptyRefs (c : Core) (hnd : Bool) (opc : Nat) (f : Fields) : List SrcRef :=
  (sourcesOf opc f).filter fun r => c.isEmpty hnd r.file r.reg

def emptySources (c : Core) (hnd : Bool) (opc : Nat) (f : Fields) : Bool := !(emptyRefs c hnd opc f).isEmpty

/-- R16 for one slot: an empty `:t` source traps, another empty source stalls the bundle. -/
def checkSources (s : State) (e : Slot × Instr) : State :=
  match e.2.slotPart with
  | Option.none => s
  | some (opc, f) =>
    if !(guardOf f s) then s
    else
      let rs := emptyRefs s.bun.pre s.bun.hnd opc f
      let s := match rs.find? fun r => r.wait with
        | some r => s.raise f kEMPTY (BitVec.ofNat 64 (f.slot.num + r.field * 8 + r.reg * 2 ^ 8))
        | Option.none => s
      if rs.any fun r => !r.wait then s.stalls else s

/-! ### Illegal bundles (R24, R25, R399) -/

/-- The error record of Table 1-7. -/
def illRecord (pc : Word) (hdr : Bool) (rs : List (Slot × Nat)) : BitVec 128 :=
  let mask := (rs.map fun r => 2 ^ r.1.num).sum
  let reasons := (rs.map fun r => r.2 * 2 ^ (4 * r.1.num)).sum
  BitVec.ofNat 128 (pc.toNat % 2 ^ 56 + mask * 2 ^ 56 + (if hdr then 2 ^ 64 else 0) + reasons * 2 ^ 96)

/-- ILLB of a bundle that its encoding makes illegal. -/
def State.illegal (s : State) (k : Nat) (pc : Word) (x : Illegal) : State :=
  s.fatal k kILLB 0 pc ((x.reasons.map fun r => 2 ^ r.1.num).sum) 0 (illRecord pc x.hdr x.reasons)

/-! ### What becomes of a bundle -/

/-- The sequencer's bundle is no longer held. -/
def State.dropHeld (s : State) (k : Nat) (hnd : Bool) : State :=
  { s with held := s.held.filter fun h => !(h.core == k && h.hnd == hnd) }

/-- Slot mask of the raises of a kind, and the value of the lowest slot that raised it (R324). -/
def raisedMask (rs : List Raise) (kind : Nat) : Nat :=
  ((allSlots.filter fun k => rs.any fun r => r.kind == kind && r.slot == k).map fun k => 2 ^ k.num).sum

def raisedFirst (rs : List Raise) (kind : Nat) : Raise :=
  let of_ (k : Slot) : Option Raise := rs.find? fun r => r.kind == kind && r.slot == k
  (allSlots.findSome? of_).getD ⟨kind, .ctl, 0, 0, 0⟩

/-- The kind that a bundle reports (R18, R324). -/
def Bun.reports (b : Bun) : Option Nat := kindOrder.find? fun k => b.raised.any fun r => r.kind == k

/-- Whether ADDR of the dump is zero for a kind (Table 19-4). -/
def noAddr (kind : Nat) : Bool := kind == kILLB || kind == kPRIV || kind == kFMTMIS

/-- A bundle that commits nothing: its trap, park or end (R60, R324 to R330). -/
def State.stopBundle (s : State) (kind : Nat) : State :=
  let b := s.bun
  let m := raisedMask b.raised kind
  let r := raisedFirst b.raised kind
  let s := s.dropHeld b.core b.hnd
  if kind ≤ kUNALIGN then s.program b.core b.hnd kind m r.addr b.hdr b.hdr ((s.coreOf b.core).bank b.hnd).loops.length
  else if recoverable kind then s.park b.core b.hnd false kind r.acc r.addr b.hdr m
  else
    let reasons := (b.raised.filter fun r => r.kind == kILLB).map fun r => (r.slot, r.reason)
    s.fatal b.core kind 0 b.hdr m (if noAddr kind then 0 else r.addr)
      (if kind = kILLB then illRecord b.hdr false reasons else 0)

/-- Whether a hold is a wait in which a stop request lands (Table 20-1). -/
def Hold.isWait : Hold → Bool
  | .bara _ | .barw _ | .bars _ | .waitx _ _ _ _ _ | .waitev _ _ | .halt => true
  | _ => false

/-- The ticks within which a steal's answer returns, and so bounds its way to the port: 40 clk in one cluster, 600 ticks
across clusters (R182). -/
def State.stealBound (s : State) (asker owner : Nat) : Nat :=
  if asker / 256 = owner / 256 then 400 / max 1 (s.pointOf asker) + 1 else 601

/-- What holding a bundle starts outside it: a barrier arrival, a steal, a walk or an expansion, each once, and the end of a
launch whose log ring cannot be read. The time that a
steal takes to the deque's port is open, to a clk of the owner (R183, log entry 5). -/
def State.startHold (s : State) (b : Bun) (h : Hold) : State :=
  match h with
  | .bars t =>
    if b.was.contains h then s else s.onCore b.core fun c => { c with arr := c.arr ||| (1#8 <<< t) }
  | .steal m =>
    if b.was.contains h then s
    else match s.memberCore b.core m with
      | Option.none => s
      | some o =>
        let (n, s) := s.draw
        let way := (Config.freeWord n).toNat % (s.stealBound b.core o * s.pointOf o)
        let q : DqReq := { owner := o, asker := b.core, hnd := b.hnd, tick := s.sys.tick + BitVec.ofNat 64 (way / s.pointOf o),
                           clk := (s.coreOf o).clk + way / 10, member := (s.coreOf b.core).member }
        { s with sys := { s.sys with dqReqs := s.sys.dqReqs ++ [q] } }
  | .translate ea _ => s.joinWalk b.core (s.coreOf b.core).ctx ea.toNat
  | .expand k true ea subst => s.startExpansion (s.coreOf b.core).ctx k (some b.core) ea.toNat subst
  | .logFault k a => s.logFails b.core k a
  | _ => s

/-! ### What a held bundle does ahead of a handler run (R174, R236) -/

/-- A core with the scratchpad, the accesses, the engines, the tables and the generator of another: all that a bundle of the
main sequencer may change beside its registers and what CTL writes. -/
def Core.withMemory (c m : Core) : Core :=
  { c with sp := m.sp, spBad := m.spBad, spUse := m.spUse, packed := m.packed, pathFree := m.pathFree, gacc := m.gacc,
           tlb := m.tlb, formes := m.formes, galleys := m.galleys, chase := m.chase, active := m.active, shadow := m.shadow,
           tiles := m.tiles, fActive := m.fActive, fShadow := m.fShadow, fTiles := m.fTiles, cmds := m.cmds, mats := m.mats,
           keys := m.keys, peers := m.peers, rng := m.rng }

/-- Whether a result waits for an access or a matrix operation of a core. -/
def Core.awaits (c : Core) (id : Nat) : Bool :=
  c.gacc.any (fun g => g.id == id) || c.mats.any fun m => m.stats.any fun e => e.2 == id

/-- What the bundle in flight, held at issue, does in memory and engines is done now, ahead of the handler run that starts: it
counts as issued before the run. Its registers wait for its commit. -/
def State.doEarly (s : State) : State :=
  let b := s.bun
  let c := s.coreOf b.core
  let mine := b.cur.pend.filter fun p => c.nextId ≤ p.id && b.cur.awaits p.id
  let d := { c.withMemory b.cur with pend := c.pend ++ mine, nextId := b.cur.nextId }
  let mark (h : Held) : Held := if h.core == b.core && !h.hnd && h.mem.isNone then
    { h with mem := some c, sent := b.cur.cmds.any fun m => m.opc == 0x15 && m.eng == .message && b.first ≤ m.id } else h
  let held := s.held.map mark
  { s.setCore b.core d with held := held }

/-- Behind CTL, the other slots of a bundle that has been done in part run from the memory and engines that they were done
from. -/
def State.rewind (s : State) : State :=
  match s.bun.mem with
  | Option.none => s
  | some m => s.onCur fun c => c.withMemory m

/-- Behind the other slots, the core of such a bundle has memory and engines as they are, and what the slots met while they
were done is met no more: only what comes of their values as the bundle commits (R323). -/
def State.restore (s t : State) : State :=
  if t.bun.mem.isNone then t
  else
    let late := (t.bun.raised.drop s.bun.raised.length).filter fun r => lateKinds.contains r.kind
    { t with bun := { t.bun with cur := t.bun.cur.withMemory s.bun.cur, stall := s.bun.stall, hold := s.bun.hold,
                                 raised := s.bun.raised ++ late } }

/-- A bundle held at issue (R174): it keeps its core as read, or stops here under a pending stop request (R334), unless part
of it has been done ahead of a handler run: a bundle that stops has no effect (R225, log entry 24). -/
def State.holdBundle (s : State) (h : Hold) : State :=
  let b := s.bun
  let s := s.dropHeld b.core b.hnd
  if h.isWait && !b.hnd && b.mem.isNone && (s.coreOf b.core).stopReq then
    s.onCore b.core fun c => { c with stopped := some .waiting }
  else
    let s := s.startHold b h
    { s with held := s.held ++ [(⟨b.core, b.hnd, b.hdr, b.pre, h, b.was, b.since, b.tick, b.first, b.mem, b.sent, b.coal, b.runs, b.answer, b.xlf⟩ : Held)] }

/-- PREFG once its page is translated (R98): the translation enters both tables, and an expansion begins where the page is
compressed. -/
def State.prefetched (s : State) (core dva : Nat) (e : TlbEntry) : State :=
  let ctx := (s.coreOf core).ctx
  let s := s.tlbFill core true e
  let pa := e.phys dva
  match s.gate ctx pa with
  | .expand => s.startExpansion ctx (pa / frameBytes) (some core) dva e.subst
  | _ => s

/-- PREFG as its bundle commits (R98): a miss in both tables starts or joins a walk (R211). -/
def State.prefetch (s : State) (core : Nat) (ea : Word) : State :=
  let ctx := (s.coreOf core).ctx
  match s.tlbFind core ctx ea.toNat with
  | some e => s.prefetched core ea.toNat e
  | none => s.joinPage (core / 256) ctx ea.toNat fun w => { w with prefs := w.prefs ++ [(core, ea.toNat)] }

/-- Whether a hold watches a completion object in scratchpad (R184). -/
def Hold.watchesSp : Hold → Bool
  | .waitx sp _ _ _ _ => sp
  | _ => false

/-- What a committed bundle does outside its core. -/
def State.perform (s : State) (b : Bun) (p : Post) : State :=
  match p with
  | .ask id what => { s with sys := { s.sys with asks := s.sys.asks ++ [(⟨b.core, b.hnd, id, what⟩ : AskReq)] } }
  | .log ev v => s.putLog b.core b.hnd ev v
  | .consume i => s.onContext b.cur.ctx fun c => { c with replayed := c.replayed ++ [i] }
  | .diverge i => s.diverges b.cur i
  | .subcnt v => s.onContext b.cur.ctx fun c => { c with subcnt := v }
  | .subst n => s.onContext b.cur.ctx fun c => { c with subcnt := c.subcnt + BitVec.ofNat 64 n }
  | .acquire scope => s.acquired b.core scope
  | .shared e => s.setShared (b.core / 256) e
  | .prefetch ea => if 2 ^ 56 ≤ ea.toNat then s else s.prefetch b.core ea
  | .spWake gs => s.onCore b.core fun c => gs.foldl Core.wakeGroup c
  | .spGate gs => s.onCore b.core fun c => gs.foldl Core.gateGroup c
  | .seen pa => s.onCore b.core fun c => c.seen pa 8
  | .met v =>
    let give (h : Held) : Held := if h.core == b.core && h.hold.watchesSp && h.answer.isNone then { h with answer := some (v, true) } else h
    { s with held := s.held.map give }
  | .scrubGang m =>
    let s := match (s.coreOf b.core).placed with
      | Option.none => s
      | some g => s.onGang g fun x => { x with scrub := true }
    let s := s.onCore b.core fun c => { c with cmds := c.cmds ++ [m] }
    (s.countAndDrop b.core m m.object (compInc m.object)).getD s

/-- The end of a handler run (R175): the message's slots that the run has not freed are freed. -/
def Core.endRun (c : Core) : Core :=
  match c.run with
  | Option.none => c
  | some r =>
    let q := c.mq
    let q := if r.freed < r.slots ∧ q.size ≠ 0 then
        { q with head := (r.slot + r.slots) % q.size, used := q.used - (r.slots - r.freed) } else q
    { c with mq := q, run := Option.none, runsEnded := c.runsEnded + 1, owes := true }

/-- The debugger's view of a committed bundle (R339): a step counts it. -/
def Core.stepped (c : Core) : Core :=
  match c.dbg.step with
  | some (n, _) =>
    if n ≤ 1 then
      (if c.stopReq then { c with dbg := { c.dbg with step := Option.none, skip := false } }
       else { c with dbg := { c.dbg with step := Option.none, state := 2, result := 0, skip := false } })
    else { c with dbg := { c.dbg with step := some (n - 1, c.clk), skip := false } }
  | Option.none => { c with dbg := { c.dbg with skip := false } }

/-- The sequencer's next address and loop stack after a committed bundle (R45, R50, R51). -/
def Bun.advance (b : Bun) : Core × Bool :=
  let c := b.cur
  let bank := c.bank b.hnd
  let bank := if b.clears then bank.clearStages else bank
  let bank := if b.stages then (match bank.loops with
    | e :: _ => bank.passStages e
    | [] => bank) else bank
  let c := c.setBank b.hnd bank
  match b.target with
  | some t => ((c.setBank b.hnd { bank with pc := t }).bubble.bubble, false)
  | Option.none =>
    let e := c.endLoops b.hnd b.hdr b.next (c.stopReq && !b.hnd)
    (c.setBank b.hnd { e.bank with pc := e.pc.getD b.next }, e.stops)

/-- The slots with a bit set in a word of flags, as a mask (R59). -/
def flagSlots (w : Word) : Nat := ((List.range 8).map fun k => if w.toNat / 2 ^ (8 * k) % 2 ^ 8 = 0 then 0 else 2 ^ k).sum

/-- The slot mask of a trap that follows a commit: TFENCE names the slots whose enabled flags are set (R59). -/
def Bun.trapSlots (b : Bun) (r : Raise) : Nat := if r.kind = kARITH then flagSlots r.addr else raisedMask b.raised r.kind

/-- The trap that a committed bundle takes (R59, R60, R63). A bundle whose end event has stopped the core (R53) takes it too:
the core stands stopped with the handler next (log entry 23). -/
def State.trapAfter (s : State) (b : Bun) (bank : Bank) : State :=
  match b.raised.find? fun r => r.kind == kTRAPI || r.kind == kARITH with
  | Option.none => s
  | some r => s.program b.core b.hnd r.kind (b.trapSlots r) r.addr b.hdr bank.pc bank.loops.length

/-- The end of the launch that a committed bundle brings about (R323, R332). -/
def State.lateFault (s : State) (b : Bun) : State :=
  match lateKinds.find? fun k => b.raised.any fun r => r.kind == k with
  | Option.none => s
  | some k => s.fatal b.core k 0 b.hdr (raisedMask b.raised k) (raisedFirst b.raised k).addr 0

/-- A bundle commits (R17): its core, then what it does outside it, then TRAPI or ARITH (R60), then a kind that ends the
launch behind it (R322, R323). -/
def State.commitBundle (s : State) : State :=
  let b := s.bun
  let (c, cut) := b.advance
  let c := if b.hnd then c else { c with owes := false }
  let c := if b.hndret then c.endRun else c
  let c := if b.halts then { c with departed := true, main := { c.main with loops := [] } } else c
  let c := if cut then { c with stopped := some .loopCut }
    else if b.yields && !b.hnd && c.stopReq then { c with stopped := some .yielded } else c
  let s := (s.dropHeld b.core b.hnd).setCore b.core c.stepped
  let s := b.post.foldl (fun s p => s.perform b p) s
  (s.trapAfter b (c.bank b.hnd)).lateFault b

/-- Whether a bundle stalls (R16): an EMPTY trap comes before a stall, a stall before every other event. -/
def Bun.stalled (b : Bun) : Bool := b.stall && !(b.raised.any fun r => r.kind == kEMPTY)

/-- Whether a hold may still bring out a kind that a bundle would report at or before another (R128, R324): what an access
meets once translated, what it meets once its page is expanded, and what a held run operation raises. -/
def Hold.outranks (h : Hold) (kind : Nat) : Bool :=
  match h with
  | .translate _ _ => !([kILLB, kPRIV, kEMPTY].contains kind)
  | .expand _ _ _ _ => kind == kCXLBUSY
  | .untilClk _ => [kRUNOVF, kXLATE, kPOOLEMPTY, kCXLBUSY].contains kind
  | _ => false

/-- The kind that stops a bundle now. -/
def Bun.stops (b : Bun) : Option Nat := b.reports.filter fun k => !(b.hold.any fun h => h.outranks k)

/-- What becomes of a bundle once its slots are done. -/
def State.finish (s : State) : State :=
  let b := s.bun
  if b.stalled then s.onCore b.core fun c => b.wake.foldl Core.wakeGroup c
  else match b.stops with
  | some k => s.stopBundle k
  | Option.none =>
    match b.brk with
      | some code => (s.dropHeld b.core b.hnd).onCore b.core fun c =>
          { c with dbg := { c.dbg with state := 2, code := code, step := Option.none, halting := false } }
      | Option.none =>
        match b.hold with
        | some h => s.holdBundle h
        | Option.none =>
          if b.logs ≠ 0 && !(s.logRoom b.cur.ctx b.logs) then s.holdBundle .log
          else s.commitBundle

end Sys2Proof.Machine
end

