-- ==== Sys2Proof/Machine/Perform.lean ====
section
/-! DEFINITION. Global accesses as they perform, walks, expansions, and what a core's clk brings (R14, R23, R69, R211,
R216 to R221, R227 to R232, R270, R323). -/

namespace Sys2Proof.Machine

open Sys2Proof

/-- A turn of a core comes next. -/
def State.pushTurn (s : State) (core : Nat) : State := { s with agenda := .turn core :: s.agenda }

/-! ### What may perform (R227 to R232) -/

/-- Whether two accesses of a core have bytes in common (R228). -/
def GAcc.meets (h g : GAcc) : Bool := overlaps h.pa (h.pa + h.bytes) g.pa (g.pa + g.bytes)

/-- Accesses of a core that precede one in program order and are still to perform. -/
def Core.earlierAcc (c : Core) (g : GAcc) : List GAcc := c.gacc.takeWhile fun h => h.id ≠ g.id

/-- Whether an access waits for an earlier one of its core, bytes in common apart: a store behind a load (R229), an
earlier acquire or its own release (R230). Below `.sys` an annotation orders nothing in the CXL tier (R227). -/
def State.waitsFor (s : State) (c : Core) (h g : GAcc) : Bool :=
  (h.loads && g.stores)
    || (h.acq && (h.scope = 4 || !(s.inCxl g.pa)))
    || (g.rel && c.releases g.scope && (g.scope = 4 || !(s.inCxl h.pa)))

/-- Whether a DRAIN that the main sequencer is held in stands between two accesses of its core (R231, R236). -/
def State.drainBetween (s : State) (core : Nat) (h g : GAcc) : Bool :=
  s.held.any fun x => x.core == core && !x.hnd && (match x.hold with
    | .drain sc => h.first < x.first && g.hnd && x.first ≤ g.first && !(s.drainSkips (s.coreOf core) sc h)
        && (sc = 4 || !(s.inCxl g.pa))
    | _ => false)

/-- Whether a handler's access follows a DRAIN that the main sequencer is still held in, so that it takes no value of before
the DRAIN (R231). -/
def State.drainAhead (s : State) (core : Nat) (g : GAcc) : Bool :=
  g.hnd && s.held.any fun x => x.core == core && !x.hnd && x.first ≤ g.first && (match x.hold with
    | .drain sc => sc = 4 || !(s.inCxl g.pa)
    | _ => false)

/-- Whether nothing but bytes in common keeps an access from performing now. -/
def State.inOrder (s : State) (core : Nat) (c : Core) (g : GAcc) : Bool :=
  (c.earlierAcc g).all fun h => !(s.waitsFor c h g) && !(s.drainBetween core h g)

/-- The last of the accesses before one that has a byte. -/
def lastAt (hs : List GAcc) (pa : Nat) : Option GAcc := (hs.filter fun h => h.pa ≤ pa && pa < h.pa + h.bytes).getLast?

/-- Whether a load may take its value although earlier accesses of its core have bytes of it: each such byte was last given
by a store, whose value the load reads before the store is visible (R229, R232). -/
def Core.forwards (c : Core) (g : GAcc) : Bool :=
  g.opc == 0x03 && (List.range g.bytes).all fun i => match lastAt (c.earlierAcc g) (g.pa + i) with
    | none => true
    | some h => h.opc == 0x04

/-- The bytes that a load takes: of its core's own stores still to perform where they have them, else as read. -/
def Core.forwarded (c : Core) (g : GAcc) (bs : List Byte) : List Byte :=
  (List.range bs.length).map fun i => match lastAt (c.earlierAcc g) (g.pa + i) with
    | none => bs.getD i 0
    | some h => (natToBytes h.bytes h.c.toNat).getD (g.pa + i - h.pa) 0

/-- Whether an access may perform now (R228 to R232). -/
def State.mayPerform (s : State) (core : Nat) (c : Core) (g : GAcc) : Bool :=
  s.inOrder core c g && ((c.earlierAcc g).all (fun h => !(h.meets g)) || c.forwards g) && !(s.homePaused g.pa)

/-! ### Performing -/

/-- Reading what the access needs: the old bytes and the lines substituted, or the kind of the fault (R219 to R221). -/
def State.homeRead (s : State) (g : GAcc) : Except Nat (Nat × Nat) :=
  if g.opc = 0x04 then
    match s.writeFault g.pa g.bytes with
    | some x => .error x
    | none => .ok (0, 0)
  else if g.stores && s.treeBad (s.storage g.pa) then .error kINTEG
  else match s.dataRead g.pa g.bytes g.subst (!g.stores) with
    | .error k => .error k
    | .ok (bs, n) => .ok (bytesToNat bs, n)

def Core.dropAcc (c : Core) (id : Nat) : Core := { c with gacc := c.gacc.filter fun g => g.id ≠ id }

/-- Whether an access is a logged event (Table 20-10). -/
def GAcc.logged (g : GAcc) : Bool := g.opc == 0x12 || g.opc == 0x13 || g.opc == 0x15

/-- An access that has its value leaves; its result is on its way (R19), and an acquire takes effect (R230). -/
def State.leaves (s : State) (core : Nat) (g : GAcc) (v : Option Word) (fl : FlagSet) : State :=
  let s := s.onCore core fun c => match v with
    | some v => (c.dropAcc g.id).reply g.id 1 (.word v) fl
    | none => c.dropAcc g.id
  if g.acq then s.acquired core g.scope else s

/-- GLOBAL_ACCESS_PERFORM: the access of a number performs at its home (R228 to R232). -/
def tryGlobalAccessPerform (core k : Nat) (s : State) : Option State :=
  let c := s.coreOf core
  match c.gacc.find? fun g => g.id == k with
  | none => none
  | some g =>
    if !(s.mayPerform core c g) || (g.logged && c.recording && !(s.logTurn core k)) then none
    else match s.homeRead g with
      | .error x => some ((s.onCore core fun c => c.dropAcc k).fatal core x 0 g.hdr (2 ^ g.slot.num) g.ea 0)
      | .ok (old, lines) =>
        let r := g.effect (if g.opc = 0x03 then bytesToNat (c.forwarded g (natToBytes g.bytes old)) else old)
        let write (s : State) : State := match r.write with
          | none => s
          | some v => (s.dirty g.ctx g.ea.toNat).storeFrom (.core core) g.pa (natToBytes g.bytes v)
        let finish (s : State) (v : Word) : State :=
          let s := write s
          let s := if lines = 0 then s
            else s.onContext g.ctx fun x => { x with subcnt := x.subcnt + BitVec.ofNat 64 lines }
          (s.onCore core fun c => c.seen g.pa g.bytes).leaves core g (r.val.map fun _ => v) r.flags
        let v := r.val.getD 0
        if g.logged then (s.logNow core g.hnd evAtomic v).map fun x => finish x.2 x.1
        else some (finish s v)

def execGlobalAccessPerform (core k : Nat) (s : State) : Host.Outcome State Fault Refusal :=
  .next ((tryGlobalAccessPerform core k s).getD s)

/-! ### Values taken before their loads (R229) -/

/-- A core takes the value of an aligned address before the load that may return it. -/
def State.takeEarly (s : State) (core dva n : Nat) : State :=
  let c := s.coreOf core
  if c.placed.isNone || !([1, 2, 4, 8].contains n) || dva % n ≠ 0 || 2 ^ 56 ≤ dva then s
  else match s.walkPage c.ctx dva with
    | .error _ => s
    | .ok e =>
      let pa := e.phys dva
      if s.gate c.ctx pa != .go || s.homePaused pa || s.integBad pa n || s.eccLines pa n ≠ 0 then s
      else s.onCore core fun c => { c with stale := ⟨pa, s.physBytes pa n, []⟩ :: c.stale }

/-- A load of a core returns a value that the core took before: nothing in program order stands between, and the value is
of the load's own bytes. Older values of these bytes are gone then (R228). -/
def State.useEarly (s : State) (core id : Nat) : State :=
  let c := s.coreOf core
  match c.gacc.find? fun g => g.id == id with
  | none => s
  | some g =>
    match c.stale.find? fun v => v.pa == g.pa && v.bytes.length == g.bytes with
    | none => s
    | some v =>
      if g.opc ≠ 0x03 || !(s.inOrder core c g) || s.drainAhead core g || (c.earlierAcc g).any (fun h => h.meets g) then s
      else
        let keeps (x : Stale) : Bool :=
          x == v || !(overlaps x.pa (x.pa + x.bytes.length) g.pa (g.pa + g.bytes))
        let r := g.effect (bytesToNat v.bytes)
        (s.onCore core fun c => { c with stale := c.stale.filter keeps }).leaves core g r.val r.flags

/-! ### Walks and expansions (R211, R216, R218) -/

/-- Walks of a cluster, the first 64 in progress. -/
def State.walksOf (s : State) (cluster : Nat) : List Walk := s.sys.walks.filter fun w => w.cluster == cluster

/-- A walk's fault reaching the bundle that waits for it. -/
def Held.walkFails (w : Walk) (kind : Nat) (h : Held) : Held :=
  match h.hold with
  | .translate ea _ =>
    if w.cores.contains h.core ∧ ea.toNat / 4096 = w.page then { h with xlf := h.xlf ++ [(w.page, kind)] } else h
  | _ => h

/-- The access code that the record of a walk's fault carries: that of the access that missed, or a walk's where the fault is
of the table's own page (R216 to R218, Table 19-2). -/
def walkAcc (kind acc : Nat) : Nat := if kind = kXLATE then acc else accWalk

/-- The answer of one walk: the tables of the cores that joined it are filled, or its fault is delivered to every miss; each
core whose bundle waits has a turn. -/
def State.serveWalk (s : State) (w : Walk) (r : Except Nat TlbEntry) : State :=
  let s := { s with sys := { s.sys with walks := s.sys.walks.erase w } }
  let s := match r with
    | .ok e =>
      let ks := w.cores ++ w.cmds.map Prod.fst ++ w.fetches.map Prod.fst
      let s := ks.foldl (fun s k => s.tlbFill k true e) s
      w.prefs.foldl (fun s p => s.prefetched p.1 p.2 e) s
    | .error kind =>
      let s := { s with held := s.held.map (Held.walkFails w kind) }
      let s := w.cmds.foldl (fun s m => s.cmdFault m.1 m.2.1 kind (walkAcc kind m.2.2.1) (BitVec.ofNat 64 m.2.2.2)) s
      w.fetches.foldl (fun s x => if ((s.coreOf x.1).bank x.2.1).pc = x.2.2 then s.fetchFault x.1 x.2.1 kind x.2.2 else s) s
  w.cores.reverse.foldl State.pushTurn s

/-- Whether a walk reads a table in the CXL tier, and its cores, sequencers or commands. -/
def State.walksCxl (s : State) (w : Walk) : Bool := (s.tableEntries w.ctx (w.page * 4096)).any s.inCxl
def Walk.joined (w : Walk) (core : Nat) : Bool :=
  w.cores.contains core || w.cmds.any (fun m => m.1 == core) || w.fetches.any fun x => x.1 == core

/-- Whether an expander refuses a walk's reads: it waits (R218). -/
def State.walkHeldOff (s : State) (w : Walk) : Bool :=
  s.cores.any fun e => e.2.refusing.isSome && w.joined e.1 && s.walksCxl w

/-- What a walk in progress finds. -/
def State.walkResult (s : State) (w : Walk) : Except Nat TlbEntry := s.walkPage w.ctx (w.page * 4096)

/-- WALK_COMPLETE (R211): a walk in progress ends, and serves the queued misses that its page covers. It waits while a table
lies at a paused home (R301) or in a tier that an expander refuses (R218), and while a compressed one expands (R216). -/
def tryWalkComplete (cluster ctx : Nat) (page : Word) (s : State) : Option State :=
  let ws := s.walksOf cluster
  match (ws.take 64).find? fun w => w.ctx == ctx && w.page == page.toNat with
  | none => none
  | some w =>
    if s.walkPaused ctx (w.page * 4096) || s.walkHeldOff w then none
    else match s.tableTouch ctx (w.page * 4096) with
    | some (k, packed) => if packed then some (s.startExpansion ctx k) else none
    | none =>
      let r := s.walkResult w
      let also (e : TlbEntry) (x : Walk) : Bool := x ≠ w && e.covers x.ctx (x.page * 4096)
      let more := match r with
        | .ok e => (ws.drop 64).filter (also e)
        | .error _ => []
      some ((w :: more).reverse.foldl (fun s x => s.serveWalk x r) s)

def execWalkComplete (cluster ctx : Nat) (page : Word) (s : State) : Host.Outcome State Fault Refusal :=
  .next ((tryWalkComplete cluster ctx page s).getD s)

/-- Bundles held for an expansion have a turn each, in order of arrival. -/
def State.wakeExpand (s : State) : State :=
  let waits (h : Held) : Option Nat := match h.hold with
    | .expand _ _ _ _ => some h.core
    | _ => none
  (s.held.filterMap waits).reverse.foldl State.pushTurn s

/-- An expansion that failed reaches the access that started it (R219, R220): the bundle that waits for it, or for a PREFG the
launch; the others touch the page afresh. -/
def State.expansionFails (s : State) (e : Expansion) (kind : Nat) : State :=
  match e.core with
  | none => s
  | some k =>
    let mine (h : Held) : Bool := h.core == k && (match h.hold with
      | .expand _ _ ea _ => ea.toNat == e.dva
      | _ => false)
    let tell (h : Held) : Held := if mine h then { h with xlf := h.xlf ++ [(e.dva / 4096, kind)] } else h
    if s.held.any mine then { s with held := s.held.map tell } else s.fatal k kind 0 0 0 (BitVec.ofNat 64 e.dva) 0

/-- EXPANSION_COMPLETE (R216): the page is in its storage again. -/
def tryExpansionComplete (frame : Nat) (s : State) : Option State :=
  match s.sys.expansions.find? fun e => e.frame == frame with
  | none => none
  | some e =>
    if s.homePaused (frame * frameBytes) then none
    else match s.expandNow e with
    | (.ok _, s) => some s.wakeExpand
    | (.error x, s) => some (s.expansionFails e x).wakeExpand

def execExpansionComplete (frame : Nat) (s : State) : Host.Outcome State Fault Refusal :=
  .next ((tryExpansionComplete frame s).getD s)

/-- The engine commands of a core whose next access is to the CXL tier, with its access code and address (R218, R250). -/
def State.cxlWaiters (s : State) (core : Nat) : List (Nat × Nat × Nat) :=
  let c := s.coreOf core
  let inTier (a : Nat) : Bool := match s.walkPage c.ctx a with
    | .error _ => false
    | .ok e => s.inCxl (e.pa + (a - e.page))
  c.cmds.filterMap fun m =>
    let next : List (Nat × Nat) :=
      if m.parked then []
      else if m.chunk.isSome then m.chunkWrites.map fun a => (accEWrite, a)
      else if m.progress < m.count then (if s.couldStart core m then m.chunkReads.map fun a => (accERead, a) else [])
      else if compNone m.object || compSp m.object || !(s.performed core m) then []
      else [(accEWrite, compAddr m.object)]
    (next.find? fun x => inTier x.2).map fun x => (m.id, x.1, x.2)

/-- What has been refused for 100 µs meets CXLBUSY: the walks that the core has joined, the commands that wait, and, in the
core's next turn, its sequencers (R218). -/
def State.refusalReaches (s : State) (core : Nat) : State :=
  let ws := s.sys.walks.filter fun w => w.joined core && s.walksCxl w
  let s := ws.foldl (fun s w => s.serveWalk w (.error kCXLBUSY)) s
  let s := (s.cxlWaiters core).foldl (fun s x => s.cmdFault core x.1 kCXLBUSY x.2.1 (BitVec.ofNat 64 x.2.2)) s
  (s.onCore core fun c => { c with refusing := none, refused := true }).pushTurn core

/-- CXLBUSY_TIMEOUT (R218): an expander begins to refuse the core's accesses to the CXL tier, and they wait; it takes them after
all; or, once 100 µs have passed, slots not counted (R301), they raise CXLBUSY (log entry 20). In a slot it does not come
about. -/
def execCxlbusyTimeout (core : Nat) (s : State) : Host.Outcome State Fault Refusal :=
  let c := s.coreOf core
  if 2048 ≤ core ∨ c.placed.isNone ∨ s.sys.slotOpen.isSome then .next s
  else match c.refusing with
    | none => .next (s.setCore core { c with refusing := some s.sys.tick.toNat })
    | some t =>
      if s.sys.tick.toNat < t + 100000 then .next ((s.setCore core { c with refusing := none }).pushTurn core)
      else .next (s.refusalReaches core)

/-! ### What a core's clk brings -/

/-- BUNDLE_STALL_RELEASE (R16): a core whose main sequencer holds no bundle at issue tries its next one. -/
def execBundleStallRelease (core : Nat) (s : State) : Host.Outcome State Fault Refusal :=
  if 2048 ≤ core ∨ (s.coreOf core).placed.isNone ∨ s.held.any fun h => h.core == core then .next s
  else .next (s.pushTurn core)

/-- FETCH_MISS_FILL (R23): a line that one of the core's sequencers stands at, and that its cache lacks, is filled. -/
def execFetchMissFill (core : Nat) (line : Word) (s : State) : Host.Outcome State Fault Refusal :=
  let c := s.coreOf core
  let at_ (b : Bank) : Bool := b.pc.toNat / 64 == line.toNat / 64 && (c.lineWords b.pc).isNone
  if 2048 ≤ core ∨ c.placed.isNone ∨ s.clockHeld core then .next s
  else if c.run.isSome && at_ c.hnd then .next (s.fillLine core true c.hnd.pc)
  else if c.mainLive && at_ c.main then .next (s.fillLine core false c.main.pc)
  else .next s

/-- SP_GROUP_WAKE_DONE (R69): a group whose 512 clk have passed is awake. -/
def execSpGroupWakeDone (core g : Nat) (s : State) : Host.Outcome State Fault Refusal :=
  let c := s.coreOf core
  if c.waking.any fun w => w.1 == g && w.2 ≤ c.clk then
    .next (s.setCore core { c with waking := c.waking.filter fun w => w.1 ≠ g })
  else .next s

/-- RNG_BLOCK (R270): the generator appends a block once it is due and has room. -/
def execRngBlock (core : Nat) (s : State) : Host.Outcome State Fault Refusal :=
  let c := s.coreOf core
  if c.placed.isNone ∨ s.clockHeld core then .next s
  else match c.rng.block c.clk with
    | none => .next s
    | some r => .next (s.setCore core { c with rng := r })

end Sys2Proof.Machine
end

