-- ==== Sys2Proof/Machine/Parallel.lean ====
section
/-! DEFINITION. Gangs, barriers, deques, services and the ends of waits (R59, R64, R71, R171, R174, R178 to R188, R328). -/

namespace Sys2Proof.Machine

open Sys2Proof

/-! ### Ends of waits -/

/-- A turn for a core some bundle of which is held and meets a condition. -/
def State.wakeIf (s : State) (core : Nat) (p : Held → Bool) : Option State :=
  if s.held.any fun h => h.core == core && p h then some (s.pushTurn core) else none

/-- WAITX_SATISFIED (R184). -/
def tryWaitxSatisfied (core : Nat) (s : State) : Option State :=
  s.wakeIf core fun h => match h.hold with
    | .waitx _ _ _ _ _ => h.answer.isSome
    | _ => false

def execWaitxSatisfied (core : Nat) (s : State) : Host.Outcome State Fault Refusal :=
  .next ((tryWaitxSatisfied core s).getD s)

/-- The code that ends the WAITEV of a held bundle now (R185). -/
def State.heldWaitev (s : State) (h : Held) : Option Nat :=
  match h.hold with
  | .waitev mask dl => waitevCode (s.coreOf h.core) s.sys.tick mask h.runs dl
  | _ => none

/-- WAITEV_WAKE (R185): codes 1 and 2. -/
def tryWaitevWake (core : Nat) (s : State) : Option State :=
  s.wakeIf core fun h => s.heldWaitev h == some 1 || s.heldWaitev h == some 2

def execWaitevWake (core : Nat) (s : State) : Host.Outcome State Fault Refusal := .next ((tryWaitevWake core s).getD s)

/-- WAITEV_DEADLINE (R185): code 3. -/
def tryWaitevDeadline (core : Nat) (s : State) : Option State := s.wakeIf core fun h => s.heldWaitev h == some 3

def execWaitevDeadline (core : Nat) (s : State) : Host.Outcome State Fault Refusal :=
  .next ((tryWaitevDeadline core s).getD s)

/-- TFENCE_DRAINED (R59). -/
def tryTfenceDrained (core : Nat) (s : State) : Option State :=
  s.wakeIf core fun h => h.hold == .tfence && (s.coreOf core).fenced h.hnd h.first

def execTfenceDrained (core : Nat) (s : State) : Host.Outcome State Fault Refusal :=
  .next ((tryTfenceDrained core s).getD s)

/-- DRAIN_DONE (R186, R230): the accesses that a DRAIN waits for are performed, those that a release waits for among them. -/
def tryDrainDone (core : Nat) (s : State) : Option State :=
  s.wakeIf core fun h => match h.hold with
    | .drain scope => (s.coreOf core).gacc.all fun g => h.first ≤ g.first || s.drainSkips (s.coreOf core) scope g
    | .release scope => (s.coreOf core).gacc.all fun g => h.first ≤ g.first || (scope < 4 && s.inCxl g.pa)
    | _ => false

def execDrainDone (core : Nat) (s : State) : Host.Outcome State Fault Refusal := .next ((tryDrainDone core s).getD s)

/-- HALT_COMMANDS_DONE (R71). -/
def tryHaltCommandsDone (core : Nat) (s : State) : Option State :=
  s.wakeIf core fun h => h.hold == .halt && (s.coreOf core).enginesIdle

def execHaltCommandsDone (core : Nat) (s : State) : Host.Outcome State Fault Refusal :=
  .next ((tryHaltCommandsDone core s).getD s)

/-! ### Handler runs -/

/-- HANDLER_RUN_START (R174): beside a main bundle held at issue, which is tried first, it comes with the core's next turn. -/
def tryHandlerRunStart (core : Nat) (s : State) : Option State :=
  if 2048 ≤ core || s.clockHeld core || s.who core != .start then none
  else if (s.heldMain core).all fun h => h.mem.isSome then s.startRun core
  else some (s.pushTurn core)

def execHandlerRunStart (core : Nat) (s : State) : Host.Outcome State Fault Refusal :=
  .next ((tryHandlerRunStart core s).getD s)

/-! ### Barriers -/

/-- Whether the gang spans dies whose links a retrain slot pauses. -/
def State.gangPaused (s : State) (g : Gang) : Bool :=
  s.sys.slotOpen == some 2 && g.cores.any fun k => k / 256 ≠ g.cores.headD 0 / 256

/-- Whether every member counts as arrived on a tag, some by arriving (R179). -/
def State.phaseEnds (s : State) (g : Gang) (tag : Nat) : Bool :=
  g.cores.all (fun k => (s.coreOf k).departed || (s.coreOf k).arr.getLsbD tag)
    && g.cores.any fun k => (s.coreOf k).arr.getLsbD tag

/-- Whether a member that a barrier may hold has stopped in its wait: its release then comes after its resumption, so
that it does not arrive twice. -/
def State.stoppedInWait (s : State) (g : Gang) : Bool := g.cores.any fun k => (s.coreOf k).stopped == some .waiting

/-- BARRIER_RELEASE (R179, R180): every member's ARR[t] becomes 0, and a bundle held for it has a turn. -/
def tryBarrierRelease (gang tag : Nat) (s : State) : Option State :=
  match s.gangOf gang with
  | none => none
  | some g =>
    if 8 ≤ tag || !(s.phaseEnds g tag) || s.gangPaused g || s.stoppedInWait g || g.cores.any s.islandHeld then none
    else
      let clear (s : State) (k : Nat) : State := s.onCore k fun c => { c with arr := c.arr &&& ~~~(1#8 <<< tag) }
      let s := g.cores.foldl clear s
      let waits (k : Nat) : Bool := s.held.any fun h => h.core == k && (match h.hold with
        | .bara t | .barw t | .bars t => t == tag
        | _ => false)
      some ((g.cores.filter waits).reverse.foldl State.pushTurn s)

def execBarrierRelease (gang tag : Nat) (s : State) : Host.Outcome State Fault Refusal :=
  .next ((tryBarrierRelease gang tag s).getD s)

/-! ### The end of a gang -/

/-- Whether a member lets its gang end (R171, R194). -/
def State.memberDone (s : State) (k : Nat) : Bool :=
  let c := s.coreOf k
  c.departed && c.run.isNone && c.enginesIdle && c.cmds.isEmpty && c.gacc.isEmpty && (!c.hen || c.mq.used = 0) && c.mq.arriving.isEmpty
    && s.sys.msgs.all fun e => e.dst ≠ k

/-- A core that no gang holds any more. Its registers, its scratchpad and its queue stand as they are until the next gang's
start or a zeroing (R166, R314, R366); nothing reads them (R171, log entry 47). -/
def Core.released (c : Core) : Core :=
  { c with placed := none, departed := false, parked := false, hndParked := false, stopReq := false, stopped := none,
           quiet := false, dbg := { c.dbg with state := min 1 c.dbg.state, step := none, skip := false, halting := false },
           run := none, owes := false, mq := { c.mq with arriving := [] }, pend := [], gacc := [], stale := [], cmds := [],
           mats := [], keys := [], chase := [], refusing := none, refused := false }

/-- The scratchpads of a gang that SCRUB GANGSP has marked, zeroed as it ends (R375). -/
def State.wipe (s : State) (g : Gang) : State :=
  if g.scrub then g.cores.foldl (fun s k => s.onCore k fun c => { c with sp := [], spBad := [] }) s else s

/-- Cores leaving the gang that held them, with what is on its way to or from them. -/
def State.releaseCores (s : State) (cores : List Nat) : State :=
  let mine (k : Nat) : Bool := cores.contains k
  let s := cores.foldl (fun s k => s.onCore k Core.released) s
  let walk (w : Walk) : Walk :=
    { w with cores := w.cores.filter fun k => !(mine k), cmds := w.cmds.filter fun m => !(mine m.1),
             fetches := w.fetches.filter fun x => !(mine x.1), prefs := w.prefs.filter fun p => !(mine p.1) }
  let bundles := s.held.filter fun h => !(mine h.core)
  { s with held := bundles,
           sys := { s.sys with
             msgs := s.sys.msgs.filter fun e => !(mine e.src) && !(mine e.dst),
             acks := s.sys.acks.filter fun a => !(mine a.sender),
             asks := s.sys.asks.filter fun a => !(mine a.core),
             dqReqs := s.sys.dqReqs.filter fun q => !(mine q.owner) && !(mine q.asker),
             colls := s.sys.colls.filter fun r => r.peer || r.served || !(mine r.core),
             collSeq := s.sys.collSeq.filter fun e => !(mine (e.1 / 65536)),
             walks := (s.sys.walks.map walk) } }

/-- GANG_END (R171): the cores are free, and the launch counts one gang. -/
def tryGangEnd (gang : Nat) (s : State) : Option State :=
  match s.gangOf gang with
  | none => none
  | some g =>
    if s.aborting (g.cores.headD 0) || !(g.cores.all s.memberDone) then none
    else
      let s := ((s.wipe g).releaseCores g.cores).onLaunch g.launch fun l => { l with ended := l.ended + 1 }
      some { s with sys := { s.sys with gangs := s.sys.gangs.filter fun x => x.id ≠ g.id } }

def execGangEnd (gang : Nat) (s : State) : Host.Outcome State Fault Refusal := .next ((tryGangEnd gang s).getD s)

/-! ### Deque ports (R181 to R183) -/

/-- Whether a request stands before another at a port: by clk of arrival, then by member. -/
def DqReq.before (a b : DqReq) : Bool :=
  a.tick.ult b.tick || (a.tick == b.tick && (a.clk < b.clk || (a.clk == b.clk && a.member < b.member)))

/-- The request that a port serves next. -/
def firstReq : List DqReq → Option DqReq
  | [] => none
  | r :: rs => match firstReq rs with
    | none => some r
    | some q => if q.before r then some q else some r

/-- Whether a request has reached a core's port in an earlier clk: what the owner does in the clk of its arrival goes before it
(R183). -/
def State.atPort (s : State) (core : Nat) (q : DqReq) : Bool :=
  q.owner == core && (q.tick.ult s.sys.tick || (q.tick == s.sys.tick && q.clk < (s.coreOf core).clk)) && s.pathOpen q.asker core && !(s.islandHeld core)

/-- DEQUE_PORT_REQUEST (R182, R183): the first steal at a core's port takes the top entry, or fails. -/
def tryDequePortRequest (core : Nat) (s : State) : Option State :=
  match firstReq (s.sys.dqReqs.filter (s.atPort core)) with
  | none => none
  | some q =>
    let c := s.coreOf core
    let ans : Word × Bool := match c.deque with
      | v :: _ => (v, true)
      | [] => (0, false)
    let s := s.setCore core { c with deque := c.deque.drop 1 }
    let isSteal (h : Held) : Bool := h.core == q.asker && h.hnd == q.hnd && (match h.hold with
      | .steal _ => h.answer.isNone
      | _ => false)
    let give (h : Held) : Held := if isSteal h then { h with answer := some ans } else h
    let told := s.held.map give
    some { s with held := told, sys := { s.sys with dqReqs := s.sys.dqReqs.erase q } }

def execDequePortRequest (core : Nat) (s : State) : Host.Outcome State Fault Refusal :=
  .next ((tryDequePortRequest core s).getD s)

/-- Every steal that has reached a core's port is served before the owner's own next bundle (R183). The number bounds them. -/
def State.servePort (core : Nat) : Nat → State → State
  | 0, s => s
  | n + 1, s => match tryDequePortRequest core s with
    | none => s
    | some s => s.servePort core n

/-! ### Replies (R19, R64, R182, R188) -/

/-- The oldest request of a core of one kind. -/
def State.askOf (s : State) (core : Nat) (p : Ask → Bool) : Option AskReq :=
  s.sys.asks.find? fun a => a.core == core && p a.what

/-- Event code under which a reply is logged (Table 20-10). -/
def Ask.event : Ask → Nat
  | .dqcnt _ => evRead
  | _ => evReply

/-- A reply reaching its register: full in the next clk; in RECORD mode it is logged in its core's order. -/
def State.answerAsk (s : State) (a : AskReq) (v : Word) : Option State :=
  let drop (s : State) : State := { s with sys := { s.sys with asks := s.sys.asks.erase a } }
  let land (v : Word) (s : State) : State := (drop s).onCore a.core fun c => c.reply a.id 1 (.word v) 0
  if !a.what.logged then some (land v s)
  else if (s.coreOf a.core).recording && !(s.logTurn a.core a.id) then none
  else (s.logNow a.core a.hnd a.what.event v).map fun x => land x.1 x.2

/-- DQSTEAL_ANSWER (R182): a steal's answer lets its bundle commit, or the count of another member's deque lands. -/
def tryDqstealAnswer (core : Nat) (s : State) : Option State :=
  match s.wakeIf core fun h => (match h.hold with
      | .steal _ => h.answer.isSome
      | _ => false) with
  | some s => some s
  | none =>
    match s.askOf core fun w => (match w with
        | .dqcnt _ => true
        | _ => false) with
    | none => none
    | some a =>
      match a.what with
      | .dqcnt m =>
        match s.memberCore core m with
        | none => none
        | some o =>
          if s.pathOpen core o then s.answerAsk a (BitVec.ofNat 64 (s.coreOf o).deque.length) else none
      | _ => none

def execDqstealAnswer (core : Nat) (s : State) : Host.Outcome State Fault Refusal :=
  .next ((tryDqstealAnswer core s).getD s)

/-- A reply to the oldest SYSC of a service class: its number and its operand give the value. -/
def State.service (s : State) (core : Nat) (p : Nat → Bool) (v : Word → Word) : Option State :=
  match s.askOf core fun w => (match w with
      | .sysc n _ => p n
      | _ => false) with
  | none => none
  | some a => match a.what with
    | .sysc _ x => s.answerAsk a (v x)
    | _ => none

/-- SYSC_ECHO (Table 3-7). -/
def trySyscEcho (core : Nat) (s : State) : Option State := s.service core (fun n => n == 0) fun x => x

def execSyscEcho (core : Nat) (s : State) : Host.Outcome State Fault Refusal := .next ((trySyscEcho core s).getD s)

/-- SYSC_CLOCK (Table 3-7): the operating point as the bundle issued (R307). -/
def trySyscClock (core : Nat) (s : State) : Option State := s.service core (fun n => n == 2) fun x => x

def execSyscClock (core : Nat) (s : State) : Host.Outcome State Fault Refusal := .next ((trySyscClock core s).getD s)

/-- SYSC_OTHER_SERVICE (Table 3-7). -/
def trySyscOtherService (core : Nat) (s : State) : Option State :=
  s.service core (fun n => 2 < n) fun _ => 0xFFFFFFFFFFFFFFFF#64

def execSyscOtherService (core : Nat) (s : State) : Host.Outcome State Fault Refusal :=
  .next ((trySyscOtherService core s).getD s)

/-- The record of a SYSC NOTIFY joins the fault queue's pending records (R327). -/
def State.takeNotify (s : State) (core : Nat) (a : AskReq) (x : Word) : State :=
  let told (b : AskReq) : AskReq := if b = a then { a with what := .notified } else b
  let s := { s with sys := { s.sys with asks := s.sys.asks.map told } }
  match s.gangAt core with
  | none => s
  | some g => match s.launchOf g.launch with
    | none => s
    | some l =>
      let b := s.faultBytes 2 0 0 g.token 0 0 0 (s.coreOf core).member l.ctx l.queue l.slot x
      s.addFault ⟨l.ctx, b, none, some (core, a.id), 0, l.id, s.sys.tick.toNat, core, g.gidx⟩

/-- SYSC_NOTIFY (Table 3-7, R327): the record is taken, and once it has been written the reply 0 lands. A record whose
write faults ends the launch and leaves no reply (Table 20-11). -/
def trySyscNotify (core : Nat) (s : State) : Option State :=
  let written (s : State) : Option State :=
    match s.askOf core fun w => w == .notified with
    | none => none
    | some a =>
      if s.sys.faults.any fun r => r.notify == some (core, a.id) then none
      else if s.aborting core then none
      else s.answerAsk a 0
  match s.askOf core fun w => (match w with
      | .sysc n _ => n == 1
      | _ => false) with
  | none => written s
  | some a => match a.what with
    | .sysc _ x =>
      let t := s.takeNotify core a x
      some ((written t).getD t)
    | _ => none

def execSyscNotify (core : Nat) (s : State) : Host.Outcome State Fault Refusal := .next ((trySyscNotify core s).getD s)

/-! ### RESUMEG (R188, R328) -/

/-- What a token names in a context: a gang that holds cores, or one that is saved. -/
def State.tokenGang (s : State) (ctx token : Nat) : Option Gang :=
  s.sys.gangs.find? fun g => g.token == token && (match s.launchOf g.launch with
    | some l => l.ctx == ctx
    | none => false)

/-- Whether a record of a launch's gang still waits for the ring: the gang stays parked, saved or not (R327). -/
def State.recordPending (s : State) (launch gidx : Nat) : Bool :=
  s.sys.faults.any fun r => r.gang.isSome && r.launch == launch && r.gidx == gidx

/-- A gang that resumes; cores that had stopped to be saved go on, unless their gang is being stopped anyway. -/
def State.resume (s : State) (g : Gang) : State :=
  let s := s.unpark g
  if g.stopping then s else g.cores.foldl (fun s k => s.onCore k fun c => { c with quiet := false }) s

/-- GANG_RESUME (R188, R328): the token's gang resumes if it is parked, and the answer lands. -/
def tryGangResume (core : Nat) (s : State) : Option State :=
  match s.askOf core fun w => (match w with
      | .resumeg _ => true
      | _ => false) with
  | none => none
  | some a => match a.what with
    | .resumeg t =>
      let ctx := (s.coreOf core).ctx
      match s.tokenGang ctx t with
      | some g =>
        if !g.parked then s.answerAsk a 1
        else if s.recordPending g.launch g.gidx then none
        else (s.answerAsk a 0).map fun s => s.resume g
      | none =>
        match s.sys.saved.find? fun g => g.ctx == ctx && g.token == t with
        | none => s.answerAsk a 2
        | some g =>
          if !g.parked then s.answerAsk a 1
          else if s.recordPending g.launch g.gidx then none
          else
            let go (x : SavedGang) : SavedGang := if x = g then { x with parked := false } else x
            (s.answerAsk a 0).map fun s => { s with sys := { s.sys with saved := s.sys.saved.map go } }
    | _ => none

def execGangResume (core : Nat) (s : State) : Host.Outcome State Fault Refusal := .next ((tryGangResume core s).getD s)

/-! ### ENQ (R187) -/

/-- TAIL advancing to a slot: an IDLE queue becomes READY, and its new head starts at the base priority (R190, R196). -/
def Queue.advance (q : Queue) (t : Nat) : Queue :=
  if q.tail = t then q
  else if q.state = .idle then { q with tail := t, state := .ready, level := q.prio, span := 0 }
  else { q with tail := t }

/-- Whether a queue takes a record (R187, R189). -/
def Queue.takes (q : Queue) : Bool :=
  (q.state == .idle || q.state == .ready || q.state == .waiting || q.state == .placing)
    && !(ringFull q.nrec q.head q.tail)

/-- ENQ_ANSWER (R187): the record is written and the tail advances, or the append is refused. The bundle then has a
turn. -/
def tryEnqAnswer (core : Nat) (s : State) : Option State :=
  let mine (h : Held) : Bool := h.core == core && h.answer.isNone && (match h.hold with
    | .enq _ _ => true
    | _ => false)
  match s.held.find? mine with
  | none => none
  | some h => match h.hold with
    | .enq k off =>
      let q := s.queueOf k
      let tell (ok : Bool) (s : State) : State :=
        let say (x : Held) : Held := if mine x && x.hnd == h.hnd then { x with answer := some (b2w ok, ok) } else x
        let told := s.held.map say
        ({ s with held := told }).pushTurn core
      if !q.takes then some (tell false s)
      else
        let at_ := q.ring.toNat + 128 * q.tail
        if s.rangePaused q.ctx at_ 128 then none
        else match s.gWrite (.core core) q.ctx at_ (readBytes h.pre.sp off 128) accStore (!h.pre.modeS) false with
          | (.error _, s) => some (tell false s)
          | (.ok _, s) => some (tell true (s.onQueue k fun q => q.advance ((q.tail + 1) % q.nrec)))
    | _ => none

def execEnqAnswer (core : Nat) (s : State) : Host.Outcome State Fault Refusal := .next ((tryEnqAnswer core s).getD s)

end Sys2Proof.Machine
end

