-- ==== Sys2Proof/Machine/Placement.lean ====
section
/-! DEFINITION. Placing gangs on cores: free cores and tags, the state a launch starts a core in, restoring a saved gang, and
the save area (R12, R168, R172, R195, R200, R270, R335 to R338). -/

namespace Sys2Proof.Machine

open Sys2Proof

/-! ### Cores and tags -/

/-- Whether a function holds a bed at this moment (R172). -/
def State.holdsBed (s : State) (vf bed : Nat) : Bool := s.sys.bedNow.contains (bed, vf)

/-- Whether a core is on the beds that a function holds. -/
def State.onBed (s : State) (vf core : Nat) : Bool := s.holdsBed vf (core / 16)

/-- The period of the timebase count (R298). -/
def State.period (s : State) : Nat := s.sys.tick.toNat / periodTicks

/-- Beds that a function holds and shares with another, or has lost by management (R172, R196). -/
def State.sharedBeds (s : State) (vf : Nat) : List Nat :=
  ((s.sys.bedNow.filter fun b => b.2 == vf).map Prod.fst).filter fun b =>
    !(s.sys.beds.contains (b, vf)) || s.sys.beds.any fun e => e.1 == b && e.2 ≠ vf

/-- Whether gangs of a function may be placed on a core: off the beds that its ladder has it leave (Table 20-3), and while its
island is not held (R307, R308). -/
def State.mayUse (s : State) (vf core : Nat) : Bool :=
  s.onBed vf core && !(s.islandHeld core) && ((s.vf vf).ladder == .run || !((s.sharedBeds vf).contains (core / 16)))

/-- Whether a core holds no gang and waits for no zeroing (R168, R366). -/
def State.coreFree (s : State) (core : Nat) : Bool := (s.coreOf core).placed.isNone && !(s.sys.zeroing.contains core)

/-- Cores of a cluster. -/
def clusterCores (cl : Nat) : List Nat := (List.range 256).map fun i => 256 * cl + i

/-- Route tags of a cluster that gangs hold; a gang of one core holds none (R178). -/
def State.tagsUsed (s : State) (cl : Nat) : Nat :=
  ((s.sys.gangs.filter fun g => 1 < g.cores.length && g.cores.any fun k => k / 256 == cl).map Gang.tags).sum

/-- Tags that a gang of a size takes on each of its clusters. -/
def tagsTaken (size tags : Nat) : Nat := if size = 1 then 0 else tags

/-- Clusters of which a function holds every bed. -/
def State.wholeClusters (s : State) (vf : Nat) : List Nat :=
  (List.range 8).filter fun cl => (List.range 16).all fun j => s.holdsBed vf (cl * 16 + j)

/-- Whether a gang of a size could be placed on the beds a function holds, free or not (R195). -/
def State.placeable (s : State) (vf size : Nat) : Bool :=
  if size ≤ 256 then (List.range 8).any fun cl => size ≤ ((clusterCores cl).filter (s.onBed vf)).length
  else size / 256 ≤ (s.wholeClusters vf).length

/-- The cores that a gang takes now, in member order, when it fits (R170, R195). -/
def State.coresFor (s : State) (vf size tags : Nat) : Option (List Nat) :=
  let roomy (cl : Nat) : Bool := s.tagsUsed cl + tagsTaken size tags ≤ 8
  if size ≤ 256 then
    (List.range 8).findSome? fun cl =>
      let free := (clusterCores cl).filter fun k => s.mayUse vf k && s.coreFree k
      if roomy cl && size ≤ free.length then some (free.take size) else none
  else
    let cls := (s.wholeClusters vf).filter fun cl => roomy cl && (clusterCores cl).all fun k => s.mayUse vf k && s.coreFree k
    if size / 256 ≤ cls.length then some ((cls.take (size / 256)).flatMap clusterCores) else none

/-! ### The state a launch starts a core in -/

/-- GANG (Table 9-2). -/
def gangWord (member size tags clusters gidx : Nat) : Word :=
  BitVec.ofNat 64 (member + size * 2 ^ 11 + tags * 2 ^ 23 + clusters * 2 ^ 27 + gidx * 2 ^ 32)

/-- LAUNCH (Table 10-8). -/
def Launch.word (l : Launch) : Word :=
  BitVec.ofNat 64 (l.queue + l.ctx * 2 ^ 13 + l.vf * 2 ^ 21 + l.slot * 2 ^ 32 + (if l.s then 2 ^ 48 else 0)
    + (if l.record then 2 ^ 49 else 0))

/-- Clusters that cores span. -/
def clusterCount (cores : List Nat) : Nat := (cores.map fun k => k / 256).eraseDups.length

/-- A core as a launch starts it (R12, R195, R200, R264, R270). Its clock, its translations and its mailbox go on. -/
def Core.started (c : Core) (l : Launch) (gang gidx tags clusters member : Nat) : Core :=
  { clk := c.clk, tlb := c.tlb, dbg := c.dbg, nextId := c.nextId,
    main := { pc := l.code }, modeS := l.s, gang := gangWord member l.gsize tags clusters gidx, launch := l.word,
    argp := l.args, trapvec := l.trapvec, mq := { base := l.mqbase, size := l.mqsize }, credits := l.mqsize,
    rng := { key := BitVec.ofNat 64 member, ready := c.clk },
    formes := Vector.ofFn fun i => l.formes.getD i.val 0, placed := some gang, used := true, ctx := l.ctx }

/-- A new gang of a launch on its cores. -/
def State.startGang (s : State) (l : Launch) (cores : List Nat) : State :=
  let id := s.sys.nextId
  let g : Gang := { id := id, launch := l.id, gidx := l.nextGang, token := s.sys.nextToken, tags := l.tags, cores := cores }
  let start (s : State) (p : Nat × Nat) : State :=
    s.onCore p.1 fun c => c.started l id l.nextGang l.tags (clusterCount cores) p.2
  let s := cores.zipIdx.foldl start s
  let s := s.onLaunch l.id fun x => { x with nextGang := x.nextGang + 1 }
  { s with sys := { s.sys with gangs := s.sys.gangs ++ [g], nextId := id + 1, nextToken := s.sys.nextToken + 1 } }

/-! ### The save area (R338) -/

/-- Records of a context's save area in use. -/
def State.areaUsed (s : State) (ctx : Nat) : List (Nat × Nat) :=
  (s.sys.saved.filter fun g => g.ctx == ctx).map fun g => (g.area, g.area + g.size)

/-- The lowest free run of n records, when the area has one. -/
def State.areaFor (s : State) (ctx n : Nat) : Option Nat :=
  let cap := (s.context ctx).saveLen / recordBytes
  let used := s.areaUsed ctx
  (List.range (cap + 1 - n)).find? fun a => a + n ≤ cap && !(used.any fun r => overlaps a (a + n) r.1 r.2)

/-- The address of a record of a context's save area. -/
def State.recordAt (s : State) (ctx i : Nat) : Nat := (s.context ctx).saveDva.toNat + recordBytes * i

/-- Entries of a command of a core that await resending. -/
def State.awaitsResend (s : State) (core : Nat) (m : Cmd) : Nat :=
  (s.sys.msgs.filter fun e => e.src == core && e.cmd == m.id && e.refused).length

/-- Where a member stands (Table 20-6). -/
def Core.stopCode (c : Core) : Nat :=
  if c.departed then 3 else (match c.stopped with
    | some p => p.code
    | none => if c.parked then 4 else 0)

/-- The record of a core as it stands. -/
def State.coreImage (s : State) (core : Nat) : List Host.Cell :=
  let c := s.coreOf core
  c.image c.stopCode s.sys.tick.toNat (s.awaitsResend core)

/-- Writing core records one after another from an address on: how many were written, and the fault that ended it. -/
def State.putRecords (s : State) (ctx : Nat) : List Nat → Nat → Nat → (Nat × Option Nat) × State
  | [], _, n => ((n, none), s)
  | k :: ks, dva, n =>
    match s.gWrite .package ctx dva (imageBytes (s.coreImage k)) accStore false false with
    | (.error x, s) => ((n, some x), s)
    | (.ok _, s) => s.putRecords ctx ks (dva + recordBytes) (n + 1)

/-! ### Restoring a saved gang (R337) -/

/-- Records read back from the save area, none if one cannot be read. -/
def State.getRecords (s : State) (ctx : Nat) : Nat → Nat → Except Nat (List (List Host.Cell)) × State
  | _, 0 => (.ok [], s)
  | i, n + 1 =>
    match s.gRead none ctx (s.recordAt ctx i) recordBytes accLoad false with
    | (.error x, s) => (.error x, s)
    | (.ok bs, s) =>
      match s.getRecords ctx (i + 1) n with
      | (.error x, s) => (.error x, s)
      | (.ok rs, s) => (.ok (writeBytes [] 0 bs :: rs), s)

/-- The member that held a core of a saved gang. -/
def SavedGang.memberOf (g : SavedGang) (core : Nat) : Nat := (g.cores.findIdx? fun k => k == core).getD 0

/-- The number of a command of a saved gang: its index in its member's engine records. -/
def SavedGang.cmdIndex (g : SavedGang) (member cmd : Nat) : Nat :=
  ((g.cmds.getD member []).findIdx? fun m => m.id == cmd).getD 0

/-- A refused entry as it stands once the gang holds other cores; `first` gives a core's first command number. -/
def SavedGang.moveMsg (g : SavedGang) (cores : List Nat) (first : Nat → Nat) (e : Msg) : Msg :=
  let a := g.memberOf e.src
  let src := cores.getD a 0
  { e with src := src, dst := cores.getD (g.memberOf e.dst) 0, cmd := first src + g.cmdIndex a e.cmd }

def SavedGang.moveRank (g : SavedGang) (cores : List Nat) (first : Nat → Nat) (r : CollRank) : CollRank :=
  let a := g.memberOf r.core
  let core := cores.getD a 0
  { r with core := core, cmd := first core + g.cmdIndex a r.cmd }

/-- A restored core's view of entries it has refused: each member's first. -/
def Core.refusals (c : Core) (msgs : List (Nat × Nat)) : Core :=
  let fix (p : Nat × PeerState) : Nat × PeerState :=
    (p.1, { p.2 with refusing := match p.2.refusing with
      | none => none
      | some _ => (msgs.find? fun e => e.1 == p.1).map Prod.snd })
  { c with peers := c.peers.map fix }

/-- One member of a restored gang. -/
def State.restoreCore (s : State) (l : Launch) (g : SavedGang) (id : Nat) (cores : List Nat) (member core : Nat)
    (m : List Host.Cell) (msgs : List Msg) : State :=
  let stop := recBits m 0 8 3
  s.onCore core fun c =>
    let c := (c.started l id g.gidx g.tags (clusterCount cores) member).restored m (g.cmds.getD member [])
    let go (x : Cmd) : Cmd := { x with parked := x.parked && g.parked }
    let c := c.refusals ((msgs.filter fun e => e.dst == core).map fun e =>
      (((cores.findIdx? fun k => k == e.src).getD 0), e.seq))
    let c := (msgs.filter fun e => e.src == core).foldl (fun c e =>
      let k := (cores.findIdx? fun k => k == e.dst).getD 0
      c.setPeer k { c.peer k with sent := (e.seq + 1) % 2 ^ 32 }) c
    { c with tlb := [], main := c.main.resumeLoops, departed := stop = 3, parked := g.parked, cmds := c.cmds.map go,
             stopped := if g.parked && stop = 4 then some .parked else none }

/-- A saved gang restored to cores: its records are read; one that cannot be read ends the launch (Table 20-11). -/
def State.restoreGang (s : State) (l : Launch) (g : SavedGang) (cores : List Nat) : State :=
  let drop (s : State) : State := { s with sys := { s.sys with saved := s.sys.saved.erase g } }
  match s.getRecords g.ctx g.area g.size with
  | (.error x, s) =>
    let s := (drop s).ownAccessFault g.ctx x
    (s.onLaunch l.id fun x => { x with ended := x.ended + 1 }).condemn l.id (s.gangFault kPREEMPTKILL g.gidx)
  | (.ok ms, s) =>
    let s := drop s
    let id := s.sys.nextId
    let first (k : Nat) : Nat := (s.coreOf k).nextId
    let msgs := g.msgs.map (g.moveMsg cores first)
    let colls := g.colls.map (g.moveRank cores first)
    let seqs := g.collSeq.map fun e => (cores.getD (g.memberOf (e.1 / 65536)) 0 * 65536 + e.1 % 65536, e.2)
    let gang : Gang := { id := id, launch := l.id, gidx := g.gidx, token := g.token, tags := g.tags, cores := cores,
                         parked := g.parked, scrub := g.scrub }
    let s := (cores.zip ms).zipIdx.foldl (fun s p => s.restoreCore l g id cores p.2 p.1.1 p.1.2 msgs) s
    let t : State := { s with sys := { s.sys with
        gangs := s.sys.gangs ++ [gang], nextId := id + 1, msgs := s.sys.msgs ++ msgs, colls := s.sys.colls ++ colls,
        collSeq := seqs.foldl (fun m e => mput m e.1 e.2) s.sys.collSeq } }
    (t.onVf l.vf fun v => { v with lastCtx := g.ctx }).endCutOff

end Sys2Proof.Machine
end

