-- ==== Sys2Proof/Machine/Compositor.lean ====
section
/-! DEFINITION. Queues, records, arbitration and the ends of launches (R189 to R197, R327, R329 to R331, R345). -/

namespace Sys2Proof.Machine

open Sys2Proof

/-! ### Queues and doorbells (R189, R190) -/

/-- The queue that doorbell k of a function reaches. -/
def State.queueAt (s : State) (vf k : Nat) : Option Nat :=
  (s.sys.doorbells.find? fun e => e.1 == vf * 512 + k).map Prod.snd

/-- A queue that leaves off its head: a LAUNCH still placing places no more, and a wait is abandoned (R189, R192). -/
def State.abandonHead (s : State) (k : Nat) : State :=
  let q := s.queueOf k
  let s := match q.launch with
    | none => s
    | some l => s.onLaunch l fun x => { x with dropped := true }
  s.onQueue k fun q => { q with launch := none, wait := none, isDep := false, met := false }

/-- A queue entering ERROR with a code: HEAD stays. A DISABLED queue is left alone. -/
def State.queueError (s : State) (k code : Nat) : State :=
  if (s.queueOf k).state == .disabled then s
  else (s.abandonHead k).onQueue k fun q => { q with state := .error, err := code }

/-- Whether a function's BAR0 answers beyond its queue and context tables (R387). -/
def State.running (s : State) (vf : Nat) : Bool := (s.vf vf).tdisp == .run

/-- DOORBELL_WRITE (R190). -/
def tryDoorbellWrite (vf k bytes : Nat) (value : Word) (s : State) : Option State :=
  match s.queueAt vf k with
  | none => none
  | some n =>
    let q := s.queueOf n
    let t := value.toNat
    if !(s.running vf) || bytes ≠ 8 || q.state == .disabled || q.state == .error then none
    else if 2 ^ 16 ≤ t || q.nrec ≤ t then some (s.queueError n 5)
    else
      let added := (t + q.nrec - q.tail) % q.nrec
      let free := q.nrec - 1 - (q.tail + q.nrec - q.head) % q.nrec
      if free < added then some (s.queueError n 5) else some (s.onQueue n fun q => q.advance t)

def execDoorbellWrite (vf k bytes : Nat) (value : Word) (s : State) : Host.Outcome State Fault Refusal :=
  .next ((tryDoorbellWrite vf k bytes value s).getD s)

/-- QUEUE_DESCRIPTOR_WRITE (R189): the fields but STATE, while the queue is DISABLED. -/
def tryQueueDescriptorWrite (vf k : Nat) (desc : BitVec 256) (s : State) : Option State :=
  match s.queueAt vf k with
  | none => none
  | some n =>
    if (s.queueOf n).state != .disabled then none
    else
      let d := desc.toNat
      some (s.onQueue n fun q =>
        { q with ring := BitVec.ofNat 64 (d % 2 ^ 56), nrec := d / 2 ^ 64 % 2 ^ 17, prio := d / 2 ^ 88 % 8,
                 sok := d / 2 ^ 91 % 2 = 1, ctx := d / 2 ^ 96 % 2 ^ 8, level := d / 2 ^ 88 % 8 })

def execQueueDescriptorWrite (vf k : Nat) (desc : BitVec 256) (s : State) : Host.Outcome State Fault Refusal :=
  .next ((tryQueueDescriptorWrite vf k desc s).getD s)

/-- QUEUE_ENABLE (R189). -/
def tryQueueEnable (vf k : Nat) (s : State) : Option State :=
  match s.queueAt vf k with
  | none => none
  | some n =>
    if (s.queueOf n).state != .disabled then none
    else some (s.onQueue n fun q => { q with state := .idle, head := 0, tail := 0, err := 0, level := q.prio, span := 0 })

def execQueueEnable (vf k : Nat) (s : State) : Host.Outcome State Fault Refusal := .next ((tryQueueEnable vf k s).getD s)

/-- QUEUE_DISABLE (R189): HEAD meets TAIL, as the records not read are gone (log entry 48). -/
def tryQueueDisable (vf k : Nat) (s : State) : Option State :=
  match s.queueAt vf k with
  | none => none
  | some n => some ((s.abandonHead n).onQueue n fun q => { q with state := .disabled, err := 0, head := q.tail })

def execQueueDisable (vf k : Nat) (s : State) : Host.Outcome State Fault Refusal := .next ((tryQueueDisable vf k s).getD s)

/-! ### Records (R191, R192) -/

/-- Bits of a record. -/
def recFld (r lo w : Nat) : Nat := r / 2 ^ lo % 2 ^ w

/-- Zero fields of a record by TYPE (Tables 10-2 to 10-4). -/
def recordZeros (typ : Nat) : List (Nat × Nat) :=
  match typ with
  | 1 => [(18, 46), (120, 8), (184, 8), (248, 8), (272, 16), (341, 11), (365, 19), (440, 8), (504, 8), (632, 8), (704, 320)]
  | 2 => [(17, 47), (120, 8), (192, 832)]
  | 3 => [(16, 48), (120, 8), (192, 832)]
  | _ => [(16, 48), (64, 960)]

/-- Fields of a LAUNCH record out of range or misaligned (Table 10-3). -/
def launchBad (r : Nat) : Bool :=
  let size := recFld r 256 12
  !((1 ≤ size && size ≤ 256) || (512 ≤ size && size ≤ 2048 && size % 256 = 0)) || 8 < recFld r 268 4
    || !(geometryOk (recFld r 320 21) (recFld r 352 13)) || recFld r 64 56 % 64 ≠ 0 || recFld r 192 56 % 64 ≠ 0
    || recFld r 384 56 % 4 ≠ 0 || recFld r 448 56 % 16 ≠ 0 || recFld r 576 56 % 8 ≠ 0

/-- The error code of a record, in the order of R192; `sup` says whether its slot's page has SUP, `sok` whether the queue
is a supervisor queue. -/
def recordError (r : Nat) (sok sup : Bool) : Option Nat :=
  let typ := recFld r 0 8
  if typ = 0 ∨ 4 < typ then some 1
  else if recFld r 8 8 ≠ 1 then some 2
  else if (recordZeros typ).any fun z => recFld r z.1 z.2 ≠ 0 then some 3
  else if (typ = 1 ∧ launchBad r) ∨ ((typ = 2 ∨ typ = 3) ∧ recFld r 64 56 % 8 ≠ 0) then some 4
  else if typ = 1 ∧ recFld r 16 1 = 1 ∧ !(sok && sup) then some 7
  else none

/-- Whether a queue's records are served: its context belongs to the function that holds the queue, is enabled and not
stopped for migration, and the function is BOUND and in RUN (R351, R354, R355, R344). -/
def State.served (s : State) (k : Nat) : Bool :=
  let q := s.queueOf k
  let c := s.context q.ctx
  match c.vf with
  | none => false
  | some vf => s.hasQueue vf k && c.enable && !c.migrating && (s.vf vf).bind == .bound && s.running vf

/-- The address of the head record. -/
def Queue.headAt (q : Queue) : Nat := q.ring.toNat + 128 * q.head

/-- The head record as it stands, and whether its page has SUP. -/
def State.readRecord (s : State) (q : Queue) : Except Nat (Nat × Bool) × State :=
  match s.gRead none q.ctx q.headAt 128 accLoad false with
  | (.error x, s) => (.error x, s)
  | (.ok bs, s) =>
    let sup := match s.walkPage q.ctx q.headAt with
      | .ok e => e.sup
      | .error _ => false
    (.ok (bytesToNat bs, sup), s)

/-- A record taken at HEAD: a queue that is READY, whose record passes R192 and has one of the types, goes on with it; a
record that fails a check stops the queue. -/
def State.takeRecord (s : State) (k typ : Nat) (go : Nat → State → Option State) : Option State :=
  let q := s.queueOf k
  if q.state != .ready || !(s.served k) || s.dvaPaused q.ctx q.headAt then none
  else match s.readRecord q with
    | (.error x, s) => some ((s.ownAccessFault q.ctx x).queueError k 6)
    | (.ok (r, sup), s) =>
      match recordError r q.sok sup with
      | some code => some (s.queueError k code)
      | none => if recFld r 0 8 = typ then go r s else none

/-- HEAD passes a record: the next one becomes head at the base priority (R193, R196). -/
def State.retireHead (s : State) (k : Nat) : State :=
  s.onQueue k fun q =>
    let h := (q.head + 1) % max 1 q.nrec
    { q with head := h, state := if h = q.tail then .idle else .ready, launch := none, wait := none, isDep := false,
             met := false, level := q.prio, span := 0 }

/-- NOP_RECORD (R193). -/
def tryNopRecord (q : Nat) (s : State) : Option State := s.takeRecord q 4 fun _ s => some (s.retireHead q)

def execNopRecord (q : Nat) (s : State) : Host.Outcome State Fault Refusal := .next ((tryNopRecord q s).getD s)

/-- A fault at a queue's object: nothing is written, and the queue enters ERROR (Table 20-11). -/
def State.objectFault (s : State) (k ctx kind : Nat) : State := (s.ownAccessFault ctx kind).queueError k 8

/-- The observer that a queue's compositor is: that of a cluster which the spec leaves open (Table 12-1, log entry 48). -/
def compositor (q : Nat) : Observer := .cluster (Config.compositorOf q % 8)

/-- SIGNAL_RECORD (R193): VAL is added at the object's home as a release. -/
def signalRecord (k r : Nat) (s : State) : Option State :=
  let ctx := (s.queueOf k).ctx
  let obj := recFld r 64 56
  if s.dvaPaused ctx obj then none
  else match s.gAdd (compositor k) ctx obj (BitVec.ofNat 64 (recFld r 128 64)) accStore false false with
    | (.error x, s) => some (s.objectFault k ctx x)
    | (.ok _, s) => some (s.retireHead k)

def trySignalRecord (q : Nat) (s : State) : Option State := s.takeRecord q 3 (signalRecord q)

def execSignalRecord (q : Nat) (s : State) : Host.Outcome State Fault Refusal := .next ((trySignalRecord q s).getD s)

/-- Waiting on an object begins; one that cannot be read stops the queue. -/
def State.beginWait (s : State) (k obj target : Nat) (eq dep : Bool) : Option State :=
  let ctx := (s.queueOf k).ctx
  if s.dvaPaused ctx obj then none
  else match s.gRead none ctx obj 8 accLoad false with
    | (.error x, s) => some (s.objectFault k ctx x)
    | (.ok _, s) => some (s.onQueue k fun q =>
        { q with state := .waiting, wait := some (BitVec.ofNat 64 obj, BitVec.ofNat 64 target, eq), isDep := dep,
                 met := false })

/-- WAIT_RECORD (R193). -/
def tryWaitRecord (q : Nat) (s : State) : Option State :=
  s.takeRecord q 2 fun r s => s.beginWait q (recFld r 64 56) (recFld r 128 64) (recFld r 16 1 = 1) false

def execWaitRecord (q : Nat) (s : State) : Host.Outcome State Fault Refusal := .next ((tryWaitRecord q s).getD s)

/-- The end of a wait or a dependence, or the fault that its object now meets. -/
def State.endWait (s : State) (k : Nat) (dep : Bool) (go : State → State) : Option State :=
  let q := s.queueOf k
  match q.wait with
  | none => none
  | some (obj, _, _) =>
    if q.state != .waiting || q.isDep != dep || !(s.served k) then none
    else if q.met then some (go s)
    else if s.dvaPaused q.ctx obj.toNat then none
    else match s.gRead none q.ctx obj.toNat 8 accLoad false with
      | (.error x, s) => some (s.objectFault k q.ctx x)
      | (.ok _, _) => none

/-- WAIT_RETIRE (R193). -/
def tryWaitRetire (q : Nat) (s : State) : Option State := s.endWait q false fun s => s.retireHead q

def execWaitRetire (q : Nat) (s : State) : Host.Outcome State Fault Refusal := .next ((tryWaitRetire q s).getD s)

/-- DEPENDENCE_MET (R193): the LAUNCH at HEAD may begin to place; its record is read and checked again (log entry 48). -/
def tryDependenceMet (q : Nat) (s : State) : Option State :=
  s.endWait q true fun s => s.onQueue q fun x => { x with state := .ready, wait := none, met := false }

def execDependenceMet (q : Nat) (s : State) : Host.Outcome State Fault Refusal := .next ((tryDependenceMet q s).getD s)

/-! ### LAUNCH (R193 to R195) -/

/-- The launch that a record describes. -/
def recordLaunch (id k : Nat) (q : Queue) (vf r : Nat) : Launch :=
  { id := id, queue := k, slot := q.head, vf := vf, ctx := q.ctx, s := recFld r 16 1 = 1, record := recFld r 17 1 = 1,
    code := BitVec.ofNat 64 (recFld r 64 56), args := BitVec.ofNat 64 (recFld r 128 56), formes := [],
    gsize := recFld r 256 12, tags := recFld r 268 4, gcount := recFld r 288 32, mqbase := recFld r 320 21,
    mqsize := recFld r 352 13, trapvec := BitVec.ofNat 64 (recFld r 384 56), done := BitVec.ofNat 64 (recFld r 448 56),
    inc := BitVec.ofNat 64 (recFld r 512 64) }

/-- The forme image of a launch: none where it is unreadable or an entry is invalid (R121, R194). -/
def State.formeImage (s : State) (ctx dva : Nat) : Option (List Forme) × State :=
  if dva = 0 then (some [], s)
  else match s.gRead none ctx dva 2048 accLoad false with
    | (.error x, s) => (none, s.ownAccessFault ctx x)
    | (.ok bs, s) =>
      let at_ (i : Nat) : Forme := BitVec.ofNat 256 (bytesToNat ((bs.drop (32 * i)).take 32))
      let fs := (List.range 64).map at_
      (if fs.all fun (fm : Forme) => fm.accepted then some fs else none, s)

/-- A LAUNCH whose dependence is met: it starts to place, or ends at once (GCOUNT 0, a bad forme image). -/
def State.beginLaunch (s : State) (k r : Nat) : Option State :=
  let q := s.queueOf k
  let dva := recFld r 192 56
  match (s.context q.ctx).vf with
  | none => none
  | some vf =>
    if recFld r 288 32 ≠ 0 && dva ≠ 0 && s.rangePaused q.ctx dva 2048 then none
    else
      let l := recordLaunch s.sys.nextId k q vf r
      let enter (l : Launch) (s : State) : State :=
        { s with sys := { s.sys with launches := s.sys.launches ++ [l], nextId := s.sys.nextId + 1 } }
      if l.gcount = 0 then some ((enter l s).retireHead k)
      else match s.formeImage q.ctx dva with
        | (none, s) => some ((enter { l with status := 2, dropped := true } s).retireHead k)
        | (some fs, s) =>
          some ((enter { l with formes := fs } s).onQueue k fun x =>
            { x with state := .placing, launch := some l.id, isDep := false })

/-- LAUNCH_RECORD (R193): it waits for its dependence, then places its gangs; a launch that UNSEAL has brought to the head
goes on placing them (R374). -/
def tryLaunchRecord (q : Nat) (s : State) : Option State :=
  s.takeRecord q 1 fun r s =>
    if (s.queueOf q).launch.isSome then some (s.onQueue q fun x => { x with state := .placing, isDep := false })
    else if recFld r 576 56 ≠ 0 ∧ !(s.queueOf q).isDep then s.beginWait q (recFld r 576 56) (recFld r 640 64) false true
    else s.beginLaunch q r

def execLaunchRecord (q : Nat) (s : State) : Host.Outcome State Fault Refusal := .next ((tryLaunchRecord q s).getD s)

/-- Whether a launch has ended (R194). -/
def Launch.over (l : Launch) : Bool := !l.aborting && (l.dropped || l.nextGang = l.gcount) && l.ended = l.nextGang

/-- LAUNCH_COMPLETE (R194): the status word, then the increment as a release; a fault stops the queue. A LAUNCH that
ended while its record stood at HEAD leaves it, also before such a fault (log entry 48). -/
def tryLaunchComplete (launch : Nat) (s : State) : Option State :=
  match s.launchOf launch with
  | none => none
  | some l =>
    if !l.over || (l.done ≠ 0 && s.rangePaused l.ctx l.done.toNat 16) then none
    else
      let gone (s : State) : State :=
        let s := if (s.queueOf l.queue).launch = some l.id then s.retireHead l.queue else s
        { s with sys := { s.sys with launches := s.sys.launches.filter fun x => x.id ≠ l.id } }
      if l.done = 0#64 then some (gone s)
      else match s.gWrite (compositor l.queue) l.ctx (l.done.toNat + 8) (natToBytes 8 l.status) accStore false false with
        | (.error x, s) => some ((gone s).objectFault l.queue l.ctx x)
        | (.ok _, t) =>
          match t.gAdd (compositor l.queue) l.ctx l.done.toNat l.inc accStore false false with
          | (.error x, _) => some ((gone s).objectFault l.queue l.ctx x)
          | (.ok _, s) => some (gone s)

def execLaunchComplete (launch : Nat) (s : State) : Host.Outcome State Fault Refusal :=
  .next ((tryLaunchComplete launch s).getD s)

/-! ### Arbitration (R196, R197) -/

/-- Queues of a context that are served, by number. -/
def State.queuesOf (s : State) (ctx : Nat) : List (Nat × Queue) :=
  s.sys.queues.filter fun e => e.2.ctx == ctx && s.served e.1

/-- Whether a queue is eligible. -/
def Queue.eligible (q : Queue) : Bool := q.state == .ready || q.state == .placing

/-- The objects that a queue's head or its launches in flight will advance (R197). -/
def State.produces (s : State) (k : Nat) (q : Queue) : List Nat :=
  let flying := (s.sys.launches.filter fun l => l.queue == k && l.ctx == q.ctx && l.done ≠ 0).map fun l => l.done.toNat
  let head := if q.head = q.tail then [] else match (s.readRecord q).1 with
    | .error _ => []
    | .ok (r, _) =>
      if recFld r 0 8 = 1 ∧ recFld r 448 56 ≠ 0 then [recFld r 448 56]
      else if recFld r 0 8 = 3 then [recFld r 64 56] else []
  flying ++ head

/-- Effective priorities raised once along every wait of a context: queue, level. -/
def State.inheritOnce (s : State) (qs : List (Nat × Queue)) (lv : List (Nat × Nat)) : List (Nat × Nat) :=
  let level (k : Nat) : Nat := mget 0 lv k
  let waits (e : Nat × Queue) : Option (Nat × Nat) := if e.2.state == .waiting && !e.2.met then
      e.2.wait.map fun w => (w.1.toNat, level e.1) else none
  let ws := qs.filterMap waits
  let up (e : Nat × Queue) : Nat × Nat :=
    let objs := s.produces e.1 e.2
    (e.1, ((ws.filter fun w => objs.contains w.1).map Prod.snd).foldl max (level e.1))
  qs.map up

/-- Effective priorities of a context's queues (R196, R197); inheritance is transitive, along as many waits as there are
queues. -/
def State.levelsGo (s : State) (qs : List (Nat × Queue)) : Nat → List (Nat × Nat) → List (Nat × Nat)
  | 0, lv => lv
  | n + 1, lv => s.levelsGo qs n (s.inheritOnce qs lv)

def State.levels (s : State) (ctx : Nat) : List (Nat × Nat) :=
  let qs := s.queuesOf ctx
  s.levelsGo qs qs.length (qs.map fun e => (e.1, max e.2.prio e.2.level))

/-- The eligible queue of a context that is served: the highest effective priority, then the lower number. -/
def State.topQueue (s : State) (ctx : Nat) : Option Nat :=
  let lv := s.levels ctx
  let qs := (s.queuesOf ctx).filter fun e => e.2.eligible
  let best := (qs.map fun e => mget 0 lv e.1).foldl max 0
  (qs.find? fun e => mget 0 lv e.1 == best).map Prod.fst

/-- The launch whose next gang a context offers: that at the head of the queue it serves. -/
def State.offers (s : State) (ctx : Nat) : Option Launch :=
  match (s.topQueue ctx).bind fun k => (s.queueOf k).launch with
  | none => none
  | some id => (s.launchOf id).filter fun l => !l.dropped && l.nextGang ≠ l.gcount

/-- Whether no set of a function's beds can hold the gangs of a launch, whose first is considered (R195). -/
def State.misfit (s : State) (vf : Nat) (l : Launch) : Bool := l.nextGang = 0 && !(s.placeable vf l.gsize)

/-- What a visit to a context finds: the launch it offers, and the cores that the launch's next gang takes; none of them where
the launch ends as unplaceable. A gang that does not fit now is passed over. -/
def State.nextPlace (s : State) (vf ctx : Nat) : Option (Launch × Option (List Nat)) :=
  match s.offers ctx with
  | none => none
  | some l => if s.misfit vf l then some (l, none) else (s.coresFor vf l.gsize l.tags).map fun cs => (l, some cs)

/-- Whether a context's inheritance rests on the record of a head that a slot keeps from being read (R197, R301). -/
def State.headsPaused (s : State) (ctx : Nat) : Bool :=
  let qs := s.queuesOf ctx
  s.sys.slotOpen.isSome && (qs.any fun e => e.2.state == .waiting && !e.2.met)
    && qs.any fun e => e.2.head ≠ e.2.tail && s.dvaPaused ctx e.2.headAt

/-- Contexts of a function, ascending. -/
def State.ctxsOf (s : State) (vf : Nat) : List Nat :=
  (s.sys.contexts.filter fun e => e.2.vf == some vf).map Prod.fst

/-- Rounds that must begin before some eligible context has a positive balance. -/
def State.rounds (s : State) (ctxs : List Nat) : Nat :=
  let need (c : Nat) : Option Nat :=
    let x := s.context c
    if 0 < x.balance then some 0
    else if x.weight = 0 then none
    else some ((-x.balance).toNat / (64 * x.weight) + 1)
  let ns := ctxs.filterMap need
  ns.foldl min (ns.headD 0)

/-- The grants of n rounds (R196). -/
def State.grant (s : State) (all live : List Nat) (n : Nat) : State :=
  if n = 0 then s
  else all.foldl (fun s c => s.onContext c fun x =>
    if live.contains c then { x with balance := x.balance + 64 * x.weight * n }
    else { x with balance := min x.balance 0 }) s

/-- Contexts in the order of a round: after the context last served, wrapping. -/
def roundOrder (last : Nat) (cs : List Nat) : List Nat := (cs.filter fun c => last < c) ++ cs.filter fun c => c ≤ last

/-- The aged level after a span of 256 periods without placement (R196). -/
def Queue.aged (q : Queue) : Queue :=
  if q.span < 256 then q else { q with level := min 7 (q.level + 1), span := q.span - 256 }

/-- A gang of a launch placed from its queue: a new span begins, at the level that the one before it has reached. -/
def State.placeNew (s : State) (vf : Nat) (l : Launch) (cores : List Nat) : State :=
  let s := (s.startGang l cores).onQueue l.queue fun q => { q.aged with span := 0 }
  let s := s.onVf vf fun v => { v with lastCtx := l.ctx }
  if l.nextGang + 1 = l.gcount then s.retireHead l.queue else s

/-- A launch that no set of beds can hold ends with CODE 3 (R195). -/
def State.unplaceable (s : State) (l : Launch) : State :=
  (s.onLaunch l.id fun x => { x with status := 3, dropped := true }).retireHead l.queue

/-- A saved gang that is its context's first, and fits: with its launch and cores (R337). -/
def State.nextSaved (s : State) (vf : Nat) : Option (SavedGang × Launch × List Nat) :=
  let first (g : SavedGang) : Bool := (s.sys.saved.find? fun x => x.ctx == g.ctx) == some g
  let live (g : SavedGang) : Bool := !(s.context g.ctx).migrating && (s.context g.ctx).vf == some vf
  s.sys.saved.findSome? fun g =>
    if !(first g && live g) then none
    else match s.launchOf g.launch with
      | none => none
      | some l => if l.aborting then none else (s.coresFor vf g.size g.tags).map fun cs => (g, l, cs)

/-- GANG_PLACE (R195 to R197, R337): a saved gang first, else the rounds that are due begin, and the first context in the order of
the round whose next gang fits has it placed, or has its launch end where no set of beds can hold it. -/
def tryGangPlace (vf : Nat) (s : State) : Option State :=
  let v := s.vf vf
  if v.bind != .bound || v.tdisp != .run || !(s.sys.bedNow.any fun b => b.2 == vf) then none
  else match s.nextSaved vf with
    | some (g, l, cs) =>
      if s.rangePaused g.ctx (s.recordAt g.ctx g.area) (recordBytes * g.size) then none
      else some (s.restoreGang l g cs)
    | none =>
      let all := s.ctxsOf vf
      let live := all.filter fun c => (s.queuesOf c).any fun e => e.2.eligible
      if live.any s.headsPaused then none
      else
        let n := s.rounds live
        let s := s.grant all live n
        let order := (roundOrder v.lastCtx live).filter fun c =>
          0 < (s.context c).balance && !(s.sys.saved.any fun g => g.ctx == c)
        match order.findSome? (s.nextPlace vf) with
        | some (l, some cs) => some (s.placeNew vf l cs)
        | some (l, none) => some (s.unplaceable l)
        | none => if n = 0 then none else some s

def execGangPlace (vf : Nat) (s : State) : Host.Outcome State Fault Refusal := .next ((tryGangPlace vf s).getD s)

/-- QUEUE_AGING (R196): a span of 256 periods without placement raises the aged level. -/
def tryQueueAging (q : Nat) (s : State) : Option State :=
  if (s.queueOf q).span < 256 || !(s.queueOf q).eligible then none else some (s.onQueue q Queue.aged)

def execQueueAging (q : Nat) (s : State) : Host.Outcome State Fault Refusal := .next ((tryQueueAging q s).getD s)

/-! ### Fault queue HEAD (R327) -/

/-- FAULT_QUEUE_HEAD_WRITE (R327): records that wait are written as far as there is room. -/
def execFaultQueueHeadWrite (vf ctx : Nat) (value : Word) (s : State) : Host.Outcome State Fault Refusal :=
  if (s.context ctx).vf ≠ some vf then .next s
  else .next (s.onContext ctx fun c => { c with fqHead := value.toNat % max 1 c.fqLen }).flushFaults

/-! ### The end of a launch under a fatal fault (R329 to R331) -/

/-- ILLREC, TICK and DUMPED of the header, above its first 192 bits. -/
def headerHigh (f : FirstFault) (dumped : Nat) : Nat := f.ill.toNat * 2 ^ 192 + f.tick.toNat * 2 ^ 320 + dumped * 2 ^ 384

/-- The dump header (Table 19-4). -/
def dumpHeader (f : FirstFault) (dumped : Nat) : List Byte :=
  let low := f.kind + f.form * 2 ^ 8 + f.gidx * 2 ^ 16 + f.member * 2 ^ 48 + f.baddr.toNat % 2 ^ 56 * 2 ^ 64
    + f.slots * 2 ^ 120 + f.addr.toNat * 2 ^ 128
  natToBytes 64 (low + headerHigh f dumped)

/-- The dump of a launch (R330, Table 20-11): the header, as many core records as fit, then DUMPED. -/
def State.dump (s : State) (l : Launch) (f : FirstFault) (cores : List Nat) : State :=
  let c := s.context l.ctx
  let at_ := c.dumpDva.toNat
  if c.dumpLen < 64 then s
  else match s.gWrite .package l.ctx at_ (dumpHeader f 0) accStore false false with
    | (.error x, s) => s.ownAccessFault l.ctx x
    | (.ok _, s) =>
      let fit := cores.take ((c.dumpLen - 64) / recordBytes)
      match s.putRecords l.ctx fit (at_ + 64) 0 with
      | ((n, e), s) =>
        let s := match e with
          | some x => s.ownAccessFault l.ctx x
          | none => s
        (s.gWrite .package l.ctx at_ (dumpHeader f n) accStore false false).2

/-- Gangs of a launch that hold cores, in ascending index. -/
def State.gangsOf (s : State) (launch : Nat) : List Gang :=
  (s.sys.gangs.filter fun g => g.launch == launch).mergeSort fun a b => a.gidx ≤ b.gidx

/-- Whether no matrix operation of a core can still run: each that is left is stopped by a fault, waits for a range of an
engine command, which will not free it, or stands behind one of these (R282, R329). -/
def Core.matsDone (c : Core) : Bool :=
  c.mats.all fun o =>
    let before := c.mats.takeWhile fun x => x.cmd.id ≠ o.cmd.id
    o.cmd.parked || (if o.started then before.any fun p => p.tiles.any o.tiles.contains
      else c.engineWaits o.cmd.id || !(startsAfter c.clk before o))

/-- Whether every core of a launch has stopped as R329 asks: matrix operations are complete, unless the core's clock
stands (R308), and every access accepted has performed. -/
def State.quietened (s : State) (cores : List Nat) : Bool :=
  cores.all fun k => ((s.coreOf k).matsDone || s.clockHeld k) && (s.coreOf k).gacc.isEmpty

/-- Bytes of a launch's dump. -/
def State.dumpSize (s : State) (l : Launch) (cores : List Nat) : Nat :=
  let n := (s.context l.ctx).dumpLen
  if n < 64 then 0 else 64 + recordBytes * min cores.length ((n - 64) / recordBytes)

/-- LAUNCH_ABORT (R329 to R331): the launch's gangs are dumped and end; its cores are free, to be zeroed first where a
pre-emption killed it. -/
def tryLaunchAbort (launch : Nat) (s : State) : Option State :=
  match s.launchOf launch with
  | none => none
  | some l =>
    match l.fault with
    | none => none
    | some f =>
      let cores := (s.gangsOf launch).flatMap Gang.cores
      if !l.aborting || !(s.quietened cores) || s.rangePaused l.ctx (s.context l.ctx).dumpDva.toNat (s.dumpSize l cores) then none
      else
        let s := (s.gangsOf launch).foldl State.wipe (s.dump l f cores)
        let s := s.releaseCores cores
        let status := if l.status = 0 then 1 + f.kind * 2 ^ 8 + f.gidx * 2 ^ 16 else l.status
        let s := s.onLaunch launch fun x =>
          { x with aborting := false, dropped := true, ended := x.nextGang, status := status }
        let zero := if f.kind = kPREEMPTKILL then cores.filter fun k => !(s.sys.zeroing.contains k) else []
        some { s with sys := { s.sys with
          gangs := s.sys.gangs.filter fun g => g.launch ≠ launch,
          saved := s.sys.saved.filter fun g => g.launch ≠ launch,
          faults := s.sys.faults.filter fun r => r.launch ≠ launch,
          zeroing := s.sys.zeroing ++ zero } }

def execLaunchAbort (launch : Nat) (s : State) : Host.Outcome State Fault Refusal :=
  .next ((tryLaunchAbort launch s).getD s)

end Sys2Proof.Machine
end

