-- ==== Sys2Proof/Machine/Preempt.lean ====
section
/-! DEFINITION. The pre-emption ladder, saves and migration (R196, R334 to R338, R344, R345, R366). -/

namespace Sys2Proof.Machine

open Sys2Proof

/-- Whether a slot opens in this tick (R298): what depends on time takes place at slot openings (R196, R336). -/
def State.opening (s : State) : Bool := s.sys.slotOpen.isSome && s.sys.tick.toNat % periodTicks = 0 && (slotOf s.period).isSome

/-- Whether a slot opens now, in a period or later. -/
def State.openedAt (s : State) (p : Nat) : Bool := s.opening && p ≤ s.period

/-- The first period that begins now or later. -/
def State.periodFrom (s : State) : Nat := if s.sys.tick.toNat % periodTicks = 0 then s.period else s.period + 1

/-- The function of a gang. -/
def State.gangVf (s : State) (g : Gang) : Nat :=
  match s.launchOf g.launch with
  | some l => l.vf
  | none => 64

/-- Gangs of a function that hold cores of the beds it has to leave. -/
def State.outgoing (s : State) (vf : Nat) : List Gang :=
  let bs := s.sharedBeds vf
  s.sys.gangs.filter fun g => s.gangVf g == vf && g.cores.any fun k => bs.contains (k / 16)

/-- Gangs of a function that are being stopped. -/
def State.stoppingOf (s : State) (vf : Nat) : List Gang := s.sys.gangs.filter fun g => g.stopping && s.gangVf g == vf

/-- Whether a function would use a bed: it is BOUND, in RUN, and has a gang saved or a queue eligible. -/
def State.wantsBeds (s : State) (vf : Nat) : Bool :=
  (s.vf vf).bind == .bound && s.running vf
    && ((s.sys.saved.any fun g => (s.context g.ctx).vf == some vf)
      || (s.ctxsOf vf).any fun c => (s.queuesOf c).any fun e => e.2.eligible)

/-- Whether another function waits for beds that a function holds, or it has to leave one that it has lost. -/
def State.contested (s : State) (vf : Nat) : Bool :=
  (s.sharedBeds vf).any fun b => !(s.sys.beds.contains (b, vf)) || s.sys.beds.any fun e => e.1 == b && e.2 ≠ vf && s.wantsBeds e.2

/-! ### Stop requests (R334, R340) -/

/-- A stop request on a core; one that the debugger has halted runs again. While the request is pending the core does not halt
(R340, log entry 43). -/
def Core.askStop (c : Core) : Core :=
  if c.dbg.state = 2 then { c with stopReq := true, dbg := { c.dbg with state := 1, result := 0x10, step := none, skip := true } }
  else { c with stopReq := true }

/-- Stop requests on every core of gangs. -/
def State.stopGangs (s : State) (gs : List Gang) : State :=
  gs.foldl (fun s g =>
    let s := s.onGang g.id fun x => { x with stopping := true }
    g.cores.foldl (fun s k => s.onCore k Core.askStop) s) s

/-- A function entering HARD (Table 20-3), from the first period that begins now or later. -/
def State.enterHard (s : State) (vf : Nat) (gs : List Gang) : State :=
  (s.onVf vf fun v => { v with ladder := .hard, ladderSince := s.periodFrom }).stopGangs gs

/-- SLICE_END (R196, R336): at the slot opening at the end of the slice, or the first one later. -/
def trySliceEnd (vf : Nat) (s : State) : Option State :=
  let v := s.vf vf
  if v.ladder != .run || !(s.openedAt (v.sliceStart + v.sliceLen))
      || !(s.sys.bedNow.any fun b => b.2 == vf) then none
  else if !(s.contested vf) then some (s.onVf vf fun v => { v with sliceStart := s.period })
  else if v.g1 = 0 then some (s.enterHard vf (s.outgoing vf))
  else some (s.onVf vf fun v => { v with ladder := .soft, ladderSince := s.period })

def execSliceEnd (vf : Nat) (s : State) : Host.Outcome State Fault Refusal := .next ((trySliceEnd vf s).getD s)

/-- LADDER_G1_EXPIRY (Table 20-3), at a slot opening. -/
def tryLadderG1Expiry (vf : Nat) (s : State) : Option State :=
  let v := s.vf vf
  if v.ladder != .soft || !(s.openedAt (v.ladderSince + v.g1)) then none
  else some (s.enterHard vf (s.outgoing vf))

def execLadderG1Expiry (vf : Nat) (s : State) : Host.Outcome State Fault Refusal :=
  .next ((tryLadderG1Expiry vf s).getD s)

/-- PREEMPTKILL of a gang whose members have not all stopped: it names the first that has not. -/
def State.lateMember (s : State) (g : Gang) : FirstFault :=
  let i := (g.cores.findIdx? fun k => !(s.coreOf k).quiet).getD 0
  { s.gangFault kPREEMPTKILL g.gidx with member := i, core := g.cores.getD i 0 }

/-- LADDER_G2_EXPIRY (Table 20-3, R308), at a slot opening: launches with a core that has not stopped end with PREEMPTKILL. -/
def tryLadderG2Expiry (vf : Nat) (s : State) : Option State :=
  let v := s.vf vf
  let late := (s.stoppingOf vf).filter fun g => g.cores.any fun k => !(s.coreOf k).quiet
  if v.ladder != .hard || !(s.openedAt (v.ladderSince + v.g2)) || late.isEmpty then none
  else
    let s := late.foldl (fun s g => s.condemn g.launch (s.lateMember g)) s
    some (s.onVf vf fun v => { v with ladder := .kill })

def execLadderG2Expiry (vf : Nat) (s : State) : Host.Outcome State Fault Refusal :=
  .next ((tryLadderG2Expiry vf s).getD s)

/-- What a slot opening brings to a function's ladder (Table 20-3): one transition, by the state it stands in. -/
def State.ladderOpens (s : State) (vf : Nat) : State :=
  match (s.vf vf).ladder with
  | .run => (trySliceEnd vf s).getD s
  | .soft => (tryLadderG1Expiry vf s).getD s
  | .hard => (tryLadderG2Expiry vf s).getD s
  | .kill | .clear => s

/-- MIGRATION_STOP (R344, R336): no record of the context's queues is read, and its gangs are stopped, with those of its function
that are on beds to be left, which HARD clears. A ladder that stands in HARD or KILL goes on from there with the context's gangs. -/
def tryMigrationStop (ctx : Nat) (s : State) : Option State :=
  match (s.context ctx).vf with
  | none => none
  | some vf =>
    let mine (g : Gang) : Bool := match s.launchOf g.launch with
      | some l => l.ctx == ctx
      | none => false
    let s := s.onContext ctx fun c => { c with migrating := true }
    let gs := s.sys.gangs.filter mine
    let more := (s.outgoing vf).filter fun g => !(gs.contains g)
    if gs.isEmpty then some s
    else if (s.vf vf).ladder == .hard || (s.vf vf).ladder == .kill then some (s.stopGangs gs)
    else some (s.enterHard vf (gs ++ more))

def execMigrationStop (ctx : Nat) (s : State) : Host.Outcome State Fault Refusal := .next ((tryMigrationStop ctx s).getD s)

/-! ### Stopping a core (R335) -/

/-- Whether a gang is to be saved: stop requests are raised on it, or it is parked while its function leaves (SOFT). -/
def State.toSave (s : State) (g : Gang) : Bool := g.stopping || (g.parked && (s.vf (s.gangVf g)).ladder == .soft)

/-- Whether a main sequencer stands at a stop point (Table 20-1). A parked one whose steal or append has not been answered
does not, nor one that holds a bundle part of which has been done ahead of a handler run (log entry 24). -/
def State.atStop (s : State) (k : Nat) : Bool :=
  let c := s.coreOf k
  c.departed || c.stopped.isSome || (c.parked && !(s.held.any fun h => h.core == k && !h.hnd && (h.mem.isSome || (match h.hold with
    | .steal _ | .enq _ _ => true
    | _ => false))))

/-- Whether every command of a core stands as Table 20-2 gives: none in a chunk, every entry sent accepted or refused. -/
def State.commandsStand (s : State) (k : Nat) : Bool :=
  let c := s.coreOf k
  c.cmds.all (fun m => m.chunk.isNone && m.eng != .mark) && c.keys.isEmpty && !(s.sys.colls.any fun r => r.busy && r.core == k)
    && s.sys.msgs.all fun e => e.refused || (e.src ≠ k && e.dst ≠ k)

/-- CORE_STOP (R335). -/
def tryCoreStop (core : Nat) (s : State) : Option State :=
  let c := s.coreOf core
  match s.gangAt core with
  | none => none
  | some g =>
    if c.quiet || !(s.toSave g) || !(s.atStop core) || c.run.isSome || !c.pend.isEmpty || !c.gacc.isEmpty || !c.mats.isEmpty
        || !(s.commandsStand core) || !c.mq.arriving.isEmpty || (s.sys.asks.any fun a => a.core == core) then none
    else
      let stop := if c.departed then c.stopped else match c.stopped with
        | some p => some p
        | none => some .parked
      let held := s.held.filter fun h => h.core ≠ core
      some ({ s with held := held }.setCore core { c with quiet := true, stopped := stop })

def execCoreStop (core : Nat) (s : State) : Host.Outcome State Fault Refusal := .next ((tryCoreStop core s).getD s)

/-! ### Saving a gang (R336, R338) -/

/-- The saved form of a gang whose records begin at one of the area. -/
def State.savedForm (s : State) (g : Gang) (ctx area : Nat) : SavedGang :=
  let mine (k : Nat) : Bool := g.cores.contains k
  { launch := g.launch, gidx := g.gidx, token := g.token, tags := g.tags, size := g.cores.length, ctx := ctx, area := area,
    parked := g.parked, scrub := g.scrub, stops := g.cores.map fun k => ((s.coreOf k).stopped).getD .departed,
    cores := g.cores, cmds := g.cores.map fun k => (s.coreOf k).cmds,
    msgs := s.sys.msgs.filter fun e => mine e.src, colls := s.sys.colls.filter fun r => !r.peer && !r.served && mine r.core,
    collSeq := s.sys.collSeq.filter fun e => mine (e.1 / 65536) }

/-- The first uncorrectable error that saving a core meets, as SPSOFT names it (R201, R332). -/
def Core.saveError (c : Core) : Option Word :=
  match c.soft with
  | e :: _ => some (BitVec.ofNat 64 (e.1 + e.2 * 2 ^ 8))
  | [] => if c.spError 0 (2 ^ 21) then some (softAddr ((c.badWord 0 (2 ^ 21) false).getD 0)) else none

/-- GANG_SAVE (R338, R201, R332, Table 20-11): every member has stopped, on islands that are not held (R307); its records go to the lowest free run of the save area.
Without room, or where a record cannot be written, its launch ends with PREEMPTKILL. -/
def tryGangSave (gang : Nat) (s : State) : Option State :=
  match s.gangOf gang with
  | none => none
  | some g =>
    match s.launchOf g.launch with
    | none => none
    | some l =>
      let kill (s : State) : State := s.condemn l.id (s.gangFault kPREEMPTKILL g.gidx)
      let waits := s.sys.acks.any (fun a => g.cores.contains a.sender)
        || s.sys.dqReqs.any fun q => g.cores.contains q.owner || g.cores.contains q.asker
      if !(s.toSave g) || l.aborting || waits || !(g.cores.all fun k => (s.coreOf k).quiet && !(s.islandHeld k)) then none
      else match g.cores.findSome? fun k => (s.coreOf k).saveError.map fun a => (k, a) with
        | some (k, a) => some (s.fatal k kSPSOFT 0 0 0 a 0)
        | none =>
          match s.areaFor l.ctx g.cores.length with
          | none => some (kill s)
          | some area =>
            if s.rangePaused l.ctx (s.recordAt l.ctx area) (recordBytes * g.cores.length) then none
            else match s.putRecords l.ctx g.cores (s.recordAt l.ctx area) 0 with
              | ((_, some x), s) => some (kill (s.ownAccessFault l.ctx x))
              | ((_, none), s) =>
                let saved := s.savedForm g l.ctx area
                let s := s.releaseCores g.cores
                some { s with sys := { s.sys with
                  saved := s.sys.saved ++ [saved],
                  colls := s.sys.colls.filter fun r => !(saved.colls.contains r),
                  gangs := s.sys.gangs.filter fun x => x.id ≠ g.id } }

def execGangSave (gang : Nat) (s : State) : Host.Outcome State Fault Refusal := .next ((tryGangSave gang s).getD s)

/-! ### CLEAR, and a bed's next function (R196, R336, R366) -/

/-- Cores of a bed. -/
def bedCores (bed : Nat) : List Nat := (List.range 16).map fun i => 16 * bed + i

/-- Beds that a function leaves: those it shares, else all it holds. -/
def State.leaving (s : State) (vf : Nat) : List Nat :=
  let shared := s.sharedBeds vf
  if shared.isEmpty then (s.sys.bedNow.filter fun b => b.2 == vf).map Prod.fst else shared

/-- Free cores joining those that are being zeroed, but those that no gang has held since they were (R366). -/
def State.zero (s : State) (cores : List Nat) : State :=
  { s with sys := { s.sys with zeroing := s.sys.zeroing ++ cores.filter fun k => s.coreFree k && (s.coreOf k).used } }

/-- A function entering CLEAR: the free cores of the beds that it leaves are zeroed. -/
def State.enterClear (s : State) (vf : Nat) : State :=
  (s.zero ((s.leaving vf).flatMap bedCores)).onVf vf fun v => { v with ladder := .clear }

/-- The transitions of one function's ladder that no time governs (Table 20-3). In CLEAR, cores of its beds that gangs leave are
zeroed as they become free. -/
def State.ladderStep (s : State) (vf : Nat) : State :=
  match (s.vf vf).ladder with
  | .soft => if (s.outgoing vf).isEmpty then s.enterClear vf else s
  | .hard => if (s.stoppingOf vf).isEmpty then s.enterClear vf else s
  | .kill =>
    if s.sys.launches.any fun l => l.vf == vf && l.aborting then s
    else if (s.stoppingOf vf).isEmpty then s.enterClear vf
    else s.onVf vf fun v => { v with ladder := .hard }
  | .clear => s.zero ((s.sharedBeds vf).flatMap bedCores)
  | .run => s

/-- The ladders of every function. -/
def State.ladders (s : State) : State := (s.sys.vfs.map Prod.fst).foldl State.ladderStep s

/-- The function that holds a bed after another: the next one it is assigned to, if any. -/
def State.nextHolder (s : State) (bed vf : Nat) : Option Nat :=
  let fs := (s.sys.beds.filter fun e => e.1 == bed).map Prod.snd
  ((fs.dropWhile fun f => f ≠ vf).drop 1 ++ fs).head?

/-- As a slot opens, a bed that its function leaves passes on, every core of it zeroed; the next function's slice begins, unless
one runs on beds that it shares already (R172, R196, R366). -/
def State.passBed (s : State) (b : Nat × Nat) : State :=
  if (s.vf b.2).ladder != .clear || !((s.sharedBeds b.2).contains b.1) || !((bedCores b.1).all fun k => s.coreFree k && !(s.coreOf k).used) then s
  else
    let rest := s.sys.bedNow.filter fun x => x.1 ≠ b.1
    match s.nextHolder b.1 b.2 with
    | none => { s with sys := { s.sys with bedNow := rest } }
    | some next =>
      let t : State := { s with sys := { s.sys with bedNow := rest ++ [(b.1, next)] } }
      if (s.sharedBeds next).isEmpty then t.onVf next fun v => { v with sliceStart := s.period } else t

/-- A function that has left its beds, and whose cores are all zeroed, leaves CLEAR. -/
def State.leaveClear (s : State) (vf : Nat) : State :=
  if (s.vf vf).ladder == .clear && (s.sharedBeds vf).isEmpty && !(s.sys.zeroing.any fun k => s.onBed vf k) then
    s.onVf vf fun v => { v with ladder := .run }
  else s

/-- What a slot's opening brings to beds (R196). -/
def State.passBeds (s : State) : State :=
  let s := s.sys.bedNow.foldl State.passBed s
  (s.sys.vfs.map Prod.fst).foldl State.leaveClear s

/-- CORE_ZEROING_COMPLETE (R366): every item of Table 20-4 is zero. A core whose island is held keeps its state (R307, R308). -/
def tryCoreZeroingComplete (core : Nat) (s : State) : Option State :=
  if !(s.sys.zeroing.contains core) || (s.coreOf core).placed.isSome || s.islandHeld core then none
  else
    let c := s.coreOf core
    let s := s.setCore core { clk := c.clk, nextId := c.nextId, modq := Vector.replicate 8 0#64 }
    let s := { s with sys := { s.sys with zeroing := s.sys.zeroing.erase core } }
    some (match s.sys.bedNow.find? fun b => b.1 == core / 16 with
      | none => s
      | some b => s.leaveClear b.2)

def execCoreZeroingComplete (core : Nat) (s : State) : Host.Outcome State Fault Refusal :=
  .next ((tryCoreZeroingComplete core s).getD s)

end Sys2Proof.Machine
end

