-- ==== Sys2Proof/Machine/Slots.lean ====
section
/-! DEFINITION. Make-ready slots as they open and close: pauses, overruns, charges, operating points and the thermal trip
(R196, R298 to R308, R389). -/

namespace Sys2Proof.Machine

open Sys2Proof

/-! ### Overruns (R304, R305) -/

/-- The ring links from one compute die to another by the shorter way, clockwise when both are equal (R378). -/
def ringLinks (a b : Nat) : List Nat :=
  let d := (b + 8 - a) % 8
  if d ≤ 4 then (List.range d).map fun i => 16 + (a + i) % 8 else (List.range (8 - d)).map fun i => 16 + (b + i) % 8

/-- The die links from a compute die to an HBM stack: by the ring to the nearer die that is linked to the stack (R378, Table
23-1). -/
def stackLinks (die stack : Nat) : List Nat :=
  let last (c j : Nat) : Option (List Nat) := if 3 * c / 2 + j = stack then some (ringLinks die c ++ [2 * c + j]) else none
  let ways := (List.range 8).flatMap fun c => (List.range 2).filterMap (last c)
  (ways.mergeSort fun a b => a.length ≤ b.length).headD []

/-- The register of a die link. -/
def linkRes (l : Nat) : Nat := 12 + l

/-- Controllers, ports and die links that an access of a core's die to an address of a context reaches: HBM controllers 0 to
11, die links from 12 on, CXL ports 172 on. -/
def State.controllerOf (s : State) (core ctx dva : Nat) : List Nat :=
  let die := core / 256
  match s.walkPage ctx dva with
  | .error _ => []
  | .ok e =>
    let st := s.storage (e.phys dva)
    if isCxlFrame (st / frameBytes) then [172 + cxlPortOf (st / frameBytes), linkRes (24 + die)]
    else
      let stack := (s.leafOf (st / 4096)).1
      stack :: (stackLinks die stack).map linkRes

/-- Resources that a command's chunk in flight reaches. -/
def State.chunkResources (s : State) (core : Nat) (m : Cmd) : List Nat :=
  let ctx := (s.coreOf core).ctx
  let as := m.chunkReads ++ m.chunkWrites
  let far := match s.memberCore core m.member with
    | some d => if m.eng = .copy && m.opc == 0x10 && eaSpace m.eb = 2 then (ringLinks (core / 256) (d / 256)).map linkRes else []
    | none => []
  (as.flatMap (s.controllerOf core ctx) ++ far).eraseDups

/-- Resources that an entry of a collective reaches: its part of the buffer, the die links to the other ranks, and the fabric
port that its packets leave by. -/
def State.entryResources (s : State) (c : CollRank) (m : Cmd) : List Nat :=
  let die := c.core / 256
  let lo := eaAddr m.eb + c.entry.1
  let own := if eaSpace m.eb = 1 then (pagesOf lo c.entry.2.1).flatMap (s.controllerOf c.core c.ctx) else []
  let rs := collRanks s.sys.colls c
  let links := rs.flatMap fun r => if r.peer then [44 + 16 * die] else (ringLinks (r.core / 256) die).map linkRes
  (own ++ links).eraseDups

/-- One overrun counted at a resource. -/
def State.overrun (s : State) (res : Nat) : State :=
  let find := s.sys.mrovr.find? fun e => e.1 == res
  let r := ((find.map Prod.snd).getD {})
  { s with sys := { s.sys with mrovr := mput s.sys.mrovr res { r with count := (r.count + 1) % 2 ^ 32, hit := true } } }

/-- Whether a slot of a class pauses what a command's chunk reaches. -/
def State.meetsSlot (s : State) (core cls : Nat) (m : Cmd) : Bool :=
  let r := (s.nextReach core m).1
  r.bound && (cls = 2 || !r.retrainOnly)

/-- The chunks of a core that a slot of a class finds unfinished are abandoned and counted; they start again ahead of every
other chunk of their engines (R304). -/
def State.cutChunks (s : State) (cls core : Nat) : State :=
  let hit := (s.coreOf core).cmds.filter fun m => m.chunk.isSome && s.meetsSlot core cls m
  hit.foldl (fun s m => ((s.chunkResources core m).foldl State.overrun s).onCore core fun c => c.abandon m 2) s

/-- The same of a collective's entry under way. -/
def State.cutEntry (s : State) (cls : Nat) (c : CollRank) : State :=
  if c.steps then
    (if c.busy && cls = 2 then (s.overrun (44 + 16 * c.cluster)).setRank { c with busy := false, first := true } else s)
  else match (s.coreOf c.core).cmdOf c.cmd with
  | none => s
  | some m =>
    let r := s.entryReach c m
    if c.busy && r.bound && (cls = 2 || !r.retrainOnly) then
      ((s.entryResources c m).foldl State.overrun s).setRank { c with busy := false, first := true }
    else s

/-- An entry to another die that a retrain slot finds on its way: its command sends it again, ahead of its others. One that
had been refused before waits for its resend as it did. -/
def State.recall (s : State) (e : Msg) : State :=
  let member := (s.coreOf e.dst).member
  let n := entrySlots e.payload.length
  let resent := ((s.coreOf e.dst).peer (s.coreOf e.src).member).refusing == some e.seq
  let s := ((ringLinks (e.src / 256) (e.dst / 256)).map linkRes).foldl State.overrun s
  if resent then
    let back (x : Msg) : Msg := if x = e then { e with refused := true } else x
    ({ s with sys := { s.sys with msgs := s.sys.msgs.map back } }).onCore e.src fun c => c.giveCredit member n
  else
    let again (m : Cmd) (c : Core) : Core :=
      if m.eng = .message then c.setCmd { m with started := false, progress := 0, prio := 2 }
      else (c.giveCredit member n).setCmd { m with progress := m.progress - 1, prio := 2 }
    (s.dropMsg e).onCore e.src fun c =>
      let c := c.setPeer member { c.peer member with sent := e.seq }
      match c.cmdOf e.cmd with
      | none => c
      | some m => again m c

/-- Every entry that a slot of a class finds on its way between two dies, the last first. -/
def State.cutEntries (s : State) (cls : Nat) : State :=
  if cls ≠ 2 then s
  else (s.sys.msgs.filter fun e => !e.refused && e.src / 256 ≠ e.dst / 256).reverse.foldl State.recall s

/-- Commands that the gate holds as a slot opens, and the later ones of their engines: they start in their original order once
it has closed (R303). -/
def State.holdBack (s : State) (core : Nat) : State :=
  let c := s.coreOf core
  let late (m : Cmd) : Bool := m.chunk.isNone && m.prio == 0 && (s.gated core m || (c.before m).any (s.gated core))
  let mark (m : Cmd) : Cmd := if late m then { m with prio := 1 } else m
  if c.cmds.isEmpty then s else s.setCore core { c with cmds := c.cmds.map mark }

/-! ### SLOT_OPEN -/

/-- Core-periods charged to a context for the gangs that hold cores now (R196). -/
def State.charge (s : State) (ctx : Nat) : State :=
  let mine (g : Gang) : Bool := match s.launchOf g.launch with
    | some l => l.ctx == ctx
    | none => false
  let n := ((s.sys.gangs.filter mine).map fun g => g.cores.length).sum
  if n = 0 then s else s.onContext ctx fun c => { c with balance := c.balance - n }

/-- Periods since the slot before the one that opens at a period (Table 16-1). -/
def periodsSince (p : Nat) : Nat := if p % 65536 = 7 then 7 else 1

/-- The clock that an island has after a long slot: that chosen for it, if any; 1.0 GHz where it restarts from a thermal trip, the
choice waiting for the next one (R307, R308). -/
def Island.after (i : Island) : Nat := if i.tripped then (if i.cooled then 10 else i.point) else i.next.getD i.point

/-- An island as a long slot opens, with the clock that it is to have: a new one takes effect and holds the island; a tripped
island that has cooled restarts (R307, R308). -/
def Island.open (i : Island) (p : Nat) : Island :=
  if i.tripped then (if i.cooled then { i with tripped := false, point := p } else i)
  else { i with point := p, next := none, held := i.next.isSome || p ≠ i.point }

/-- Islands as a slot opens: the clocks chosen are those the cluster controllers take in a long slot, where the module's power cap
allows them, else 1.0 GHz (R307, R391, log entry 38). -/
def Sys.openIslands (y : Sys) (cls : Nat) : Vector Island 16 :=
  if cls ≠ 1 then y.islands
  else if Config.modulePower (y.islands.toList.map Island.after) ≤ y.powerCap then y.islands.map fun (i : Island) => i.open i.after
  else y.islands.map fun (i : Island) => i.open 10

/-- ERROR returns to TRAINING at a retrain slot (R389). -/
def retrained (cls : Nat) (c : CxlState) : CxlState := if cls = 2 && c == .error then .training else c

/-- A refusal by an expander does not count the ticks of the slot that opens (R301). -/
def Core.countsOn (n : Nat) (c : Core) : Core := { c with refusing := c.refusing.map (· + n) }

/-- SLOT_OPEN (R298 to R308): on the calendar, once the timebase is synchronised. -/
def trySlotOpen (s : State) : Option State :=
  match slotAt s.sys.tick.toNat with
  | none => none
  | some (cls, left) =>
    if !s.sys.boot.timed || s.sys.slotOpen.isSome then none
    else
      let tick (e : Nat × Core) : Nat × Core := (e.1, e.2.countsOn left)
      let s : State := { s with cores := s.cores.map tick }
      let s := (s.cores.map Prod.fst).foldl (fun s k => (s.holdBack k).cutChunks cls k) s
      let s := (s.sys.colls.foldl (fun s c => s.cutEntry cls c) s).cutEntries cls
      let s := (s.sys.contexts.map Prod.fst).foldl State.charge s
      let n := periodsSince s.period
      let age (e : Nat × Queue) : Nat × Queue := if e.2.eligible then (e.1, { e.2 with span := e.2.span + n }) else e
      let s := { s with sys := { s.sys with
        slotOpen := some cls, islands := s.sys.openIslands cls, cxl := s.sys.cxl.map (retrained cls),
        queues := s.sys.queues.map age } }
      some ((s.sys.vfs.map Prod.fst).foldl State.ladderOpens s).passBeds

def execSlotOpen (s : State) : Host.Outcome State Fault Refusal := .next ((trySlotOpen s).getD s)

/-! ### SLOT_CLOSE -/

/-- STREAK and MCE of a register as a slot closes (R305). -/
def Mrovr.closed (r : Mrovr) : Mrovr :=
  let n := if r.hit then r.streak + 1 else 0
  if n = 4 then { r with streak := 0, mce := true, hit := false } else { r with streak := n, hit := false }

/-- Whether closing raises the register's machine-check event. -/
def Mrovr.raises (r : Mrovr) : Bool := r.hit && r.streak = 3

/-- SLOT_CLOSE (R298, R305, R307). -/
def trySlotClose (s : State) : Option State :=
  match s.sys.slotOpen with
  | none => none
  | some cls =>
    if (match slotAt s.sys.tick.toNat with
        | some (c, _) => c == cls
        | none => false) then none
    else
      let raised := (s.sys.mrovr.filter fun e => e.2.raises).map Prod.fst
      let step (e : Nat × Mrovr) : Nat × Mrovr := (e.1, e.2.closed)
      let free (i : Island) : Island := { i with held := false }
      some ({ s with sys := { s.sys with
        slotOpen := none, islands := s.sys.islands.map free, mrovr := s.sys.mrovr.map step,
        mces := raised.reverse ++ s.sys.mces } } : State).payDirty

def execSlotClose (s : State) : Host.Outcome State Fault Refusal := .next ((trySlotClose s).getD s)

/-- The slot that is open follows the calendar (R298): it closes and opens on time. -/
def State.keepCalendar (s : State) : State :=
  if !s.sys.boot.timed then s
  else
    let s := (trySlotClose s).getD s
    (trySlotOpen s).getD s

/-- Ticks to the next opening or closing of a slot. -/
def ticksToEdge (t : Nat) : Nat :=
  match slotAt t with
  | some (_, n) => n
  | none => (nextSlot 3 t).1 - t

/-- Ticks passing, as far as the next opening or closing; the rest of them come next (R298). -/
def State.passTicks (s : State) (n : Nat) : State :=
  let d := ticksToEdge s.sys.tick.toNat
  let pass (k : Nat) : State := { s with sys := { s.sys with tick := s.sys.tick + BitVec.ofNat 64 k } }
  if !s.sys.boot.timed || n ≤ d then pass n else { pass d with agenda := .tick (n - d) :: s.agenda }

/-! ### Thermal trip and MROVR -/

/-- THERMAL_TRIP (R308): the island's clocks stop, and a machine-check event is raised, numbered after the resources. -/
def execThermalTrip (island : Nat) (s : State) : Host.Outcome State Fault Refusal :=
  let i := s.sys.islands.toList.getD island {}
  if 16 ≤ island then .next s
  else .next { s with sys := { s.sys with
    islands := s.sys.islands.setIfInBounds island { i with tripped := true, cooled := false },
    mces := (176 + island) :: s.sys.mces } }

/-- The word of an overrun register (Table 16-4). -/
def Mrovr.word (r : Mrovr) : Word := BitVec.ofNat 64 (r.count + r.streak * 2 ^ 32 + if r.mce then 2 ^ 35 else 0)

/-- MROVR_MCE_CLEAR (R305): a 1 written to MCE clears it. -/
def execMrovrMceClear (res : Nat) (value : Word) (s : State) : Host.Outcome State Fault Refusal :=
  let clear (e : Nat × Mrovr) : Nat × Mrovr :=
    if e.1 = res ∧ value.getLsbD 35 then (e.1, { e.2 with mce := false }) else e
  .next { s with sys := { s.sys with mrovr := s.sys.mrovr.map clear } }

end Sys2Proof.Machine
end

