-- ==== Sys2Proof/Machine/Keys.lean ====
section
/-! DEFINITION. The Amindaer's key machinery: hand-off, KROT, SEAL, UNSEAL, SCRUB of kinds PAGES and KEYS, KSTAT, the
background scrub, and the sequence table (R354 to R376). -/

namespace Sys2Proof.Machine

open Sys2Proof

/-! ### Bytes and keys (R356) -/

/-- A text of the spec as bytes. -/
def ascii (t : String) : List Byte := t.toList.map fun c => BitVec.ofNat 8 c.toNat

/-- A key of a tenant (Table 22-5). -/
def tenantKey (rs info : List Byte) : List Byte := sized 32 (Config.hkdfExpand rs info 32)

/-- DEVID (R350). -/
def deviceId : List Byte := sized 48 Config.devid

/-- The device sealing key of a sequence number. -/
def deviceSealKey (rs : List Byte) (q : Nat) : List Byte :=
  tenantKey rs (ascii "YRSH seal dev" ++ deviceId ++ natToBytes 8 q)

/-- The session sealing key of a sequence number (R356). -/
def sessionSealKey (ks : List Byte) (q : Nat) : List Byte := tenantKey ks (ascii "YRSH seal ses" ++ natToBytes 8 q)

/-- The memory key of a generation and the key of a die link (Table 22-5). -/
def memoryKey (rs nonce : List Byte) (g : Nat) : List Byte := tenantKey rs (ascii "YRSH mem" ++ nonce ++ natToBytes 8 g)
def dieLinkKey (rs nonce : List Byte) (l : Nat) : List Byte := tenantKey rs (ascii "YRSH die" ++ nonce ++ natToBytes 2 l)

/-! ### The sequence table (R373) -/

/-- LAST of a TID: FLOOR where the table has no entry. -/
def Sys.lastOf (y : Sys) (tid : List Byte) : Nat := ((y.seqTable.find? fun e => e.1 == tid).map Prod.snd).getD y.floor

/-- The entry of the lowest LAST. -/
def lowestEntry : List (List Byte × Nat) → Option (List Byte × Nat)
  | [] => none
  | e :: es => match lowestEntry es with
    | none => some e
    | some x => if x.2 < e.2 then some x else some e

/-- LAST of a TID set: a new TID takes a free entry of the 256, or the entry with the lowest LAST. -/
def Sys.setLast (y : Sys) (tid : List Byte) (v : Nat) : Sys :=
  if y.seqTable.any fun e => e.1 == tid then
    let put (e : List Byte × Nat) : List Byte × Nat := if e.1 = tid then (tid, v) else e
    { y with seqTable := y.seqTable.map put }
  else if y.seqTable.length < 256 then { y with seqTable := y.seqTable ++ [(tid, v)] }
  else match lowestEntry y.seqTable with
    | none => y
    | some x => { y with seqTable := y.seqTable.erase x ++ [(tid, v)], floor := max y.floor x.2 }

/-! ### Frames leaving a tenant (R210, R364, R365) -/

/-- Cached translations of a context that meet a range are removed. -/
def State.dropTlb (s : State) (ctx lo hi : Nat) : State :=
  let keep (e : TlbEntry) : Bool := !(e.ctx == ctx && overlaps e.page (e.page + e.size) lo hi)
  let cut (p : Nat × Core) : Nat × Core := (p.1, { p.2 with tlb := p.2.tlb.filter keep })
  let cutShared (p : Nat × List TlbEntry) : Nat × List TlbEntry := (p.1, p.2.filter keep)
  { s with cores := s.cores.map cut, sys := { s.sys with tlbs := s.sys.tlbs.map cutShared } }

/-- ZL bits of a storage frame set in one step, to be scrubbed in the background (R364). -/
def State.blank (s : State) (st : Nat) (lines : BitVec 1024) : State :=
  ({ s with sys := { s.sys with zl := mput s.sys.zl st (mget 0#1024 s.sys.zl st ||| lines) } }).setFrame st fun fr =>
    { fr with scrub := true }

/-- The ZL bits of a compressed name's units in its pack frame. -/
def Frame.unitLines (fr : Frame) : BitVec 1024 := BitVec.ofNat 1024 ((2 ^ (128 * (fr.clen + 1)) - 1) * 2 ^ (128 * fr.slot))

/-- Other storage than its own that a name has used until its release: of a pack frame its units, of a frame that served it the
whole. Such a frame goes the way of the name's own, but that the storage of a name that is held elsewhere is free in a pool
(R216, R364, log entry 40). -/
def State.vacate (s : State) (fr : Frame) (st ctx : Nat) (donate : Bool) : State :=
  let donate := donate && !(isCxlFrame st)
  if fr.comp ≠ 0 then (s.blank st fr.unitLines).settleLent st
  else ((s.blank st (~~~ 0#1024)).settleLent st).setFrame st fun x =>
    { x with owner := if x.valid || donate then x.owner else 0, gen := if x.valid || donate then x.gen else 0,
             stfree := (x.valid && !(isCxlFrame st)) || donate, ctx := if x.valid || donate then ctx else 0 }

/-- A frame enters RELEASED: every ZL bit of its storage is set in one step. Donated to a context's pool, it keeps OWNER and
its storage is free there; else OWNER, GEN and CTX become 0 (R364). CXL storage is never in a pool (R218). -/
def State.releaseFrame (s : State) (k ctx : Nat) (donate : Bool) : State :=
  let all := donate
  let donate := donate && !(isCxlFrame k)
  let was := s.frame k
  let s := (s.blank k (~~~ 0#1024)).setFrame k fun fr =>
    { fr with owner := if donate then fr.owner else 0, gen := if donate then fr.gen else 0, valid := false, comp := 0,
              packed := [], loc := none, slot := 0, clen := 0, lent := false, stfree := donate,
              ctx := if donate then ctx else 0 }
  let s := { s with sys := { s.sys with expansions := s.sys.expansions.filter fun e => e.frame ≠ k } }
  (match was.loc with
    | none => s
    | some st => if st = k then s else s.vacate was st ctx all).forgetEarly

/-- Whether a frame's storage serves another name, or is about to. -/
def State.serves (s : State) (k : Nat) : Bool :=
  (s.sys.frames.any fun e => e.1 ≠ k && e.2.loc == some k && e.2.comp == 0) || s.sys.expansions.any fun e => e.into == k

/-- Whether a frame is a function's: its name, or storage that it has given to a pool (R213, R364). -/
def State.holdsFrame (s : State) (vf k : Nat) : Bool :=
  let fr := s.frame k
  fr.owner == vf && (fr.valid || fr.stfree || s.serves k)

/-- Lines of a frame's storage under ZL written as zero and cleared. -/
def State.zeroLines (s : State) (st : Nat) : State :=
  let z := mget 0#1024 s.sys.zl st
  let dead (a : Nat) : Bool := a / frameBytes == st && z.getLsbD (a % frameBytes / 64)
  { s with sys := { s.sys with mem := s.sys.mem.filter fun e => !(dead e.1), zl := mdel s.sys.zl st,
                               eccBad := s.sys.eccBad.filter fun l => !(dead (l * 64)),
                               tagBad := s.sys.tagBad.filter fun l => !(dead (l * 64)) } }

/-- A group's MAJOR grows and its MINORs are zero (R364, R370). -/
def State.renewGroup (s : State) (g : Nat) : State :=
  ({ s with sys := { s.sys with ctrs := mput s.sys.ctrs g { major := (s.ctr g).major + 1, minors := [] } } }).touchBlock g

/-- Groups of a frame's storage that hold a name: all 16, or those of its units in the pack frame (R216, R370). -/
def groupsOfName (k : Nat) (fr : Frame) : List Nat :=
  let st := fr.loc.getD k
  if fr.comp ≠ 0 then (List.range (2 * (fr.clen + 1))).map fun i => 16 * st + 2 * fr.slot + i
  else (List.range 16).map fun i => 16 * st + i

/-- BACKGROUND_SCRUB_COMPLETE (R364): a frame's pending scrub, or its bring-up scrub, is complete. -/
def tryBackgroundScrubComplete (k : Nat) (s : State) : Option State :=
  let groups := (List.range 16).map fun i => 16 * k + i
  if !(inMap (k * frameBytes)) || s.homePaused (k * frameBytes) then none
  else if (s.frame k).scrub then
    let s := (s.zeroLines k).setFrame k fun fr => { fr with scrub := false }
    some (groups.foldl State.renewGroup s)
  else if s.sys.boot.linked && !(s.sys.clean.contains k) then
    some { s with sys := { s.sys with clean := k :: s.sys.clean } }
  else none

def execBackgroundScrubComplete (k : Nat) (s : State) : Host.Outcome State Fault Refusal :=
  .next ((tryBackgroundScrubComplete k s).getD s)

/-! ### Hand-off (R369) -/

/-- Whether a rotation of a tenant runs (R370). -/
def State.rotating (s : State) (vf : Nat) : Bool :=
  s.sys.jobs.any fun j => j.vf == vf && j.cmd.opc == 0x20 && !j.busy && j.result.isNone

/-- Acceptance of a KROT that finds no rotation running: a second generation becomes live (Table 22-4, R357, R370). -/
def Vf.rotate (v : Vf) : Vf :=
  { v with cur := if v.old then v.cur else v.cur + 1, old := true, rotated := 0, skipped := 0 }

/-- KEY_HANDOFF: the first command of the key port passes to the Amindaer, and its chase range is freed. -/
def tryKeyHandoff (core : Nat) (s : State) : Option State :=
  let c := s.coreOf core
  match c.keys, s.gangAt core with
  | m :: rest, some g =>
    if s.enginesHeld core || !(s.forked c m.id) || s.sys.slotOpen == some 2 then none
    else
      let vf := c.vfOf
      let krot := m.opc == 0x20
      let busy := krot && s.rotating vf
      let j : KeyJob := { core := core, cmd := m, launch := g.launch, vf := vf, ctx := c.ctx, gang := g.id,
                          since := s.sys.tick, busy := busy, queue := (s.launchOf g.launch).map fun l => l.queue }
      let s := s.setCore core { c.freeAll m.id with keys := rest }
      let s := { s with sys := { s.sys with jobs := s.sys.jobs ++ [j] } }
      some (if krot && !busy && (s.vf vf).bind != .quarantined then s.onVf vf Vf.rotate else s)
  | _, _ => none

def execKeyHandoff (core : Nat) (s : State) : Host.Outcome State Fault Refusal := .next ((tryKeyHandoff core s).getD s)

/-! ### Status (Tables 22-13 and 22-14) -/

def codeDone : Nat := 0x00
def codeBusy : Nat := 0x01
def codeRange : Nat := 0x02
def codeInuse : Nat := 0x03
def codeLive : Nat := 0x04
def codeNokey : Nat := 0x05
def codeAuth : Nat := 0x06
def codeStale : Nat := 0x07
def codeIdent : Nat := 0x08
def codeSession : Nat := 0x09
def codeSpace : Nat := 0x0A
def codeQuar : Nat := 0x0B
def codeTarget : Nat := 0x0C

/-- SCRUB's KIND field of a command. -/
def Cmd.scrubKind (m : Cmd) : Nat := if m.opc = 0x23 then m.f.i16.toNat % 4 else 0

/-- The status record. -/
def statusRecord (m : Cmd) (r : Nat × Nat × Nat) : List Byte :=
  natToBytes 16 (r.1 % 2 ^ 8 + m.opc * 2 ^ 8 + m.scrubKind * 2 ^ 16 + r.2.1 % 2 ^ 32 * 2 ^ 32 + r.2.2 % 2 ^ 64 * 2 ^ 64)

/-- A fault of a key command's last writes ends the issuing launch, if it has not ended (Table 20-11). -/
def State.jobFault (s : State) (j : KeyJob) (kind dva : Nat) : State :=
  (s.ownAccessFault j.ctx kind).condemn j.launch { s.bareFault kind with addr := BitVec.ofNat 64 dva }

/-- A command's last writes: its status record, then its object (R369). -/
def State.finishJob (s : State) (j : KeyJob) (r : Nat × Nat × Nat) : State :=
  let s := { s with sys := { s.sys with jobs := s.sys.jobs.erase j } }
  let stat := kbStat j.cmd.block
  let obj := compAddr j.cmd.ec
  let count (s : State) : State :=
    if compNone j.cmd.ec then s
    else match s.gAdd .package j.ctx obj (BitVec.ofNat 64 (compInc j.cmd.ec)) accStore false false with
      | (.error k, s) => s.jobFault j k obj
      | (.ok _, s) => s
  if stat = 0 then count s
  else match s.gWrite .package j.ctx stat (statusRecord j.cmd r) accStore false false with
    | (.error k, s) => s.jobFault j k stat
    | (.ok _, s) => count s

/-- Whether a slot pauses the home of a command's status record or object. -/
def State.jobWaits (s : State) (j : KeyJob) : Bool :=
  let stat := kbStat j.cmd.block
  (stat ≠ 0 && s.dvaPaused j.ctx stat) || (!(compNone j.cmd.ec) && s.dvaPaused j.ctx (compAddr j.cmd.ec))

/-- The job of a number as its command goes on. -/
def State.setJob (s : State) (k : Nat) (j : KeyJob) : State := { s with sys := { s.sys with jobs := s.sys.jobs.set k j } }

/-- A fault that a command meets on tenant memory: INTEG quarantines, anything else ends it with RANGE. -/
def State.jobRange (s : State) (j : KeyJob) (kind count : Nat) : (Nat × Nat × Nat) × State :=
  if kind = kINTEG then ((codeQuar, 0, 0), s.ownAccessFault j.ctx kind) else ((codeRange, count, 0), s)

/-! ### KROT (R370, R371) and SCRUB PAGES (R375) -/

/-- A frame rotated into the tenant's current generation: its groups' counters start anew, and its unscrubbed lines are
written as zero. -/
def State.rotateFrame (s : State) (k gen : Nat) : State :=
  let fr := s.frame k
  let s := if fr.comp ≠ 0 then s else s.zeroLines (fr.loc.getD k)
  let s := (groupsOfName k fr).foldl State.renewGroup s
  s.setFrame k fun x => { x with gen := gen % 2 }

/-- Whether re-encrypting a name's lines meets one that does not verify, or a block on their path that does not (R220, R363). -/
def State.nameBad (s : State) (k : Nat) : Bool :=
  let fr := s.frame k
  let lines := if fr.comp ≠ 0 then fr.packLines k else (List.range 1024).map fun i => fr.loc.getD k * 1024 + i
  (!s.sys.tagBad.isEmpty && lines.any s.lineFails) || (groupsOfName k fr).any fun g => s.treeBad (4096 * g)

/-- The next page of a KROT: the job as it goes on, or its result. -/
def State.krotPage (s : State) (j : KeyJob) : KeyJob × State :=
  let v := s.vf j.vf
  let n := kbLen j.cmd.block / frameBytes
  let dva := kbBase j.cmd.block + frameBytes * j.page
  let next := { j with page := j.page + 1 }
  let skip (s : State) : State := s.onVf j.vf fun v => { v with skipped := v.skipped + 1 }
  if n ≤ j.page then ({ j with result := some (codeDone, j.count, v.cur) }, s)
  else match s.walkPage j.ctx dva with
    | .error k =>
      if k = kXLATE then (next, skip s)
      else
        let r := s.jobRange j k j.count
        ({ j with result := some r.1 }, r.2)
    | .ok e =>
      let f := e.phys dva / frameBytes
      if !(s.owns j.vf (e.phys dva)) then ({ j with result := some (codeRange, j.count, 0) }, s)
      else if (s.frame f).gen = v.cur % 2 then (next, skip s)
      else if s.nameBad f then
        let r := s.jobRange j kINTEG j.count
        ({ j with result := some r.1 }, r.2)
      else ({ next with count := j.count + 1 },
            (s.rotateFrame f v.cur).onVf j.vf fun v => { v with rotated := v.rotated + 1 })

/-- Whether a core has an access accepted to a frame that is still to perform (R323, R375). -/
def State.frameTouched (s : State) (f : Nat) : Bool :=
  s.cores.any fun p => p.2.gacc.any fun g => g.pa / frameBytes == f

/-- The next page of a SCRUB PAGES; none while accesses accepted before its release instant are still to perform. -/
def State.releasePage (s : State) (j : KeyJob) : Option (KeyJob × State) :=
  let n := kbLen j.cmd.block / frameBytes
  let dva := kbBase j.cmd.block + frameBytes * j.page
  let next := { j with page := j.page + 1 }
  if n ≤ j.page then some ({ j with result := some (codeDone, j.count, 0) }, s)
  else match s.walkPage j.ctx dva with
    | .error k =>
      if k = kXLATE then some (next, s.dropTlb j.ctx dva (dva + frameBytes))
      else
        let r := s.jobRange j k j.count
        some ({ j with result := some r.1 }, r.2)
    | .ok e =>
      let f := e.phys dva / frameBytes
      let fr := s.frame f
      if !(s.owns j.vf (e.phys dva)) || fr.comp ≠ 0 || fr.lent || fr.stfree then
        some ({ j with result := some (codeRange, j.count, 0) }, s)
      else if s.frameTouched f then none
      else some ({ next with count := j.count + 1 },
        (s.releaseFrame f j.ctx (kbDest j.cmd.block)).dropTlb j.ctx dva (dva + frameBytes))

/-- SCRUB KEYS (R375): the result, and the destruction of OLD. -/
def State.scrubKeys (s : State) (j : KeyJob) : (Nat × Nat × Nat) × State :=
  let v := s.vf j.vf
  let gen := kbGen j.cmd.block
  let mine (e : Nat × Frame) : Bool := e.2.valid && e.2.owner == j.vf && !e.2.rsvd && e.2.gen == gen % 2
  let held := (s.sys.frames.filter mine).length
  if s.rotating j.vf then ((codeBusy, 0, 0), s)
  else if gen = v.cur then ((codeLive, 0, 0), s)
  else if !(v.old && gen + 1 = v.cur) then ((codeNokey, 0, 0), s)
  else if held ≠ 0 then ((codeInuse, held, 0), s)
  else ((codeDone, 0, gen), s.onVf j.vf fun v => { v with old := false })

/-! ### SEAL (R372) -/

/-- Bytes padded to a multiple of 64. -/
def pad64 (bs : List Byte) : List Byte := sized ((bs.length + 63) / 64 * 64) bs

/-- One section: its head and its data (Table 22-15). -/
def sectionBytes (typ dva : Nat) (data : List Byte) : List Byte :=
  natToBytes 64 (typ + dva % 2 ^ 56 * 2 ^ 64 + data.length * 2 ^ 128) ++ pad64 data

/-- The header of a blob. -/
def blobHeader (bind : Bool) (q session nsec : Nat) (tid : List Byte) : List Byte :=
  natToBytes 24 (0x59415242 + 2 ^ 32 + (if bind then 2 ^ 40 else 0) + q % 2 ^ 64 * 2 ^ 64 + session % 2 ^ 32 * 2 ^ 128
    + nsec % 2 ^ 32 * 2 ^ 160) ++ sized 48 tid ++ deviceId ++ List.replicate 136 0#8

/-- The nonce zero of a sealing key (R372). -/
def zeroNonce : List Byte := List.replicate 12 0#8

def blobCrypt (key text : List Byte) : List Byte := gcmCrypt key zeroNonce text
def gcmTag16 (key aad plain : List Byte) : List Byte := sized 16 (Config.gcmTag key zeroNonce aad plain)

/-- The range list of a SEAL: start and bytes of each entry, none where an entry breaks Table 22-12. -/
def rangeList (bs : List Byte) (n : Nat) : Option (List (Nat × Nat)) :=
  let at_ (i : Nat) : Nat × Nat := (blockBits bs (128 * i) 64, blockBits bs (128 * i + 64) 64)
  let rs := (List.range n).map at_
  if rs.all fun r => r.1 < 2 ^ 56 && r.1 % 64 = 0 && r.2 % 64 = 0 then some rs else none

/-- A descriptor as the queue table and a queue image show it (Table 10-1, Table 10-6). -/
def QState.code : QState → Nat
  | .disabled => 0 | .idle => 1 | .ready => 2 | .waiting => 3 | .placing => 4 | .error => 5

def Queue.desc (q : Queue) (qnum : Nat) : Nat :=
  q.ring.toNat % 2 ^ 56 + q.nrec * 2 ^ 64 + q.prio * 2 ^ 88 + (if q.sok then 2 ^ 91 else 0) + q.ctx * 2 ^ 96
    + q.state.code * 2 ^ 104 + q.err * 2 ^ 112 + q.head % 2 ^ 16 * 2 ^ 128 + q.tail % 2 ^ 16 * 2 ^ 144
    + qnum % 2 ^ 13 * 2 ^ 160

/-- Queues of a function whose descriptors name a context, in doorbell order. -/
def State.contextQueues (s : State) (vf ctx : Nat) : List Nat :=
  ((s.sys.doorbells.filter fun e => e.1 / 512 == vf && (s.queueOf e.2).ctx == ctx).mergeSort fun a b => a.1 ≤ b.1).map
    Prod.snd

/-- The launch in flight of a queue: the one at its head, else the latest. -/
def State.flying (s : State) (k : Nat) : Option Launch :=
  match (s.queueOf k).launch with
  | some l => s.launchOf l
  | none => s.sys.launches.reverse.find? fun l => l.queue == k

/-- The fault-queue pointers of a context, as the last entry of a queue image carries them: HEAD, TAIL and SEQ, and bit 511
(R344, log entry 16). A context without a fault queue has none. -/
def State.pointerEntry (s : State) (ctx : Nat) : List Byte :=
  let c := s.context ctx
  if c.fqLen = 0 then []
  else natToBytes 64 (c.fqHead % 2 ^ 64 + c.fqTail % 2 ^ 64 * 2 ^ 64 + c.fqSeq % 2 ^ 64 * 2 ^ 128 + 2 ^ 511)

/-- One entry of the queue image. -/
def State.queueEntry (s : State) (k : Nat) : List Byte :=
  let d := (s.queueOf k).desc k
  match s.flying k with
  | none => natToBytes 64 d
  | some l => natToBytes 64 (d + l.nextGang * 2 ^ 256 + l.ended * 2 ^ 288 + l.status % 2 ^ 64 * 2 ^ 320)

/-- Sections of a SEAL that are read from memory. -/
def State.sealParts (s : State) (j : KeyJob) (ranges : List (Nat × Nat)) : List SealPart :=
  let saves := if kbSave j.cmd.block then
      (s.sys.saved.filter fun g => g.ctx == j.ctx).map fun g =>
        (⟨2, recordBytes * g.area, s.recordAt j.ctx g.area, recordBytes * g.size⟩ : SealPart)
    else []
  ranges.map (fun r => (⟨1, r.1, r.1, r.2⟩ : SealPart)) ++ saves

/-- A section in pieces of at most 4 KiB, each of whole lines of memory: SEAL reads each line once, at its own time (R372). -/
def SealPart.pieces (p : SealPart) : List SealPiece :=
  let o := p.src % 64
  let piece (i : Nat) : SealPiece :=
    let lo := max p.src (p.src - o + 4096 * i)
    { src := lo, bytes := min (p.src + p.bytes) (p.src - o + 4096 * (i + 1)) - lo }
  let head := natToBytes 64 (p.typ + p.dva % 2 ^ 56 * 2 ^ 64 + p.bytes * 2 ^ 128)
  { lit := head } :: (List.range ((o + p.bytes + 4095) / 4096)).map piece
    ++ [{ lit := List.replicate ((p.bytes + 63) / 64 * 64 - p.bytes) 0#8 }]

/-- The sealing key of a command, when its session is open and the tenant's (R356). -/
def State.sealKey (s : State) (vf : Nat) (bind : Bool) (session q : Nat) : Option (List Byte) :=
  if bind then
    (s.sys.fabric.find? fun e => e.num == session && e.vf == vf).map fun e => sessionSealKey e.ks q
  else some (deviceSealKey (s.vf vf).rs q)

/-- A SEAL accepted: its sequence number is reserved, its session checked, its range list read and its size compared with the
blob area (R372, R373). -/
def State.sealStart (s : State) (j : KeyJob) : KeyJob × State :=
  let b := j.cmd.block
  let tid := (s.vf j.vf).tid
  let q := s.sys.lastOf tid + 1
  let s := { s with sys := s.sys.setLast tid q }
  let ends (r : (Nat × Nat × Nat) × State) : KeyJob × State := ({ j with result := some r.1 }, r.2)
  match s.sealKey j.vf (kbBind b) (kbSession b) q with
  | none => ends ((codeSession, 0, 0), s)
  | some key =>
    match s.gRead none j.ctx (kbList b) (16 * kbNlist b) accERead false with
    | (.error k, s) => ends (s.jobRange j k 0)
    | (.ok bs, s) =>
      match rangeList bs (kbNlist b) with
      | none => ends ((codeRange, 0, 0), s)
      | some ranges =>
        let parts := s.sealParts j ranges
        let qs := (s.contextQueues j.vf j.ctx).filter fun k => j.queue ≠ some k
        let image := if kbQueues b then sectionBytes 3 0 (qs.flatMap s.queueEntry ++ s.pointerEntry j.ctx) else []
        let size := (parts.map fun p => 64 + (p.bytes + 63) / 64 * 64).sum + image.length
        let header := blobHeader (kbBind b) q (if kbBind b then kbSession b else 0)
          (parts.length + if kbQueues b then 1 else 0) tid
        if kbLen b < 256 + size + 64 then ends ((codeSpace, (256 + size + 64) / 64, 0), s)
        else ({ j with sealing := some { seq := q, key := key, header := header,
                                         todo := parts.flatMap SealPart.pieces ++ [{ lit := image }] } }, s)

/-- SEAL goes on: it is accepted, reads the next piece, writes sections and trailer, or the header, its first line with MAGIC last (R372). -/
def State.seal (s : State) (j : KeyJob) : KeyJob × State :=
  let base := kbBase j.cmd.block
  let ends (r : (Nat × Nat × Nat) × State) : KeyJob × State := ({ j with result := some r.1 }, r.2)
  match j.sealing with
  | none => s.sealStart j
  | some w =>
    match w.todo with
    | p :: rest =>
      (match s.gRead none j.ctx p.src p.bytes accERead false with
      | (.error k, s) => ends (s.jobRange j k 0)
      | (.ok bs, s) => ({ j with sealing := some { w with todo := rest, body := w.body ++ p.lit ++ bs } }, s))
    | [] =>
      if !w.written then
        (match s.gWrite .package j.ctx (base + 256)
            (blobCrypt w.key w.body ++ sized 64 (gcmTag16 w.key w.header w.body)) accEWrite false false with
        | (.error k, s) => ends (s.jobRange j k 0)
        | (.ok _, s) => ({ j with sealing := some { w with written := true } }, s))
      else
        match s.gWrite .package j.ctx (base + 64) (w.header.drop 64) accEWrite false false with
        | (.error k, s) => ends (s.jobRange j k 0)
        | (.ok _, s) => match s.gWrite .package j.ctx base (w.header.take 64) accEWrite false false with
          | (.error k, s) => ends (s.jobRange j k 0)
          | (.ok _, s) => ends ((codeDone, (256 + w.body.length + 64) / 64, w.seq), s)

/-! ### UNSEAL (R374) -/

/-- What an UNSEAL has done so far: ciphertext read, ranges written, save records and queue entries installed. -/
structure Unsealed where
  cipher : List Byte := []
  plain : List Byte := []
  written : List (Nat × Nat) := []
  saves : List (Nat × Nat) := []
  queues : List (List Byte) := []
  count : Nat := 0
deriving DecidableEq, Repr

/-- The next n bytes of the sections: read, and decrypted behind those before them. -/
def State.streamIn (s : State) (j : KeyJob) (key : List Byte) (u : Unsealed) (n : Nat) :
    Except (Nat × Nat × Nat) (List Byte × Unsealed) × State :=
  let at_ := 256 + u.cipher.length
  if kbLen j.cmd.block < at_ + n then (.error (codeAuth, 0, 0), s)
  else match s.gRead none j.ctx (kbBase j.cmd.block + at_) n accERead false with
    | (.error k, s) =>
      let r := s.jobRange j k 0
      (.error r.1, r.2)
    | (.ok bs, s) =>
      let cipher := u.cipher ++ bs
      let plain := blobCrypt key cipher
      (.ok (plain.drop u.cipher.length, { u with cipher := cipher, plain := plain }), s)

/-- One section installed in the target context. -/
def State.installSection (s : State) (j : KeyJob) (typ dva : Nat) (data : List Byte) (u : Unsealed) :
    Except (Nat × Nat × Nat) Unsealed × Unsealed × State :=
  let ctx := kbTarget j.cmd.block
  let put (dva : Nat) (u : Unsealed) : Except (Nat × Nat × Nat) Unsealed × Unsealed × State :=
    let u := { u with written := u.written ++ [(dva, data.length)], count := u.count + 1 }
    match s.gWrite .package ctx dva data accEWrite false false with
    | (.error k, s) =>
      let r := s.jobRange j k 0
      (.error r.1, u, r.2)
    | (.ok _, s) => (.ok u, u, s)
  match typ with
  | 1 => put dva u
  | 2 => put ((s.context ctx).saveDva.toNat + dva) { u with saves := u.saves ++ [(dva / recordBytes, data.length / recordBytes)] }
  | 3 =>
    let es := (List.range (data.length / 64)).map fun i => (data.drop (64 * i)).take 64
    let u := { u with queues := u.queues ++ es, count := u.count + 1 }
    (.ok u, u, s)
  | _ => (.error (codeAuth, 0, 0), u, s)

/-- The sections of a blob, one after another. -/
def State.installAll (s : State) (j : KeyJob) (key : List Byte) : Nat → Unsealed →
    Except (Nat × Nat × Nat) Unsealed × Unsealed × State
  | 0, u => (.ok u, u, s)
  | n + 1, u =>
    match s.streamIn j key u 64 with
    | (.error r, s) => (.error r, u, s)
    | (.ok (head, u), s) =>
      let len := blockBits head 128 64
      match s.streamIn j key u ((len + 63) / 64 * 64) with
      | (.error r, s) => (.error r, u, s)
      | (.ok (data, u), s) =>
        match s.installSection j (blockBits head 0 8) (blockBits head 64 56) (data.take len) u with
        | (.error r, u, s) => (.error r, u, s)
        | (.ok u, _, s) => s.installAll j key n u

/-- The descriptor of an image entry in a queue of the target: WAITING and PLACING become READY. -/
def Queue.install (q : Queue) (ctx d : Nat) : Queue :=
  let st := recFld d 104 3
  let state : QState := if st = 1 then .idle else if st = 2 ∨ st = 3 ∨ st = 4 then .ready else if st = 5 then .error else .disabled
  { q with ring := BitVec.ofNat 64 (recFld d 0 56), nrec := recFld d 64 17, prio := recFld d 88 3, sok := recFld d 91 1 = 1,
           ctx := ctx, state := state, err := recFld d 112 8, head := recFld d 128 16, tail := recFld d 144 16, launch := none,
           wait := none, isDep := false, met := false, level := recFld d 88 3, span := 0 }

/-- The launch of a slot of an installed queue: its record as it stands in the ring, and the progress that the image
gives. -/
def State.recreate (s : State) (vf : Nat) (k slot d gangs : Nat) (word : Word) (tags : Nat) : Launch :=
  let q := { s.queueOf k with head := slot }
  let placing := recFld d 104 3 = 4 && recFld d 128 16 = slot
  let plain : Launch := { id := s.sys.nextId, queue := k, slot := slot, vf := vf, ctx := q.ctx, s := word.getLsbD 48,
                          record := word.getLsbD 49, code := 0, args := 0, formes := [], gsize := 1, tags := tags,
                          gcount := gangs, mqbase := 0, mqsize := 0, trapvec := 0, done := 0, inc := 0, nextGang := gangs }
  match (s.readRecord q).1 with
  | .error _ => plain
  | .ok (r, _) =>
    let l := recordLaunch s.sys.nextId k q vf r
    let fs := ((s.formeImage q.ctx (recFld r 192 56)).1).getD []
    if placing then { l with formes := fs, nextGang := recFld d 256 32, ended := recFld d 288 32, status := recFld d 320 64 }
    else { l with formes := fs, nextGang := l.gcount, ended := l.gcount - gangs, dropped := true,
                  status := if recFld d 104 3 = 4 then 0 else recFld d 320 64 }

/-- A launch entering flight; at its queue's head it is the one being placed. -/
def State.relaunch (s : State) (l : Launch) (atHead : Bool) : State :=
  let s := { s with sys := { s.sys with launches := s.sys.launches ++ [l], nextId := s.sys.nextId + 1 } }
  if atHead then s.onQueue l.queue fun q => { q with launch := some l.id } else s

/-- What the records of a saved gang say: index, LAUNCH word, whether a member is parked, and the stop points. -/
def savedHead (rs : List (List Host.Cell)) : Nat × Word × Bool :=
  let m := rs.headD []
  (recBits m 0 32 32, rec8 m 8, rs.any fun r => recBits r 0 8 3 = 4)

/-- The save section of one gang becomes a saved gang of the target, with its launch. -/
def State.installSaved (s : State) (vf ctx : Nat) (entries : List (Nat × Nat)) (p : Nat × Nat) : State :=
  match s.getRecords ctx p.1 p.2 with
  | (.error k, s) => s.ownAccessFault ctx k
  | (.ok rs, s) =>
    let (gidx, word, parked) := savedHead rs
    let slot := word.toNat / 2 ^ 32 % 2 ^ 16
    let entry := entries.find? fun e => recFld e.2 160 13 == word.toNat % 2 ^ 13
    let k := (entry.map Prod.fst).getD 8192
    let d := (entry.map Prod.snd).getD 0
    let s := match s.sys.launches.find? fun l => l.queue == k && l.slot == slot && l.ctx == ctx with
      | some l => if l.gcount = l.nextGang then s.onLaunch l.id fun l => { l with ended := l.ended - 1 } else s
      | none => s.relaunch (s.recreate vf k slot d 1 word 0) false
    match s.sys.launches.find? fun l => l.queue == k && l.slot == slot && l.ctx == ctx with
    | none => s
    | some l =>
      let g : SavedGang := { launch := l.id, gidx := gidx, token := s.sys.nextToken, tags := l.tags, size := p.2, ctx := ctx,
                             area := p.1, parked := parked, scrub := false, stops := [] }
      { s with sys := { s.sys with saved := s.sys.saved ++ [g], nextToken := s.sys.nextToken + 1 } }

/-- Queue image, fault-queue pointers and save records installed, once the tag has verified (R344, R374). -/
def State.installTarget (s : State) (vf ctx : Nat) (u : Unsealed) : State :=
  let qs := s.contextQueues vf ctx
  let image := u.queues.map bytesToNat
  let pointers (d : Nat) : Bool := d / 2 ^ 511 % 2 = 1
  let entries := qs.zip (image.filter fun d => !(pointers d))
  let s := match image.find? pointers with
    | none => s
    | some d => s.onContext ctx fun c => { c with fqHead := recFld d 0 64, fqTail := recFld d 64 64, fqSeq := recFld d 128 64 }
  let s := entries.foldl (fun s e => s.onQueue e.1 fun q => q.install ctx e.2) s
  let s := entries.foldl (fun s e =>
    if recFld e.2 104 3 = 4 then s.relaunch (s.recreate vf e.1 (recFld e.2 128 16) e.2 0 0 0) true else s) s
  u.saves.foldl (fun s p => s.installSaved vf ctx entries p) s

/-- Whether a context may be the target of an UNSEAL. -/
def State.targetFree (s : State) (vf ctx : Nat) : Bool :=
  let mine (g : Gang) : Bool := match s.launchOf g.launch with
    | some l => l.ctx == ctx
    | none => false
  (s.context ctx).vf == some vf && !(s.sys.gangs.any mine) && !(s.sys.saved.any fun g => g.ctx == ctx)
    && (s.contextQueues vf ctx).all fun k => (s.queueOf k).state == .disabled

/-- Undoing an UNSEAL that failed after its first write: every byte written is zeroed. -/
def State.unwrite (s : State) (ctx : Nat) (written : List (Nat × Nat)) : State :=
  written.foldl (fun s r => (s.gWrite .package ctx r.1 (List.replicate r.2 0#8) accEWrite false false).2) s

/-- The checks of a blob's header, in the order of R374: the sealing key, or the code. -/
def State.headerCheck (s : State) (j : KeyJob) (h : List Byte) : Except Nat (List Byte) :=
  let b := j.cmd.block
  let v := s.vf j.vf
  let q := blockBits h 64 64
  let bind := blockBits h 40 1 = 1
  if blockBits h 0 32 ≠ 0x59415242 ∨ blockBits h 32 8 ≠ 1 ∨ blockBits h 41 23 ≠ 0 ∨ blockBits h 960 1088 ≠ 0 then
    .error codeAuth
  else if bind ≠ kbBind b ∨ blockBits h 128 32 ≠ kbSession b then .error codeAuth
  else if !bind ∧ (h.drop 72).take 48 ≠ deviceId then .error codeIdent
  else match s.sealKey j.vf bind (kbSession b) q with
    | none => .error codeSession
    | some key =>
      if (h.drop 24).take 48 ≠ sized 48 v.tid then .error codeIdent
      else if q ≤ s.sys.lastOf v.tid then .error codeStale
      else if !(s.targetFree j.vf (kbTarget b)) then .error codeTarget
      else .ok key

/-- UNSEAL up to its status, with what it has written where it fails (R374). -/
def State.unsealTo (s : State) (j : KeyJob) : (Nat × Nat × Nat) × Unsealed × State :=
  let b := j.cmd.block
  let ctx := kbTarget b
  if kbLen b < 256 then ((codeAuth, 0, 0), {}, s)
  else match s.gRead none j.ctx (kbBase b) 256 accERead false with
    | (.error k, s) =>
      let r := s.jobRange j k 0
      (r.1, {}, r.2)
    | (.ok h, s) =>
      match s.headerCheck j h with
      | .error code => ((code, 0, 0), {}, s)
      | .ok key =>
        match s.installAll j key (blockBits h 160 32) {} with
        | (.error r, u, s) => (r, u, s)
        | (.ok u, _, s) =>
          let at_ := 256 + u.cipher.length
          if kbLen b < at_ + 64 then ((codeAuth, 0, 0), u, s)
          else match s.gRead none j.ctx (kbBase b + at_) 64 accERead false with
            | (.error k, s) =>
              let r := s.jobRange j k 0
              (r.1, u, r.2)
            | (.ok t, s) =>
              if t ≠ sized 64 (gcmTag16 key h u.plain) then ((codeAuth, 0, 0), u, s)
              else
                let q := blockBits h 64 64
                let s := { s with sys := s.sys.setLast (s.vf j.vf).tid q }
                ((codeDone, u.count, q), u, s.installTarget j.vf ctx u)

/-- UNSEAL goes on: what a failed one has written is zeroed in a step of its own, so that it may be observed before (R374). -/
def State.unseal (s : State) (j : KeyJob) : KeyJob × State :=
  match j.verdict with
  | some r => ({ j with result := some r, undo := [] }, s.unwrite (kbTarget j.cmd.block) j.undo)
  | none =>
    let (r, u, s) := s.unsealTo j
    if r.1 = codeDone || u.written.isEmpty then ({ j with result := some r }, s)
    else ({ j with verdict := some r, undo := u.written }, s)

/-! ### KEY_COMMAND_COMPLETE -/

/-- Whether an earlier SEAL or UNSEAL of the TID is still to be performed (R373). -/
def State.sealWaits (s : State) (k : Nat) (j : KeyJob) : Bool :=
  (s.sys.jobs.take k).any fun x => (s.vf x.vf).tid == (s.vf j.vf).tid && (x.cmd.opc == 0x21 || x.cmd.opc == 0x22)

/-- FABKEY with CLOSE (R383): the session is erased. -/
def State.closeSession (s : State) (j : KeyJob) : (Nat × Nat × Nat) × State :=
  let n := fbSession j.cmd.block
  if s.sys.fabric.any fun e => e.num == n && e.vf == j.vf then
    ((codeDone, 0, 0), ({ s with sys := s.sys.closeSessions fun e => e.num == n } : State).endCutOff)
  else ((codeSession, 0, 0), s)

/-- The next part of a command, or its result: a page of KROT or PAGES, a part of SEAL or UNSEAL, the whole of KEYS. -/
def State.work (s : State) (k : Nat) (j : KeyJob) : Option (KeyJob × State) :=
  let done (r : (Nat × Nat × Nat) × State) : Option (KeyJob × State) := some ({ j with result := some r.1 }, r.2)
  if j.result.isSome then some (j, s)
  else if j.verdict.isSome then (if s.sys.slotOpen.isSome then none else some (s.unseal j))
  else if (s.vf j.vf).bind == .quarantined then done ((codeQuar, 0, 0), s)
  else match j.cmd.opc with
    | 0x20 => if j.busy then done ((codeBusy, 0, 0), s) else if s.sys.slotOpen.isSome then none else some (s.krotPage j)
    | 0x21 => if s.sealWaits k j || s.sys.slotOpen.isSome then none else some (s.seal j)
    | 0x22 => if s.sealWaits k j || s.sys.slotOpen.isSome then none else some (s.unseal j)
    | 0x23 => if j.cmd.scrubKind = 2 then s.releasePage j else done (s.scrubKeys j)
    | _ => if fbClose j.cmd.block then done (s.closeSession j) else none

/-- KEY_COMMAND_COMPLETE but for a responder's session (R369 to R375): a handed-off command goes on, and once its result is
known it writes its status and adds to its object. -/
def tryKeyCommandComplete (key : Nat) (s : State) : Option State :=
  match s.sys.jobs[key]? with
  | none => none
  | some j =>
    match s.work key j with
    | none => none
    | some (j', s') =>
      match j'.result with
      | none => some (s'.setJob key j')
      | some r => if s'.jobWaits j' then (if j'.result = j.result then none else some (s'.setJob key j'))
        else some ((s'.setJob key j').finishJob j' r)

/-! ### KSTAT (R376) -/

/-- The binding state's number. -/
def Bind.code : Bind → Nat
  | .unbound => 0 | .recorded => 1 | .collecting => 2 | .bound => 3 | .quarantined => 4

/-- KSTAT's value for a core (Table 22-17). -/
def State.kstat (s : State) (core sel : Nat) (a : Word) : Word :=
  let c := s.coreOf core
  let vf := c.vfOf
  let v := s.vf vf
  match sel with
  | 0 =>
    let got := (v.shares.map fun p => 2 ^ p.1).sum
    BitVec.ofNat 64 (v.cur % 2 ^ 32 + (if v.old then 2 ^ 32 else 0) + (if s.rotating vf then 2 ^ 33 else 0)
      + v.bind.code * 2 ^ 34 + v.nparty % 2 ^ 5 * 2 ^ 37 + got % 2 ^ 16 * 2 ^ 42)
  | 1 => BitVec.ofNat 64 (v.rotated % 2 ^ 32 + v.skipped % 2 ^ 32 * 2 ^ 32)
  | 2 =>
    let dva := a.toNat % 2 ^ 56 / frameBytes * frameBytes
    match s.walkPage c.ctx dva with
    | .error _ => ~~~ 0#64
    | .ok e =>
      let k := e.phys dva / frameBytes
      let fr := s.frame k
      if s.holdsFrame vf k then
        BitVec.ofNat 64 (fr.gen % 2 + (if fr.scrub then 2 else 0) + fr.comp % 4 * 8 + if fr.valid then 32 else 0)
      else ~~~ 0#64
  | _ => BitVec.ofNat 64 (s.sys.lastOf v.tid)

/-- Whether a core and the Amindaer reach each other: a retrain slot pauses the die links, and a halted core takes no reply
(R300, R340). -/
def State.amindaerReached (s : State) (core : Nat) : Bool := s.sys.slotOpen ≠ some 2 && !(s.clockHeld core)

/-- The Amindaer's answer to a KSTAT reaching its register. -/
def State.answerKstat (s : State) (core : Nat) : State :=
  let step (s : State) (a : AskReq) : State :=
    match a.what with
    | .kstat sel x =>
      if a.core = core then
        ({ s with sys := { s.sys with asks := s.sys.asks.erase a } }).onCore core fun c =>
          c.reply a.id 0 (.word (s.kstat core sel x)) 0
      else s
    | _ => s
  s.sys.asks.foldl step s

/-- RESULT_LAND (R14, R15, R19, R376): answers of the Amindaer arrive, and results whose clk has come land. -/
def execResultLand (core : Nat) (s : State) : Host.Outcome State Fault Refusal :=
  if 2048 ≤ core || s.clockHeld core then .next s
  else
    let s := if s.amindaerReached core then s.answerKstat core else s
    .next (s.onCore core fun c => c.land.1)

end Sys2Proof.Machine
end

