-- ==== Sys2Proof/Machine/Host.lean ====
section
/-! DEFINITION. The host link: the context table, the BAR2 aperture, the frame mailbox, and the binding of a tenant by SPDM and
TDISP (R341, R343, R350 to R355, R364, R387). -/

namespace Sys2Proof.Machine

open Sys2Proof

/-- An answer to the host. -/
def State.answer (s : State) (r : HostReply) : State := { s with sys := { s.sys with reply := r } }

/-! ### The context table (R387) -/

/-- Whether a context belongs to a function. -/
def State.ownsCtx (s : State) (vf ctx : Nat) : Bool := (s.context ctx).vf == some vf

/-- Whether a context has a launch in flight. -/
def State.inFlight (s : State) (ctx : Nat) : Bool := s.sys.launches.any fun l => l.ctx == ctx

/-- Writing ARM: a 1 clears every mark (R343). -/
def Context.arm (c : Context) (on : Bool) : Context :=
  if on then { c with dlArm := true, dlMarks := [] } else { c with dlArm := false }

/-- A write of the third word of the dirty-log block: ARM, and LOGOVF where a 1 is written. -/
def Context.dirtyCtl (c : Context) (v : Nat) : Context :=
  let c := c.arm (recFld v 32 1 = 1)
  if recFld v 33 1 = 1 then { c with dlOvf := false } else c

/-- Offsets of a context entry that may be written at any time. -/
def anytime (off : Nat) : Bool :=
  [0x40, 0x60, 0x70, 0x80, 0x88, 0x90, 0x98, 0xB0, 0xB8].contains off

/-- A context entry after a write of eight bytes at an offset; read-only fields and the rest are unchanged. -/
def Context.write (c : Context) (off : Nat) (w : Word) : Context :=
  let v := w.toNat
  let a := BitVec.ofNat 64 (v % 2 ^ 56)
  match off with
  | 0x00 => { c with ptroot := recFld v 12 40 * 4096 }
  | 0x08 => { c with enable := recFld v 0 1 = 1, weight := recFld v 8 8, migrating := false }
  | 0x10 => { c with saveDva := a }
  | 0x18 => { c with saveLen := v }
  | 0x20 => { c with dumpDva := a }
  | 0x28 => { c with dumpLen := v }
  | 0x30 => { c with fqDva := a }
  | 0x38 => { c with fqLen := v }
  | 0x40 => { c with fqHead := v % max 1 c.fqLen }
  | 0x50 => { c with logDva := a }
  | 0x58 => { c with logLen := v }
  | 0x60 =>
    let c := { c with logHead := v % max 1 c.logLen }
    { c with replayed := c.replayed.filter c.logSpan.contains }
  | 0x70 => { c with replay := recFld v 0 1 = 1, replayed := [], diverge := none }
  | 0x80 => { c with dlBase := a }
  | 0x88 => { c with dlSize := recFld v 0 24, dlHead := recFld v 32 24 }
  | 0x90 => c.dirtyCtl v
  | 0xA0 => { c with grpDva := a }
  | 0xA8 => { c with grpLen := v }
  | 0xB0 => { c with invDva := a }
  | 0xB8 => { c with invPages := recFld v 0 16 }
  | 0xC0 => { c with espRing := BitVec.ofNat 64 (v % 2 ^ 56 / 4096 * 4096) }
  | 0xC8 => { c with espBuffers := v }
  | _ => c

/-- Every cached translation of a context is removed (R210). -/
def State.flushCtx (s : State) (ctx : Nat) : State := s.dropTlb ctx 0 (2 ^ 64)

/-- A security association set up or removed through the context's entry (R388, log entry 7): SPI in [31:0], direction in
[32], present in [63]. One that another context holds is left to it. -/
def State.setUpSa (s : State) (ctx v : Nat) : State :=
  let c := s.context ctx
  let a : EspSa := { spi := v % 2 ^ 32, ctx := ctx, egress := recFld v 32 1 = 1, ring := c.espRing, buffers := c.espBuffers }
  let same (x : EspSa) : Bool := x.spi == a.spi && x.egress == a.egress
  if s.sys.esp.any fun x => same x && x.ctx ≠ ctx then s
  else
    let rest := s.sys.esp.filter fun x => !(same x)
    { s with sys := { s.sys with esp := if recFld v 63 1 = 1 then rest ++ [a] else rest } }

/-- CONTEXT_ENTRY_WRITE (R387): fields change only while the context has no launch in flight, some at any time. Clearing
ENABLE ends the context. -/
def tryContextEntryWrite (vf ctx off : Nat) (value : Word) (s : State) : Option State :=
  if !(s.ownsCtx vf ctx) || (s.inFlight ctx && !(anytime off)) then none
  else
    let s := s.onContext ctx fun c => c.write off value
    let s := if off = 0x08 ∧ value.getLsbD 0 = false then s.flushCtx ctx else s
    let s := if off = 0xB8 then
        let c := s.context ctx
        s.dropTlb ctx c.invDva.toNat (c.invDva.toNat + 4096 * c.invPages)
      else s
    some (if off = 0x40 then s.flushFaults else if off = 0xD0 then s.setUpSa ctx value.toNat else s)

def execContextEntryWrite (vf ctx off : Nat) (value : Word) (s : State) : Host.Outcome State Fault Refusal :=
  .next ((tryContextEntryWrite vf ctx off value s).getD s)

/-- LOG_RING_HEAD_WRITE (R341). -/
def execLogRingHeadWrite (vf ctx : Nat) (value : Word) (s : State) : Host.Outcome State Fault Refusal :=
  .next ((tryContextEntryWrite vf ctx 0x60 value s).getD s)

/-- DIRTY_LOG_HEAD_WRITE (R343). -/
def execDirtyLogHeadWrite (vf ctx : Nat) (value : Word) (s : State) : Host.Outcome State Fault Refusal :=
  if s.ownsCtx vf ctx then .next (s.onContext ctx fun c => { c with dlHead := value.toNat % 2 ^ 24 }) else .next s

/-- DIRTY_LOG_ARM_WRITE (R343). -/
def execDirtyLogArmWrite (vf ctx : Nat) (value : Word) (s : State) : Host.Outcome State Fault Refusal :=
  if s.ownsCtx vf ctx then .next (s.onContext ctx fun c => c.arm (value.getLsbD 0)) else .next s

/-- LOGOVF_CLEAR (R343). -/
def execLogovfClear (vf ctx : Nat) (value : Word) (s : State) : Host.Outcome State Fault Refusal :=
  if s.ownsCtx vf ctx && value.getLsbD 0 then .next (s.onContext ctx fun c => { c with dlOvf := false }) else .next s

/-- INVALIDATION_COMMAND (R210, R387): the translations of a range of 4 KiB pages are dropped by every core. -/
def execInvalidationCommand (vf ctx : Nat) (dva : Word) (pages : Nat) (s : State) : Host.Outcome State Fault Refusal :=
  if s.ownsCtx vf ctx then
    let s := s.onContext ctx fun c => { c with invDva := dva, invPages := pages % 2 ^ 16 }
    .next (s.dropTlb ctx dva.toNat (dva.toNat + 4096 * (pages % 2 ^ 16)))
  else .next s

/-! ### BAR2 (R387) -/

/-- BAR2_APERTURE_WRITE: CTX [7:0] and BASE [55:36]. -/
def execBar2ApertureWrite (vf : Nat) (value : Word) (s : State) : Host.Outcome State Fault Refusal :=
  if s.running vf then .next (s.onVf vf fun v => { v with aperture := value &&& 0x00FFFFF0000000FF#64 }) else .next s

/-- Whether the aperture of a function answers: RUN, not quarantined, a context of its own. -/
def State.apertureOpen (s : State) (vf ctx : Nat) : Bool :=
  s.running vf && (s.vf vf).bind != .quarantined && s.ownsCtx vf ctx

/-- HOST_BAR2_ACCESS: an access of the host is translated and checked as LDG and STG are; a refused read completes with
Unsupported Request, a refused write is dropped. -/
def tryHostBar2Access (vf off : Nat) (acc : HostAccess) (s : State) : Option State :=
  let ap := (s.vf vf).aperture.toNat
  let ctx := ap % 2 ^ 8
  let dva := ap / 2 ^ 36 * 2 ^ 36 + off % 2 ^ 36
  match acc with
  | .read n =>
    if !(s.apertureOpen vf ctx) then some (s.answer .unsupported)
    else if s.dvaPaused ctx dva then none
    else match s.gRead none ctx dva n accLoad true with
      | (.error k, s) => some ((s.ownAccessFault ctx k).answer .unsupported)
      | (.ok bs, s) => some (s.answer (.bytes bs))
  | .write bs =>
    if !(s.apertureOpen vf ctx) then some (s.answer .dropped)
    else if s.dvaPaused ctx dva then none
    else match s.gWrite .host ctx dva bs accStore false false with
      | (.error k, s) => some ((s.ownAccessFault ctx k).answer .dropped)
      | (.ok _, s) => some (s.answer .none)

def execHostBar2Access (vf off : Nat) (acc : HostAccess) (s : State) : Host.Outcome State Fault Refusal :=
  .next ((tryHostBar2Access vf off acc s).getD s)

/-! ### The frame mailbox (R213 to R217, R364, R387) -/

/-- Frames assigned to a function. -/
def State.framesOf (s : State) (vf : Nat) : List Nat :=
  (s.sys.frames.map Prod.fst).filter (s.holdsFrame vf)

/-- STATUS of a mailbox operation. -/
def State.mailStatus (s : State) (vf op f arg st : Nat) : State :=
  (s.onVf vf fun v => { v with mbOp := op, mbF := f, mbArg := arg, mbStatus := st }).answer (.status st)

/-- A mailbox operation: its status and its effect, while the interface is in RUN. -/
def State.mailbox (s : State) (vf op f arg : Nat) (st : Nat) (go : State → State) : Host.Outcome State Fault Refusal :=
  if !(s.running vf) then .next (s.answer .dropped)
  else .next (if st = 0 then (go s).mailStatus vf op f arg 0 else s.mailStatus vf op f arg st)

/-- FRAME_ASSIGN (OP 1): a FREE or RELEASED frame whose bring-up scrub is complete; STATUS 2 for another tenant's. -/
def execFrameAssign (vf frame : Nat) (s : State) : Host.Outcome State Fault Refusal :=
  let fr := s.frame frame
  let st := if (fr.valid || fr.stfree) && fr.owner ≠ vf then 2
    else if !(inMap (frame * frameBytes)) || fr.valid || fr.rsvd || fr.stfree || fr.lent || !(s.sys.clean.contains frame) then 1
    else if (s.vf vf).frameQuota ≤ (s.framesOf vf).length then 3 else 0
  s.mailbox vf 1 frame 0 st fun s => s.setFrame frame fun fr =>
    { fr with owner := vf, valid := true, gen := (s.vf vf).cur % 2, comp := 0, loc := none }

/-- The status that a frame of another tenant, or an accessible one, gives. -/
def State.frameStatus (s : State) (vf frame : Nat) (bad : Frame → Bool) : Nat :=
  let fr := s.frame frame
  if fr.owner ≠ vf || !(fr.valid || fr.stfree) then 2 else if fr.rsvd || bad fr then 1 else 0

/-- FRAME_PLACE_NEAR (OP 2). -/
def execFramePlaceNear (vf frame arg : Nat) (s : State) : Host.Outcome State Fault Refusal :=
  s.mailbox vf 2 frame arg (s.frameStatus vf frame fun _ => 8 ≤ arg) fun s =>
    s.setFrame frame fun fr => { fr with near := true, ncl := arg }

/-- The bytes of a page, listing those that are not zero. -/
def State.pageCells (s : State) (frame : Nat) : List Host.Cell := writeBytes [] 0 (s.physBytes (frame * frameBytes) frameBytes)

/-- Whether units of a frame of HBM can hold a compressed page: it is no one's and waits for no scrub, no other name's data are served from it, and no
other page is packed in these units. -/
def State.packable (s : State) (k slot clen : Nat) : Bool :=
  let fr := s.frame k
  let clear (e : Nat × Frame) : Bool :=
    e.2.loc ≠ some k || (e.2.comp ≠ 0 && !(overlaps slot (slot + clen + 1) e.2.slot (e.2.slot + e.2.clen + 1)))
  !fr.valid && !fr.stfree && !fr.rsvd && !fr.scrub && s.sys.frames.all clear && !(s.sys.expansions.any fun e => e.into == k)

/-- A line of a pack frame written whole: its counter grows, and it reads by its bytes again (R360, R364). -/
def State.packLine (s : State) (l : Nat) : State :=
  let s := s.bumpLine (64 * l)
  let z := mget 0#1024 s.sys.zl (l / 1024)
  { s with sys := { s.sys with
      zl := if z.getLsbD (l % 1024) then mput s.sys.zl (l / 1024) (z &&& ~~~ (1#1024 <<< (l % 1024))) else s.sys.zl,
      eccBad := s.sys.eccBad.filter (· ≠ l), tagBad := s.sys.tagBad.filter (· ≠ l) } }

/-- Compressing a frame: into how many units and where it is packed is open, and its own storage is free in a pool of the tenant
(R213, R216, log entry 40). -/
def State.compress (s : State) (vf frame : Nat) : State :=
  let page := s.pageCells frame
  let v (i : Nat) : Nat := (Config.freeWord (s.free + i)).toNat
  let clen := v 1 % 7
  let slot := v 2 % (8 - clen)
  let ctxs := s.ctxsOf vf
  let try_ (i : Nat) : Nat := (v 0 + i) % 12582912
  let pack := try_ (((List.range (s.sys.frames.length + 1)).find? fun i => s.packable (try_ i) slot clen).getD 0)
  let s := { s with free := s.free + 4 }
  let lines : Frame := { clen := clen, slot := slot, loc := some pack }
  let s := (lines.packLines frame).foldl State.packLine s
  (s.setFrame frame fun fr =>
    { fr with comp := 1, packed := page, loc := some pack, clen := clen, slot := slot, stfree := true,
              ctx := ctxs.getD (v 3 % max 1 ctxs.length) 0 }).setFrame pack fun fr => { fr with lent := true }

/-- FRAME_COMPRESS (OP 3): a plain frame of HBM, once the accesses accepted to it have performed. Reading it verifies its lines:
one that fails quarantines the tenant (R345, R363), and one that is lost leaves the page as it is (log entry 40). -/
def execFrameCompress (vf frame : Nat) (s : State) : Host.Outcome State Fault Refusal :=
  if s.running vf && s.frameTouched frame then .next s
  else
    s.mailbox vf 3 frame 0
      (s.frameStatus vf frame fun fr => !fr.valid || fr.comp ≠ 0 || fr.stfree || fr.lent || fr.loc.isSome || isCxlFrame frame)
      fun s =>
        if s.integBad (frame * frameBytes) frameBytes then s.quarantine vf (s.bareFault kINTEG)
        else if s.eccLines (frame * frameBytes) frameBytes ≠ 0 then s
        else s.compress vf frame

/-- FRAME_DONATE (OP 4): the storage joins the pool of a context; a plain name loses it. -/
def execFrameDonate (vf frame arg : Nat) (s : State) : Host.Outcome State Fault Refusal :=
  if s.running vf && s.frameTouched frame then .next s
  else
    s.mailbox vf 4 frame arg
      (s.frameStatus vf frame fun fr =>
        fr.comp = 2 || fr.lent || (fr.loc.isSome && fr.comp = 0) || isCxlFrame frame || !(s.ownsCtx vf arg))
      fun s => s.setFrame frame fun fr =>
        if fr.comp = 1 then { fr with stfree := true, ctx := arg } else { fr with valid := false, stfree := true, ctx := arg }

/-! ### Unbinding (R354) -/

/-- The start of an unbind: every launch of the tenant ends with PREEMPTKILL, its sessions close, and nothing more is
placed. -/
def State.unbind (s : State) (vf : Nat) : State :=
  if (s.vf vf).bind == .unbound then s
  else
    let f := s.bareFault kPREEMPTKILL
    let hit (l : Launch) : Launch := if l.vf = vf then l.condemn f else l
    let s := { s with sys := { s.sys.closeSessions (fun e => e.vf == vf) with launches := s.sys.launches.map hit } }
    s.onVf vf fun v => { v with bind := .unbound, unbinding := true }

/-- The rest of an unbind, once no launch of the tenant is left: frames are RELEASED, the cores of its beds zeroed, keys
destroyed and RS erased (R354, R366). -/
def State.finishUnbind (s : State) (vf : Nat) : State :=
  if !(s.vf vf).unbinding || s.sys.launches.any (fun l => l.vf == vf) then s
  else
    let s := (s.framesOf vf).foldl (fun s k => s.releaseFrame k 0 false) s
    let s := (s.ctxsOf vf).foldl State.flushCtx s
    let s := (s.ctxsOf vf).foldl (fun s k => s.onContext k fun c => { c with migrating := false }) s
    let s := s.zero (((s.sys.bedNow.filter fun b => b.2 == vf).map Prod.fst).flatMap bedCores)
    let s := { s with sys := { s.sys with jobs := s.sys.jobs.filter fun j => j.vf ≠ vf,
                                          shakes := s.sys.shakes.filter fun h => h.vf ≠ vf } }
    s.onVf vf fun v => { v with unbinding := false, record := [], tid := [], nparty := 0, shares := [], rs := [], cur := 0,
                                old := false, rotated := 0, skipped := 0 }

/-- Unbinds that can finish. -/
def State.unbinds (s : State) : State := (s.sys.vfs.map Prod.fst).foldl State.finishUnbind s

/-- TENANT_UNBIND (OP 5). -/
def execTenantUnbind (vf : Nat) (s : State) : Host.Outcome State Fault Refusal :=
  s.mailbox vf 5 0 0 0 fun s => s.unbind vf

/-! ### TDISP (R351) -/

/-- The interface's state moving; one that leaves CONFIG_LOCKED or RUN for CONFIG_UNLOCKED or ERROR is unbound. -/
def State.toTdisp (s : State) (vf : Nat) (t : Tdisp) : State :=
  let was := (s.vf vf).tdisp
  let s := s.onVf vf fun v => { v with tdisp := t }
  if (was == .locked || was == .run) && (t == .unlocked || t == .error) then s.unbind vf else s

/-- The error answers of the model's requests: an unexpected request, and Busy. -/
def errUnexpected : Nat := 0x04
def errBusy : Nat := 0x03

/-- LOCK_INTERFACE_REQUEST. -/
def execLockInterfaceRequest (vf : Nat) (s : State) : Host.Outcome State Fault Refusal :=
  if (s.vf vf).tdisp == .unlocked then .next ((s.toTdisp vf .locked).answer (.status 0))
  else .next (s.answer (.status errUnexpected))

/-- START_INTERFACE_REQUEST. -/
def execStartInterfaceRequest (vf : Nat) (s : State) : Host.Outcome State Fault Refusal :=
  if (s.vf vf).tdisp == .locked then .next ((s.toTdisp vf .run).answer (.status 0))
  else .next (s.answer (.status errUnexpected))

/-- STOP_INTERFACE_REQUEST. -/
def execStopInterfaceRequest (vf : Nat) (s : State) : Host.Outcome State Fault Refusal :=
  .next ((s.toTdisp vf .unlocked).answer (.status 0))

def Tdisp.code : Tdisp → Nat
  | .unlocked => 0 | .locked => 1 | .run => 2 | .error => 3

/-- GET_DEVICE_INTERFACE_STATE. -/
def execGetDeviceInterfaceState (vf : Nat) (s : State) : Host.Outcome State Fault Refusal :=
  .next (s.answer (.bytes (natToBytes 1 (s.vf vf).tdisp.code)))

/-- A measurement of the colophon (Table 22-1): as the last reset measured it. -/
def State.measurement (s : State) (i : Nat) : List Byte := measurementOf s.sys.measured i

/-- The colophon, and as it is sent, with its signature (R350). -/
def State.colophon (s : State) : List Byte := measurements s.sys.measured
def State.signedColophon (s : State) : List Byte := s.colophon ++ s.sys.signature

/-- GET_DEVICE_INTERFACE_REPORT: DEVID and the digest of the colophon. -/
def execGetDeviceInterfaceReport (vf : Nat) (s : State) : Host.Outcome State Fault Refusal :=
  let t := (s.vf vf).tdisp
  if t == .locked || t == .run then .next (s.answer (.bytes (deviceId ++ sized 48 (Config.sha384 s.colophon))))
  else .next (s.answer (.status errUnexpected))

/-! ### SPDM (R350, R352) -/

/-- A request that follows a number of steps of the negotiation. -/
def State.negotiated (s : State) (vf n : Nat) (go : State → State) : Host.Outcome State Fault Refusal :=
  if (s.vf vf).spdmStep < n then .next (s.answer (.status errUnexpected)) else .next (go s)

/-- A step of the negotiation. -/
def State.spdmTo (s : State) (vf n : Nat) (r : List Byte) : State :=
  (s.onVf vf fun v => { v with spdmStep := n }).answer (.bytes r)

/-- GET_VERSION: SPDM 1.3; the negotiation begins anew. -/
def execGetVersion (vf : Nat) (s : State) : Host.Outcome State Fault Refusal := .next (s.spdmTo vf 1 [0x13])

/-- GET_CAPABILITIES. -/
def execGetCapabilities (vf : Nat) (s : State) : Host.Outcome State Fault Refusal :=
  s.negotiated vf 1 fun s => s.spdmTo vf 2 (ascii "CERT CHAL MEAS KEY_EX MUT_AUTH ENCRYPT MAC HBEAT KEY_UPD")

/-- NEGOTIATE_ALGORITHMS. -/
def execNegotiateAlgorithms (vf : Nat) (s : State) : Host.Outcome State Fault Refusal :=
  s.negotiated vf 2 fun s => s.spdmTo vf 3 (ascii "SHA-384 AES-256-GCM ECDSA-brainpoolP384r1 ECDHE-brainpoolP384r1")

/-- GET_DIGESTS: of the chain in certificate slot 0. -/
def execGetDigests (vf : Nat) (s : State) : Host.Outcome State Fault Refusal :=
  s.negotiated vf 3 fun s => s.answer (.bytes (sized 48 (Config.sha384 Config.ownChain)))

/-- GET_CERTIFICATE. -/
def execGetCertificate (vf certSlot : Nat) (s : State) : Host.Outcome State Fault Refusal :=
  s.negotiated vf 3 fun s => s.answer (if certSlot = 0 then .bytes Config.ownChain else .status 0x01)

/-- A list of bytes that the spec leaves open: a signature, a nonce, an ephemeral point. -/
def State.drawBytes (s : State) (n : Nat) : List Byte × State :=
  (sized n (Config.freeBytes s.free), { s with free := s.free + 1 })

/-- CHALLENGE: the digest of the chain, the nonce, and the identity key's signature. -/
def execChallenge (vf : Nat) (nonce : List Byte) (s : State) : Host.Outcome State Fault Refusal :=
  s.negotiated vf 3 fun s =>
    let d := s.drawBytes 96
    d.2.answer (.bytes (sized 48 (Config.sha384 Config.ownChain) ++ nonce ++ d.1))

/-- GET_MEASUREMENTS: one index of Table 22-1, their number for 0, all and the signature for 0xFF. -/
def execGetMeasurements (vf index : Nat) (s : State) : Host.Outcome State Fault Refusal :=
  s.negotiated vf 3 fun s =>
    if index = 0 then s.answer (.bytes [7])
    else if index = 0xFF then s.answer (.bytes s.signedColophon)
    else if index ≤ 7 then s.answer (.bytes (s.measurement index))
    else s.answer (.status 0x01)

/-- The lowest session number not in use. -/
def freeSession (ss : List SpdmSession) : Nat :=
  ((List.range 17).find? fun i => !(ss.any fun e => e.id == i)).getD 16

/-- KEY_EXCHANGE: a 17th session is refused with Busy. -/
def execKeyExchange (vf : Nat) (peer : List Byte) (s : State) : Host.Outcome State Fault Refusal :=
  s.negotiated vf 3 fun s =>
    let ss := (s.vf vf).sessions
    if 16 ≤ ss.length then s.answer (.status errBusy)
    else
      let d := s.drawBytes 96
      let k := freeSession ss
      let r := natToBytes 4 k ++ d.1 ++ sized 48 (Config.sha384 peer)
      let e : SpdmSession := { id := k, requester := [], transcript := peer ++ r }
      (d.2.onVf vf fun v => { v with sessions := v.sessions ++ [e] }).answer (.bytes r)

/-- Work on a session that is open. -/
def State.inSession (s : State) (vf session : Nat) (need : Bool) (go : SpdmSession → SpdmSession) :
    Host.Outcome State Fault Refusal :=
  if (s.vf vf).sessions.any fun e => e.id == session && (e.established || !need) then
    let put (e : SpdmSession) : SpdmSession := if e.id = session then go e else e
    .next ((s.onVf vf fun v => { v with sessions := v.sessions.map put }).answer (.status 0))
  else .next (s.answer (.status errUnexpected))

/-- Whether a FINISH authenticates its requester (R352): its last 96 bytes are the signature, under the certificate before
them, of the session's key exchange. -/
def SpdmSession.proves (e : SpdmSession) (peer : List Byte) : Bool :=
  let n := peer.length - 96
  96 < peer.length && Config.signatureOk (peer.take n) e.transcript (peer.drop n)

/-- The error answer to a FINISH that does not verify. -/
def errDecrypt : Nat := 0x06

/-- FINISH: the requester's certificate completes mutual authentication; one that does not verify is refused. -/
def execFinish (vf session : Nat) (peer : List Byte) (s : State) : Host.Outcome State Fault Refusal :=
  if (s.vf vf).sessions.any fun e => e.id == session && !(e.proves peer) then .next (s.answer (.status errDecrypt))
  else s.inSession vf session false fun e =>
    { e with established := true, requester := sized 48 (Config.sha384 (peer.take (peer.length - 96))) }

/-- An interface that enters ERROR (R351): what makes it do so the spec leaves to TDISP (log entry 46). -/
def State.tdispFails (s : State) (vf : Nat) : State :=
  let t := (s.vf vf).tdisp
  if t == .locked || t == .run then s.toTdisp vf .error else s

/-- KEY_UPDATE. -/
def execKeyUpdate (vf session : Nat) (s : State) : Host.Outcome State Fault Refusal :=
  s.inSession vf session true fun e => { e with epoch := e.epoch + 1 }

/-- HEARTBEAT. -/
def execHeartbeat (vf session : Nat) (s : State) : Host.Outcome State Fault Refusal := s.inSession vf session true id

/-- END_SESSION. -/
def execEndSession (vf session : Nat) (s : State) : Host.Outcome State Fault Refusal :=
  if (s.vf vf).sessions.any fun e => e.id == session then
    .next ((s.onVf vf fun v => { v with sessions := v.sessions.filter fun e => e.id ≠ session }).answer (.status 0))
  else .next (s.answer (.status errUnexpected))

/-! ### Binding (R352 to R354, R357) -/

/-- Whether a tenant record is in form (R353). -/
def recordOk (bs : List Byte) : Bool :=
  bs.length = 832 && blockBits bs 0 8 = 1 && 1 ≤ blockBits bs 8 5 && blockBits bs 8 5 ≤ 16 && blockBits bs 13 499 = 0

/-- RECORD (OP 0x01). -/
def execRecord (vf : Nat) (bytes : List Byte) (s : State) : Host.Outcome State Fault Refusal :=
  let v := s.vf vf
  if v.tdisp != .locked || v.bind != .unbound || v.unbinding || !(recordOk bytes) then .next (s.answer (.status 3))
  else
    .next ((s.onVf vf fun v =>
      { v with bind := .recorded, record := bytes, tid := sized 48 (Config.sha384 bytes), nparty := blockBits bytes 8 5,
               shares := [] }).answer (.status 0))

/-- Whether a session of a function is established. -/
def State.sessionOpen (s : State) (vf session : Nat) : Bool :=
  (s.vf vf).sessions.any fun e => e.id == session && e.established

/-- GETREC (OP 0x02): TID and NPARTY. -/
def execGetrec (vf session : Nat) (s : State) : Host.Outcome State Fault Refusal :=
  let v := s.vf vf
  if !(s.sessionOpen vf session) || v.bind == .unbound then .next (s.answer (.status 3))
  else .next (s.answer (.bytes (sized 48 v.tid ++ natToBytes 1 v.nparty)))

/-- PARTY i of a tenant record. -/
def partyOf (record : List Byte) (i : Nat) : List Byte := (record.drop (64 + 48 * i)).take 48

/-- Every share in party order (R354). -/
def sharesInOrder (shares : List (Nat × List Byte)) (n : Nat) : List Byte :=
  (List.range n).flatMap fun i => ((shares.find? fun e => e.1 == i).map Prod.snd).getD []

/-- A function with a share more: the last one gives RS and generation 0. -/
def Vf.addShare (v : Vf) (party : Nat) (share : List Byte) : Vf :=
  let shares := v.shares ++ [(party, share)]
  if shares.length < v.nparty then { v with shares := shares, bind := .collecting }
  else
    let erase (e : Nat × List Byte) : Nat × List Byte := (e.1, [])
    { v with shares := shares.map erase, bind := .bound, cur := 0, old := false,
             rs := sized 48 (Config.hkdfExtract v.tid (sharesInOrder shares v.nparty)) }

/-- SHARE (OP 0x03). -/
def execShare (vf session party : Nat) (share : List Byte) (s : State) : Host.Outcome State Fault Refusal :=
  let v := s.vf vf
  let mine (e : SpdmSession) : Bool := e.id == session && e.established && e.requester == partyOf v.record party
  if v.tdisp != .locked || (v.bind != .recorded && v.bind != .collecting) then .next (s.answer (.status 3))
  else if v.nparty ≤ party || share.length ≠ 48 || !(v.sessions.any mine) then .next (s.answer (.status 1))
  else if v.shares.any fun e => e.1 == party then .next (s.answer (.status 2))
  else .next ((s.onVf vf fun v => v.addShare party share).answer (.status 0))

end Sys2Proof.Machine
end

