-- ==== Sys2Proof/Machine/Sessions.lean ====
section
/-! DEFINITION. Fabric sessions: the Nypoelo handshake behind FABKEY, and the packets of a session (R379 to R386). -/

namespace Sys2Proof.Machine

open Sys2Proof

/-! ### Messages (Table 23-4) -/

/-- The bytes of message 1, and of message 2, which names no PKG and ends with a signature. -/
def helloBytes (m : NypHello) : List Byte :=
  m.colophon ++ m.versions.flatMap (natToBytes 4) ++ m.chain ++ m.tid ++ natToBytes 2 m.pkg ++ m.nonce ++ m.point
def answerBytes (m : NypHello) : List Byte :=
  m.colophon ++ m.versions.flatMap (natToBytes 4) ++ m.chain ++ m.tid ++ m.nonce ++ m.point ++ m.signature
def proofBytes (m : NypProof) : List Byte := m.signature ++ m.tag

/-- Hn: the digest of every message so far. -/
def Handshake.digest (h : Handshake) : List Byte := sized 48 (Config.sha384 h.transcript)

/-- The identity key's signature of a digest. -/
def signed (d : List Byte) : List Byte := sized 96 (Config.identitySign d)

/-- CK, from the root secret and H2. -/
def confirmKey (rs h2 : List Byte) : List Byte := sized 48 (Config.hkdfExpand rs (ascii "YRSH nyp conf" ++ h2) 48)

/-- Ti and Tr: an end's letter and the digest under CK. -/
def confirmTag (rs h2 : List Byte) (who : String) (h : List Byte) : List Byte :=
  sized 48 (Config.hmac (confirmKey rs h2) (ascii who ++ h))

/-- A message to a peer package. -/
def State.tell (s : State) (bs : List Byte) : State := { s with sys := { s.sys with sent := bs :: s.sys.sent } }

/-- The FABKEY of a number, when it is one that waits for its result. -/
def State.fabJob (s : State) (key : Nat) : Option KeyJob :=
  match s.sys.jobs[key]? with
  | none => none
  | some j =>
    if j.cmd.opc = 0x24 ∧ !(fbClose j.cmd.block) ∧ j.result.isNone ∧ (s.vf j.vf).bind != .quarantined then some j else none

/-- The handshake of a job. -/
def Handshake.serves (h : Handshake) (j : KeyJob) : Bool := h.core == j.core && h.cmd == j.cmd.id

def State.shakeOf (s : State) (j : KeyJob) : Option Handshake := s.sys.shakes.find? fun h => h.serves j

def State.setShake (s : State) (h : Handshake) : State :=
  let put (x : Handshake) : Handshake := if x.core = h.core ∧ x.cmd = h.cmd then h else x
  { s with sys := { s.sys with shakes := s.sys.shakes.map put } }

def State.dropShake (s : State) (j : KeyJob) : State :=
  { s with sys := { s.sys with shakes := s.sys.shakes.filter fun h => !(h.serves j) } }

/-- The result of a job known. -/
def State.resolve (s : State) (key : Nat) (j : KeyJob) (r : Nat × Nat × Nat) : State :=
  (s.dropShake j).setJob key { j with result := some r }

def codeUnreach : Nat := 0x0D
def codeMismatch : Nat := 0x0E
def codeFull : Nat := 0x0F

/-- A check that fails at a step: the abort is sent, the ephemeral keys are erased, and the result is MISMATCH (R383). -/
def State.mismatch (s : State) (key : Nat) (j : KeyJob) (step : Nat) : State :=
  (s.tell (ascii "abort" ++ natToBytes 1 step)).resolve key j (codeMismatch, step, 0)

/-- This end's message 1 or 2, with a fresh nonce and point, and the signature that message 2 bears. -/
def State.hello (s : State) (vf : Nat) (sign : List Byte) : NypHello × State :=
  let n := s.drawBytes 32
  let q := n.2.drawBytes 96
  (⟨s.signedColophon, Config.ownVersions, Config.ownChain, sized 48 (s.vf vf).tid, s.sys.pkg, n.1, q.1, sign⟩, q.2)

/-! ### Opening a session (R384, R385) -/

/-- Sessions of a tenant at this end. -/
def State.openCount (s : State) (vf : Nat) : Nat := (s.sys.fabric.filter fun e => e.vf == vf).length

/-- The session number: the initiator's PKG, and its count of sessions opened. -/
def Handshake.number (h : Handshake) (pkg : Nat) : Nat :=
  (if h.initiator then pkg else h.peer) % 2 ^ 10 * 2 ^ 22 + (if h.initiator then h.opened else h.peerOpen) % 2 ^ 22

/-- The x-coordinate of the ECDH shared point, the same for the owner of either key pair (R384). -/
def sharedSecret (own peer : List Byte) : List Byte :=
  if bytesToNat own ≤ bytesToNat peer then Config.sharedPoint own peer else Config.sharedPoint peer own

/-- The session that a completed handshake opens; its transcript is that of H3. -/
def State.openSession (s : State) (h : Handshake) : Nat × State :=
  let rs := (s.vf h.vf).rs
  let salt := sized 48 (Config.hkdfExpand rs (ascii "YRSH nyp bind" ++ h.digest) 48)
  let m := Config.hkdfExtract salt (sharedSecret h.point h.peerPoint)
  let e : FabSession :=
    { num := h.number s.sys.pkg, vf := h.vf, peer := h.peer, initiator := h.initiator,
      kI2R := sized 32 (Config.hkdfExpand m (ascii "YRSH fab i2r") 32),
      kR2I := sized 32 (Config.hkdfExpand m (ascii "YRSH fab r2i") 32),
      ks := sized 48 (Config.hkdfExpand m (ascii "YRSH seal secret") 48) }
  (e.num, { s with sys := { s.sys with fabric := s.sys.fabric ++ [e],
                                       fabOpened := if h.initiator then s.sys.fabOpened + 1 else s.sys.fabOpened } })

/-- A responder whose message 4 is sent, and that no abort has reached, opens its session as its FABKEY completes. -/
def State.respond (s : State) (key : Nat) : State :=
  match s.fabJob key with
  | none => s
  | some j =>
    match s.shakeOf j with
    | none => s
    | some h =>
      if h.initiator || h.step ≠ 4 then s
      else
        let r := s.openSession h
        r.2.resolve key j (codeDone, 0, r.1)

/-! ### The handshake's events (R383, R384) -/

/-- Whether a FABKEY's wait for the peer's has ended: 2^30 ticks have passed, or no path to it exists (R383, Table 23-3). -/
def State.waitOver (s : State) (j : KeyJob) : Bool :=
  j.since.toNat + 2 ^ 30 ≤ s.sys.tick.toNat || s.sys.noPath.any fun e => e.1 == fbPeer j.cmd.block

/-- FABKEY_PEER_REQUEST: the peer's FABKEY of the same TID has arrived, before the wait for it has ended. The lower PKG initiates,
one handshake at a time. -/
def tryFabkeyPeerRequest (key : Nat) (peer : PeerRequest) (s : State) : Option State :=
  match s.fabJob key with
  | none => none
  | some j =>
    if (s.shakeOf j).isSome || peer.pkg ≠ fbPeer j.cmd.block || s.waitOver j then none
    else if 64 ≤ s.openCount j.vf || 64 ≤ peer.openSessions then some (s.resolve key j (codeFull, 0, 0))
    else
      let initiator := decide (s.sys.pkg < peer.pkg)
      if initiator && s.sys.shakes.any (fun h => h.initiator) then none
      else
        let h : Handshake := { core := j.core, cmd := j.cmd.id, vf := j.vf, peer := peer.pkg, initiator := initiator, step := 0,
                               transcript := [], nonce := [], point := [], opened := s.sys.fabOpened, peerOpen := peer.opened }
        if !initiator then some { s with sys := { s.sys with shakes := s.sys.shakes ++ [h] } }
        else
          let m := s.hello j.vf []
          let h := { h with step := 1, nonce := m.1.nonce, point := m.1.point, transcript := helloBytes m.1 }
          let s := m.2
          some (({ s with sys := { s.sys with shakes := s.sys.shakes ++ [h] } }).tell (helloBytes m.1))

def execFabkeyPeerRequest (key : Nat) (peer : PeerRequest) (s : State) : Host.Outcome State Fault Refusal :=
  .next ((tryFabkeyPeerRequest key peer s).getD s)

/-- FABKEY_TIMEOUT: 2^30 ticks have passed without the peer's, or no path exists. -/
def tryFabkeyTimeout (key : Nat) (s : State) : Option State :=
  match s.fabJob key with
  | none => none
  | some j =>
    if (s.shakeOf j).isSome || !(s.waitOver j) then none
    else some (s.resolve key j (codeUnreach, 0, 0))

def execFabkeyTimeout (key : Nat) (s : State) : Host.Outcome State Fault Refusal :=
  .next ((tryFabkeyTimeout key s).getD s)

/-- Whether the signature that ends a colophon verifies under a chain (R350, R384). -/
def colophonOk (chain colophon : List Byte) : Bool :=
  let n := colophon.length - 96
  96 < colophon.length && Config.signatureOk chain (colophon.take n) (colophon.drop n)

/-- The checks of message 1: certificate chain, the colophon's signature, security versions, TID. -/
def State.helloOk (s : State) (vf : Nat) (m : NypHello) : Bool :=
  Config.chainOk m.chain && colophonOk m.chain m.colophon && m.versions.length == Config.ownVersions.length
    && (m.versions.zip Config.ownVersions).all (fun p => p.2 ≤ p.1) && m.tid == sized 48 (s.vf vf).tid

/-- A job's handshake at a step, on the initiator's or the responder's side. -/
def State.atStep (s : State) (key : Nat) (initiator : Bool) (step : Nat) (go : KeyJob → Handshake → State) : Option State :=
  match s.fabJob key with
  | none => none
  | some j => match s.shakeOf j with
    | none => none
    | some h => if h.initiator == initiator && h.step == step then some (go j h) else none

/-- NYPOELO_MSG1: the responder checks it and answers with message 2. -/
def execNypoeloMsg1 (key : Nat) (msg : NypHello) (s : State) : Host.Outcome State Fault Refusal :=
  .next ((s.atStep key false 0 fun j h =>
    if !(s.helloOk j.vf msg) then s.mismatch key j 1
    else
      let h1 := { h with transcript := helloBytes msg }
      let m := s.hello j.vf (signed h1.digest)
      m.2.setShake { h1 with step := 2, transcript := h1.transcript ++ answerBytes m.1, nonce := m.1.nonce, point := m.1.point,
                             peerPoint := msg.point, peerChain := msg.chain } |>.tell (answerBytes m.1)).getD s)

/-- NYPOELO_MSG2: the initiator checks it and the signature over H1, and answers with message 3. -/
def execNypoeloMsg2 (key : Nat) (msg : NypHello) (s : State) : Host.Outcome State Fault Refusal :=
  .next ((s.atStep key true 1 fun j h =>
    if !(s.helloOk j.vf msg) || !(Config.signatureOk msg.chain h.digest msg.signature) then s.mismatch key j 2
    else
      let h := { h with transcript := h.transcript ++ answerBytes msg, peerPoint := msg.point, peerChain := msg.chain }
      let m : NypProof := ⟨signed h.digest, confirmTag (s.vf j.vf).rs h.digest "I" h.digest⟩
      (s.setShake { h with step := 3, transcript := h.transcript ++ proofBytes m, peerChain := h.digest }).tell
        (proofBytes m)).getD s)

/-- NYPOELO_MSG3: the responder checks the signature over H2 and Ti, and answers with message 4. -/
def execNypoeloMsg3 (key : Nat) (msg : NypProof) (s : State) : Host.Outcome State Fault Refusal :=
  .next ((s.atStep key false 2 fun j h =>
    let rs := (s.vf j.vf).rs
    if !(Config.signatureOk h.peerChain h.digest msg.signature) || msg.tag ≠ confirmTag rs h.digest "I" h.digest then
      s.mismatch key j 3
    else
      let h2 := h.digest
      let h := { h with step := 4, transcript := h.transcript ++ proofBytes msg }
      (s.setShake h).tell (confirmTag rs h2 "R" h.digest)).getD s)

/-- NYPOELO_MSG4: the initiator checks Tr, and its session opens. H2 stands where the peer's chain did. -/
def execNypoeloMsg4 (key : Nat) (msg : NypProof) (s : State) : Host.Outcome State Fault Refusal :=
  .next ((s.atStep key true 3 fun j h =>
    if msg.tag ≠ confirmTag (s.vf j.vf).rs h.peerChain "R" h.digest then s.mismatch key j 4
    else
      let r := s.openSession h
      r.2.resolve key j (codeDone, 0, r.1)).getD s)

/-- NYPOELO_ABORT: the peer's check of a step has failed. -/
def tryNypoeloAbort (key step : Nat) (s : State) : Option State :=
  match s.fabJob key with
  | none => none
  | some j => if (s.shakeOf j).isNone || step = 0 || 4 < step then none else some (s.resolve key j (codeMismatch, step, 0))

def execNypoeloAbort (key step : Nat) (s : State) : Host.Outcome State Fault Refusal :=
  .next ((tryNypoeloAbort key step s).getD s)

/-- KEY_COMMAND_COMPLETE (R369 to R375, R383): the next part of a handed-off command, or its status and its object. -/
def execKeyCommandComplete (key : Nat) (s : State) : Host.Outcome State Fault Refusal :=
  let s := s.respond key
  .next ((tryKeyCommandComplete key s).getD s)

/-! ### The ends of a session (R385) -/

/-- A session erased at this end; a COLL that needs it ends its launch. -/
def State.dropSession (s : State) (num : Nat) : State :=
  ({ s with sys := { s.sys with fabric := s.sys.fabric.filter fun e => e.num ≠ num } } : State).endCutOff

/-- The paths to a peer package lost in this tick, or there again. -/
def State.setPath (s : State) (peer : Nat) (up : Bool) : State :=
  let rest := s.sys.noPath.filter fun e => e.1 ≠ peer
  let gone := (s.sys.noPath.filter fun e => e.1 == peer) ++ [(peer, s.sys.tick.toNat)]
  { s with sys := { s.sys with noPath := if up then rest else rest ++ gone.take 1 } }

/-- SESSION_PATH_TIMEOUT: no path to the session's peer for 2^30 ticks. -/
def trySessionPathTimeout (session : Nat) (s : State) : Option State :=
  match s.sys.fabric.find? fun e => e.num == session with
  | none => none
  | some e => if s.sys.noPath.any fun p => p.1 == e.peer && p.2 + 2 ^ 30 ≤ s.sys.tick.toNat then some (s.dropSession session) else none

def execSessionPathTimeout (session : Nat) (s : State) : Host.Outcome State Fault Refusal :=
  .next ((trySessionPathTimeout session s).getD s)

/-- PEER_SESSION_CLOSE. -/
def execPeerSessionClose (session : Nat) (s : State) : Host.Outcome State Fault Refusal := .next (s.dropSession session)

/-! ### Packets (R379 to R381) -/

/-- A peer's access to memory of the tenant: refused where the context is not the tenant's (R355, R379). -/
def State.peerAccess (s : State) (e : FabSession) (port ctx : Nat) (go : State → Except Nat (List Byte) × State) : State :=
  if !(s.ownsCtx e.vf ctx) || (s.vf e.vf).bind == .quarantined then s
  else match go s with
    | (.error k, s) => s.ownAccessFault ctx k
    | (.ok [], s) => s
    | (.ok bs, s) => s.fabSend e.num port (bodyBytes (.reply bs))

/-- What an accepted packet does. -/
def State.deliver (s : State) (e : FabSession) (port : Nat) : FabricBody → State
  | .read ctx dva n => s.peerAccess e port ctx fun s => s.gRead none ctx dva.toNat n accLoad true
  | .write ctx dva bs => s.peerAccess e port ctx fun s =>
    match s.gWrite .peer ctx dva.toNat bs accStore false false with
    | (.error k, s) => (.error k, s)
    | (.ok _, s) => (.ok [], s)
  | .atomic ctx dva op n x => s.peerAccess e port ctx fun s =>
    match s.gRead none ctx dva.toNat n accLoad false with
    | (.error k, s) => (.error k, s)
    | (.ok old, s) =>
      match s.gWrite .peer ctx dva.toNat (natToBytes n (atomOp op n (bytesToNat old) x.toNat)) accAtomic false false with
      | (.error k, s) => (.error k, s)
      | (.ok _, s) => (.ok old, s)
  | .reply bs => s.answer (.bytes bs)
  | .collect ctx h q r k op fm n bs =>
    if s.ownsCtx e.vf ctx then s.joinFar e.vf port ctx h q r k op fm n bs else s

/-- Whether the memory that a packet asks for lies at a home that the open slot pauses: it waits there (R300, R381, R400). -/
def State.bodyPaused (s : State) : FabricBody → Bool
  | .read ctx dva n => s.rangePaused ctx dva.toNat n
  | .write ctx dva bs => s.rangePaused ctx dva.toNat bs.length
  | .atomic ctx dva _ n _ => s.rangePaused ctx dva.toNat n
  | .reply _ => false
  | .collect _ _ _ _ _ _ _ _ _ => false

/-- A flit accepted from a port of a session's peer (R380). -/
def State.takeFlit (s : State) (e : FabSession) (pkt : FabricPacket) : State :=
  { s with sys := { s.sys with flits := (e.peer, pkt.port, pkt.seq) :: s.sys.flits } }

/-- A stored flit sent again, unchanged; and one that the peer has, no longer stored (R380). -/
def State.resendFlit (s : State) (port seq : Nat) : State :=
  match s.sys.flitsKept.find? fun e => e.1 == port && e.2.1 == seq with
  | none => s
  | some e => s.tell e.2.2
def State.freeFlit (s : State) (port seq : Nat) : State :=
  { s with sys := { s.sys with flitsKept := s.sys.flitsKept.filter fun e => e.1 ≠ port || e.2.1 ≠ seq } }

/-- FABRIC_PACKET_RECEIVE (R380, R381): a flit that has been accepted before, and an old counter, are dropped; a tag that fails, or
a counter that skips, raises INTEG. -/
def tryFabricPacketReceive (session : Nat) (pkt : FabricPacket) (s : State) : Option State :=
  match s.sys.fabric.find? fun e => e.num == session with
  | none => none
  | some e =>
    let last := mget 0 e.rx pkt.port
    let plain := bodyBytes pkt.body
    let tag := sized 16 (Config.gcmTag e.recvKey (fabNonce pkt.port pkt.counter) [] plain)
    if s.sys.slotOpen = some 2 || s.sys.flits.contains (e.peer, pkt.port, pkt.seq) then none
    else if pkt.counter ≤ last then some (s.takeFlit e pkt)
    else if pkt.counter ≠ last + 1 || pkt.tag ≠ tag then some ((s.takeFlit e pkt).quarantine e.vf (s.bareFault kINTEG))
    else if s.bodyPaused pkt.body then none
    else
      let up (x : FabSession) : FabSession := if x.num = session then { x with rx := mput x.rx pkt.port pkt.counter } else x
      let s := s.takeFlit e pkt
      some (({ s with sys := { s.sys with fabric := s.sys.fabric.map up } }).deliver e pkt.port pkt.body)

def execFabricPacketReceive (session : Nat) (pkt : FabricPacket) (s : State) : Host.Outcome State Fault Refusal :=
  .next ((tryFabricPacketReceive session pkt s).getD s)

end Sys2Proof.Machine
end

