-- ==== Sys2Proof/Machine/Ports.lean ====
section
/-! DEFINITION. Ethernet, CXL, bring-up, reset and management (R299, R350, R388 to R392). -/

namespace Sys2Proof.Machine

open Sys2Proof

/-! ### Ethernet (R388) -/

def State.setSa (s : State) (a : EspSa) : State :=
  let put (x : EspSa) : EspSa := if x.spi = a.spi ∧ x.egress = a.egress then a else x
  { s with sys := { s.sys with esp := s.sys.esp.map put } }

/-- A packet that is dropped is counted at a function. -/
def State.espCount (s : State) (vf : Nat) : State := s.onVf vf fun v => { v with espDropped := v.espDropped + 1 }

/-- A packet of an association that is dropped is counted at its context's function. -/
def State.espDrop (s : State) (ctx : Nat) : State :=
  match (s.context ctx).vf with
  | none => s
  | some vf => s.espCount vf

/-- The ESP key of an association, as the function's root secret gives it (Table 22-5). -/
def State.espKey (s : State) (a : EspSa) : List Byte :=
  let rs := match (s.context a.ctx).vf with
    | some vf => (s.vf vf).rs
    | none => []
  tenantKey rs (ascii "YRSH esp" ++ natToBytes 4 a.spi ++ natToBytes 1 (if a.egress then 1 else 0))

/-- Whether a sequence number is new: above the window, or in it and not yet seen. -/
def EspSa.fresh (a : EspSa) (q : Nat) : Bool := a.seq < q || (a.seq < q + 1024 && !(a.window.contains q))

/-- An association that has accepted a sequence number. -/
def EspSa.accept (a : EspSa) (q : Nat) : EspSa :=
  let top := max a.seq q
  { a with seq := top, window := (q :: a.window).filter fun x => top < x + 1024, next := (a.next + 1) % max 1 a.buffers }

/-- A number in network byte order. -/
def netBytes (n v : Nat) : List Byte := (natToBytes n v).reverse

/-- The nonce of an ESP packet (RFC 4106): the association's salt, then the packet's IV. -/
def EspSa.nonce (a : EspSa) (iv : List Byte) : List Byte := sized 4 (Config.espSalt a.spi a.egress) ++ sized 8 iv

/-- What the tag of an ESP packet covers beside its payload: SPI and extended sequence number (RFC 4106). -/
def EspSa.aad (a : EspSa) (q : Nat) : List Byte := netBytes 4 a.spi ++ netBytes 8 q

/-- The tag of an ESP packet. -/
def EspSa.tag (a : EspSa) (key : List Byte) (q : Nat) (iv plain : List Byte) : List Byte :=
  sized 16 (Config.gcmTag key (a.nonce iv) (a.aad q) plain)

/-- Whether a function's memory is closed to the outside (R355). -/
def State.closedCtx (s : State) (ctx : Nat) : Bool :=
  match (s.context ctx).vf with
  | none => true
  | some vf => (s.vf vf).bind == .quarantined

/-- ESP_INGRESS: an authenticated payload goes to the next ring buffer of 4 KiB. A packet of no association is counted at the function
it is addressed to (log entry 17). -/
def tryEspIngress (spi : Nat) (pkt : EspPacket) (s : State) : Option State :=
  match s.sys.esp.find? fun a => a.spi == spi && !a.egress with
  | none => if pkt.vf < 64 then some (s.espCount pkt.vf) else none
  | some a =>
    let dva := a.ring.toNat + 4096 * a.next
    if !(a.fresh pkt.seq) || pkt.tag ≠ a.tag (s.espKey a) pkt.seq pkt.iv pkt.payload then some (s.espDrop a.ctx)
    else if s.dvaPaused a.ctx dva then none
    else if s.closedCtx a.ctx then some (s.espDrop a.ctx)
    else match s.gWrite .host a.ctx dva (pkt.payload.take 4096) accStore false false with
      | (.error k, s) => some ((s.ownAccessFault a.ctx k).espDrop a.ctx)
      | (.ok _, s) => some (s.setSa (a.accept pkt.seq))

def execEspIngress (spi : Nat) (pkt : EspPacket) (s : State) : Host.Outcome State Fault Refusal :=
  .next ((tryEspIngress spi pkt s).getD s)

/-- ESP_EGRESS: the next buffer of the egress ring is sent, with an IV that the spec leaves open (log entry 17). -/
def tryEspEgress (spi : Nat) (s : State) : Option State :=
  match s.sys.esp.find? fun a => a.spi == spi && a.egress with
  | none => none
  | some a =>
    let dva := a.ring.toNat + 4096 * a.next
    if s.dvaPaused a.ctx dva || s.closedCtx a.ctx then none
    else match s.gRead none a.ctx dva 4096 accLoad false with
      | (.error k, s) => some (s.ownAccessFault a.ctx k)
      | (.ok bs, s) =>
        let key := s.espKey a
        let q := a.seq + 1
        let iv := s.drawBytes 8
        let pkt := a.aad q ++ iv.1 ++ gcmCrypt key (a.nonce iv.1) bs ++ a.tag key q iv.1 bs
        some ((iv.2.setSa { a with seq := q, next := (a.next + 1) % max 1 a.buffers }).tell pkt)

def execEspEgress (spi : Nat) (s : State) : Host.Outcome State Fault Refusal := .next ((tryEspEgress spi s).getD s)

/-! ### CXL (R389) -/

def State.cxlPort (s : State) (port : Nat) : CxlState := s.sys.cxl.toList.getD port .down

def State.setCxl (s : State) (port : Nat) (c : CxlState) : State :=
  { s with sys := { s.sys with cxl := s.sys.cxl.setIfInBounds port c } }

/-- CXL_LINK_ACTIVE: a port whose link trains comes up. -/
def execCxlLinkActive (port : Nat) (s : State) : Host.Outcome State Fault Refusal :=
  if s.cxlPort port == .training then .next (s.setCxl port .active) else .next s

/-- CXL_LINK_ERROR: a link or IDE failure. -/
def execCxlLinkError (port : Nat) (s : State) : Host.Outcome State Fault Refusal :=
  if s.cxlPort port == .active || s.cxlPort port == .training then .next (s.setCxl port .error) else .next s

/-! ### Bring-up (R390) -/

/-- RESET: every field takes its reset value; the sequence table and FLOOR are kept, firmware updates are measured, and a
BOOTNONCE is drawn and the colophon signed (R350, R373, R392). -/
def execReset (s : State) : Host.Outcome State Fault Refusal :=
  let newer (m : List (Nat × List Byte)) (e : Nat × List Byte) : List (Nat × List Byte) := mput m e.1 e.2
  .next { agenda := s.agenda, focus := s.focus, free := s.free + 1,
          sys := { bootNonce := sized 16 (Config.freeBytes s.free), seqTable := s.sys.seqTable, floor := s.sys.floor,
                   measured := s.sys.firmware.foldl newer s.sys.measured,
                   signature := colophonSign (s.sys.firmware.foldl newer s.sys.measured) } }

/-- Ticks of the bring-up slot (Table 23-6). -/
def bringupTicks : Nat := 24576

/-- A step of bring-up that no event of the table is (Table 23-6): the Amindaer releases the cluster controllers and the I/O die;
the bring-up slot opens, and the links of the CXL ports train; PCIe has enumerated the functions. -/
def State.bringUp (s : State) : State :=
  let next (b : Boot) : State := { s with sys := { s.sys with boot := b } }
  let train (c : CxlState) : CxlState := if c == .down then .training else c
  match s.sys.boot with
  | .measured => next .released
  | .released => { s with sys := { s.sys with boot := .training, trainAt := s.sys.tick.toNat, cxl := s.sys.cxl.map train } }
  | .synced => next .up
  | .training | .trained | .up => s

/-- BRINGUP_SLOT_END: the bring-up slot closes. The Amindaer's own frames are reserved from then on (R213, log entry 40). -/
def execBringupSlotEnd (s : State) : Host.Outcome State Fault Refusal :=
  if s.sys.boot != .training || s.sys.tick.toNat < s.sys.trainAt + bringupTicks then .next s
  else
    let reserve (m : List (Nat × Frame)) (k : Nat) : List (Nat × Frame) := mput m k { mget {} m k with rsvd := true }
    .next { s with sys := { s.sys with
      boot := .trained, frames := Config.reservedFrames.foldl reserve s.sys.frames } }

/-- TIMEBASE_SYNC: the count is 0 at the pod's time-sync instant (R299). -/
def execTimebaseSync (s : State) : Host.Outcome State Fault Refusal :=
  if s.sys.boot != .trained then .next s
  else .next { s with sys := { s.sys with boot := .synced, tick := 0, tenths := 0 } }

/-! ### Management (R391, R392) -/

/-- A queue assigned to a function's doorbell, within its quota. -/
def State.assignQueue (s : State) (vf k q : Nat) : State :=
  let rest := s.sys.doorbells.filter fun e => e.1 ≠ vf * 512 + k && e.2 ≠ q
  if 64 ≤ vf || 512 ≤ k || 8192 ≤ q || (s.vf vf).queueQuota ≤ (rest.filter fun e => e.1 / 512 == vf).length then s
  else { s with sys := { s.sys with doorbells := mput rest (vf * 512 + k) q } }

/-- The beds of a function: a bed that nobody holds is held by it at once, and its slice begins with the next slot that opens, unless
one runs on beds that it shares already (R196); one that it has lost it leaves by its ladder, saved and zeroed (R172). -/
def State.assignBeds (s : State) (vf : Nat) (beds : List Nat) : State :=
  let bs := beds.filter fun b => b < 128
  let all := (s.sys.beds.filter fun e => e.2 ≠ vf) ++ bs.map fun b => (b, vf)
  let open_ := (all.filter fun e => !(s.sys.bedNow.any fun x => x.1 == e.1)).foldl
    (fun m (e : Nat × Nat) => if m.any fun x => x.1 == e.1 then m else m ++ [e]) ([] : List (Nat × Nat))
  let begin (s : State) (f : Nat) : State := s.onVf f fun v => { v with sliceStart := nextPeriod 3 s.period }
  let fresh := (open_.map Prod.snd).eraseDups.filter fun f => (s.sharedBeds f).isEmpty
  fresh.foldl begin { s with sys := { s.sys with beds := all, bedNow := s.sys.bedNow ++ open_ } }

/-- The weight of a function in a cluster's collective engine (R269). -/
def State.collWeight (s : State) (cluster vf w : Nat) : State :=
  let s := s.collQueue cluster vf
  let put (q : CollQueue) : CollQueue := if q.cluster = cluster ∧ q.vf = vf then { q with weight := w } else q
  { s with sys := { s.sys with collQueues := s.sys.collQueues.map put } }

/-- A setting of an island. -/
def State.onIsland (s : State) (i : Nat) (g : Island → Island) : State :=
  let x := s.sys.islands.toList.getD i {}
  { s with sys := { s.sys with islands := s.sys.islands.setIfInBounds i (g x) } }

/-- What a setting does, one out of its range being refused; and what a read answers: a register of Table 16-4, the
machine-check events in order, or a sensor's value, which is open (log entry 38). -/
def State.manage (s : State) : MgmtItem → State
  | .pkg n => if n < 1024 then { s with sys := { s.sys with pkg := n } } else s
  | .powerCap w => if w ≤ 4200 then { s with sys := { s.sys with powerCap := w } } else s
  | .cooled i => s.onIsland i fun x => { x with cooled := true }
  | .frameQuota vf n => if vf < 64 then s.onVf vf fun v => { v with frameQuota := n } else s
  | .queueQuota vf n => if vf < 64 then s.onVf vf fun v => { v with queueQuota := n } else s
  | .assignQueue vf k q => s.assignQueue vf k q
  | .assignBeds vf bs => if vf < 64 then s.assignBeds vf bs else s
  | .assignContext vf ctx => if vf < 64 ∧ ctx < 256 then s.onContext ctx fun c => { c with vf := some vf, migrating := false } else s
  | .sliceLength vf n => if vf < 64 ∧ 1 ≤ n then s.onVf vf fun v => { v with sliceLen := n } else s
  | .contextWeight ctx w => if ctx < 256 ∧ 1 ≤ w ∧ w < 256 then s.onContext ctx fun c => { c with weight := w } else s
  | .collectiveWeight cl vf w => if cl < 8 ∧ vf < 64 ∧ 1 ≤ w ∧ w < 256 then s.collWeight cl vf w else s
  | .graces vf a b => if vf < 64 ∧ a < 256 ∧ 1 ≤ b ∧ b < 65536 then s.onVf vf fun v => { v with g1 := a, g2 := b } else s
  | .readMrovr r => s.answer (.bytes (natToBytes 8 (mget {} s.sys.mrovr r).word.toNat))
  | .readEvents => s.answer (.bytes (s.sys.mces.reverse.flatMap (natToBytes 1)))
  | .readSensor _ =>
    let v := s.drawBytes 8
    v.2.answer (.bytes v.1)

/-- A cluster controller's choice of an island's next operating point (R307). -/
def State.choosePoint (s : State) (i p : Nat) : State :=
  if 10 ≤ p ∧ p ≤ 20 then s.onIsland i fun x => { x with next := some p } else s

/-- MANAGEMENT_SET. -/
def execManagementSet (what : MgmtItem) (s : State) : Host.Outcome State Fault Refusal := .next (s.manage what)

/-- FIRMWARE_UPDATE: firmware of Table 22-1 that the next reset measures. -/
def execFirmwareUpdate (image : Nat) (digest : List Byte) (s : State) : Host.Outcome State Fault Refusal :=
  if 2 ≤ image ∧ image ≤ 5 then
    .next { s with sys := { s.sys with firmware := mput s.sys.firmware image (sized 48 digest) } }
  else .next s

end Sys2Proof.Machine
end

