-- ==== Sys2Proof/Machine/Debug.lean ====
section
/-! DEFINITION. The debug mailbox of a core (R72, R339, R340). -/

namespace Sys2Proof.Machine

open Sys2Proof

/-- Whether a core answers in a function's debug window: it runs a launch of one of the function's own contexts, and the
interface is in RUN. -/
def State.inWindow (s : State) (vf core : Nat) : Bool :=
  s.running vf && match s.gangAt core with
    | none => false
    | some g => match s.launchOf g.launch with
      | none => false
      | some l => l.vf == vf

/-- Whether a core answers whoever reaches its mailbox: a function in its window, firmware always. -/
def State.mailOpen (s : State) (who : Option Nat) (core : Nat) : Bool :=
  core < 2048 && match who with
    | none => true
    | some vf => s.inWindow vf core

/-- The mailbox of a core changed. -/
def State.onDbg (s : State) (core : Nat) (g : Mailbox → Mailbox) : State :=
  s.onCore core fun c => { c with dbg := g c.dbg }

/-- The operations of the mailbox, each with its OP. -/
inductive MailOp where
  | arm | disarm | halt | brk | step | run | read | write | unknown (op : Nat)
deriving DecidableEq, Repr

/-- OP of an operation. -/
def MailOp.code : MailOp → Nat
  | .arm => 1
  | .disarm => 2
  | .halt => 3
  | .brk => 4
  | .step => 5
  | .run => 6
  | .read => 7
  | .write => 8
  | .unknown op => op

/-- The operation that an OP names. -/
def MailOp.ofCode (op : Nat) : MailOp :=
  match op with
  | 1 => .arm
  | 2 => .disarm
  | 3 => .halt
  | 4 => .brk
  | 5 => .step
  | 6 => .run
  | 7 => .read
  | 8 => .write
  | _ => .unknown op

/-- The states in which an operation suits (log entry 43). -/
def MailOp.suits (o : MailOp) (st : Nat) : Bool :=
  match o with
  | .arm => st ≠ 2
  | .disarm => true
  | .halt => st = 1
  | .brk | .read => st ≠ 0
  | .step | .run | .write => st = 2
  | .unknown _ => false

/-- READ writes the core record, then the pending-write list. -/
def State.mailRead (s : State) (core : Nat) (addr : Word) : State :=
  let c := s.coreOf core
  match s.gWrite .package c.ctx addr.toNat (imageBytes (s.coreImage core) ++ c.pendingList) accStore false false with
  | (.error k, s) => (s.ownAccessFault c.ctx k).onDbg core fun d => { d with result := 0xFF }
  | (.ok _, s) => s

/-- WRITE copies the banks, run registers and the words that the launch's mode may write. -/
def State.mailWrite (s : State) (core : Nat) (addr : Word) : State :=
  let c := s.coreOf core
  match s.gRead none c.ctx addr.toNat recordBytes accLoad false with
  | (.error k, s) => (s.ownAccessFault c.ctx k).onDbg core fun d => { d with result := 0xFF }
  | (.ok bs, s) =>
    let m := writeBytes [] 0 bs
    s.onCore core fun c => (c.withRegs m).withWords m

/-- Whether a core stands at a bundle boundary: no bundle of it is held but in a wait of R174. -/
def State.atEdge (s : State) (k : Nat) : Bool := s.held.all fun h => h.core ≠ k || h.hold.boundary

/-- A core halting at its next bundle boundary, which may be this one (R339). -/
def State.haltSoon (s : State) (k : Nat) : State :=
  s.onDbg k fun d =>
    if s.atEdge k && !(s.coreOf k).stopReq then { d with state := 2, code := 0, step := none, halting := false }
    else { d with halting := true }

/-- The step of a core that has committed no bundle in 65,536 clk (R340). -/
def Core.stepOver (c : Core) : Bool :=
  match c.dbg.step with
  | some (_, t) => c.dbg.state = 1 && t + 65536 ≤ c.clk && !c.stopReq
  | none => false

/-- It stops, the core halted. -/
def State.stopStep (s : State) (k : Nat) : State :=
  s.onDbg k fun d => { d with state := 2, result := 2, step := none, skip := false }

/-- What the debugger does as a core's turn begins: a HALT that is due, or the end of a step in which no bundle commits. -/
def State.dbgTurn (s : State) (k : Nat) : Option State :=
  let c := s.coreOf k
  if c.dbg.halting && s.atEdge k && !c.stopReq then some (s.haltSoon k)
  else if c.stepOver then some (s.stopStep k)
  else none

/-- What an operation that suits STATE does, by its operand and the words ADDR and DATA. -/
def State.mailDoes (s : State) (core : Nat) (o : MailOp) (operand addr data : Word) : State :=
  match o with
  | .arm => s.onDbg core fun d => { d with state := 1 }
  | .disarm => s.onDbg core fun d => { d with state := 0, breaks := [0, 0, 0, 0], step := none, skip := false, halting := false }
  | .halt =>
    let cores := if operand.getLsbD 0 then (match s.gangAt core with
      | some g => g.cores
      | none => [core]) else [core]
    cores.foldl State.haltSoon s
  | .brk => s.onDbg core fun d => { d with breaks := d.breaks.set (addr.toNat % 4) data }
  | .step =>
    let n := operand.toNat % 2 ^ 16
    let t := (s.coreOf core).clk
    if n = 0 then s else s.onDbg core fun d => { d with state := 1, step := some (n, t), skip := true }
  | .run => s.onDbg core fun d => { d with state := 1, step := none, skip := true }
  | .read => s.mailRead core addr
  | .write => s.mailWrite core addr
  | .unknown _ => s

/-- Whether the memory that READ or WRITE reaches is paused by the open slot: the operation waits (R300). -/
def State.mailWaits (s : State) (core : Nat) (o : MailOp) (addr : Word) : Bool :=
  let c := s.coreOf core
  match o with
  | .read => s.rangePaused c.ctx addr.toNat (recordBytes + c.pendingList.length)
  | .write => s.rangePaused c.ctx addr.toNat recordBytes
  | _ => false

/-- A write of CMD: the operation is performed with ADDR and DATA as they stand; any other OP, or one that does not suit
STATE, sets RESULT to 0xFF and changes nothing. -/
def State.mailOp (s : State) (who : Option Nat) (core : Nat) (o : MailOp) (operand : Word) : State :=
  if !(s.mailOpen who core) then s
  else
    let d := (s.coreOf core).dbg
    let word := BitVec.ofNat 64 (o.code + operand.toNat % 2 ^ 56 * 2 ^ 8)
    if !(o.suits d.state) then s.onDbg core fun d => { d with cmd := word, result := 0xFF }
    else if s.mailWaits core o d.addr then s
    else (s.onDbg core fun d => { d with cmd := word, result := 0 }).mailDoes core o operand d.addr d.data

/-- STATUS. -/
def Mailbox.status (d : Mailbox) : Word :=
  BitVec.ofNat 64 (d.state % 256 + d.result % 256 * 2 ^ 8 + d.code % 65536 * 2 ^ 16)

/-- A word of the mailbox, by its offset; the rest of the 64 bytes reads as 0. -/
def Mailbox.word (d : Mailbox) (off : Nat) : Word :=
  match off with
  | 0x00 => d.cmd
  | 0x08 => d.addr
  | 0x10 => d.data
  | 0x18 => d.status
  | _ => 0

/-- A write or a read of a word of the mailbox: CMD performs, ADDR and DATA keep what is written, the others keep nothing. -/
def State.mail (s : State) (who : Option Nat) (core off : Nat) (value : Option Word) : State :=
  if !(s.mailOpen who core) then s.answer .unsupported
  else match value with
    | none => s.answer (.bytes (natToBytes 8 ((s.coreOf core).dbg.word off).toNat))
    | some v =>
      match off with
      | 0x00 => s.mailOp who core (MailOp.ofCode (v.toNat % 256)) (v >>> 8)
      | 0x08 => s.onDbg core fun d => { d with addr := v }
      | 0x10 => s.onDbg core fun d => { d with data := v }
      | _ => s

/-- An operation of a function's driver, written with the words it uses (R339). -/
def State.dbgEvent (s : State) (vf core : Nat) (o : MailOp) (operand : Word) (addr data : Option Word) : State :=
  if !(s.mailOpen (some vf) core) then s
  else (s.onDbg core fun d => { d with addr := addr.getD d.addr, data := data.getD d.data }).mailOp (some vf) core o operand

/-- DBG_ARM (OP 0x01). -/
def execDbgArm (vf core : Nat) (s : State) : Host.Outcome State Fault Refusal :=
  .next (s.dbgEvent vf core .arm 0 none none)

/-- DBG_DISARM (OP 0x02): breakpoints are cleared, and a halted core resumes. -/
def execDbgDisarm (vf core : Nat) (s : State) : Host.Outcome State Fault Refusal :=
  .next (s.dbgEvent vf core .disarm 0 none none)

/-- DBG_HALT (OP 0x03): the core, or every member of its gang, halts at its bundle boundary. -/
def execDbgHalt (vf core : Nat) (operand : Word) (s : State) : Host.Outcome State Fault Refusal :=
  .next (s.dbgEvent vf core .halt operand none none)

/-- DBG_BREAK (OP 0x04): breakpoint ADDR[1:0] is set, or cleared by zero. -/
def execDbgBreak (vf core : Nat) (addr data : Word) (s : State) : Host.Outcome State Fault Refusal :=
  .next (s.dbgEvent vf core .brk 0 (some addr) (some data))

/-- DBG_STEP (OP 0x05): a halted core issues a number of bundles. -/
def execDbgStep (vf core : Nat) (operand : Word) (s : State) : Host.Outcome State Fault Refusal :=
  .next (s.dbgEvent vf core .step operand none none)

/-- DBG_RUN (OP 0x06). -/
def execDbgRun (vf core : Nat) (s : State) : Host.Outcome State Fault Refusal :=
  .next (s.dbgEvent vf core .run 0 none none)

/-- DBG_READ (OP 0x07): the core record, then the pending-write list. -/
def execDbgRead (vf core : Nat) (addr : Word) (s : State) : Host.Outcome State Fault Refusal :=
  .next (s.dbgEvent vf core .read 0 (some addr) none)

/-- DBG_WRITE (OP 0x08), on a halted core. -/
def execDbgWrite (vf core : Nat) (addr : Word) (s : State) : Host.Outcome State Fault Refusal :=
  .next (s.dbgEvent vf core .write 0 (some addr) none)

/-- DBG_BREAKPOINT_HIT (R339): the core halts before the bundle at a breakpoint issues. -/
def execDbgBreakpointHit (core : Nat) (s : State) : Host.Outcome State Fault Refusal :=
  let c := s.coreOf core
  let hnd := c.run.isSome
  if c.placed.isNone ∨ !(c.atBreak (c.bank hnd).pc) ∨ s.held.any (fun h => h.core == core && h.hnd == hnd) then .next s
  else .next (s.onDbg core fun d => { d with state := 2, code := 0, step := none })

/-- DBG_STEP_TIMEOUT (R340): no bundle has committed in 65,536 clk of a step. -/
def execDbgStepTimeout (core : Nat) (s : State) : Host.Outcome State Fault Refusal :=
  .next (if (s.coreOf core).stepOver then s.stopStep core else s)

end Sys2Proof.Machine
end

