-- ==== Sys2Proof/Machine/Bar.lean ====
section
/-! DEFINITION. Reads of a virtual function's BAR0, and requests that bear no T bit (R387, Table 23-5). -/

namespace Sys2Proof.Machine

open Sys2Proof

/-- A word of a context entry. -/
def Context.word (c : Context) (off : Nat) : Nat :=
  match off with
  | 0x00 => c.ptroot
  | 0x08 => (if c.enable then 1 else 0) + c.weight * 2 ^ 8
  | 0x10 => c.saveDva.toNat
  | 0x18 => c.saveLen
  | 0x20 => c.dumpDva.toNat
  | 0x28 => c.dumpLen
  | 0x30 => c.fqDva.toNat
  | 0x38 => c.fqLen
  | 0x40 => c.fqHead
  | 0x48 => c.fqTail
  | 0x50 => c.logDva.toNat
  | 0x58 => c.logLen
  | 0x60 => c.logHead
  | 0x68 => c.logTail
  | 0x70 => (if c.replay then 1 else 0) + (match c.diverge with
    | none => 0
    | some i => 2 ^ 63 + i % 2 ^ 31 * 2 ^ 32)
  | 0x80 => c.dlBase.toNat
  | 0x88 => c.dlSize + c.dlHead * 2 ^ 32
  | 0x90 => c.dlTail + (if c.dlArm then 2 ^ 32 else 0) + (if c.dlOvf then 2 ^ 33 else 0)
  | 0xA0 => c.grpDva.toNat
  | 0xA8 => c.grpLen
  | 0xB0 => c.invDva.toNat
  | 0xB8 => c.invPages
  | _ => 0

/-- A word of the queue table: of the descriptor at a doorbell index, zero where no queue is assigned. -/
def State.queueWord (s : State) (vf off : Nat) : Nat :=
  match s.queueAt vf (off / 32) with
  | none => 0
  | some q => (s.queueOf q).desc q / 2 ^ (8 * (off % 32)) % 2 ^ 64

/-- A word of the context table: zero where the context is not the function's. -/
def State.contextWord (s : State) (vf off : Nat) : Nat :=
  if s.ownsCtx vf (off / 256) then (s.context (off / 256)).word (off % 256) else 0

/-- A word of the frame mailbox. -/
def Vf.mailWord (v : Vf) (off : Nat) : Nat :=
  match off with
  | 0x00 => v.mbOp
  | 0x08 => v.mbF
  | 0x10 => v.mbArg
  | 0x18 => v.mbStatus
  | _ => 0

/-- An aligned word of BAR0 as the host reads it, none where BAR0 does not answer: only the queue table and the context table do so
outside RUN. The doorbells and what the table does not name read as zero (log entry 41). -/
def State.bar0Word (s : State) (vf off : Nat) : Option Nat :=
  if 0x1000 ≤ off ∧ off < 0x5000 then some (s.queueWord vf (off - 0x1000))
  else if 0x10000 ≤ off ∧ off < 0x20000 then some (s.contextWord vf (off - 0x10000))
  else if !(s.running vf) then none
  else if off = 0x5000 then some (s.vf vf).aperture.toNat
  else if 0x20000 ≤ off ∧ off < 0x20040 then some ((s.vf vf).mailWord (off - 0x20000))
  else if 0x40000 ≤ off ∧ off < 0x60000 then
    (if s.inWindow vf ((off - 0x40000) / 64) then some ((s.coreOf ((off - 0x40000) / 64)).dbg.word (off % 64)).toNat else none)
  else some 0

/-- A read of bytes of BAR0: of one aligned word; where BAR0 does not answer, the read completes with Unsupported Request. -/
def State.bar0Read (s : State) (vf off n : Nat) : State :=
  match s.bar0Word vf (off / 8 * 8) with
  | none => s.answer .unsupported
  | some w => s.answer (.bytes (((natToBytes 8 w).drop (off % 8)).take n))

/-- A request without the T bit of the function's IDE stream is refused (R387). -/
def State.plainRequest (s : State) (read : Bool) : State := s.answer (if read then .unsupported else .dropped)

end Sys2Proof.Machine
end

