-- ==== Sys2Proof/Machine/Background.lean ====
section
/-! DEFINITION. The events that come about by themselves while the core in focus issues nothing and the agenda is empty (log
entry 2): the first one that is due. -/

namespace Sys2Proof.Machine

open Sys2Proof

/-- The first event of a list that comes about. -/
def firstDue : List (State → Option State) → State → Option State
  | [], _ => none
  | e :: es, s => (e s).or (firstDue es s)

/-- Accesses, walks, expansions and replies. -/
def State.memoryEvents (s : State) (k : Nat) : List (State → Option State) :=
  (s.walksOf (k / 256)).map (fun w => tryWalkComplete (k / 256) w.ctx (BitVec.ofNat 64 w.page))
    ++ s.sys.expansions.map (fun e => tryExpansionComplete e.frame)
    ++ (s.coreOf k).gacc.map (fun g => tryGlobalAccessPerform k g.id)
    ++ [trySyscEcho k, trySyscClock k, trySyscOtherService k, trySyscNotify k, tryGangResume k, tryEnqAnswer k]
    ++ s.sys.dqReqs.map (fun q => tryDequePortRequest q.owner) ++ [tryDqstealAnswer k]

/-- A KSTAT's answer. -/
def tryKstatAnswer (k : Nat) (s : State) : Option State :=
  let mine (a : AskReq) : Bool := a.core == k && (match a.what with
    | .kstat _ _ => true
    | _ => false)
  if s.sys.asks.any mine && s.amindaerReached k then some (s.answerKstat k) else none

/-- Engines, messages, collectives and key commands. -/
def State.engineEvents (s : State) (k : Nat) : List (State → Option State) :=
  let c := s.coreOf k
  [tryKstatAnswer k]
    ++ c.mats.map (fun o => tryMatrixOpFinish k o.cmd.id) ++ [tryMatrixOpStart k]
    ++ c.cmds.flatMap (fun m => [tryCommandComplete k m.id, tryObjaddPerform k m.id, tryGalleyRowLand k m.id,
        tryChunkComplete k m.id, tryChunkStart k m.id])
    ++ s.sys.msgs.map (fun e => tryMqEntryArrival e.src e.dst)
    ++ (List.range c.mq.arriving.length).map (fun i => tryMqEntryWritten k i)
    ++ s.sys.acks.map (fun a => fun s => tryMqAckReceive a.sender ((s.memberCore a.sender a.member).getD 2048) s)
    ++ s.sys.msgs.map (fun e => tryMqResend e.src e.dst)
    ++ (List.range 8).map tryCollEntry
    ++ [tryKeyHandoff k] ++ (List.range s.sys.jobs.length).map (fun i => fun s => tryKeyCommandComplete i (s.respond i))

/-- Gangs, launches and queues. -/
def State.launchEvents (s : State) (k : Nat) : List (State → Option State) :=
  let gangs := s.sys.gangs.map fun g => g.id
  gangs.flatMap (fun g => (List.range 8).map fun t => tryBarrierRelease g t)
    ++ [tryCoreStop k]
    ++ gangs.map tryGangEnd
    ++ s.sys.launches.map (fun l => tryLaunchAbort l.id)
    ++ gangs.map tryGangSave
    ++ s.sys.launches.map (fun l => tryLaunchComplete l.id)
    ++ s.sys.zeroing.map tryCoreZeroingComplete
    ++ (s.sys.queues.map Prod.fst).flatMap (fun q =>
        [tryQueueAging q, tryNopRecord q, trySignalRecord q, tryWaitRecord q, tryWaitRetire q, tryDependenceMet q, tryLaunchRecord q])
    ++ (s.sys.vfs.map Prod.fst).flatMap (fun v => [trySliceEnd v, tryLadderG1Expiry v, tryLadderG2Expiry v, tryGangPlace v])

/-- Probes of the members that the core has sent to. -/
def State.probeEvents (s : State) (k : Nat) : List (State → Option State) :=
  (s.coreOf k).peers.map fun e => fun s => match s.memberCore k e.1 with
    | none => none
    | some d => tryMqProbe k d s

/-- The first event that is due, if any. -/
def State.background (s : State) (k : Nat) : State :=
  (firstDue (s.memoryEvents k ++ s.engineEvents k ++ s.launchEvents k ++ s.probeEvents k) s).getD s

end Sys2Proof.Machine
end

