-- ==== Sys2Proof/Machine/RunMem.lean ====
section
/-! DEFINITION. The run transfers between scratchpad and run registers (R161 to R164). -/

namespace Sys2Proof.Machine

open Sys2Proof

/-- The first free clk of the issuing slot's run-memory path (R161). -/
def pathFree (f : Fields) (c : Core) : Nat := if f.slot = .aga then c.pathFree.1 else c.pathFree.2

/-- The path is occupied for n clk from the clk of issue (R161). -/
def Core.occupyPath (c : Core) (f : Fields) (since n : Nat) : Core :=
  if f.slot = .aga then { c with pathFree := (since + n, c.pathFree.2) }
  else { c with pathFree := (c.pathFree.1, since + n) }

/-- An instruction that needs the slot's run-memory path: a bundle that finds it busy stalls. -/
def onPath (f : Fields) (s : State) (body : State → State) : State :=
  if s.bun.cur.clk < pathFree f s.bun.cur then s.stalls else body s

/-- The hold and occupancy of a transfer of p slugs and b dense bytes (R161). -/
def State.transfer (s : State) (f : Fields) (p b : Nat) (body : State → State) : State :=
  s.heldFor ((b + 511) / 512 - 1) fun s =>
    (body s).onCur fun c => c.occupyPath f s.bun.since (max (sixteenths p) ((b + 511) / 512))

/-- The latency 4 + ⌈P/16⌉ counted from the clk of issue (R161), or from the commit of a bundle that a `.c` operation holds
(R128). -/
def State.pathLat (s : State) (p : Nat) : Nat :=
  if s.bun.coal then 4 + sixteenths p else max 1 (s.bun.since + 4 + sixteenths p - s.bun.cur.clk)

/-- The dense span of an LDV or STV: offset, bytes, first scale byte, blocks (R162). -/
structure Span where
  ea : Nat
  bytes : Nat
  scale : Nat
  blocks : Nat
deriving DecidableEq, Repr

/-- The span of n elements at an address register's value. -/
def spanOf (fm : Forme) (a : Word) (n : Nat) : Span :=
  let ea := if fm.mxb then a.toNat % 2 ^ 32 else a.toNat
  ⟨ea, rowBytes fm.fmt n, fm.scale + a.toNat / 2 ^ 32, if fm.mxb then (n + 31) / 32 else 0⟩

/-- The scratchpad checks of a span (R161, R162): PROT, UNALIGN (beside PKDACC, which is reported before it), then `spChecks`
over the row and its scales. The answer says whether the transfer may go on. -/
def State.spanChecks (s : State) (f : Fields) (fm : Forme) (p : Span) (write : Bool) : Bool × State :=
  let size := fmtBits fm.fmt / 8
  if 2 ^ 21 ≤ p.ea || 2 ^ 21 < p.ea + p.bytes then (false, s.raise f kPROT (BitVec.ofNat 64 p.ea))
  else if p.blocks ≠ 0 ∧ 2 ^ 21 < p.scale + p.blocks then (false, s.raise f kPROT (BitVec.ofNat 64 p.scale))
  else if 2 ≤ size ∧ p.ea % size ≠ 0 then
    (false, ((s.packedCheck f p.ea (p.ea + p.bytes)).packedCheck f p.scale (p.scale + p.blocks)).raise f kUNALIGN
      (BitVec.ofNat 64 p.ea))
  else
    let s := s.spChecks f p.ea (p.ea + p.bytes) write (before := !write)
    let s := if p.blocks = 0 then s else s.spChecks f p.scale (p.scale + p.blocks) write (before := !write)
    (true, s)

/-- A transfer's range, and its scales', in use for a latency (R200). -/
def State.usesSpan (s : State) (p : Span) (lat : Nat) : State :=
  let s := s.uses p.ea (p.ea + p.bytes) lat
  if p.blocks = 0 then s else s.uses p.scale (p.scale + p.blocks) lat

/-- The forme of an LDV or STV, or FMTMIS (R162). The PROT or PKDACC of the address is reported before it (R324). -/
def onForme (f : Fields) (s : State) (body : Forme → State → State) : State :=
  let fm := formeOf f s
  let a := opA f s
  if fm.empty || fm.runpk then
    (if 2 ^ 21 ≤ a.toNat then s.raise f kPROT a else s.packedCheck f a.toNat (a.toNat + 1)).raise f kFMTMIS
  else body fm s

/-- The advance of an LDV or STV by c elements, when V is set (R162, R163). -/
def State.advance (s : State) (f : Fields) (opc : Nat) (fm : Forme) (c : Nat) : State :=
  if f.v && c ≠ 0 then
    let step := rowBytes fm.fmt c + (if fm.mxb then 2 ^ 32 * ((c + 31) / 32) else 0)
    s.result f opc f.slot.file f.a.toNat (some 1) (.word (opA f s + BitVec.ofNat 64 step)) 0
  else s

/-- LDV (R162): through a forme of an empty tensor it reads nothing (R118). DESIGN CHOICE: where the capacity stops it, the hold
counts the bytes of the elements kept (log entry 48). -/
def execLdv (f : Fields) (s : State) : Host.Outcome State Fault Refusal :=
  onGuard f s fun s => onPath f s fun s => onForme f s fun fm s =>
    let n := fm.moves (match f.len with
      | .three => f.l32.toNat % 2 ^ 16
      | _ => min fm.d0 65535)
    let p := spanOf fm (opA f s) n
    match s.spanChecks f fm p false with
    | (false, s) => s
    | (true, s) =>
      let row := readN s.bun.pre.sp p.ea p.bytes
      let r := loadDense fm n (elemOfRow fm.fmt row) fun k => (readByte s.bun.pre.sp (p.scale + k)).toNat
      let c := r.1.len
      s.transfer f r.1.runs (rowBytes fm.fmt c + (if fm.mxb then (c + 31) / 32 else 0)) fun s =>
        let file := fileOfCode f.slot.file f.sc
        ((s.usesSpan p (s.pathLat r.1.runs)).result f 0x05 file f.d.toNat (some (s.pathLat r.1.runs)) (.run r.1) r.2).advance
          f 0x05 fm c

/-- STV (R163): through a forme of an empty tensor it writes nothing (R118). -/
def execStv (f : Fields) (s : State) : Host.Outcome State Fault Refusal :=
  onGuard f s fun s => onPath f s fun s => onForme f s fun fm s =>
    let c := fm.carries (s.rdRun (fileOfCode f.slot.file f.sc) f.c.toNat)
    let p := spanOf fm (opA f s) c.len
    match s.spanChecks f fm p true with
    | (false, s) => s
    | (true, s) =>
      s.transfer f c.runs (p.bytes + p.blocks) fun s =>
        let r := storeDense fm c
        let s := s.spStore f p.ea (natToBytes p.bytes (rowOfElems fm.fmt r.1))
        let s := if p.blocks = 0 then s else s.spStore f p.scale (r.2.1.map fun x => BitVec.ofNat 8 x)
        ((s.usesSpan p (s.pathLat c.runs)).flagsIn f 0x07 (s.pathLat c.runs) r.2.2).advance f 0x07 fm c.len

/-- Bytes of a run-packed row, rounded up to 16 (R132, R164). -/
def packedBytes (r : RunReg) : Nat := (16 + slugBytes r.tag * r.runs + 15) / 16 * 16

/-- The advance of LDVP and STVP, when V is set (R164). -/
def State.advancePacked (s : State) (f : Fields) (opc : Nat) (r : RunReg) : State :=
  if f.v then
    s.result f opc f.slot.file f.a.toNat (some 1) (.word (opA f s + BitVec.ofNat 64 (packedBytes r))) 0
  else s

/-- LDVP (R133, R164): a header that the chase or a waking group holds back is read once it is there (R252). -/
def execLdvp (f : Fields) (s : State) : Host.Outcome State Fault Refusal :=
  onGuard f s fun s => onPath f s fun s =>
    let a := opA f s
    if 2 ^ 21 < a.toNat + 16 then s.raise f kPROT a
    else if a.toNat % 16 ≠ 0 then s.raise f kUNALIGN a
    else if s.bun.cur.spBlocks a.toNat (a.toNat + 16) false then s.spChecks f a.toNat (a.toNat + 16) false true
    else
      let rd (off n : Nat) : Nat := readN s.bun.pre.sp (a.toNat + off) n
      if 2 ^ 21 < a.toNat + packedSize rd then s.raise f kPROT a
      else
        match loadPacked a rd with
        | .error e => (s.spChecks f a.toNat (a.toNat + packedSize rd) false true (before := true)).runTrap f e
        | .ok r =>
          (s.spChecks f a.toNat (a.toNat + packedSize rd) false true (before := true)).transfer f r.runs 0 fun s =>
            let file := fileOfCode f.slot.file f.sc
            ((s.uses a.toNat (a.toNat + packedSize rd) (s.pathLat r.runs)).result f 0x06 file f.d.toNat
              (some (s.pathLat r.runs)) (.run r) 0).advancePacked f 0x06 r

/-- Whether a range meets the message-queue region (R206). A bundle meets the region as it stood before it (R65). -/
def Core.meetsQueue (c : Core) (lo hi : Nat) : Bool := overlaps lo hi c.mq.base (c.mq.base + 64 * c.mq.size)

/-- STVP (R164, R206, R222): the bytes written are marked in the packed-region table. -/
def execStvp (f : Fields) (s : State) : Host.Outcome State Fault Refusal :=
  onGuard f s fun s => onPath f s fun s =>
    let a := opA f s
    let c := s.rdRun (fileOfCode f.slot.file f.sc) f.c.toNat
    let img := packRun c
    if 2 ^ 21 ≤ a.toNat || 2 ^ 21 < a.toNat + img.length then s.raise f kPROT a
    else if s.bun.pre.meetsQueue a.toNat (a.toNat + img.length) then s.raise f kPKDACC a
    else
      match s.bun.cur.marked a.toNat (a.toNat + img.length) with
      | none => s.raise f kPKDACC a
      | some t =>
        if a.toNat % 16 ≠ 0 then s.raise f kUNALIGN a
        else (s.spChecks f a.toNat (a.toNat + img.length) true true).transfer f c.runs 0 fun s =>
          (((s.uses a.toNat (a.toNat + img.length) (s.pathLat c.runs)).spStore f a.toNat img).onCur fun k =>
            { k with packed := t }).advancePacked f 0x08 c

end Sys2Proof.Machine
end

