-- ==== Sys2Proof/Machine/Scalar.lean ====
section
/-! DEFINITION. The scalar instructions of SA and SB (R73 to R83). -/

namespace Sys2Proof.Machine

open Sys2Proof

/-- An ALU instruction of form A: latency 1, no flag (R74). -/
def alu (f : Fields) (opc : Nat) (op : Word → Word → Word) (s : State) : State :=
  writeD f opc 1 (op (opA f s) (opBA f s)) 0 s

/-- A compare of form P: a predicate, latency 1 (R74). -/
def compare (f : Fields) (op : Word → Word → Bool) (s : State) : State :=
  s.setP f.d.toNat (op (opA f s) (opBA f s))

/-- A division: the divider accepts one every 20 clk, and a bundle before then stalls (R77). -/
def divide (f : Fields) (opc : Nat) (op : Word → Word → Word × FlagSet) (s : State) : State :=
  if s.bun.cur.clk < s.bun.cur.divFree then s.stalls
  else
    let r := op (opA f s) (opBA f s)
    (writeD f opc 20 r.1 r.2 s).onCur fun c => { c with divFree := c.clk + 20 }

/-- A modular instruction on MODQ[I16[2:0]] (R80). -/
def modular (f : Fields) (opc lat : Nat) (op : Nat → Nat → Nat → Nat × FlagSet) (s : State) : State :=
  let r := op (modqOf s (f.i16.toNat % 8)) (opA f s).toNat (opBW f s).toNat
  writeD f opc lat (BitVec.ofNat 64 r.1) r.2 s

/-- An F32 instruction with a binary32 result, zero-extended (R81). -/
def float (f : Fields) (opc lat : Nat) (op : Nat → Nat → Rounded) (s : State) : State :=
  let r := op (opA f s).toNat (opBF f s).toNat
  writeD f opc lat (w32 r.bits) r.flags s

/-- An F32 compare (R82). -/
def floatCompare (f : Fields) (opc : Nat) (op : Nat → Nat → Bool × FlagSet) (s : State) : State :=
  let r := op (opA f s).toNat (opBF f s).toNat
  (s.setP f.d.toNat r.1).flagsIn f opc 1 r.2

/-- XMOV into a scalar, address or e register (R79, R272): a whole scalar, or element 0 of a run register. -/
def moveIn (f : Fields) (opc : Nat) (s : State) : State :=
  let file := fileOfCode f.slot.file f.sc
  if isRunFile file then
    let r := s.rdRun file f.a.toNat
    writeD f opc (2 + sixteenths r.runs) (slugAt r.slugs 0) 0 s
  else writeD f opc 2 (opASc f s) 0 s

/-- ADD: A + B (R74). -/
def execAdd (f : Fields) (s : State) : Host.Outcome State Fault Refusal :=
  onGuard f s (alu f 0x01 (fun a b => a + b))

/-- ADD: A + B with an immediate B (R74). -/
def execAddImm (f : Fields) (s : State) : Host.Outcome State Fault Refusal :=
  onGuard f s (alu f 0x01 (fun a b => a + b))

/-- SUB: A - B (R74). -/
def execSub (f : Fields) (s : State) : Host.Outcome State Fault Refusal :=
  onGuard f s (alu f 0x02 (fun a b => a - b))

/-- SUB: A - B with an immediate B (R74). -/
def execSubImm (f : Fields) (s : State) : Host.Outcome State Fault Refusal :=
  onGuard f s (alu f 0x02 (fun a b => a - b))

/-- AND: bitwise and (R74). -/
def execAnd (f : Fields) (s : State) : Host.Outcome State Fault Refusal :=
  onGuard f s (alu f 0x03 (fun a b => a &&& b))

/-- AND: bitwise and with an immediate B (R74). -/
def execAndImm (f : Fields) (s : State) : Host.Outcome State Fault Refusal :=
  onGuard f s (alu f 0x03 (fun a b => a &&& b))

/-- OR: bitwise or (R74). -/
def execOr (f : Fields) (s : State) : Host.Outcome State Fault Refusal :=
  onGuard f s (alu f 0x04 (fun a b => a ||| b))

/-- OR: bitwise or with an immediate B (R74). -/
def execOrImm (f : Fields) (s : State) : Host.Outcome State Fault Refusal :=
  onGuard f s (alu f 0x04 (fun a b => a ||| b))

/-- XOR: bitwise exclusive or (R74). -/
def execXor (f : Fields) (s : State) : Host.Outcome State Fault Refusal :=
  onGuard f s (alu f 0x05 (fun a b => a ^^^ b))

/-- XOR: bitwise exclusive or with an immediate B (R74). -/
def execXorImm (f : Fields) (s : State) : Host.Outcome State Fault Refusal :=
  onGuard f s (alu f 0x05 (fun a b => a ^^^ b))

/-- ANDN: A and not B (R74). -/
def execAndn (f : Fields) (s : State) : Host.Outcome State Fault Refusal :=
  onGuard f s (alu f 0x06 (fun a b => a &&& ~~~ b))

/-- ANDN: A and not B with an immediate B (R74). -/
def execAndnImm (f : Fields) (s : State) : Host.Outcome State Fault Refusal :=
  onGuard f s (alu f 0x06 (fun a b => a &&& ~~~ b))

/-- SHL: shift left by B[5:0] (R74). -/
def execShl (f : Fields) (s : State) : Host.Outcome State Fault Refusal :=
  onGuard f s (alu f 0x07 (fun a b => a <<< (b.toNat % 64)))

/-- SHL: shift left by B[5:0] with an immediate B (R74). -/
def execShlImm (f : Fields) (s : State) : Host.Outcome State Fault Refusal :=
  onGuard f s (alu f 0x07 (fun a b => a <<< (b.toNat % 64)))

/-- SHR: logical shift right by B[5:0] (R74). -/
def execShr (f : Fields) (s : State) : Host.Outcome State Fault Refusal :=
  onGuard f s (alu f 0x08 (fun a b => a >>> (b.toNat % 64)))

/-- SHR: logical shift right by B[5:0] with an immediate B (R74). -/
def execShrImm (f : Fields) (s : State) : Host.Outcome State Fault Refusal :=
  onGuard f s (alu f 0x08 (fun a b => a >>> (b.toNat % 64)))

/-- SAR: arithmetic shift right by B[5:0] (R74). -/
def execSar (f : Fields) (s : State) : Host.Outcome State Fault Refusal :=
  onGuard f s (alu f 0x09 (fun a b => a.sshiftRight (b.toNat % 64)))

/-- SAR: arithmetic shift right by B[5:0] with an immediate B (R74). -/
def execSarImm (f : Fields) (s : State) : Host.Outcome State Fault Refusal :=
  onGuard f s (alu f 0x09 (fun a b => a.sshiftRight (b.toNat % 64)))

/-- ROL: rotate left by B[5:0] (R74). -/
def execRol (f : Fields) (s : State) : Host.Outcome State Fault Refusal :=
  onGuard f s (alu f 0x0A (fun a b => a.rotateLeft (b.toNat % 64)))

/-- ROL: rotate left by B[5:0] with an immediate B (R74). -/
def execRolImm (f : Fields) (s : State) : Host.Outcome State Fault Refusal :=
  onGuard f s (alu f 0x0A (fun a b => a.rotateLeft (b.toNat % 64)))

/-- MIN: signed minimum (R74). -/
def execMin (f : Fields) (s : State) : Host.Outcome State Fault Refusal :=
  onGuard f s (alu f 0x0B (minS))

/-- MIN: signed minimum with an immediate B (R74). -/
def execMinImm (f : Fields) (s : State) : Host.Outcome State Fault Refusal :=
  onGuard f s (alu f 0x0B (minS))

/-- MAX: signed maximum (R74). -/
def execMax (f : Fields) (s : State) : Host.Outcome State Fault Refusal :=
  onGuard f s (alu f 0x0C (maxS))

/-- MAX: signed maximum with an immediate B (R74). -/
def execMaxImm (f : Fields) (s : State) : Host.Outcome State Fault Refusal :=
  onGuard f s (alu f 0x0C (maxS))

/-- MINN: natural minimum (R74). -/
def execMinn (f : Fields) (s : State) : Host.Outcome State Fault Refusal :=
  onGuard f s (alu f 0x0D (minN))

/-- MINN: natural minimum with an immediate B (R74). -/
def execMinnImm (f : Fields) (s : State) : Host.Outcome State Fault Refusal :=
  onGuard f s (alu f 0x0D (minN))

/-- MAXN: natural maximum (R74). -/
def execMaxn (f : Fields) (s : State) : Host.Outcome State Fault Refusal :=
  onGuard f s (alu f 0x0E (maxN))

/-- MAXN: natural maximum with an immediate B (R74). -/
def execMaxnImm (f : Fields) (s : State) : Host.Outcome State Fault Refusal :=
  onGuard f s (alu f 0x0E (maxN))

/-- ADD32: 32-bit sum sign-extended (R74). -/
def execAdd32 (f : Fields) (s : State) : Host.Outcome State Fault Refusal :=
  onGuard f s (alu f 0x0F (fun a b => sext32 (a + b)))

/-- ADD32: 32-bit sum sign-extended with an immediate B (R74). -/
def execAdd32Imm (f : Fields) (s : State) : Host.Outcome State Fault Refusal :=
  onGuard f s (alu f 0x0F (fun a b => sext32 (a + b)))

/-- SUB32: 32-bit difference sign-extended (R74). -/
def execSub32 (f : Fields) (s : State) : Host.Outcome State Fault Refusal :=
  onGuard f s (alu f 0x10 (fun a b => sext32 (a - b)))

/-- SUB32: 32-bit difference sign-extended with an immediate B (R74). -/
def execSub32Imm (f : Fields) (s : State) : Host.Outcome State Fault Refusal :=
  onGuard f s (alu f 0x10 (fun a b => sext32 (a - b)))

/-- CMPEQ: A equals B (R74). -/
def execCmpeq (f : Fields) (s : State) : Host.Outcome State Fault Refusal :=
  onGuard f s (compare f (fun a b => a == b))

/-- CMPEQ: A equals B with an immediate B (R74). -/
def execCmpeqImm (f : Fields) (s : State) : Host.Outcome State Fault Refusal :=
  onGuard f s (compare f (fun a b => a == b))

/-- CMPNE: A differs from B (R74). -/
def execCmpne (f : Fields) (s : State) : Host.Outcome State Fault Refusal :=
  onGuard f s (compare f (fun a b => a != b))

/-- CMPNE: A differs from B with an immediate B (R74). -/
def execCmpneImm (f : Fields) (s : State) : Host.Outcome State Fault Refusal :=
  onGuard f s (compare f (fun a b => a != b))

/-- CMPLT: signed less than (R74). -/
def execCmplt (f : Fields) (s : State) : Host.Outcome State Fault Refusal :=
  onGuard f s (compare f (fun a b => a.slt b))

/-- CMPLT: signed less than with an immediate B (R74). -/
def execCmpltImm (f : Fields) (s : State) : Host.Outcome State Fault Refusal :=
  onGuard f s (compare f (fun a b => a.slt b))

/-- CMPLE: signed at most (R74). -/
def execCmple (f : Fields) (s : State) : Host.Outcome State Fault Refusal :=
  onGuard f s (compare f (fun a b => a.sle b))

/-- CMPLE: signed at most with an immediate B (R74). -/
def execCmpleImm (f : Fields) (s : State) : Host.Outcome State Fault Refusal :=
  onGuard f s (compare f (fun a b => a.sle b))

/-- CMPLTN: natural less than (R74). -/
def execCmpltn (f : Fields) (s : State) : Host.Outcome State Fault Refusal :=
  onGuard f s (compare f (fun a b => a.ult b))

/-- CMPLTN: natural less than with an immediate B (R74). -/
def execCmpltnImm (f : Fields) (s : State) : Host.Outcome State Fault Refusal :=
  onGuard f s (compare f (fun a b => a.ult b))

/-- CMPLEN: natural at most (R74). -/
def execCmplen (f : Fields) (s : State) : Host.Outcome State Fault Refusal :=
  onGuard f s (compare f (fun a b => a.ule b))

/-- CMPLEN: natural at most with an immediate B (R74). -/
def execCmplenImm (f : Fields) (s : State) : Host.Outcome State Fault Refusal :=
  onGuard f s (compare f (fun a b => a.ule b))

/-- TSTBIT: bit B[5:0] of A (R74). -/
def execTstbit (f : Fields) (s : State) : Host.Outcome State Fault Refusal :=
  onGuard f s (compare f (fun a b => a.getLsbD (b.toNat % 64)))

/-- TSTBIT: bit B[5:0] of A with an immediate B (R74). -/
def execTstbitImm (f : Fields) (s : State) : Host.Outcome State Fault Refusal :=
  onGuard f s (compare f (fun a b => a.getLsbD (b.toNat % 64)))

/-- SEL: A when P[C] holds, else B (R74, R75). -/
def execSel (f : Fields) (s : State) : Host.Outcome State Fault Refusal :=
  onGuard f s fun s => writeD f 0x18 1 (if s.rdPred f.c.toNat then opA f s else opBW f s) 0 s

/-- CLZ: leading zeros (R74). -/
def execClz (f : Fields) (s : State) : Host.Outcome State Fault Refusal :=
  onGuard f s fun s => writeD f 0x19 1 (BitVec.ofNat 64 (clz64 (opA f s))) 0 s

/-- CTZ: trailing zeros (R74). -/
def execCtz (f : Fields) (s : State) : Host.Outcome State Fault Refusal :=
  onGuard f s fun s => writeD f 0x1A 1 (BitVec.ofNat 64 (ctz64 (opA f s))) 0 s

/-- POPC: bits set (R74). -/
def execPopc (f : Fields) (s : State) : Host.Outcome State Fault Refusal :=
  onGuard f s fun s => writeD f 0x1B 1 (BitVec.ofNat 64 (popc64 (opA f s))) 0 s

/-- BREV: bits reversed (R74). -/
def execBrev (f : Fields) (s : State) : Host.Outcome State Fault Refusal :=
  onGuard f s fun s => writeD f 0x1C 1 (brev64 (opA f s)) 0 s

/-- BSWAP: bytes reversed (R74). -/
def execBswap (f : Fields) (s : State) : Host.Outcome State Fault Refusal :=
  onGuard f s fun s => writeD f 0x1D 1 (bswap64 (opA f s)) 0 s

/-- SEXT: the low bits sign-extended (R74). -/
def execSext (f : Fields) (s : State) : Host.Outcome State Fault Refusal :=
  onGuard f s (alu f 0x1E fun a b => sextBits (extWidth b) a)

/-- SEXT: the low bits sign-extended with an immediate B (R74). -/
def execSextImm (f : Fields) (s : State) : Host.Outcome State Fault Refusal :=
  onGuard f s (alu f 0x1E fun a b => sextBits (extWidth b) a)

/-- ZEXT: the low bits zero-extended (R74). -/
def execZext (f : Fields) (s : State) : Host.Outcome State Fault Refusal :=
  onGuard f s (alu f 0x1F fun a b => zextBits (extWidth b) a)

/-- ZEXT: the low bits zero-extended with an immediate B (R74). -/
def execZextImm (f : Fields) (s : State) : Host.Outcome State Fault Refusal :=
  onGuard f s (alu f 0x1F fun a b => zextBits (extWidth b) a)

/-- BFX: a bit field of A (R74, R75). -/
def execBfx (f : Fields) (s : State) : Host.Outcome State Fault Refusal :=
  onGuard f s fun s => writeD f 0x20 1 (bfx (opA f s) (f.i16.toNat % 64) (f.i16.toNat / 64 % 128) f.v) 0 s

/-- BFI: A with a bit field of B (R74, R75). -/
def execBfi (f : Fields) (s : State) : Host.Outcome State Fault Refusal :=
  onGuard f s fun s => writeD f 0x21 1 (bfi (opA f s) (opBReg f s) (f.i16.toNat % 64) (f.i16.toNat / 64 % 128)) 0 s

/-- LIT: a sign-extended literal (R74). -/
def execLit (f : Fields) (s : State) : Host.Outcome State Fault Refusal :=
  onGuard f s fun s => writeD f 0x22 1 (litK f) 0 s

/-- LITH: the high half of D (R74, R76). -/
def execLith (f : Fields) (s : State) : Host.Outcome State Fault Refusal :=
  onGuard f s fun s => writeD f 0x23 1 (zextBits 32 (s.rd f.slot.file f.d.toNat) ||| (immZ32 f <<< 32)) 0 s

/-- XMOV in SA or SB: a register of another file, or element 0 of a run register (R79). -/
def execXmovScalar (f : Fields) (s : State) : Host.Outcome State Fault Refusal :=
  onGuard f s (moveIn f 0x24)

/-- MUL: the low half of the product (R74). -/
def execMul (f : Fields) (s : State) : Host.Outcome State Fault Refusal :=
  onGuard f s fun s => writeD f 0x30 3 (opA f s * opBA f s) 0 s

/-- MUL: the low half of the product with an immediate B (R74). -/
def execMulImm (f : Fields) (s : State) : Host.Outcome State Fault Refusal :=
  onGuard f s fun s => writeD f 0x30 3 (opA f s * opBA f s) 0 s

/-- MULH: the high half of the signed product (R74). -/
def execMulh (f : Fields) (s : State) : Host.Outcome State Fault Refusal :=
  onGuard f s fun s => writeD f 0x31 3 (mulh (opA f s) (opBA f s)) 0 s

/-- MULH: the high half of the signed product with an immediate B (R74). -/
def execMulhImm (f : Fields) (s : State) : Host.Outcome State Fault Refusal :=
  onGuard f s fun s => writeD f 0x31 3 (mulh (opA f s) (opBA f s)) 0 s

/-- MULHN: the high half of the natural product (R74). -/
def execMulhn (f : Fields) (s : State) : Host.Outcome State Fault Refusal :=
  onGuard f s fun s => writeD f 0x32 3 (mulhn (opA f s) (opBA f s)) 0 s

/-- MULHN: the high half of the natural product with an immediate B (R74). -/
def execMulhnImm (f : Fields) (s : State) : Host.Outcome State Fault Refusal :=
  onGuard f s fun s => writeD f 0x32 3 (mulhn (opA f s) (opBA f s)) 0 s

/-- DIV: signed quotient (R77, R78). -/
def execDiv (f : Fields) (s : State) : Host.Outcome State Fault Refusal :=
  onGuard f s (divide f 0x33 divS)

/-- DIV: signed quotient with an immediate B (R77, R78). -/
def execDivImm (f : Fields) (s : State) : Host.Outcome State Fault Refusal :=
  onGuard f s (divide f 0x33 divS)

/-- DIVN: natural quotient (R77, R78). -/
def execDivn (f : Fields) (s : State) : Host.Outcome State Fault Refusal :=
  onGuard f s (divide f 0x34 divN)

/-- DIVN: natural quotient with an immediate B (R77, R78). -/
def execDivnImm (f : Fields) (s : State) : Host.Outcome State Fault Refusal :=
  onGuard f s (divide f 0x34 divN)

/-- REM: signed remainder (R77, R78). -/
def execRem (f : Fields) (s : State) : Host.Outcome State Fault Refusal :=
  onGuard f s (divide f 0x35 remS)

/-- REM: signed remainder with an immediate B (R77, R78). -/
def execRemImm (f : Fields) (s : State) : Host.Outcome State Fault Refusal :=
  onGuard f s (divide f 0x35 remS)

/-- REMN: natural remainder (R77, R78). -/
def execRemn (f : Fields) (s : State) : Host.Outcome State Fault Refusal :=
  onGuard f s (divide f 0x36 remN)

/-- REMN: natural remainder with an immediate B (R77, R78). -/
def execRemnImm (f : Fields) (s : State) : Host.Outcome State Fault Refusal :=
  onGuard f s (divide f 0x36 remN)

/-- MADD: A × B + C (R74). -/
def execMadd (f : Fields) (s : State) : Host.Outcome State Fault Refusal :=
  onGuard f s fun s => writeD f 0x37 3 (opA f s * opBW f s + opC f s) 0 s

/-- MULMOD: modulo MODQ[I16[2:0]] (R80). -/
def execMulmod (f : Fields) (s : State) : Host.Outcome State Fault Refusal :=
  onGuard f s (modular f 0x38 6 modMul)

/-- ADDMOD: modulo MODQ[I16[2:0]] (R80). -/
def execAddmod (f : Fields) (s : State) : Host.Outcome State Fault Refusal :=
  onGuard f s (modular f 0x39 2 modAdd)

/-- SUBMOD: modulo MODQ[I16[2:0]] (R80). -/
def execSubmod (f : Fields) (s : State) : Host.Outcome State Fault Refusal :=
  onGuard f s (modular f 0x3A 2 modSub)

/-- FADD on binary32 (R81). -/
def execFadd (f : Fields) (s : State) : Host.Outcome State Fault Refusal :=
  onGuard f s (float f 0x40 4 fun a b => f32Add (rmode f) a b)

/-- FADD on binary32 with an immediate B (R81). -/
def execFaddImm (f : Fields) (s : State) : Host.Outcome State Fault Refusal :=
  onGuard f s (float f 0x40 4 fun a b => f32Add (rmode f) a b)

/-- FSUB on binary32 (R81). -/
def execFsub (f : Fields) (s : State) : Host.Outcome State Fault Refusal :=
  onGuard f s (float f 0x41 4 fun a b => f32Sub (rmode f) a b)

/-- FSUB on binary32 with an immediate B (R81). -/
def execFsubImm (f : Fields) (s : State) : Host.Outcome State Fault Refusal :=
  onGuard f s (float f 0x41 4 fun a b => f32Sub (rmode f) a b)

/-- FMUL on binary32 (R81). -/
def execFmul (f : Fields) (s : State) : Host.Outcome State Fault Refusal :=
  onGuard f s (float f 0x42 4 fun a b => f32Mul (rmode f) a b)

/-- FMUL on binary32 with an immediate B (R81). -/
def execFmulImm (f : Fields) (s : State) : Host.Outcome State Fault Refusal :=
  onGuard f s (float f 0x42 4 fun a b => f32Mul (rmode f) a b)

/-- FFMA: A × B + C rounded once (R81). -/
def execFfma (f : Fields) (s : State) : Host.Outcome State Fault Refusal :=
  onGuard f s (float f 0x43 4 fun a b => f32Fma (rmode f) a b (opC f s).toNat)

/-- FMIN on binary32 (R82). -/
def execFmin (f : Fields) (s : State) : Host.Outcome State Fault Refusal :=
  onGuard f s (float f 0x44 2 fun a b => f32MinMax false a b)

/-- FMIN on binary32 with an immediate B (R82). -/
def execFminImm (f : Fields) (s : State) : Host.Outcome State Fault Refusal :=
  onGuard f s (float f 0x44 2 fun a b => f32MinMax false a b)

/-- FMAX on binary32 (R82). -/
def execFmax (f : Fields) (s : State) : Host.Outcome State Fault Refusal :=
  onGuard f s (float f 0x45 2 fun a b => f32MinMax true a b)

/-- FMAX on binary32 with an immediate B (R82). -/
def execFmaxImm (f : Fields) (s : State) : Host.Outcome State Fault Refusal :=
  onGuard f s (float f 0x45 2 fun a b => f32MinMax true a b)

/-- FCMPEQ on binary32 (R82). -/
def execFcmpeq (f : Fields) (s : State) : Host.Outcome State Fault Refusal :=
  onGuard f s (floatCompare f 0x46 f32CmpEq)

/-- FCMPEQ on binary32 with an immediate B (R82). -/
def execFcmpeqImm (f : Fields) (s : State) : Host.Outcome State Fault Refusal :=
  onGuard f s (floatCompare f 0x46 f32CmpEq)

/-- FCMPLT on binary32 (R82). -/
def execFcmplt (f : Fields) (s : State) : Host.Outcome State Fault Refusal :=
  onGuard f s (floatCompare f 0x47 f32CmpLt)

/-- FCMPLT on binary32 with an immediate B (R82). -/
def execFcmpltImm (f : Fields) (s : State) : Host.Outcome State Fault Refusal :=
  onGuard f s (floatCompare f 0x47 f32CmpLt)

/-- FCMPLE on binary32 (R82). -/
def execFcmple (f : Fields) (s : State) : Host.Outcome State Fault Refusal :=
  onGuard f s (floatCompare f 0x48 f32CmpLe)

/-- FCMPLE on binary32 with an immediate B (R82). -/
def execFcmpleImm (f : Fields) (s : State) : Host.Outcome State Fault Refusal :=
  onGuard f s (floatCompare f 0x48 f32CmpLe)

/-- FCVTI: binary32 to integer (R83). -/
def execFcvti (f : Fields) (s : State) : Host.Outcome State Fault Refusal :=
  onGuard f s fun s =>
    let r := toIntFmt (8 * tBytes f.t.toNat) (tSigned f.t.toNat) (rmode f) (f32 (opA f s).toNat)
    writeD f 0x49 4 (BitVec.ofInt 64 r.1) r.2 s

/-- FCVTF: integer to binary32 (R83). -/
def execFcvtf (f : Fields) (s : State) : Host.Outcome State Fault Refusal :=
  onGuard f s fun s =>
    let v := tExtend f.t.toNat (opA f s).toNat
    let r := fmtF32.round (rmode f) (Val.ofInt (if tSigned f.t.toNat then v.toInt else v.toNat))
    writeD f 0x4A 4 (w32 r.bits) r.flags s

/-- FCLASS: the class of a binary32 value (R83). -/
def execFclass (f : Fields) (s : State) : Host.Outcome State Fault Refusal :=
  onGuard f s fun s => writeD f 0x4B 2 (BitVec.ofNat 64 (f32Class (opA f s).toNat)) 0 s

end Sys2Proof.Machine
end

