-- ==== Sys2Proof/Machine/Dispatch.lean ====
section
/-! DEFINITION. One arm for each constructor of `Instr`: its meaning. -/

namespace Sys2Proof.Machine

open Sys2Proof

def exec (i : Instr) (s : State) : Host.Outcome State Fault Refusal :=
  match i with
  | .nop f => Sys2Proof.Machine.execNop f s
  | .br f => Sys2Proof.Machine.execBr f s
  | .brx f => Sys2Proof.Machine.execBrx f s
  | .call f => Sys2Proof.Machine.execCall f s
  | .callx f => Sys2Proof.Machine.execCallx f s
  | .loop f => Sys2Proof.Machine.execLoop f s
  | .loops f => Sys2Proof.Machine.execLoops f s
  | .lbrk f => Sys2Proof.Machine.execLbrk f s
  | .lidx f => Sys2Proof.Machine.execLidx f s
  | .pset f => Sys2Proof.Machine.execPset f s
  | .pand f => Sys2Proof.Machine.execPand f s
  | .por f => Sys2Proof.Machine.execPor f s
  | .pxor f => Sys2Proof.Machine.execPxor f s
  | .pandn f => Sys2Proof.Machine.execPandn f s
  | .ptox f => Sys2Proof.Machine.execPtox f s
  | .xtop f => Sys2Proof.Machine.execXtop f s
  | .tfence f => Sys2Proof.Machine.execTfence f s
  | .trap f => Sys2Proof.Machine.execTrap f s
  | .sysc f => Sys2Proof.Machine.execSysc f s
  | .eret f => Sys2Proof.Machine.execEret f s
  | .flagrd f => Sys2Proof.Machine.execFlagrd f s
  | .flagclr f => Sys2Proof.Machine.execFlagclr f s
  | .csrrd f => Sys2Proof.Machine.execCsrrd f s
  | .csrwr f => Sys2Proof.Machine.execCsrwr f s
  | .drain f => Sys2Proof.Machine.execDrain f s
  | .waitx f => Sys2Proof.Machine.execWaitx f s
  | .testx f => Sys2Proof.Machine.execTestx f s
  | .bara f => Sys2Proof.Machine.execBara f s
  | .barw f => Sys2Proof.Machine.execBarw f s
  | .bars f => Sys2Proof.Machine.execBars f s
  | .dqpush f => Sys2Proof.Machine.execDqpush f s
  | .dqpop f => Sys2Proof.Machine.execDqpop f s
  | .dqsteal f => Sys2Proof.Machine.execDqsteal f s
  | .dqcnt f => Sys2Proof.Machine.execDqcnt f s
  | .enq f => Sys2Proof.Machine.execEnq f s
  | .slotq f => Sys2Proof.Machine.execSlotq f s
  | .tick f => Sys2Proof.Machine.execTick f s
  | .yield f => Sys2Proof.Machine.execYield f s
  | .halt f => Sys2Proof.Machine.execHalt f s
  | .hndret f => Sys2Proof.Machine.execHndret f s
  | .hnden f => Sys2Proof.Machine.execHnden f s
  | .waitev f => Sys2Proof.Machine.execWaitev f s
  | .spwake f => Sys2Proof.Machine.execSpwake f s
  | .spgate f => Sys2Proof.Machine.execSpgate f s
  | .dbgbrk f => Sys2Proof.Machine.execDbgbrk f s
  | .resumeg f => Sys2Proof.Machine.execResumeg f s
  | .add f => Sys2Proof.Machine.execAdd f s
  | .addImm f => Sys2Proof.Machine.execAddImm f s
  | .sub f => Sys2Proof.Machine.execSub f s
  | .subImm f => Sys2Proof.Machine.execSubImm f s
  | .and f => Sys2Proof.Machine.execAnd f s
  | .andImm f => Sys2Proof.Machine.execAndImm f s
  | .or f => Sys2Proof.Machine.execOr f s
  | .orImm f => Sys2Proof.Machine.execOrImm f s
  | .xor f => Sys2Proof.Machine.execXor f s
  | .xorImm f => Sys2Proof.Machine.execXorImm f s
  | .andn f => Sys2Proof.Machine.execAndn f s
  | .andnImm f => Sys2Proof.Machine.execAndnImm f s
  | .shl f => Sys2Proof.Machine.execShl f s
  | .shlImm f => Sys2Proof.Machine.execShlImm f s
  | .shr f => Sys2Proof.Machine.execShr f s
  | .shrImm f => Sys2Proof.Machine.execShrImm f s
  | .sar f => Sys2Proof.Machine.execSar f s
  | .sarImm f => Sys2Proof.Machine.execSarImm f s
  | .rol f => Sys2Proof.Machine.execRol f s
  | .rolImm f => Sys2Proof.Machine.execRolImm f s
  | .min f => Sys2Proof.Machine.execMin f s
  | .minImm f => Sys2Proof.Machine.execMinImm f s
  | .max f => Sys2Proof.Machine.execMax f s
  | .maxImm f => Sys2Proof.Machine.execMaxImm f s
  | .minn f => Sys2Proof.Machine.execMinn f s
  | .minnImm f => Sys2Proof.Machine.execMinnImm f s
  | .maxn f => Sys2Proof.Machine.execMaxn f s
  | .maxnImm f => Sys2Proof.Machine.execMaxnImm f s
  | .add32 f => Sys2Proof.Machine.execAdd32 f s
  | .add32Imm f => Sys2Proof.Machine.execAdd32Imm f s
  | .sub32 f => Sys2Proof.Machine.execSub32 f s
  | .sub32Imm f => Sys2Proof.Machine.execSub32Imm f s
  | .cmpeq f => Sys2Proof.Machine.execCmpeq f s
  | .cmpeqImm f => Sys2Proof.Machine.execCmpeqImm f s
  | .cmpne f => Sys2Proof.Machine.execCmpne f s
  | .cmpneImm f => Sys2Proof.Machine.execCmpneImm f s
  | .cmplt f => Sys2Proof.Machine.execCmplt f s
  | .cmpltImm f => Sys2Proof.Machine.execCmpltImm f s
  | .cmple f => Sys2Proof.Machine.execCmple f s
  | .cmpleImm f => Sys2Proof.Machine.execCmpleImm f s
  | .cmpltn f => Sys2Proof.Machine.execCmpltn f s
  | .cmpltnImm f => Sys2Proof.Machine.execCmpltnImm f s
  | .cmplen f => Sys2Proof.Machine.execCmplen f s
  | .cmplenImm f => Sys2Proof.Machine.execCmplenImm f s
  | .tstbit f => Sys2Proof.Machine.execTstbit f s
  | .tstbitImm f => Sys2Proof.Machine.execTstbitImm f s
  | .sel f => Sys2Proof.Machine.execSel f s
  | .clz f => Sys2Proof.Machine.execClz f s
  | .ctz f => Sys2Proof.Machine.execCtz f s
  | .popc f => Sys2Proof.Machine.execPopc f s
  | .brev f => Sys2Proof.Machine.execBrev f s
  | .bswap f => Sys2Proof.Machine.execBswap f s
  | .sext f => Sys2Proof.Machine.execSext f s
  | .sextImm f => Sys2Proof.Machine.execSextImm f s
  | .zext f => Sys2Proof.Machine.execZext f s
  | .zextImm f => Sys2Proof.Machine.execZextImm f s
  | .bfx f => Sys2Proof.Machine.execBfx f s
  | .bfi f => Sys2Proof.Machine.execBfi f s
  | .lit f => Sys2Proof.Machine.execLit f s
  | .lith f => Sys2Proof.Machine.execLith f s
  | .xmovScalar f => Sys2Proof.Machine.execXmovScalar f s
  | .mul f => Sys2Proof.Machine.execMul f s
  | .mulImm f => Sys2Proof.Machine.execMulImm f s
  | .mulh f => Sys2Proof.Machine.execMulh f s
  | .mulhImm f => Sys2Proof.Machine.execMulhImm f s
  | .mulhn f => Sys2Proof.Machine.execMulhn f s
  | .mulhnImm f => Sys2Proof.Machine.execMulhnImm f s
  | .div f => Sys2Proof.Machine.execDiv f s
  | .divImm f => Sys2Proof.Machine.execDivImm f s
  | .divn f => Sys2Proof.Machine.execDivn f s
  | .divnImm f => Sys2Proof.Machine.execDivnImm f s
  | .rem f => Sys2Proof.Machine.execRem f s
  | .remImm f => Sys2Proof.Machine.execRemImm f s
  | .remn f => Sys2Proof.Machine.execRemn f s
  | .remnImm f => Sys2Proof.Machine.execRemnImm f s
  | .madd f => Sys2Proof.Machine.execMadd f s
  | .mulmod f => Sys2Proof.Machine.execMulmod f s
  | .addmod f => Sys2Proof.Machine.execAddmod f s
  | .submod f => Sys2Proof.Machine.execSubmod f s
  | .fadd f => Sys2Proof.Machine.execFadd f s
  | .faddImm f => Sys2Proof.Machine.execFaddImm f s
  | .fsub f => Sys2Proof.Machine.execFsub f s
  | .fsubImm f => Sys2Proof.Machine.execFsubImm f s
  | .fmul f => Sys2Proof.Machine.execFmul f s
  | .fmulImm f => Sys2Proof.Machine.execFmulImm f s
  | .ffma f => Sys2Proof.Machine.execFfma f s
  | .fmin f => Sys2Proof.Machine.execFmin f s
  | .fminImm f => Sys2Proof.Machine.execFminImm f s
  | .fmax f => Sys2Proof.Machine.execFmax f s
  | .fmaxImm f => Sys2Proof.Machine.execFmaxImm f s
  | .fcmpeq f => Sys2Proof.Machine.execFcmpeq f s
  | .fcmpeqImm f => Sys2Proof.Machine.execFcmpeqImm f s
  | .fcmplt f => Sys2Proof.Machine.execFcmplt f s
  | .fcmpltImm f => Sys2Proof.Machine.execFcmpltImm f s
  | .fcmple f => Sys2Proof.Machine.execFcmple f s
  | .fcmpleImm f => Sys2Proof.Machine.execFcmpleImm f s
  | .fcvti f => Sys2Proof.Machine.execFcvti f s
  | .fcvtf f => Sys2Proof.Machine.execFcvtf f s
  | .fclass f => Sys2Proof.Machine.execFclass f s
  | .ld f => Sys2Proof.Machine.execLd f s
  | .st f => Sys2Proof.Machine.execSt f s
  | .ldg f => Sys2Proof.Machine.execLdg f s
  | .stg f => Sys2Proof.Machine.execStg f s
  | .ldv f => Sys2Proof.Machine.execLdv f s
  | .ldvp f => Sys2Proof.Machine.execLdvp f s
  | .stv f => Sys2Proof.Machine.execStv f s
  | .stvp f => Sys2Proof.Machine.execStvp f s
  | .aadd f => Sys2Proof.Machine.execAadd f s
  | .aaddImm f => Sys2Proof.Machine.execAaddImm f s
  | .amov f => Sys2Proof.Machine.execAmov f s
  | .mset f => Sys2Proof.Machine.execMset f s
  | .amod f => Sys2Proof.Machine.execAmod f s
  | .atom f => Sys2Proof.Machine.execAtom f s
  | .acas f => Sys2Proof.Machine.execAcas f s
  | .fxadd f => Sys2Proof.Machine.execFxadd f s
  | .fxrd f => Sys2Proof.Machine.execFxrd f s
  | .fxclr f => Sys2Proof.Machine.execFxclr f s
  | .atomg f => Sys2Proof.Machine.execAtomg f s
  | .acasg f => Sys2Proof.Machine.execAcasg f s
  | .fxaddg f => Sys2Proof.Machine.execFxaddg f s
  | .fxrdg f => Sys2Proof.Machine.execFxrdg f s
  | .prefg f => Sys2Proof.Machine.execPrefg f s
  | .vadd f => Sys2Proof.Machine.execVadd f s
  | .vaddImm f => Sys2Proof.Machine.execVaddImm f s
  | .vsub f => Sys2Proof.Machine.execVsub f s
  | .vsubImm f => Sys2Proof.Machine.execVsubImm f s
  | .vmul f => Sys2Proof.Machine.execVmul f s
  | .vmulImm f => Sys2Proof.Machine.execVmulImm f s
  | .vfma f => Sys2Proof.Machine.execVfma f s
  | .vmin f => Sys2Proof.Machine.execVmin f s
  | .vminImm f => Sys2Proof.Machine.execVminImm f s
  | .vmax f => Sys2Proof.Machine.execVmax f s
  | .vmaxImm f => Sys2Proof.Machine.execVmaxImm f s
  | .vabs f => Sys2Proof.Machine.execVabs f s
  | .vneg f => Sys2Proof.Machine.execVneg f s
  | .vand f => Sys2Proof.Machine.execVand f s
  | .vandImm f => Sys2Proof.Machine.execVandImm f s
  | .vor f => Sys2Proof.Machine.execVor f s
  | .vorImm f => Sys2Proof.Machine.execVorImm f s
  | .vxor f => Sys2Proof.Machine.execVxor f s
  | .vxorImm f => Sys2Proof.Machine.execVxorImm f s
  | .vshl f => Sys2Proof.Machine.execVshl f s
  | .vshlImm f => Sys2Proof.Machine.execVshlImm f s
  | .vshr f => Sys2Proof.Machine.execVshr f s
  | .vshrImm f => Sys2Proof.Machine.execVshrImm f s
  | .vsar f => Sys2Proof.Machine.execVsar f s
  | .vsarImm f => Sys2Proof.Machine.execVsarImm f s
  | .vcmpeq f => Sys2Proof.Machine.execVcmpeq f s
  | .vcmpeqImm f => Sys2Proof.Machine.execVcmpeqImm f s
  | .vcmpne f => Sys2Proof.Machine.execVcmpne f s
  | .vcmpneImm f => Sys2Proof.Machine.execVcmpneImm f s
  | .vcmplt f => Sys2Proof.Machine.execVcmplt f s
  | .vcmpltImm f => Sys2Proof.Machine.execVcmpltImm f s
  | .vcmple f => Sys2Proof.Machine.execVcmple f s
  | .vcmpleImm f => Sys2Proof.Machine.execVcmpleImm f s
  | .vsel f => Sys2Proof.Machine.execVsel f s
  | .vcoal f => Sys2Proof.Machine.execVcoal f s
  | .vsplat f => Sys2Proof.Machine.execVsplat f s
  | .viota f => Sys2Proof.Machine.execViota f s
  | .vslice f => Sys2Proof.Machine.execVslice f s
  | .vcat f => Sys2Proof.Machine.execVcat f s
  | .vsetl f => Sys2Proof.Machine.execVsetl f s
  | .vlen f => Sys2Proof.Machine.execVlen f s
  | .vruns f => Sys2Proof.Machine.execVruns f s
  | .vget f => Sys2Proof.Machine.execVget f s
  | .vput f => Sys2Proof.Machine.execVput f s
  | .vredsum f => Sys2Proof.Machine.execVredsum f s
  | .vredmax f => Sys2Proof.Machine.execVredmax f s
  | .vredmin f => Sys2Proof.Machine.execVredmin f s
  | .vcount f => Sys2Proof.Machine.execVcount f s
  | .vfirst f => Sys2Proof.Machine.execVfirst f s
  | .xmovRun f => Sys2Proof.Machine.execXmovRun f s
  | .vcvt f => Sys2Proof.Machine.execVcvt f s
  | .vqnt f => Sys2Proof.Machine.execVqnt f s
  | .vexp2 f => Sys2Proof.Machine.execVexp2 f s
  | .vlog2 f => Sys2Proof.Machine.execVlog2 f s
  | .vrcp f => Sys2Proof.Machine.execVrcp f s
  | .vrsq f => Sys2Proof.Machine.execVrsq f s
  | .vsqrt f => Sys2Proof.Machine.execVsqrt f s
  | .vtanh f => Sys2Proof.Machine.execVtanh f s
  | .vsigm f => Sys2Proof.Machine.execVsigm f s
  | .vmodadd f => Sys2Proof.Machine.execVmodadd f s
  | .vmodsub f => Sys2Proof.Machine.execVmodsub f s
  | .vmodmul f => Sys2Proof.Machine.execVmodmul f s
  | .vbfly f => Sys2Proof.Machine.execVbfly f s
  | .vbscale f => Sys2Proof.Machine.execVbscale f s
  | .mload f => Sys2Proof.Machine.execMload f s
  | .mswap f => Sys2Proof.Machine.execMswap f s
  | .mmul f => Sys2Proof.Machine.execMmul f s
  | .mmod f => Sys2Proof.Machine.execMmod f s
  | .mdrain f => Sys2Proof.Machine.execMdrain f s
  | .mzero f => Sys2Proof.Machine.execMzero f s
  | .mstat f => Sys2Proof.Machine.execMstat f s
  | .copy f => Sys2Proof.Machine.execCopy f s
  | .galset f => Sys2Proof.Machine.execGalset f s
  | .galadv f => Sys2Proof.Machine.execGaladv f s
  | .galrel f => Sys2Proof.Machine.execGalrel f s
  | .smsg f => Sys2Proof.Machine.execSmsg f s
  | .smsgt f => Sys2Proof.Machine.execSmsgt f s
  | .objadd f => Sys2Proof.Machine.execObjadd f s
  | .coll f => Sys2Proof.Machine.execColl f s
  | .rngcfg f => Sys2Proof.Machine.execRngcfg f s
  | .tidwr f => Sys2Proof.Machine.execTidwr f s
  | .tidrd f => Sys2Proof.Machine.execTidrd f s
  | .xmovXe f => Sys2Proof.Machine.execXmovXe f s
  | .elit f => Sys2Proof.Machine.execElit f s
  | .krot f => Sys2Proof.Machine.execKrot f s
  | .keySeal f => Sys2Proof.Machine.execKeySeal f s
  | .keyUnseal f => Sys2Proof.Machine.execKeyUnseal f s
  | .scrubSp f => Sys2Proof.Machine.execScrubSp f s
  | .scrubGangsp f => Sys2Proof.Machine.execScrubGangsp f s
  | .scrubPages f => Sys2Proof.Machine.execScrubPages f s
  | .scrubKeys f => Sys2Proof.Machine.execScrubKeys f s
  | .fabkey f => Sys2Proof.Machine.execFabkey f s
  | .kstat f => Sys2Proof.Machine.execKstat f s
  | .emptyBundle => Sys2Proof.Machine.execEmptyBundle s
  | .bundleStallRelease core => Sys2Proof.Machine.execBundleStallRelease core s
  | .resultLand core => Sys2Proof.Machine.execResultLand core s
  | .fetchMissFill core line => Sys2Proof.Machine.execFetchMissFill core line s
  | .spGroupWakeDone core g => Sys2Proof.Machine.execSpGroupWakeDone core g s
  | .handlerRunStart core => Sys2Proof.Machine.execHandlerRunStart core s
  | .mqEntryArrival src dst => Sys2Proof.Machine.execMqEntryArrival src dst s
  | .mqEntryWritten core k => Sys2Proof.Machine.execMqEntryWritten core k s
  | .mqAckReceive src dst => Sys2Proof.Machine.execMqAckReceive src dst s
  | .mqResend src dst => Sys2Proof.Machine.execMqResend src dst s
  | .mqProbe src dst => Sys2Proof.Machine.execMqProbe src dst s
  | .barrierRelease gang tag => Sys2Proof.Machine.execBarrierRelease gang tag s
  | .gangEnd gang => Sys2Proof.Machine.execGangEnd gang s
  | .dequePortRequest core => Sys2Proof.Machine.execDequePortRequest core s
  | .dqstealAnswer core => Sys2Proof.Machine.execDqstealAnswer core s
  | .waitxSatisfied core => Sys2Proof.Machine.execWaitxSatisfied core s
  | .waitevWake core => Sys2Proof.Machine.execWaitevWake core s
  | .waitevDeadline core => Sys2Proof.Machine.execWaitevDeadline core s
  | .tfenceDrained core => Sys2Proof.Machine.execTfenceDrained core s
  | .drainDone core => Sys2Proof.Machine.execDrainDone core s
  | .haltCommandsDone core => Sys2Proof.Machine.execHaltCommandsDone core s
  | .enqAnswer core => Sys2Proof.Machine.execEnqAnswer core s
  | .syscEcho core => Sys2Proof.Machine.execSyscEcho core s
  | .syscNotify core => Sys2Proof.Machine.execSyscNotify core s
  | .syscClock core => Sys2Proof.Machine.execSyscClock core s
  | .gangResume core => Sys2Proof.Machine.execGangResume core s
  | .doorbellWrite vf k bytes value => Sys2Proof.Machine.execDoorbellWrite vf k bytes value s
  | .queueDescriptorWrite vf k desc => Sys2Proof.Machine.execQueueDescriptorWrite vf k desc s
  | .queueEnable vf k => Sys2Proof.Machine.execQueueEnable vf k s
  | .queueDisable vf k => Sys2Proof.Machine.execQueueDisable vf k s
  | .launchRecord q => Sys2Proof.Machine.execLaunchRecord q s
  | .waitRecord q => Sys2Proof.Machine.execWaitRecord q s
  | .signalRecord q => Sys2Proof.Machine.execSignalRecord q s
  | .nopRecord q => Sys2Proof.Machine.execNopRecord q s
  | .waitRetire q => Sys2Proof.Machine.execWaitRetire q s
  | .dependenceMet q => Sys2Proof.Machine.execDependenceMet q s
  | .gangPlace vf => Sys2Proof.Machine.execGangPlace vf s
  | .launchComplete launch => Sys2Proof.Machine.execLaunchComplete launch s
  | .queueAging q => Sys2Proof.Machine.execQueueAging q s
  | .walkComplete cluster ctx page => Sys2Proof.Machine.execWalkComplete cluster ctx page s
  | .faultQueueHeadWrite vf ctx value => Sys2Proof.Machine.execFaultQueueHeadWrite vf ctx value s
  | .expansionComplete frame => Sys2Proof.Machine.execExpansionComplete frame s
  | .cxlbusyTimeout core => Sys2Proof.Machine.execCxlbusyTimeout core s
  | .globalAccessPerform core k => Sys2Proof.Machine.execGlobalAccessPerform core k s
  | .launchAbort launch => Sys2Proof.Machine.execLaunchAbort launch s
  | .chunkStart core cmd => Sys2Proof.Machine.execChunkStart core cmd s
  | .chunkComplete core cmd => Sys2Proof.Machine.execChunkComplete core cmd s
  | .commandComplete core cmd => Sys2Proof.Machine.execCommandComplete core cmd s
  | .galleyRowLand core cmd => Sys2Proof.Machine.execGalleyRowLand core cmd s
  | .objaddPerform core cmd => Sys2Proof.Machine.execObjaddPerform core cmd s
  | .collEntry cluster => Sys2Proof.Machine.execCollEntry cluster s
  | .matrixOpStart core => Sys2Proof.Machine.execMatrixOpStart core s
  | .matrixOpFinish core cmd => Sys2Proof.Machine.execMatrixOpFinish core cmd s
  | .rngBlock core => Sys2Proof.Machine.execRngBlock core s
  | .keyHandoff core => Sys2Proof.Machine.execKeyHandoff core s
  | .keyCommandComplete key => Sys2Proof.Machine.execKeyCommandComplete key s
  | .backgroundScrubComplete frame => Sys2Proof.Machine.execBackgroundScrubComplete frame s
  | .slotOpen => Sys2Proof.Machine.execSlotOpen s
  | .slotClose => Sys2Proof.Machine.execSlotClose s
  | .thermalTrip island => Sys2Proof.Machine.execThermalTrip island s
  | .mrovrMceClear res value => Sys2Proof.Machine.execMrovrMceClear res value s
  | .sliceEnd vf => Sys2Proof.Machine.execSliceEnd vf s
  | .ladderG1Expiry vf => Sys2Proof.Machine.execLadderG1Expiry vf s
  | .coreStop core => Sys2Proof.Machine.execCoreStop core s
  | .gangSave gang => Sys2Proof.Machine.execGangSave gang s
  | .ladderG2Expiry vf => Sys2Proof.Machine.execLadderG2Expiry vf s
  | .coreZeroingComplete core => Sys2Proof.Machine.execCoreZeroingComplete core s
  | .migrationStop ctx => Sys2Proof.Machine.execMigrationStop ctx s
  | .dbgArm vf core => Sys2Proof.Machine.execDbgArm vf core s
  | .dbgDisarm vf core => Sys2Proof.Machine.execDbgDisarm vf core s
  | .dbgHalt vf core operand => Sys2Proof.Machine.execDbgHalt vf core operand s
  | .dbgBreak vf core addr data => Sys2Proof.Machine.execDbgBreak vf core addr data s
  | .dbgStep vf core operand => Sys2Proof.Machine.execDbgStep vf core operand s
  | .dbgRun vf core => Sys2Proof.Machine.execDbgRun vf core s
  | .dbgRead vf core addr => Sys2Proof.Machine.execDbgRead vf core addr s
  | .dbgWrite vf core addr => Sys2Proof.Machine.execDbgWrite vf core addr s
  | .dbgBreakpointHit core => Sys2Proof.Machine.execDbgBreakpointHit core s
  | .dbgStepTimeout core => Sys2Proof.Machine.execDbgStepTimeout core s
  | .dirtyLogArmWrite vf ctx value => Sys2Proof.Machine.execDirtyLogArmWrite vf ctx value s
  | .logovfClear vf ctx value => Sys2Proof.Machine.execLogovfClear vf ctx value s
  | .contextEntryWrite vf ctx off value => Sys2Proof.Machine.execContextEntryWrite vf ctx off value s
  | .invalidationCommand vf ctx dva pages => Sys2Proof.Machine.execInvalidationCommand vf ctx dva pages s
  | .bar2ApertureWrite vf value => Sys2Proof.Machine.execBar2ApertureWrite vf value s
  | .hostBar2Access vf off acc => Sys2Proof.Machine.execHostBar2Access vf off acc s
  | .frameAssign vf frame => Sys2Proof.Machine.execFrameAssign vf frame s
  | .framePlaceNear vf frame arg => Sys2Proof.Machine.execFramePlaceNear vf frame arg s
  | .frameCompress vf frame => Sys2Proof.Machine.execFrameCompress vf frame s
  | .frameDonate vf frame arg => Sys2Proof.Machine.execFrameDonate vf frame arg s
  | .tenantUnbind vf => Sys2Proof.Machine.execTenantUnbind vf s
  | .record vf bytes => Sys2Proof.Machine.execRecord vf bytes s
  | .getrec vf session => Sys2Proof.Machine.execGetrec vf session s
  | .share vf session party share => Sys2Proof.Machine.execShare vf session party share s
  | .getVersion vf => Sys2Proof.Machine.execGetVersion vf s
  | .getCapabilities vf => Sys2Proof.Machine.execGetCapabilities vf s
  | .negotiateAlgorithms vf => Sys2Proof.Machine.execNegotiateAlgorithms vf s
  | .getDigests vf => Sys2Proof.Machine.execGetDigests vf s
  | .getCertificate vf certSlot => Sys2Proof.Machine.execGetCertificate vf certSlot s
  | .challenge vf nonce => Sys2Proof.Machine.execChallenge vf nonce s
  | .getMeasurements vf index => Sys2Proof.Machine.execGetMeasurements vf index s
  | .keyExchange vf peer => Sys2Proof.Machine.execKeyExchange vf peer s
  | .finish vf session peer => Sys2Proof.Machine.execFinish vf session peer s
  | .keyUpdate vf session => Sys2Proof.Machine.execKeyUpdate vf session s
  | .heartbeat vf session => Sys2Proof.Machine.execHeartbeat vf session s
  | .endSession vf session => Sys2Proof.Machine.execEndSession vf session s
  | .lockInterfaceRequest vf => Sys2Proof.Machine.execLockInterfaceRequest vf s
  | .startInterfaceRequest vf => Sys2Proof.Machine.execStartInterfaceRequest vf s
  | .stopInterfaceRequest vf => Sys2Proof.Machine.execStopInterfaceRequest vf s
  | .getDeviceInterfaceState vf => Sys2Proof.Machine.execGetDeviceInterfaceState vf s
  | .getDeviceInterfaceReport vf => Sys2Proof.Machine.execGetDeviceInterfaceReport vf s
  | .nypoeloMsg1 key msg => Sys2Proof.Machine.execNypoeloMsg1 key msg s
  | .nypoeloMsg2 key msg => Sys2Proof.Machine.execNypoeloMsg2 key msg s
  | .nypoeloMsg3 key msg => Sys2Proof.Machine.execNypoeloMsg3 key msg s
  | .nypoeloMsg4 key msg => Sys2Proof.Machine.execNypoeloMsg4 key msg s
  | .nypoeloAbort key step => Sys2Proof.Machine.execNypoeloAbort key step s
  | .fabkeyTimeout key => Sys2Proof.Machine.execFabkeyTimeout key s
  | .sessionPathTimeout session => Sys2Proof.Machine.execSessionPathTimeout session s
  | .fabricPacketReceive session pkt => Sys2Proof.Machine.execFabricPacketReceive session pkt s
  | .espIngress spi pkt => Sys2Proof.Machine.execEspIngress spi pkt s
  | .espEgress spi => Sys2Proof.Machine.execEspEgress spi s
  | .cxlLinkActive port => Sys2Proof.Machine.execCxlLinkActive port s
  | .cxlLinkError port => Sys2Proof.Machine.execCxlLinkError port s
  | .reset => Sys2Proof.Machine.execReset s
  | .bringupSlotEnd => Sys2Proof.Machine.execBringupSlotEnd s
  | .timebaseSync => Sys2Proof.Machine.execTimebaseSync s
  | .managementSet what => Sys2Proof.Machine.execManagementSet what s
  | .firmwareUpdate image digest => Sys2Proof.Machine.execFirmwareUpdate image digest s
  | .syscOtherService core => Sys2Proof.Machine.execSyscOtherService core s
  | .logRingHeadWrite vf ctx value => Sys2Proof.Machine.execLogRingHeadWrite vf ctx value s
  | .dirtyLogHeadWrite vf ctx value => Sys2Proof.Machine.execDirtyLogHeadWrite vf ctx value s
  | .fabkeyPeerRequest key peer => Sys2Proof.Machine.execFabkeyPeerRequest key peer s
  | .peerSessionClose session => Sys2Proof.Machine.execPeerSessionClose session s

end Sys2Proof.Machine
end

