-- ==== Sys2Proof/Machine/Turn.lean ====
section
/-! DEFINITION. One clk of a core (R14 to R25, R45, R50, R58 to R62, R71, R174, R175, R185, R324): what lands, which
sequencer issues, the bundle's slots in order, and what becomes of the bundle. -/

namespace Sys2Proof.Machine

open Sys2Proof

/-- Whether what an instruction raises with ILLB or PRIV is judged by the value of a source that is empty and gives none: that
of x(A) in DQSTEAL, DQCNT and ENQ. -/
def State.valueJudged (s : State) (opc : Nat) (f : Fields) : Bool :=
  f.slot = .ctl && (opc == 0x20 || opc == 0x21 || opc == 0x22)
    && (emptyRefs s.bun.pre s.bun.hnd opc f).any fun r => r.field == 0

/-- A slot whose source is empty has no effect but the kinds that come before EMPTY (R16, R18). -/
def State.onlyEarly (s t : State) : State :=
  let more := (t.bun.raised.drop s.bun.raised.length).filter fun r => r.kind == kILLB || r.kind == kPRIV
  { s with bun := { s.bun with raised := s.bun.raised ++ more } }

/-- The slots of a bundle in order; a slot that is no instruction of this model stops the run by name. -/
def runSlots : List (Slot × Instr) → State → Host.Outcome State Fault Refusal
  | [], s => .next s
  | (_, i) :: rest, s =>
    match i.slotPart with
    | none => runSlots rest s
    | some (opc, f) =>
      if guardOf f s && emptySources s.bun.pre s.bun.hnd opc f then
        (if s.valueJudged opc f then runSlots rest s
        else match exec i s with
          | .next t => runSlots rest (s.onlyEarly t)
          | .fault x => .fault x
          | .refused x => .refused x)
      else match exec i s with
        | .next s => runSlots rest s
        | .fault x => .fault x
        | .refused x => .refused x

/-- The slots of a bundle, CTL's first: the others of a bundle that has been done in part ahead of a handler run stand apart
(R174). -/
def runBundle (slots : List (Slot × Instr)) (s : State) : Host.Outcome State Fault Refusal :=
  match runSlots (slots.filter fun e => e.1 = .ctl) s with
  | .next s => match runSlots (slots.filter fun e => e.1 ≠ .ctl) s.rewind with
    | .next t => .next (s.restore t)
    | .fault x => .fault x
    | .refused x => .refused x
  | .fault x => .fault x
  | .refused x => .refused x

/-- A bundle that is first issued or tried again: its slots, then what becomes of it. -/
noncomputable def State.issue (s : State) (slots : List (Slot × Instr)) : Host.Outcome State Fault Refusal :=
  let s := if s.bun.was.isEmpty then slots.foldl checkSources s else s
  if s.bun.stall && s.bun.raised.isEmpty then .next s.finish
  else match (if slots.isEmpty then exec .emptyBundle s else runBundle slots s) with
    | .next s => .next s.finish
    | .fault x => .fault x
    | .refused x => .refused x

/-- The next bundle of a sequencer of a core: a breakpoint, a fetch, an illegal bundle, or an issue. -/
noncomputable def State.sequence (s : State) (k : Nat) (hnd : Bool) : Host.Outcome State Fault Refusal :=
  let c := s.coreOf k
  match s.held.find? fun h => h.core == k && h.hnd == hnd with
  | some h =>
    match c.lineWords h.hdr with
    | none => .next ((s.paid k hnd).fillLine k hnd h.hdr)
    | some ws =>
      match decodeBundle hnd ws with
      | .error _ => .next s
      | .ok b => (s.again h b.words).issue b.slots
  | none =>
    let pc := (c.bank hnd).pc
    if c.atBreak pc then .next (s.onCore k fun c => { c with dbg := { c.dbg with state := 2, code := 0, step := none } })
    else match c.lineWords pc with
      | none => .next ((s.paid k hnd).fillLine k hnd pc)
      | some ws =>
        match decodeBundle hnd ws with
        | .error x => .next (s.illegal k pc x)
        | .ok b => (s.fresh k hnd pc b.words).issue b.slots

/-- An expander's refusal counts for one turn (R218). -/
def State.forget (s : State) (k : Nat) : State :=
  if (s.coreOf k).refused then s.onCore k fun c => { c with refused := false } else s

/-- An error in core state outside the scratchpad that cannot be corrected ends the launch (R332, Table 19-6). -/
def State.softErrors (s : State) (k : Nat) : State :=
  let c := s.coreOf k
  match c.soft with
  | [] => s
  | e :: _ =>
    let s := s.setCore k { c with soft := [] }
    if c.placed.isNone then s else s.fatal k kSPSOFT 0 0 0 (BitVec.ofNat 64 (e.1 + e.2 * 2 ^ 8)) 0

/-- A handler run starts (R174). A main bundle held at issue is tried once more; held still, it does first what it does in
memory and engines, since it counts as issued before the run (R236). -/
noncomputable def State.startTurn (s : State) (k : Nat) : Host.Outcome State Fault Refusal :=
  if (s.heldMain k).all fun h => h.mem.isSome then .next ((s.startRun k).getD s)
  else match s.sequence k false with
    | .next t =>
      if (t.heldMain k).isSome && t.bun.words ≠ 0 && !t.bun.stall && t.atBoundary k then
        .next ((t.doEarly.startRun k).getD t)
      else .next t
    | .fault x => .fault x
    | .refused x => .refused x

/-- One clk of a core. -/
noncomputable def State.turn (s : State) (k : Nat) : Host.Outcome State Fault Refusal :=
  if s.clockHeld k then .next s
  else
    let s := ((s.clock k).servePort k s.sys.dqReqs.length).softErrors k
    match s.dbgTurn k with
    | some t => .next (t.forget k)
    | none => match s.who k with
    | .none => .next (s.forget k)
    | .start => match s.startTurn k with
      | .next s => .next (s.forget k)
      | .fault x => .fault x
      | .refused x => .refused x
    | w => match s.sequence k (w == .hnd) with
      | .next s => .next (s.forget k)
      | .fault x => .fault x
      | .refused x => .refused x

/-- Time passing with one clk of the core in focus: a clk lasts 10 / point ticks (R4). -/
def State.elapse (s : State) : State :=
  let i := s.sys.islands.toList.getD (s.focus / 128) {}
  let n := if i.held || i.tripped then i.point else 10
  let t := s.sys.tenths + n
  ({ s with sys := { s.sys with tick := s.sys.tick + BitVec.ofNat 64 (t / i.point), tenths := t % i.point } }).keepCalendar

/-- Whether the last turn issued a bundle that went on. -/
def State.progressed (s : State) : Bool := s.bun.words ≠ 0 && !s.bun.stall && s.bun.hold.isNone

/-- The next state of a step, with what follows of itself: the calendar's slots, fault records, quarantines, ladders, unbinds, and objects that are
waited for (R184, R298, R327, R336, R345, R354). -/
def watched (o : Host.Outcome State Fault Refusal) : Host.Outcome State Fault Refusal :=
  match o with
  | .next s => .next s.keepCalendar.flushFaults.payQuarantines.ladders.unbinds.watch
  | .fault x => .fault x
  | .refused x => .refused x

/-- A clk of the core in focus; when it issues nothing, one event of that core that is due. -/
noncomputable def State.idleMove (s : State) : Host.Outcome State Fault Refusal :=
  if 2048 ≤ s.focus then .fault (.noSuchCore s.focus)
  else match s.elapse.turn s.focus with
    | .next t => .next (if t.progressed then t else t.background s.focus)
    | .fault x => .fault x
    | .refused x => .refused x

/-- Whether an event may come about at a stage of bring-up (Table 23-6): before PCIe has enumerated the functions, those of bring-up
itself, of the CXL links, of management and of time; in the bring-up slot, none but the first two. -/
def mayCome (b : Boot) : Instr → Bool
  | .reset | .bringupSlotEnd | .timebaseSync => true
  | .cxlLinkActive _ | .cxlLinkError _ => b == .training || b.linked
  | .managementSet _ | .firmwareUpdate _ _ => b == .released || b.linked
  | .backgroundScrubComplete _ => b.linked
  | .slotOpen | .slotClose | .thermalTrip _ | .mrovrMceClear _ _ => b.timed
  | _ => b == .up

/-- One move (log entry 2). A slot instruction is no event: on the agenda it is passed over. -/
noncomputable def State.move (s : State) : Host.Outcome State Fault Refusal :=
  match s.agenda with
  | [] => watched s.idleMove
  | m :: rest =>
    let s := { s with agenda := rest }
    match m with
    | .writeBack k => watched (.next (s.writeBack k))
    | .tick n => watched (.next (s.passTicks n))
    | .early k dva n => if 2048 ≤ k then .fault (.noSuchCore k) else watched (.next (s.takeEarly k dva n))
    | .useEarly k id => if 2048 ≤ k then .fault (.noSuchCore k) else watched (.next (s.useEarly k id))
    | .mail who core off value => watched (.next (if s.sys.boot == .up then s.mail who core off value else s))
    | .tdispError vf => watched (.next (if s.sys.boot == .up then s.tdispFails vf else s))
    | .bringUp => watched (.next s.bringUp)
    | .path peer up => watched (.next (s.setPath peer up))
    | .resend port q => watched (.next (s.resendFlit port q))
    | .stored port q => watched (.next (s.freeFlit port q))
    | .bar0Read vf off n => watched (.next (if s.sys.boot == .up then s.bar0Read vf off n else s))
    | .plainRequest _ read => watched (.next (if s.sys.boot == .up then s.plainRequest read else s))
    | .operatingPoint i p => watched (.next (s.choosePoint i p))
    | .turn k => if 2048 ≤ k then .fault (.noSuchCore k) else watched (s.turn k)
    | .event i =>
      match i.slotPart with
      | some _ => watched (.next s)
      | none => if mayCome s.sys.boot i then watched (exec i s) else watched (.next s)

end Sys2Proof.Machine
end

