-- ==== Sys2Proof/Machine/Step.lean ====
section
/-! DEFINITION. One step of the machine: the next move of the agenda, or a clk of the core in focus. -/

namespace Sys2Proof.Machine

open Sys2Proof

/-- One step (log entry 2). -/
noncomputable def step (s : State) : Host.Outcome State Fault Refusal := s.move

/-- The machine with an instruction as the next that it fetches (log entry 13). -/
noncomputable def State.withFetchWord (s : State) (nbits w : Nat) : State := s.load nbits w

end Sys2Proof.Machine
end

