-- ==== Sys2Proof/Safety.lean ====
section
/-! DEFINITION. What counts as a safe run, and the words that claims are stated in: the value a register comes to hold, the
flags that results will set, and what an instruction leaves unchanged. -/

namespace Sys2Proof.Safety

open Sys2Proof Sys2Proof.Machine

/-! ### Invariants -/

/-- The storage and every scratchpad are in canonical form. -/
def Canonical (s : State) : Prop :=
  Memory.wf s.sys.mem = true ∧ ∀ e ∈ s.cores, Memory.wf e.2.sp = true

/-! ### Results (R14, R15, R19) -/

/-- The value that a register holds once everything in flight has landed: that of the last result in flight that names it,
or its own when none does. -/
def settled (c : Core) (hnd : Bool) (file : RFile) (n : Nat) : RegVal :=
  match (c.pend.filter fun p => p.names hnd file n).getLast? with
  | some p => p.val
  | none => if isRunFile file then .run (c.runReg file n) else .word (c.reg hnd file n)

/-- The flags of a slot that the results in flight will set (R57). -/
def owedFlags (c : Core) (k : Slot) : FlagSet :=
  (c.pend.filter fun p => p.slot == k).foldl (fun a p => a ||| p.flags) 0

/-- Whether two names are one register: the run files belong to the core, the others to a sequencer (R9, R173). -/
def sameReg (hnd : Bool) (file : RFile) (n : Nat) (hnd' : Bool) (file' : RFile) (n' : Nat) : Bool :=
  file == file' && n == n' && (isRunFile file || hnd == hnd')

/-- The elements of a run register, in logical order (R122). -/
def elements (r : RunReg) : List Word := r.slugs.flatMap fun p => List.replicate p.2 p.1

/-! ### Frames -/

/-- Nothing of a bank but its general registers differs. -/
def bankFrame (b d : Bank) : Prop := d.pc = b.pc ∧ d.preds = b.preds ∧ d.loops = b.loops

/-- Nothing of a core but its general registers and the results in flight differs. -/
def coreFrame (c d : Core) : Prop :=
  d = { c with main := d.main, hnd := d.hnd, v := d.v, w := d.w, pend := d.pend, nextId := d.nextId }
    ∧ bankFrame c.main d.main ∧ bankFrame c.hnd d.hnd

/-- Nothing outside the core that the bundle leaves differs. -/
def onlyCur (s t : State) : Prop := t = { s with bun := { s.bun with cur := t.bun.cur } }

/-- The registers of two cores, each at the value it settles to, and the flags to come, are the same. -/
def sameResults (c d : Core) : Prop :=
  (∀ h file n, settled d h file n = settled c h file n) ∧ ∀ k, owedFlags d k = owedFlags c k

/-- One register comes to hold a value and one slot owes flags; every other register, the other slots' flags and the rest
of a core are unchanged. A write of x0 or y0 is discarded (R10). -/
def coreGives (c d : Core) (hnd : Bool) (k : Slot) (file : RFile) (n : Nat) (v : RegVal) (fl : FlagSet) : Prop :=
  coreFrame c d
    ∧ (∀ h file' n', settled d h file' n' =
        if sameReg hnd file n h file' n' && !(discards file n) then v else settled c h file' n')
    ∧ ∀ k', owedFlags d k' = if k' = k then owedFlags c k' ||| fl else owedFlags c k'

/-- The issuing instruction gives one register a value and its slot some flags, and changes nothing else. -/
def gives (s t : State) (k : Slot) (file : RFile) (n : Nat) (v : RegVal) (fl : FlagSet) : Prop :=
  onlyCur s t ∧ coreGives s.bun.cur t.bun.cur s.bun.hnd k file n v fl

/-- An instruction completes with a scalar result in D of a file and nothing else. -/
def yields (i : Instr) (f : Fields) (s : State) (file : RFile) (v : Word) (fl : FlagSet) : Prop :=
  ∃ t, exec i s = .next t ∧ gives s t f.slot file f.d.toNat (.word v) fl

/-- The predicates of two cores agree but for one, which has a value; a write of p0 is discarded (R10). The rest of the
core is the same. -/
def coreSets (c d : Core) (hnd : Bool) (n : Nat) (b : Bool) : Prop :=
  (∀ h m, m < 16 → d.pred h m = if h = hnd ∧ m = n ∧ n ≠ 0 then b else c.pred h m)
    ∧ d = { c with main := { c.main with preds := d.main.preds }, hnd := { c.hnd with preds := d.hnd.preds } }

/-- An instruction completes with one predicate set and nothing else. -/
def setsPred (i : Instr) (s : State) (n : Nat) (b : Bool) : Prop :=
  ∃ t, exec i s = .next t ∧ onlyCur s t ∧ coreSets s.bun.cur t.bun.cur s.bun.hnd n b

/-- An instruction completes with a change of the bundle that it names and nothing else. -/
def becomes (i : Instr) (s : State) (g : Bun → Bun) : Prop := exec i s = .next { s with bun := g s.bun }

/-- An instruction holds its bundle and changes nothing else: what the bundle waits for is this, unless it waited for
something already. -/
def waitsFor (i : Instr) (s : State) (h : Hold) : Prop :=
  ∃ h', becomes i s (fun b => { b with hold := some h' }) ∧ (s.bun.hold = none → h' = h)

/-- A result, and the named change of the core besides. -/
def givesAnd (s t : State) (k : Slot) (file : RFile) (n : Nat) (v : RegVal) (fl : FlagSet) (g : Core → Core) : Prop :=
  ∃ u, gives s u k file n v fl ∧ t = u.onCur g

/-- The update of an address register that V of an access asks for (R84, R86): u is s, or s with A updated, or raises UNALIGN for a
modifier of mode 3 (R89). -/
def postMods (s u : State) (f : Fields) : Prop :=
  if f.v then
    (∀ a, addrUpdate (opA f s) (opBReg f s) = some a → gives s u f.slot f.slot.file f.a.toNat (.word a) 0)
      ∧ (addrUpdate (opA f s) (opBReg f s) = none →
          u = { s with bun := { s.bun with raised := s.bun.raised ++ [⟨0x04, f.slot, opBReg f s, 0, 0⟩] } })
  else u = s

/-! ### Events -/

/-- An event comes about and leaves this state. -/
def happens (i : Instr) (s t : State) : Prop := exec i s = .next t

/-- A turn of a core comes next. -/
def turnNext (s : State) (core : Nat) : State := { s with agenda := .turn core :: s.agenda }

/-- The first answer still to come of a core that meets a condition. -/
def firstAsk (s : State) (core : Nat) (p : Ask → Bool) (a : AskReq) : Prop :=
  s.sys.asks.find? (fun x => x.core == core && p x.what) = some a

/-- An answer lands: it leaves the requests, and its result is due in the next clk with a value (R19). -/
def answered (s : State) (a : AskReq) (v : Word) : State :=
  ({ s with sys := { s.sys with asks := s.sys.asks.erase a } }).onCore a.core fun c => c.reply a.id 1 (.word v) 0

/-- What a register of a core holds. -/
def regVal (c : Core) (hnd : Bool) (file : RFile) (n : Nat) : RegVal :=
  if isRunFile file then .run (c.runReg file n) else .word (c.reg hnd file n)

/-- When a result lands (R14, R15, R19): what is in flight stays so, and the register, unless it discards what is written to it, is
empty from issue on and the last result that names it is due a latency later. A result of latency 1 is there in the next clk,
at once in a register that is full. -/
def arrives (s t : State) (hnd : Bool) (file : RFile) (n lat : Nat) : Prop :=
  s.bun.cur.pend <+: t.bun.cur.pend
    ∧ (discards file n = false →
        if lat = 1 ∧ s.bun.cur.isEmpty hnd file n = false then t.bun.cur.isEmpty hnd file n = false
        else t.bun.cur.isEmpty hnd file n = true
          ∧ ∃ p, (t.bun.cur.pend.filter fun q => q.names hnd file n).getLast? = some p ∧ p.due = some (s.bun.cur.clk + lat))

/-- Whether a result in flight is due in this clk. -/
def due (c : Core) (p : Pend) : Prop := ∃ d, p.due = some d ∧ d ≤ c.clk

/-! ### The calendar -/

/-- What SLOTQ gives at a tick for a class, 3 being any (R68): WAIT 0 and what is left of a slot of the class that is open, or the
ticks until the next one opens, with its length; and its class. -/
def calendarSays (t k : Nat) (v : Word) : Prop :=
  let of_ (c : Nat) : Prop := k = 3 ∨ c = k
  let word (wait span cls : Nat) : Word := BitVec.ofNat 64 (wait + span * 2 ^ 32 + cls * 2 ^ 48)
  (∃ c left, slotAt t = some (c, left) ∧ of_ c ∧ v = word 0 left c)
    ∨ ∃ w c n, 0 < w ∧ (∀ u, u < w → ∀ c' left, slotAt (t + u) = some (c', left) → ¬of_ c') ∧ slotAt (t + w) = some (c, n)
        ∧ of_ c ∧ v = word w n c

/-! ### Scratchpad -/

/-- No packed region, no chase and no group asleep stops an access of the bundle to a scratchpad range (R86, R200, R223, R252). -/
def spOpen (c : Core) (lo hi : Nat) (write packedOk : Bool) : Prop :=
  (packedOk = true ∨ c.meetsPacked lo hi = false) ∧ c.chaseBlocks lo hi write = false ∧ (c.asleep lo hi).2 = false

/-- Nothing stops an access of the bundle to a scratchpad range, no word in error that the access reads either (R201). -/
def spClear (c : Core) (lo hi : Nat) (write packedOk : Bool) : Prop :=
  spOpen c lo hi write packedOk ∧ c.badWord lo hi write = none

/-- The same for what reads the scratchpad as it stood before the bundle (R17): it meets the words that were in error then. -/
def spReads (s : State) (lo hi : Nat) (packedOk : Bool) : Prop :=
  spOpen s.bun.cur lo hi false packedOk ∧ s.bun.pre.badWord lo hi false = none

/-- Bytes stored into a core's scratchpad from an address: each byte of the range, every byte outside it unchanged, and
nothing else of the core but the errors of words written whole (R201). -/
def coreStores (c d : Core) (a : Nat) (bs : List Byte) : Prop :=
  d = { c with sp := d.sp, spBad := d.spBad }
    ∧ (∀ x, readByte d.sp x = if a ≤ x ∧ x < a + bs.length then bs.getD (x - a) 0 else readByte c.sp x)
    ∧ ∀ w, w ∈ d.spBad ↔ w ∈ c.spBad ∧ ¬(a ≤ 8 * w ∧ 8 * w + 8 ≤ a + bs.length)

/-- The instruction of a slot stores bytes into its core's scratchpad and changes nothing else; behind AGA, a value that ends a
WAITX of the core's other sequencer is noted (R93, R184). -/
def stores (s t : State) (k : Slot) (a : Nat) (bs : List Byte) : Prop :=
  t = { s with bun := { s.bun with cur := t.bun.cur, post := t.bun.post } } ∧ coreStores s.bun.cur t.bun.cur a bs
    ∧ t.bun.post = s.bun.post ++ (if k = .aga then [] else (s.passing.map Post.met).toList)

/-! ### Engines and memory at issue -/

/-- Nothing of a core differs but its engines, its chase, its tables and the next number: registers, flags, scratchpad and
control registers are the same. -/
def enginesOnly (c d : Core) : Prop :=
  d = { c with cmds := d.cmds, mats := d.mats, keys := d.keys, chase := d.chase, packed := d.packed, galleys := d.galleys,
               fActive := d.fActive, fShadow := d.fShadow, fTiles := d.fTiles, peers := d.peers, nextId := d.nextId }

/-- There is room for a command and its ranges (R246, R251). -/
def roomFor (c : Core) (e : Eng) (ranges : List (Nat × Nat)) : Prop :=
  c.queued e < e.depth ∧ c.chase.length + (ranges.filter fun r => r.1 < r.2).length ≤ 64

/-- The command that an engine instruction issues, as far as every command goes (R246 to R249). -/
def isCommand (m : Cmd) (s : State) (f : Fields) (e : Eng) (opc : Nat) : Prop :=
  m.id = s.bun.cur.nextId ∧ m.eng = e ∧ m.opc = opc ∧ m.f = f ∧ m.hdr = s.bun.hdr ∧ m.hnd = s.bun.hnd
    ∧ m.ea = opA f s ∧ m.ec = opC f s ∧ m.user = !s.bun.pre.modeS ∧ m.progress = 0 ∧ m.started = false
    ∧ m.parked = false ∧ m.chunk = none

/-- A completion descriptor that passes the checks of an engine command (Table 14-3, R223, R249): that of no object, or one on
8 bytes in global memory or in scratchpad, off the packed regions where the command may not reach them. -/
def descriptorFits (c : Core) (v : Word) (packedOk : Bool) : Prop :=
  v = 0x0200000000000000#64 ∨
    (v.getLsbD 57 = false ∧ v.toNat % 8 = 0 ∧ (v.getLsbD 56 = true →
      v.toNat % 2 ^ 56 < 2 ^ 21 ∧ (packedOk = true ∨ c.meetsPacked (v.toNat % 2 ^ 56) (v.toNat % 2 ^ 56 + 8) = false)))

/-- The chase after a command has claimed its ranges (R251): the entries before, then one for each range that is not
empty, reads first. -/
def claimed (c d : Core) (cmd : Nat) (reads writes : List (Nat × Nat)) : Prop :=
  ∃ more, d.chase = c.chase ++ more
    ∧ more.map (fun r => (r.cmd, r.lo, r.hi, r.write)) =
      ((reads.filter fun r => r.1 < r.2).map fun r => (cmd, r.1, r.2, false))
        ++ ((writes.filter fun r => r.1 < r.2).map fun r => (cmd, r.1, r.2, true))

/-- An instruction puts one command at the end of an engine's queue and its ranges into the chase, and changes no
register, flag, control register or byte of memory. -/
def enqueues (i : Instr) (s : State) (f : Fields) (e : Eng) (opc : Nat) (reads writes : List (Nat × Nat))
    (extra : Cmd → Core → Prop) : Prop :=
  ∃ t m, exec i s = .next t ∧ onlyCur s t ∧ enginesOnly s.bun.cur t.bun.cur ∧ t.bun.cur.cmds = s.bun.cur.cmds ++ [m]
    ∧ isCommand m s f e opc ∧ claimed s.bun.cur t.bun.cur m.id reads writes ∧ extra m t.bun.cur

/-- A load, an atomic or a store is accepted (R323): one access joins those of the core that are still to perform; a
register that waits for it is empty, and no other register, no flag and no byte changes. It stands in program order, a load
of its bundle before a store (R225). -/
def accepts (s t : State) (f : Fields) (opc : Nat) (ea b c : Word) (e : TlbEntry) (pa : Nat) (dest : Bool) : Prop :=
  t = { s with bun := { s.bun with cur := t.bun.cur, post := t.bun.post } }
    ∧ t.bun.post = s.bun.post ++ (if s.bun.cur.tlb.contains e then [] else [.shared e])
    ∧ t.bun.cur.gacc = (s.bun.cur.enterAcc
        ⟨s.bun.cur.nextId, s.bun.first, s.bun.hnd, f.slot, s.bun.hdr, opc, f, ea, pa, b, c, e.subst, s.bun.cur.ctx⟩).gacc
    ∧ t.bun.cur = { s.bun.cur with gacc := t.bun.cur.gacc, tlb := t.bun.cur.tlb, pend := t.bun.cur.pend,
                                   nextId := s.bun.cur.nextId + 1 }
    ∧ (dest = true → discards f.slot.file f.d.toNat = false →
        t.bun.cur.isEmpty s.bun.hnd f.slot.file f.d.toNat = true)
    ∧ ∀ h file n, sameReg s.bun.hnd f.slot.file f.d.toNat h file n = false ∨ dest = false →
        settled t.bun.cur h file n = settled s.bun.cur h file n

/-! ### What a bundle is -/

/-- The bundle raises no trap and no fault, and is neither stalled nor held. -/
def passes (b : Bun) : Prop := b.raised = [] ∧ b.stall = false ∧ b.hold = none

/-- The fields of an instruction that names nothing: p0 as its guard and zeros. -/
def plainFields (k : Slot) (l : Len) : Fields :=
  { slot := k, len := l, g := 0, gn := false, d := 0, a := 0, b := 0, wa := false, wb := false, v := false, c := 0,
    wc := false, t := 0, rm := 0, sc := 0, i16 := 0, l32 := 0 }

/-! ### Turns -/

/-- A core at the start of its turn: the steals at its port are served, its clk begins, and an error in its own state that
cannot be corrected ends its launch (R183, R14, R332). -/
def readied (s : State) (k : Nat) : State := ((s.clock k).servePort k s.sys.dqReqs.length).softErrors k

/-- The next bundle of a sequencer of a core: the core's clock runs, the debugger does not halt it, the sequencer has its turn, it has no bundle held at
issue and no breakpoint here, and its line holds a legal bundle at its program counter. -/
def issuing (s : State) (k : Nat) (hnd : Bool) (b : Bundle) : Prop :=
  let c := (readied s k).coreOf k
  s.clockHeld k = false ∧ (readied s k).dbgTurn k = none ∧ (readied s k).who k = (if hnd then .hnd else .main)
    ∧ (∀ h ∈ (readied s k).held, ¬(h.core = k ∧ h.hnd = hnd)) ∧ c.atBreak (c.bank hnd).pc = false
    ∧ ∃ ws, c.lineWords (c.bank hnd).pc = some ws ∧ decodeBundle hnd ws = .ok b

/-- The machine as the first slot of that bundle finds it. -/
def atIssue (s : State) (k : Nat) (hnd : Bool) (b : Bundle) : State :=
  (readied s k).fresh k hnd (((readied s k).coreOf k).bank hnd).pc b.words

/-- The meanings of a list of instructions, one after the other. -/
noncomputable def inOrder : List Instr → State → Host.Outcome State Fault Refusal
  | [], s => .next s
  | i :: is, s => match exec i s with
    | .next t => inOrder is t
    | .fault x => .fault x
    | .refused x => .refused x

/-- A change of the next state of an outcome. -/
def thenDo (o : Host.Outcome State Fault Refusal) (g : State → State) : Host.Outcome State Fault Refusal :=
  match o with
  | .next t => .next (g t)
  | .fault x => .fault x
  | .refused x => .refused x

/-- What a bundle of one instruction or more finds at issue: no source of a slot whose guard is true is empty (R16). -/
def sourcesFull (s : State) (b : Bundle) : Prop :=
  ∀ e ∈ b.slots, ∃ opc f, e.2.slotPart = some (opc, f) ∧
    (guardOf f s = false ∨ ∀ r ∈ sourcesOf opc f, s.bun.pre.isEmpty s.bun.hnd r.file r.reg = false)

end Sys2Proof.Safety
end

