-- ==== Sys2Proof/Certificates/Slice0/Obligations.lean ====
section
/-! DEFINITION. The statements about the GY-960 that are left to prove. -/

open Sys2Proof Sys2Proof.Machine Sys2Proof.Safety

/-! ### The guard -/

/-- R17, Table 2-2: a slot instruction whose guard is false has no effect, whatever the instruction. R17, R26: what a
slot instruction can change. Whatever it is and in whatever state, its next state differs in the bundle in flight
alone: no core, no memory, no queue and no table outside; within the bundle the core as read, the header and what the
bundle was held for are unchanged, raises and posts are only added, and the mode, the gang, the launch, the context
and the clock of the core that the bundle leaves are those before. -/
def Obligations.SlotFrame : Prop :=
  (∀ (i : Instr) (opc : Nat) (f : Fields) (s : State), i.slotPart = some (opc, f) → guardOf f s = false →
     exec i s = .next s)
  ∧ (∀ (i : Instr) (opc : Nat) (f : Fields) (s : State), i.slotPart = some (opc, f) →
       ∃ b : Bun, exec i s = .next { s with bun := b }
         ∧ b.core = s.bun.core ∧ b.hnd = s.bun.hnd ∧ b.hdr = s.bun.hdr ∧ b.words = s.bun.words ∧ b.pre = s.bun.pre
         ∧ b.was = s.bun.was ∧ b.answer = s.bun.answer ∧ b.xlf = s.bun.xlf ∧ b.landed = s.bun.landed
         ∧ b.since = s.bun.since ∧ b.tick = s.bun.tick ∧ b.mem = s.bun.mem ∧ b.sent = s.bun.sent ∧ b.first = s.bun.first ∧ b.runs = s.bun.runs ∧ (s.bun.coal = true → b.coal = true)
         ∧ (∃ more, b.raised = s.bun.raised ++ more) ∧ (∃ more, b.post = s.bun.post ++ more)
         ∧ b.cur.modeS = s.bun.cur.modeS ∧ b.cur.gang = s.bun.cur.gang ∧ b.cur.launch = s.bun.cur.launch
         ∧ b.cur.argp = s.bun.cur.argp ∧ b.cur.ctx = s.bun.cur.ctx ∧ b.cur.placed = s.bun.cur.placed
         ∧ b.cur.clk = s.bun.cur.clk ∧ b.cur.departed = s.bun.cur.departed)

/-- No instruction and no event stops the machine: exec answers a next state for every term of `Instr` in every state. -/
def Obligations.NothingStops : Prop := ∀ (i : Instr) (s : State), ∃ t, exec i s = .next t

/-! ### Scalar and address arithmetic -/

/-- R74, Table 4-2: the integer instructions of two operands of SA and SB, with B a register or an immediate. -/
def Obligations.IntegerResults : Prop :=
  ∀ (f : Fields) (s : State), (f.slot = .sa ∨ f.slot = .sb) → guardOf f s = true →
    let a := opA f s
    let b := opBA f s
    let n := b.toNat % 64
    let gives (i : Instr) (v : Word) : Prop := yields i f s f.slot.file v 0
    gives (.add f) (a + b) ∧ gives (.addImm f) (a + b) ∧ gives (.sub f) (a - b) ∧ gives (.subImm f) (a - b)
      ∧ gives (.and f) (a &&& b) ∧ gives (.andImm f) (a &&& b) ∧ gives (.or f) (a ||| b) ∧ gives (.orImm f) (a ||| b)
      ∧ gives (.xor f) (a ^^^ b) ∧ gives (.xorImm f) (a ^^^ b)
      ∧ gives (.andn f) (a &&& ~~~ b) ∧ gives (.andnImm f) (a &&& ~~~ b)
      ∧ gives (.shl f) (a <<< n) ∧ gives (.shlImm f) (a <<< n) ∧ gives (.shr f) (a >>> n) ∧ gives (.shrImm f) (a >>> n)
      ∧ gives (.sar f) (a.sshiftRight n) ∧ gives (.sarImm f) (a.sshiftRight n)
      ∧ gives (.rol f) ((a <<< n) ||| (a >>> ((64 - n) % 64))) ∧ gives (.rolImm f) ((a <<< n) ||| (a >>> ((64 - n) % 64)))
      ∧ gives (.min f) (BitVec.ofInt 64 (min a.toInt b.toInt)) ∧ gives (.minImm f) (BitVec.ofInt 64 (min a.toInt b.toInt))
      ∧ gives (.max f) (BitVec.ofInt 64 (max a.toInt b.toInt)) ∧ gives (.maxImm f) (BitVec.ofInt 64 (max a.toInt b.toInt))
      ∧ gives (.minn f) (BitVec.ofNat 64 (min a.toNat b.toNat)) ∧ gives (.minnImm f) (BitVec.ofNat 64 (min a.toNat b.toNat))
      ∧ gives (.maxn f) (BitVec.ofNat 64 (max a.toNat b.toNat)) ∧ gives (.maxnImm f) (BitVec.ofNat 64 (max a.toNat b.toNat))
      ∧ gives (.add32 f) (((a + b).setWidth 32).signExtend 64) ∧ gives (.add32Imm f) (((a + b).setWidth 32).signExtend 64)
      ∧ gives (.sub32 f) (((a - b).setWidth 32).signExtend 64) ∧ gives (.sub32Imm f) (((a - b).setWidth 32).signExtend 64)
      ∧ gives (.mul f) (a * b) ∧ gives (.mulImm f) (a * b)
      ∧ gives (.mulh f) (BitVec.ofInt 64 (a.toInt * b.toInt / 2 ^ 64))
      ∧ gives (.mulhImm f) (BitVec.ofInt 64 (a.toInt * b.toInt / 2 ^ 64))
      ∧ gives (.mulhn f) (BitVec.ofNat 64 (a.toNat * b.toNat / 2 ^ 64))
      ∧ gives (.mulhnImm f) (BitVec.ofNat 64 (a.toNat * b.toNat / 2 ^ 64))
      ∧ gives (.madd f) (a * opBW f s + opC f s)

/-- R74, R76: the instructions of one operand, of bit fields and of literals, bit by bit. -/
def Obligations.BitResults : Prop :=
  ∀ (f : Fields) (s : State), (f.slot = .sa ∨ f.slot = .sb) → guardOf f s = true →
    let a := opA f s
    let b := opBA f s
    let w := if b.toNat % 128 = 0 ∨ 64 < b.toNat % 128 then 64 else b.toNat % 128
    let pos := f.i16.toNat % 64
    let len := f.i16.toNat / 64 % 128
    let bits (i : Instr) (p : Nat → Bool) : Prop :=
      ∃ v : Word, yields i f s f.slot.file v 0 ∧ ∀ k, k < 64 → v.getLsbD k = p k
    let count (i : Instr) (p : Nat → Prop) : Prop := ∃ n, n ≤ 64 ∧ p n ∧ yields i f s f.slot.file (BitVec.ofNat 64 n) 0
    yields (.sel f) f s f.slot.file (if s.rdPred f.c.toNat then a else opBW f s) 0
      ∧ count (.clz f) (fun n => (∀ k, 64 - n ≤ k → k < 64 → a.getLsbD k = false) ∧ (n < 64 → a.getLsbD (63 - n) = true))
      ∧ count (.ctz f) (fun n => (∀ k, k < n → a.getLsbD k = false) ∧ (n < 64 → a.getLsbD n = true))
      ∧ yields (.popc f) f s f.slot.file
          (BitVec.ofNat 64 ((List.range 64).filter fun k => a.getLsbD k).length) 0
      ∧ bits (.brev f) (fun k => a.getLsbD (63 - k))
      ∧ bits (.bswap f) (fun k => a.getLsbD (8 * (7 - k / 8) + k % 8))
      ∧ bits (.sext f) (fun k => a.getLsbD (min k (w - 1))) ∧ bits (.sextImm f) (fun k => a.getLsbD (min k (w - 1)))
      ∧ bits (.zext f) (fun k => decide (k < w) && a.getLsbD k) ∧ bits (.zextImm f) (fun k => decide (k < w) && a.getLsbD k)
      ∧ (1 ≤ len → pos + len ≤ 64 →
          bits (.bfx f) (fun k => if k < len then a.getLsbD (pos + k) else f.v && a.getLsbD (pos + len - 1))
            ∧ bits (.bfi f) (fun k => if pos ≤ k ∧ k < pos + len then (opBReg f s).getLsbD (k - pos) else a.getLsbD k))
      ∧ (f.len = .two → yields (.lit f) f s f.slot.file (f.i16.signExtend 64) 0)
      ∧ (f.len = .three → yields (.lit f) f s f.slot.file (f.l32.signExtend 64) 0)
      ∧ bits (.lith f) (fun k => if k < 32 then (s.rd f.slot.file f.d.toNat).getLsbD k else f.l32.getLsbD (k - 32))

/-- R74: the compares and TSTBIT set one predicate; R55: the predicate operations of CTL; R56: PTOX reads the sixteen
predicates, p0 as true, into any x register, and XTOP writes p1 to p15 where its mask has a 1. -/
def Obligations.PredicateResults : Prop :=
  ∀ (f : Fields) (s : State), guardOf f s = true →
    let a := opA f s
    let b := opBA f s
    let p := s.rdPred f.a.toNat
    let q := s.rdPred f.b.toNat
    let sets (i : Instr) (v : Bool) : Prop := f.d.toNat < 16 → setsPred i s f.d.toNat v
    sets (.cmpeq f) (decide (a = b)) ∧ sets (.cmpeqImm f) (decide (a = b))
      ∧ sets (.cmpne f) (decide (a ≠ b)) ∧ sets (.cmpneImm f) (decide (a ≠ b))
      ∧ sets (.cmplt f) (decide (a.toInt < b.toInt)) ∧ sets (.cmpltImm f) (decide (a.toInt < b.toInt))
      ∧ sets (.cmple f) (decide (a.toInt ≤ b.toInt)) ∧ sets (.cmpleImm f) (decide (a.toInt ≤ b.toInt))
      ∧ sets (.cmpltn f) (decide (a.toNat < b.toNat)) ∧ sets (.cmpltnImm f) (decide (a.toNat < b.toNat))
      ∧ sets (.cmplen f) (decide (a.toNat ≤ b.toNat)) ∧ sets (.cmplenImm f) (decide (a.toNat ≤ b.toNat))
      ∧ sets (.tstbit f) (a.getLsbD (b.toNat % 64)) ∧ sets (.tstbitImm f) (a.getLsbD (b.toNat % 64))
      ∧ sets (.pset f) p ∧ sets (.pand f) (p && q) ∧ sets (.por f) (p || q) ∧ sets (.pxor f) (p != q)
      ∧ sets (.pandn f) (p && !q)
      ∧ (∃ v : Word, yields (.ptox f) f s .x v 0 ∧ ∀ k, k < 64 → v.getLsbD k = (decide (k < 16) && s.rdPred k))
      ∧ ∃ t, exec (.xtop f) s = .next t ∧ onlyCur s t
          ∧ (∀ k, k < 16 → t.bun.cur.pred s.bun.hnd k =
              if k ≠ 0 ∧ (opXB f s).getLsbD k then (opXA f s).getLsbD k else s.bun.cur.pred s.bun.hnd k)
          ∧ t.bun.cur = { s.bun.cur with main := { s.bun.cur.main with preds := t.bun.cur.main.preds },
                                         hnd := { s.bun.cur.hnd with preds := t.bun.cur.hnd.preds } }

/-- R77, R78, Table 4-3: a division whose divider is free gives the quotient or remainder truncated toward zero, with DZ
and OF; a busy divider stalls the bundle. -/
def Obligations.Division : Prop :=
  ∀ (f : Fields) (s : State), f.slot = .sb → guardOf f s = true →
    let a := opA f s
    let b := opBA f s
    let z := decide (b = 0#64)
    let low := decide (a = BitVec.intMin 64 ∧ b = BitVec.allOnes 64)
    let busy (c : Core) : Core := { c with divFree := c.clk + 20 }
    let q := if z then BitVec.allOnes 64 else BitVec.ofInt 64 (Int.tdiv a.toInt b.toInt)
    let r := if z then a else BitVec.ofInt 64 (Int.tmod a.toInt b.toInt)
    let qn := if z then BitVec.allOnes 64 else BitVec.ofNat 64 (a.toNat / b.toNat)
    let rn := if z then a else BitVec.ofNat 64 (a.toNat % b.toNat)
    let dz := if z then fDZ else 0#8
    let dzof := if z then fDZ else if low then fOF else 0#8
    let one (i : Instr) (v : Word) (fl : FlagSet) : Prop :=
      if s.bun.cur.clk < s.bun.cur.divFree then becomes i s fun x => { x with stall := true }
      else ∃ t, exec i s = .next t ∧ givesAnd s t f.slot .y f.d.toNat (.word v) fl busy
    one (.div f) q dzof ∧ one (.divImm f) q dzof ∧ one (.divn f) qn dz ∧ one (.divnImm f) qn dz
      ∧ one (.rem f) r dz ∧ one (.remImm f) r dz ∧ one (.remn f) rn dz ∧ one (.remnImm f) rn dz

/-- R80: MULMOD, ADDMOD and SUBMOD modulo MODQ[I16[2:0]]; an operand at or above q sets MQ. -/
def Obligations.ModularResults : Prop :=
  ∀ (f : Fields) (s : State), f.slot = .sb → guardOf f s = true →
    let q := (s.bun.pre.modq.toList.getD (f.i16.toNat % 8) 3#64).toNat
    let a := (opA f s).toNat
    let b := (opBW f s).toNat
    let fl := if q ≤ a ∨ q ≤ b then fMQ else 0#8
    yields (.mulmod f) f s .y (BitVec.ofNat 64 (a * b % q)) fl
      ∧ yields (.addmod f) f s .y (BitVec.ofNat 64 ((a + b) % q)) fl
      ∧ yields (.submod f) f s .y (BitVec.ofNat 64 (((a : Int) - b) % (q : Int)).toNat) fl

/-- R81 to R83: the binary32 instructions of SB round the exact result once in the mode of RM, or compare, convert and
classify; their flags are owed by their slot. -/
def Obligations.FloatResults : Prop :=
  ∀ (f : Fields) (s : State), f.slot = .sb → guardOf f s = true →
    let a := (opA f s).toNat
    let b := (opBF f s).toNat
    let m := rmode f
    let gives (i : Instr) (r : Rounded) : Prop := yields i f s .y (BitVec.ofNat 64 (r.bits % 2 ^ 32)) r.flags
    let sets (i : Instr) (r : Bool × FlagSet) : Prop :=
      ∃ u t, exec i s = .next t ∧ onlyCur s u ∧ coreSets s.bun.cur u.bun.cur s.bun.hnd f.d.toNat r.1 ∧ onlyCur u t
        ∧ coreFrame u.bun.cur t.bun.cur ∧ (∀ h file n, settled t.bun.cur h file n = settled u.bun.cur h file n)
        ∧ ∀ k, owedFlags t.bun.cur k = if k = f.slot then owedFlags u.bun.cur k ||| r.2 else owedFlags u.bun.cur k
    let i := toIntFmt (8 * tBytes f.t.toNat) (tSigned f.t.toNat) m (f32 a)
    let x := tExtend f.t.toNat a
    gives (.fadd f) (f32Add m a b) ∧ gives (.faddImm f) (f32Add m a b)
      ∧ gives (.fsub f) (f32Sub m a b) ∧ gives (.fsubImm f) (f32Sub m a b)
      ∧ gives (.fmul f) (f32Mul m a b) ∧ gives (.fmulImm f) (f32Mul m a b)
      ∧ gives (.ffma f) (f32Fma m a b (opC f s).toNat)
      ∧ gives (.fmin f) (f32MinMax false a b) ∧ gives (.fminImm f) (f32MinMax false a b)
      ∧ gives (.fmax f) (f32MinMax true a b) ∧ gives (.fmaxImm f) (f32MinMax true a b)
      ∧ (f.d.toNat < 16 → sets (.fcmpeq f) (f32CmpEq a b) ∧ sets (.fcmpeqImm f) (f32CmpEq a b)
          ∧ sets (.fcmplt f) (f32CmpLt a b) ∧ sets (.fcmpltImm f) (f32CmpLt a b)
          ∧ sets (.fcmple f) (f32CmpLe a b) ∧ sets (.fcmpleImm f) (f32CmpLe a b))
      ∧ yields (.fcvti f) f s .y (BitVec.ofInt 64 i.1) i.2
      ∧ gives (.fcvtf f) (fmtF32.round m (Val.ofInt (if tSigned f.t.toNat then x.toInt else x.toNat)))
      ∧ yields (.fclass f) f s .y (BitVec.ofNat 64 (f32Class a)) 0

/-- R79, R90, R272: the moves between register files, AADD, MSET and ELIT; a move out of a run register takes element
0, which is zero when it has none. R88, R89: AMOD updates D through a modifier: linearly, circularly in a buffer of
LEN, or bit-reversed in W bits; mode 3 raises UNALIGN. -/
def Obligations.MovesAndModifiers : Prop :=
  (∀ (f : Fields) (s : State), f.slot ≠ .ctl → f.slot ≠ .va → f.slot ≠ .vb → f.d.toNat < f.slot.file.size →
     guardOf f s = true →
     let file := fileOfCode f.slot.file f.sc
     let v := if isRunFile file then (elements (s.rdRun file f.a.toNat)).headD 0#64 else opASc f s
     let len := (opA f s).toNat % 2 ^ 24
     let step := (opBW f s).toNat % 2 ^ 32
     yields (.xmovScalar f) f s f.slot.file v 0 ∧ yields (.xmovXe f) f s f.slot.file v 0
       ∧ yields (.amov f) f s f.slot.file (opASc f s) 0
       ∧ yields (.aadd f) f s f.slot.file (opA f s + opBA f s) 0 ∧ yields (.aaddImm f) f s f.slot.file (opA f s + opBA f s) 0
       ∧ yields (.mset f) f s f.slot.file
           (BitVec.ofNat 64 (step + len * 2 ^ 32 + f.i16.toNat % 2 ^ 6 * 2 ^ 56 + f.i16.toNat / 2 ^ 6 % 4 * 2 ^ 62)) 0
       ∧ (f.len = .two → yields (.elit f) f s f.slot.file (f.i16.signExtend 64) 0)
       ∧ (f.len = .three → yields (.elit f) f s f.slot.file (f.l32.signExtend 64) 0))
  ∧ (∀ (f : Fields) (s : State), (f.slot = .aga ∨ f.slot = .agb) → f.d.toNat < 24 → guardOf f s = true →
       let a := s.rd f.slot.file f.d.toNat
       let m := opA f s
       let step := (m.extractLsb' 0 32).signExtend 64
       let len := (m.extractLsb' 32 24).toNat
       let mode := (m.extractLsb' 62 2).toNat
       let w := (m.extractLsb' 56 6).toNat
       (mode = 0 → yields (.amod f) f s f.slot.file (a + step) 0)
         ∧ (mode = 1 → len = 0 → yields (.amod f) f s f.slot.file a 0)
         ∧ (mode = 1 → 0 < len → ∃ base r, base % 2 ^ (Nat.clog 2 len) = 0 ∧ base ≤ a.toNat ∧ a.toNat < base + 2 ^ (Nat.clog 2 len)
             ∧ r < len ∧ (len : Int) ∣ ((a.toNat : Int) - base + step.toInt - r)
             ∧ yields (.amod f) f s f.slot.file (BitVec.ofNat 64 (base + r)) 0)
         ∧ (mode = 2 → ∃ v : Word, yields (.amod f) f s f.slot.file v 0
             ∧ v.toNat / 2 ^ w = a.toNat / 2 ^ w
             ∧ revBits w (v.toNat % 2 ^ w) = (revBits w (a.toNat % 2 ^ w) + revBits w (step.toNat % 2 ^ w)) % 2 ^ w)
         ∧ (mode = 3 → becomes (.amod f) s fun b => { b with raised := b.raised ++ [⟨kUNALIGN, f.slot, m, 0, 0⟩] }))


/-! ### Run vectors -/

/-- R134, R140 to R160: a run instruction whose unit is free and whose operands agree gives D its run result and occupies
its unit for one clk per 16 segments (4 for a stochastic conversion); a result of more than 128 segments is held first, and
then every result of its bundle counts its latency from the commit (R128). -/
def Obligations.RunResults : Prop :=
  ∀ (f : Fields) (s : State), (f.slot = .va ∨ f.slot = .vb) → f.d.toNat < 16 → guardOf f s = true →
    unitFree f s.bun.cur ≤ s.bun.cur.clk →
    let a := runA f s
    let b := runB f s
    let c := runC f s
    let m := rmode f
    let k := runMask f s
    let q := modqOf s (f.i16.toNat % 8)
    let run (div : Nat) (i : Instr) (r : Except RunErr RunRes) : Prop :=
      ∀ x, r = .ok x → s.bun.since + x.hold ≤ s.bun.cur.clk →
        ∃ t, exec i s = .next t ∧ givesAnd (s.coalesces x.hold) t f.slot f.slot.file f.d.toNat (.run x.reg) x.flags fun z =>
          z.occupy f s.bun.since ((x.segs + div - 1) / div)
    run 16 (.vadd f) (runBin .add f.v m a b k) ∧ run 16 (.vaddImm f) (runBin .add f.v m a b k)
      ∧ run 16 (.vsub f) (runBin .sub f.v m a b k) ∧ run 16 (.vsubImm f) (runBin .sub f.v m a b k)
      ∧ run 16 (.vmul f) (runBin .mul f.v m a b k) ∧ run 16 (.vmulImm f) (runBin .mul f.v m a b k)
      ∧ run 16 (.vmin f) (runBin .min f.v m a b k) ∧ run 16 (.vminImm f) (runBin .min f.v m a b k)
      ∧ run 16 (.vmax f) (runBin .max f.v m a b k) ∧ run 16 (.vmaxImm f) (runBin .max f.v m a b k)
      ∧ run 16 (.vand f) (runBin .and f.v m a b k) ∧ run 16 (.vandImm f) (runBin .and f.v m a b k)
      ∧ run 16 (.vor f) (runBin .or f.v m a b k) ∧ run 16 (.vorImm f) (runBin .or f.v m a b k)
      ∧ run 16 (.vxor f) (runBin .xor f.v m a b k) ∧ run 16 (.vxorImm f) (runBin .xor f.v m a b k)
      ∧ run 16 (.vshl f) (runBin .shl f.v m a b k) ∧ run 16 (.vshlImm f) (runBin .shl f.v m a b k)
      ∧ run 16 (.vshr f) (runBin .shr f.v m a b k) ∧ run 16 (.vshrImm f) (runBin .shr f.v m a b k)
      ∧ run 16 (.vsar f) (runBin .sar f.v m a b k) ∧ run 16 (.vsarImm f) (runBin .sar f.v m a b k)
      ∧ run 16 (.vfma f) (runFma f.v m a b c) ∧ run 16 (.vabs f) (runAbs f.v a) ∧ run 16 (.vneg f) (runNeg f.v a)
      ∧ run 16 (.vcmpeq f) (runCmp .eq f.v a b k) ∧ run 16 (.vcmpeqImm f) (runCmp .eq f.v a b k)
      ∧ run 16 (.vcmpne f) (runCmp .ne f.v a b k) ∧ run 16 (.vcmpneImm f) (runCmp .ne f.v a b k)
      ∧ run 16 (.vcmplt f) (runCmp .lt f.v a b k) ∧ run 16 (.vcmpltImm f) (runCmp .lt f.v a b k)
      ∧ run 16 (.vcmple f) (runCmp .le f.v a b k) ∧ run 16 (.vcmpleImm f) (runCmp .le f.v a b k)
      ∧ run 16 (.vsel f) (runSel f.v a b c) ∧ run 16 (.vcoal f) (.ok (runCoal a))
      ∧ run 16 (.viota f) (runIota f.v (f.i16.signExtend 64) a)
      ∧ run 16 (.vslice f) (runSlice f.v a (sliceStart f s) f.i16.toNat) ∧ run 16 (.vcat f) (runCat f.v a (runBReg f s))
      ∧ run 16 (.vsetl f) (runSetl f.v a (sliceStart f s))
      ∧ run 16 (.vput f) (runPut f.v (s.rdRun f.slot.file f.d.toNat) (opASc f s) f.i16.toNat)
      ∧ run 16 (.vexp2 f) (runSf f.v sfExp2 a) ∧ run 16 (.vlog2 f) (runSf f.v sfLog2 a) ∧ run 16 (.vrcp f) (runSf f.v sfRcp a)
      ∧ run 16 (.vrsq f) (runSf f.v sfRsq a) ∧ run 16 (.vsqrt f) (runSf f.v sfSqrt a)
      ∧ run 16 (.vtanh f) (runSf f.v sfTanh a) ∧ run 16 (.vsigm f) (runSf f.v sfSigm a)
      ∧ run 16 (.vmodadd f) (runMod modAdd f.v q a b k) ∧ run 16 (.vmodsub f) (runMod modSub f.v q a b k)
      ∧ run 16 (.vmodmul f) (runMod modMul f.v q a b k) ∧ run 16 (.vbscale f) (runBscale f.v a b k)
      ∧ (f.rm ≠ 4#3 → run 16 (.vcvt f) (runCvt f.v (cvtTag f.t.toNat) q f.rm.toNat [] a)
          ∧ ((formeOf f s).empty = false → (formeOf f s).runpk = false →
              run 16 (.vqnt f) (runQnt f.v (formeOf f s) (modqOf s (formeOf f s).modq) f.rm.toNat [] a)))

/-- R152 to R154: the run instructions with a scalar result, VSPLAT and XMOV. What goes into a run register is read under its
tag (R123), and XMOV between run registers coalesces with V (R136). That VREDSUM of a MASK register under SC = 0 gives 1 for a
count that is not 0 is the model's (log entry 47). -/
def Obligations.RunScalars : Prop :=
  ∀ (f : Fields) (s : State), (f.slot = .va ∨ f.slot = .vb) → guardOf f s = true → unitFree f s.bun.cur ≤ s.bun.cur.clk →
    let a := runA f s
    let file := fileOfCode f.slot.file f.sc
    let val (tag : Nat) (v : Word) : RegVal := if isRunFile file then .run ⟨tag, [(underTag tag v, 1)]⟩ else .word v
    let one (i : Instr) (tag : Nat) (v : Word) (fl : FlagSet) (p : Nat) : Prop :=
      f.d.toNat < file.size → ∃ t, exec i s = .next t ∧ givesAnd s t f.slot file f.d.toNat (val tag v) fl fun z =>
        z.occupy f s.bun.since ((p + 15) / 16)
    let red (i : Instr) (op : RunRed) : Prop :=
      ∀ v fl p, runRed op a (runMask f s) = .ok (v, fl, p) →
        one i (if op = .count ∨ op = .first then tagS64 else a.tag) v fl p
    one (.vlen f) tagS64 (BitVec.ofNat 64 (elements a).length) 0 a.slugs.length
      ∧ one (.vruns f) tagS64 (BitVec.ofNat 64 a.slugs.length) 0 a.slugs.length
      ∧ (f.i16.toNat < (elements a).length →
          one (.vget f) a.tag ((elements a).getD f.i16.toNat 0#64) 0 a.slugs.length)
      ∧ red (.vredsum f) .sum ∧ red (.vredmax f) .max ∧ red (.vredmin f) .min ∧ red (.vcount f) .count ∧ red (.vfirst f) .first
      ∧ (f.d.toNat < 16 → s.bun.since ≤ s.bun.cur.clk →
          (∃ t, exec (.vsplat f) s = .next t ∧ givesAnd s t f.slot f.slot.file f.d.toNat
            (.run ⟨if f.v then tagF32 else tagS64,
              if f.i16 = 0#16 then [] else [(if f.v then (opASc f s) &&& 0xFFFFFFFF#64 else opASc f s, f.i16.toNat)]⟩) 0 fun z =>
                z.occupy f s.bun.since 1)
          ∧ (isRunFile file = false → ∃ t, exec (.xmovRun f) s = .next t ∧ givesAnd s t f.slot f.slot.file f.d.toNat
            (.run ⟨tagS64, [(opASc f s, 1)]⟩) 0 fun z => z.occupy f s.bun.since 1)
          ∧ (isRunFile file = true → f.v = false → (s.rdRun file f.a.toNat).slugs.length ≤ 128 →
              ∃ t n, exec (.xmovRun f) s = .next t ∧ givesAnd s t f.slot f.slot.file f.d.toNat
                (.run (s.rdRun file f.a.toNat)) 0 fun z => z.occupy f s.bun.since n)
          ∧ (isRunFile file = true → ∀ x, capacity f.v (s.rdRun file f.a.toNat).tag (s.rdRun file f.a.toNat).slugs 0 = .ok x →
              s.bun.since + x.hold ≤ s.bun.cur.clk →
              ∃ t, exec (.xmovRun f) s = .next t ∧ givesAnd (s.coalesces x.hold) t f.slot f.slot.file f.d.toNat (.run x.reg)
                x.flags fun z => z.occupy f s.bun.since ((x.segs + 15) / 16)))

/-- R159: VBFLY gives D the first result and D + 1 the second. R135, R156: a stochastic conversion takes one word of the random-bit queue for every four slugs, and stalls its bundle while
there are too few; VQNT to a microscaled forme draws none. -/
def Obligations.ButterflyAndDraws : Prop :=
  (∀ (f : Fields) (s : State), (f.slot = .va ∨ f.slot = .vb) → f.d.toNat < 16 → guardOf f s = true →
    unitFree f s.bun.cur ≤ s.bun.cur.clk → f.rm = 4#3 → s.bun.cur.rng.words = s.bun.pre.rng.words →
    let words := s.bun.pre.rng.words
    let n := ((runA f s).slugs.length + 3) / 4
    (words.length < n → becomes (.vcvt f) s fun b => { b with stall := true })
      ∧ (∀ x, runCvt f.v (cvtTag f.t.toNat) (modqOf s (f.i16.toNat % 8)) 4 (words.take n) (runA f s) = .ok x →
          n ≤ words.length → s.bun.since + x.hold ≤ s.bun.cur.clk →
          ∃ t, exec (.vcvt f) s = .next t ∧ t.bun.cur.rng = { s.bun.cur.rng with words := words.drop n }
            ∧ settled t.bun.cur s.bun.hnd f.slot.file f.d.toNat = .run x.reg)
      ∧ ((formeOf f s).empty = false → (formeOf f s).runpk = false →
          (words.length < n → (formeOf f s).mxb = false → becomes (.vqnt f) s fun b => { b with stall := true })
          ∧ ∀ x, runQnt f.v (formeOf f s) (modqOf s (formeOf f s).modq) 4
                (if (formeOf f s).mxb then [] else words.take n) (runA f s) = .ok x →
              (n ≤ words.length ∨ (formeOf f s).mxb = true) → s.bun.since + x.hold ≤ s.bun.cur.clk →
              ∃ t, exec (.vqnt f) s = .next t
                ∧ t.bun.cur.rng = { s.bun.cur.rng with words := if (formeOf f s).mxb then words else words.drop n }
                ∧ settled t.bun.cur s.bun.hnd f.slot.file f.d.toNat = .run x.reg))
    ∧ (∀ (f : Fields) (s : State), f.slot = .vb → f.d.toNat + 1 < 16 → guardOf f s = true →
      unitFree f s.bun.cur ≤ s.bun.cur.clk →
      ∀ d e, runBfly f.v (modqOf s (f.i16.toNat % 8)) (runA f s) (runBReg f s) (runC f s) = .ok (d, e) →
        s.bun.since + d.hold ≤ s.bun.cur.clk →
        ∃ t u, exec (.vbfly f) s = .next t ∧ gives (s.coalesces d.hold) u f.slot .w f.d.toNat (.run d.reg) d.flags
          ∧ givesAnd u t f.slot .w (f.d.toNat + 1) (.run e.reg) e.flags fun z => z.occupy f s.bun.since ((d.segs + 15) / 16))

/-- R124, R128, R134, R135, R151 to R156: where run instructions do not complete, whatever the form. A unit still occupied stalls the
bundle; lengths that disagree raise LENMIS, with the lengths in TRAPADDR; a result of more than 128 slugs raises RUNOVF, with the
slugs that it needs and the index of the 129th; an operation that coalesces more than 128 segments is held for its clk first, the
later of two such clk counting; an index at or above a length raises LENMIS; VQNT through an empty or run-packed forme raises
FMTMIS. A conversion that draws has taken its words by then. -/
def Obligations.RunTraps : Prop :=
  (∀ (a b c : RunReg),
      let len (r : RunReg) : Nat := (elements r).length
      let agree (rs : List RunReg) : Prop := ∃ l, ∀ r ∈ rs, len r = 1 ∨ len r = l
      (¬agree [a, b] → segs2 a b = .error (.lenmis (BitVec.ofNat 64 (len a + len b * 2 ^ 16))))
        ∧ (¬agree [a, b, c] → segs3 a b c = .error (.lenmis (BitVec.ofNat 64 (len a + len b * 2 ^ 16 + len c * 2 ^ 32)))))
  ∧ (∀ (tag : Nat) (slugs : List (Word × Nat)) (fl : FlagSet),
      let p := slugs.length
      let wait := 2 + (p + 15) / 16
      let at_ (out : List (Word × Nat)) : Word := BitVec.ofNat 64 (out.length + ((out.take 128).map Prod.snd).sum * 2 ^ 16)
      let out := (runCoal ⟨tag, slugs⟩).reg.slugs
      capacity false tag slugs fl = (if 128 < p then .error (.runovf (at_ slugs) 0) else .ok ⟨⟨tag, slugs⟩, p, fl, 0⟩)
        ∧ capacity true tag slugs fl = (if 128 < out.length then .error (.runovf (at_ out) wait)
            else .ok ⟨⟨tag, out⟩, p, fl, if 128 < p then wait else 0⟩))
  ∧ ∀ (f : Fields) (s : State), guardOf f s = true →
    let a := runA f s
    let b := runB f s
    let c := runC f s
    let m := rmode f
    let k := runMask f s
    let q := modqOf s (f.i16.toNat % 8)
    let fm := formeOf f s
    let words := s.bun.pre.rng.words
    let n := (a.slugs.length + 3) / 4
    let drawn (b : Bun) : Bun := { b with cur := { b.cur with rng := { b.cur.rng with words := b.cur.rng.words.drop n } } }
    let stall (i : Instr) : Prop := s.bun.cur.clk < unitFree f s.bun.cur → becomes i s fun b => { b with stall := true }
    let mis (i : Instr) (x : Word) : Prop := unitFree f s.bun.cur ≤ s.bun.cur.clk →
      becomes i s fun b => { b with raised := b.raised ++ [⟨kLENMIS, f.slot, x, 0, 0⟩] }
    let traps (g : Bun → Bun) (i : Instr) (r : Except RunErr RunRes) : Prop := stall i ∧ (unitFree f s.bun.cur ≤ s.bun.cur.clk →
      (∀ x, r = .error (.lenmis x) →
        becomes i s fun b => { g b with raised := b.raised ++ [⟨kLENMIS, f.slot, x, 0, 0⟩] })
      ∧ (∀ x n, r = .error (.runovf x n) → s.bun.since + n ≤ s.bun.cur.clk →
        becomes i s fun b => { g b with raised := b.raised ++ [⟨kRUNOVF, f.slot, x, 0, 0⟩], coal := b.coal || n ≠ 0 })
      ∧ (∀ n, ((∃ x, r = .error (.runovf x n)) ∨ ∃ x, r = .ok x ∧ x.hold = n) → s.bun.cur.clk < s.bun.since + n →
        let still := Hold.untilClk (s.bun.since + n)
        (s.bun.hold = none → becomes i s fun b => { g b with hold := some still, coal := b.coal || n ≠ 0 })
          ∧ ∀ m, s.bun.hold = some (.untilClk m) → becomes i s fun b =>
              { g b with hold := some (.untilClk (max m (s.bun.since + n))), coal := b.coal || n ≠ 0 }))
    let run := traps id
    let red (i : Instr) (op : RunRed) : Prop := stall i ∧ ∀ x, runRed op a k = .error (.lenmis x) → mis i x
    let index (i : Instr) (r : RunReg) : Prop := (elements r).length ≤ f.i16.toNat →
      mis i (BitVec.ofNat 64 ((elements r).length + f.i16.toNat * 2 ^ 16))
    run (.vadd f) (runBin .add f.v m a b k) ∧ run (.vaddImm f) (runBin .add f.v m a b k)
      ∧ run (.vsub f) (runBin .sub f.v m a b k) ∧ run (.vsubImm f) (runBin .sub f.v m a b k)
      ∧ run (.vmul f) (runBin .mul f.v m a b k) ∧ run (.vmulImm f) (runBin .mul f.v m a b k)
      ∧ run (.vmin f) (runBin .min f.v m a b k) ∧ run (.vminImm f) (runBin .min f.v m a b k)
      ∧ run (.vmax f) (runBin .max f.v m a b k) ∧ run (.vmaxImm f) (runBin .max f.v m a b k)
      ∧ run (.vand f) (runBin .and f.v m a b k) ∧ run (.vandImm f) (runBin .and f.v m a b k)
      ∧ run (.vor f) (runBin .or f.v m a b k) ∧ run (.vorImm f) (runBin .or f.v m a b k)
      ∧ run (.vxor f) (runBin .xor f.v m a b k) ∧ run (.vxorImm f) (runBin .xor f.v m a b k)
      ∧ run (.vshl f) (runBin .shl f.v m a b k) ∧ run (.vshlImm f) (runBin .shl f.v m a b k)
      ∧ run (.vshr f) (runBin .shr f.v m a b k) ∧ run (.vshrImm f) (runBin .shr f.v m a b k)
      ∧ run (.vsar f) (runBin .sar f.v m a b k) ∧ run (.vsarImm f) (runBin .sar f.v m a b k)
      ∧ run (.vfma f) (runFma f.v m a b c) ∧ run (.vabs f) (runAbs f.v a) ∧ run (.vneg f) (runNeg f.v a)
      ∧ run (.vcmpeq f) (runCmp .eq f.v a b k) ∧ run (.vcmpeqImm f) (runCmp .eq f.v a b k)
      ∧ run (.vcmpne f) (runCmp .ne f.v a b k) ∧ run (.vcmpneImm f) (runCmp .ne f.v a b k)
      ∧ run (.vcmplt f) (runCmp .lt f.v a b k) ∧ run (.vcmpltImm f) (runCmp .lt f.v a b k)
      ∧ run (.vcmple f) (runCmp .le f.v a b k) ∧ run (.vcmpleImm f) (runCmp .le f.v a b k)
      ∧ run (.vsel f) (runSel f.v a b c) ∧ stall (.vcoal f) ∧ stall (.vsplat f)
      ∧ run (.viota f) (runIota f.v (f.i16.signExtend 64) a)
      ∧ run (.vslice f) (runSlice f.v a (sliceStart f s) f.i16.toNat) ∧ run (.vcat f) (runCat f.v a (runBReg f s))
      ∧ run (.vsetl f) (runSetl f.v a (sliceStart f s))
      ∧ run (.vput f) (runPut f.v (s.rdRun f.slot.file f.d.toNat) (opASc f s) f.i16.toNat)
      ∧ index (.vput f) (s.rdRun f.slot.file f.d.toNat) ∧ index (.vget f) a
      ∧ stall (.vlen f) ∧ stall (.vruns f) ∧ stall (.vget f)
      ∧ red (.vredsum f) .sum ∧ red (.vredmax f) .max ∧ red (.vredmin f) .min ∧ red (.vcount f) .count ∧ red (.vfirst f) .first
      ∧ run (.vexp2 f) (runSf f.v sfExp2 a) ∧ run (.vlog2 f) (runSf f.v sfLog2 a) ∧ run (.vrcp f) (runSf f.v sfRcp a)
      ∧ run (.vrsq f) (runSf f.v sfRsq a) ∧ run (.vsqrt f) (runSf f.v sfSqrt a)
      ∧ run (.vtanh f) (runSf f.v sfTanh a) ∧ run (.vsigm f) (runSf f.v sfSigm a)
      ∧ run (.vmodadd f) (runMod modAdd f.v q a b k) ∧ run (.vmodsub f) (runMod modSub f.v q a b k)
      ∧ run (.vmodmul f) (runMod modMul f.v q a b k) ∧ run (.vbscale f) (runBscale f.v a b k)
      ∧ run (.vbfly f) ((runBfly f.v q a (runBReg f s) c).map Prod.fst)
      ∧ stall (.xmovRun f) ∧ (isRunFile (fileOfCode f.slot.file f.sc) = true →
          let r := s.rdRun (fileOfCode f.slot.file f.sc) f.a.toNat
          run (.xmovRun f) (capacity f.v r.tag r.slugs 0))
      ∧ (f.rm ≠ 4#3 → run (.vcvt f) (runCvt f.v (cvtTag f.t.toNat) q f.rm.toNat [] a))
      ∧ (f.rm = 4#3 → n ≤ words.length →
          traps drawn (.vcvt f) (runCvt f.v (cvtTag f.t.toNat) q 4 (words.take n) a))
      ∧ (fm.empty = true ∨ fm.runpk = true →
          becomes (.vqnt f) s fun b => { b with raised := b.raised ++ [⟨kFMTMIS, f.slot, 0, 0, 0⟩] })
      ∧ (fm.empty = false → fm.runpk = false →
          (f.rm ≠ 4#3 ∨ fm.mxb = true → run (.vqnt f) (runQnt f.v fm (modqOf s fm.modq) f.rm.toNat [] a))
          ∧ (f.rm = 4#3 → fm.mxb = false → n ≤ words.length →
              traps drawn (.vqnt f) (runQnt f.v fm (modqOf s fm.modq) 4 (words.take n) a)))

/-- R124, R125, R127, R129: what run instructions do to the elements, in logical order, whatever the slugs of their operands: at each
logical index the operation takes the elements of its operands there, an operand of length 1 standing at every index, and an
element that the mask leaves out gives A's; the flags are those of every element; `.c` leaves no equal neighbours. R140 to R144,
R155 to R160: the element-wise operations. R145, R147 to R151: VCOAL, VIOTA, VSLICE, VCAT, VSETL and VPUT. -/
def Obligations.RunElements : Prop :=
  let at_ (r : RunReg) (k : Nat) : Word := (elements r).getD (if (elements r).length = 1 then 0 else k) 0#64
  let common (rs : List RunReg) (l : Nat) : Prop :=
    (∀ r ∈ rs, (elements r).length = 1 ∨ (elements r).length = l) ∧ ((∀ r ∈ rs, (elements r).length = 1) → l = 1)
  let merged (r : RunReg) : Prop :=
    ∀ k, k + 1 < r.slugs.length → (r.slugs.getD k (0, 0)).1 ≠ (r.slugs.getD (k + 1) (0, 0)).1
  let full (r : RunReg) : Prop := ∀ p ∈ r.slugs, 0 < p.2
  let maps (r : Except RunErr RunRes) (coal : Bool) (tag : Nat) (rs : List RunReg) (g : (RunReg → Word) → Word × FlagSet) : Prop :=
    ∀ x, r = .ok x → ∃ l, common rs l ∧ x.reg.tag = tag
      ∧ elements x.reg = (List.range l).map (fun k => (g fun r => at_ r k).1)
      ∧ x.reg.slugs.length ≤ 128 ∧ (coal = true → merged x.reg) ∧ (coal = false → x.reg.slugs.length = x.segs)
      ∧ ((∀ r ∈ rs, full r) → ∀ i, (x.flags.getLsbD i = true ↔ ∃ k, k < l ∧ (g fun r => at_ r k).2.getLsbD i = true))
  let round (r : Rounded) : Word × FlagSet := (BitVec.ofNat 64 (r.bits % 2 ^ 32), r.flags)
  let one (b : Bool) : Word := if b then 1#64 else 0#64
  let low (v : Word) : Word := v &&& 0xFFFFFFFF#64
  let byte (words : List (BitVec 32)) (k : Nat) : Nat := (words.getD (k / 4) 0#32).toNat / 2 ^ (8 * (k % 4)) % 256
  (∀ (op : RunOp) (coal : Bool) (m : RMode) (a b c : RunReg),
      let el (v : RunReg → Word) : Word × FlagSet := op.elem a.tag m (v a) (v b)
      maps (runBin op coal m a b none) coal (op.tag a.tag) [a, b] el
        ∧ maps (runBin op coal m a b (some c)) coal (op.tag a.tag) [a, b, c] fun v => if v c = 0#64 then (v a, 0) else el v)
  ∧ (∀ (coal : Bool) (m : RMode) (a b c : RunReg),
      maps (runFma coal m a b c) coal (RunOp.tag .add a.tag) [a, b, c] fun v =>
        if a.tag = tagF32 then round (f32Fma m (v a).toNat (v b).toNat (v c).toNat) else (v a * v b + v c, 0))
  ∧ (∀ (coal : Bool) (a : RunReg),
      let keeps := a.tag = tagF32 ∨ a.tag = tagS64
      maps (runAbs coal a) coal (if keeps ∨ a.tag = tagMask then a.tag else tagN64) [a] (fun v =>
          (if a.tag = tagF32 then v a &&& ~~~0x80000000#64
           else if a.tag = tagS64 ∧ (v a).toInt < 0 then -(v a) else v a, 0))
        ∧ maps (runNeg coal a) coal (if keeps then a.tag else tagN64) [a] fun v =>
          (if a.tag = tagF32 then v a ^^^ 0x80000000#64 else -(v a), 0))
  ∧ (∀ (op : RunCmp) (coal : Bool) (a b c : RunReg),
      let el (v : RunReg → Word) : Word × FlagSet := (one (op.elem a.tag (v a) (v b)).1, (op.elem a.tag (v a) (v b)).2)
      maps (runCmp op coal a b none) coal tagMask [a, b] el
        ∧ maps (runCmp op coal a b (some c)) coal tagMask [a, b, c] fun v =>
            if v c = 0#64 then (one (decide (v a ≠ 0#64)), 0) else el v)
  ∧ (∀ (coal : Bool) (a b c : RunReg),
      maps (runSel coal a b c) coal a.tag [a, b, c] fun v =>
        let w := if v c = 0#64 then v b else v a
        (if a.tag = tagF32 then low w else if a.tag = tagMask then one (decide (w ≠ 0#64)) else w, 0))
  ∧ (∀ (coal : Bool) (sf : Val → Rounded) (a : RunReg),
      maps (runSf coal sf a) coal tagF32 [a] fun v => round (sf (f32 (v a).toNat)))
  ∧ (∀ (coal : Bool) (q : Nat) (a b c : RunReg),
      let op (g : Nat → Nat → Nat) (v : RunReg → Word) : Word × FlagSet :=
        (BitVec.ofNat 64 (g ((v a).toNat % q) ((v b).toNat % q) % q), if q ≤ (v a).toNat ∨ q ≤ (v b).toNat then fMQ else 0)
      let both (go : Nat → Nat → Nat → Nat × FlagSet) (g : Nat → Nat → Nat) : Prop :=
        maps (runMod go coal q a b none) coal tagM64 [a, b] (op g)
          ∧ maps (runMod go coal q a b (some c)) coal tagM64 [a, b, c] fun v => if v c = 0#64 then (v a, 0) else op g v
      let fly (g : Nat → Nat → Nat) (v : RunReg → Word) : Word × FlagSet :=
        (BitVec.ofNat 64 (g ((v a).toNat % q) ((v b).toNat % q * ((v c).toNat % q) % q) % q),
          if q ≤ (v a).toNat ∨ q ≤ (v b).toNat ∨ q ≤ (v c).toNat then fMQ else 0)
      both modAdd (fun x y => x + y) ∧ both modSub (fun x y => x + q - y) ∧ both modMul (fun x y => x * y)
        ∧ maps ((runBfly coal q a b c).map Prod.fst) coal tagM64 [a, b, c] (fly fun x y => x + y)
        ∧ maps ((runBfly coal q a b c).map Prod.snd) coal tagM64 [a, b, c] (fly fun x y => x + q - y))
  ∧ (∀ (coal : Bool) (a b c : RunReg),
      maps (runBscale coal a b none) coal tagF32 [a, b] (fun v => bscaleElem b.tag (v a) (v b))
        ∧ maps (runBscale coal a b (some c)) coal tagF32 [a, b, c] fun v =>
            if v c = 0#64 then (low (v a), 0) else bscaleElem b.tag (v a) (v b))
  ∧ (∀ (coal : Bool) (dst q rm : Nat) (words : List (BitVec 32)) (a : RunReg),
      (rm < 4 → maps (runCvt coal dst q rm [] a) coal dst [a] fun v => cvtElem a.tag dst q (RMode.ofCode rm 0) (v a))
        ∧ ∀ x, runCvt false dst q 4 words a = .ok x →
            x.reg.slugs = a.slugs.mapIdx fun k p => ((cvtElem a.tag dst q (.sr (byte words k)) p.1).1, p.2))
  ∧ (∀ (coal : Bool) (fm : Forme) (q rm : Nat) (words : List (BitVec 32)) (a : RunReg),
      (fm.mxb = false → rm < 4 →
          maps (runQnt coal fm q rm [] a) coal (readTag fm.fmt) [a] fun v => qntElem fm q a.tag (RMode.ofCode rm 0) (v a))
        ∧ (fm.mxb = false → ∀ x, runQnt false fm q 4 words a = .ok x →
            x.reg.slugs = a.slugs.mapIdx fun k p => ((qntElem fm q a.tag (.sr (byte words k)) p.1).1, p.2))
        ∧ (fm.mxb = true → full a → ∀ x, runQnt coal fm q rm words a = .ok x → x.reg.tag = readTag fm.fmt
            ∧ elements x.reg = (List.range (((elements a).length + 31) / 32)).flatMap fun j =>
                let w := writeBlock fm.fmt ((((elements a).drop (32 * j)).take 32).map (slugVal a.tag))
                w.2.1.map fun e => (readElem fm.fmt (some w.1) e).1))
  ∧ ∀ (coal : Bool) (a b : RunReg) (x : RunRes) (v : Word) (n : Nat),
       (elements (runCoal a).reg = elements a ∧ merged (runCoal a).reg ∧ (runCoal a).reg.tag = a.tag
          ∧ (full a → full (runCoal a).reg))
         ∧ (runIota coal v a = .ok x → (coal = false ∨ ∀ p ∈ a.slugs, 0 < p.2 ∧ p.2 < 2 ^ 64) → x.reg.tag = tagS64
             ∧ x.reg.slugs.map Prod.snd = a.slugs.map Prod.snd
             ∧ ∀ k, k < a.slugs.length →
                 (x.reg.slugs.getD k (0, 0)).1 = BitVec.ofNat 64 ((a.slugs.take k).map Prod.snd).sum + v)
         ∧ (runCat coal a b = .ok x → x.reg.tag = a.tag ∧ (elements a).length + (elements b).length ≤ 65535
             ∧ elements x.reg = elements a ++ (elements b).map (underTag a.tag) ∧ (coal = true → merged x.reg))
         ∧ (runSlice coal a v n = .ok x → x.reg.tag = a.tag ∧ v.toNat ≤ (elements a).length
             ∧ elements x.reg = ((elements a).drop v.toNat).take n ∧ (coal = true → merged x.reg))
         ∧ (runSetl coal a v = .ok x → x.reg.tag = a.tag ∧ v.toNat < 65536 ∧ (coal = true → merged x.reg)
             ∧ (v.toNat ≤ (elements a).length → elements x.reg = (elements a).take v.toNat)
             ∧ (full a → (elements a).length < v.toNat →
                 elements x.reg = elements a ++ List.replicate (v.toNat - (elements a).length) ((elements a).getLastD 0#64)))
         ∧ (runPut coal a v n = .ok x → x.reg.tag = a.tag ∧ n < (elements a).length
             ∧ elements x.reg = (elements a).set n (underTag a.tag v) ∧ (coal = true → merged x.reg))

/-! ### Control -/

/-- R45, R72: NOP does nothing; BR and CALL go to the header's address plus four times the offset, BRX and CALLX to x(A) or
raise UNALIGN; the calls give x(D) the address of the next sequential bundle. -/
def Obligations.Transfers : Prop :=
  ∀ (f : Fields) (s : State), guardOf f s = true →
    let off := if f.len = .three then f.l32.signExtend 64 else f.i16.signExtend 64
    let t := s.bun.hdr + 4#64 * off
    let x := s.rd .x f.a.toNat
    let ok := x.toNat % 4 = 0 ∧ x.toNat < 2 ^ 56
    let go (w : Word) : State := { s with bun := { s.bun with target := some w } }
    let bad : State := { s with bun := { s.bun with raised := s.bun.raised ++ [⟨kUNALIGN, f.slot, x, 0, 0⟩] } }
    let link := RegVal.word (s.bun.hdr + BitVec.ofNat 64 (4 * s.bun.words))
    exec (.nop f) s = .next s ∧ exec (.br f) s = .next (go t)
      ∧ (ok → exec (.brx f) s = .next (go x)) ∧ (¬ok → exec (.brx f) s = .next bad)
      ∧ (∃ u, exec (.call f) s = .next u ∧ gives (go t) u f.slot .x f.d.toNat link 0)
      ∧ (ok → ∃ u, exec (.callx f) s = .next u ∧ gives (go x) u f.slot .x f.d.toNat link 0)
      ∧ (¬ok → ∃ u, exec (.callx f) s = .next u ∧ gives bad u f.slot .x f.d.toNat link 0)

/-- R48, R49: LOOP and LOOPS open an entry, or skip to their end when N is 0; a full stack or a staged innermost entry
in reach makes the bundle illegal with reason 0xB. R52, R54: LBRK leaves a plain innermost loop, or limits a staged
one to the iterations already started; LIDX gives the logical index of a stage, or all ones. -/
def Obligations.Loops : Prop :=
  (∀ (f : Fields) (s : State), guardOf f s = true →
     let loops := (s.bun.pre.bank s.bun.hnd).loops
     let frozen := s.bun.pre.frozen s.bun.hnd
     let n := if f.len = .three then f.l32.setWidth 64 else s.rd .x f.a.toNat
     let stop := s.bun.hdr + BitVec.ofNat 64 (4 * (f.i16.toNat % 2 ^ 13))
     let next := s.bun.hdr + BitVec.ofNat 64 (4 * s.bun.words)
     let full := loops.length ≥ 6 ∨ (frozen < loops.length ∧ ∃ e, loops.head? = some e ∧ e.staged = true)
     let pushed (e : LoopEntry) : Bank :=
       { s.bun.cur.bank s.bun.hnd with loops := e :: (s.bun.cur.bank s.bun.hnd).loops }
     let one (i : Instr) (staged : Bool) : Prop :=
       (full → becomes i s fun b => { b with raised := b.raised ++ [⟨kILLB, f.slot, 0, 0xB, 0⟩] })
         ∧ (¬full → n = 0#64 → becomes i s fun b => { b with target := some stop, clears := staged })
         ∧ (¬full → n ≠ 0#64 → ∃ e t, exec i s = .next t ∧ e.start = next ∧ e.stopAt = stop ∧ e.n = n ∧ e.lim = n ∧ e.e = 0
             ∧ e.base = 0 ∧ e.stop = false ∧ e.staged = staged ∧ e.stages = (if staged then f.i16.toNat / 2 ^ 13 else 1)
             ∧ t = { s with bun := { s.bun with stages := staged, cur := s.bun.cur.setBank s.bun.hnd (pushed e) } })
     one (.loop f) false ∧ one (.loops f) true)
  ∧ (∀ (f : Fields) (s : State), guardOf f s = true →
       let b := s.bun.pre.bank s.bun.hnd
       let frozen := s.bun.pre.frozen s.bun.hnd
       let put (ls : List LoopEntry) : Core := s.bun.cur.setBank s.bun.hnd { s.bun.cur.bank s.bun.hnd with loops := ls }
       let short (e : LoopEntry) : LoopEntry := { e with lim := BitVec.ofNat 64 (min e.n.toNat (e.e.toNat + 1)) }
       let depth := f.i16.toNat % 8
       let stage := f.i16.toNat / 8 % 8
       (b.loops.length ≤ frozen → becomes (.lbrk f) s fun x => { x with raised := x.raised ++ [⟨kILLB, f.slot, 0, 0xB, 0⟩] })
         ∧ (∀ e rest, b.loops = e :: rest → frozen < b.loops.length → e.staged = false →
             becomes (.lbrk f) s fun x => { x with cur := put rest, target := some e.stopAt })
         ∧ (∀ e rest, b.loops = e :: rest → frozen < b.loops.length → e.staged = true →
             becomes (.lbrk f) s fun x => { x with cur := put (short e :: rest) })
         ∧ (∀ e, b.loops[depth]? = some e → stage < e.stages →
             yields (.lidx f) f s .x (e.base + e.e - BitVec.ofNat 64 stage) 0)
         ∧ ((∀ e, b.loops[depth]? = some e → e.stages ≤ stage) → yields (.lidx f) f s .x (BitVec.allOnes 64) 0))

/-- R59 to R64, R188, R307, R376: TRAP raises TRAPI with its code; ERET leaves the handler for TRAPPC; TFENCE waits for what is in
flight from bundles before its own and then raises ARITH for enabled flags; the service requests leave their register empty and
post their request, SYSC CLOCK the operating point of its issue. -/
def Obligations.TrapsAndServices : Prop :=
  ∀ (f : Fields) (s : State), guardOf f s = true →
    let c := s.bun.pre
    let raise (k : Nat) (v : Word) (r : Nat) (b : Bun) : Bun := { b with raised := b.raised ++ [⟨k, f.slot, v, r, 0⟩] }
    let staged := match c.main.loops with
      | e :: _ => e.staged
      | [] => false
    let idle := (∀ p ∈ s.bun.cur.pend, p.hnd = s.bun.hnd → s.bun.first ≤ p.id)
      ∧ ∀ o ∈ s.bun.cur.mats, s.bun.first ≤ o.cmd.id
    let asks (i : Instr) (file : RFile) (what : Ask) : Prop :=
      ∃ t, exec i s = .next t ∧ t.bun.post = s.bun.post ++ [.ask s.bun.cur.nextId what]
        ∧ (discards file f.d.toNat = false → t.bun.cur.isEmpty s.bun.hnd file f.d.toNat = true)
        ∧ t = { s with bun := { s.bun with post := t.bun.post, cur :=
            { s.bun.cur with pend := t.bun.cur.pend, nextId := t.bun.cur.nextId } } }
        ∧ ∀ h file' n, sameReg s.bun.hnd file f.d.toNat h file' n = false →
            settled t.bun.cur h file' n = settled s.bun.cur h file' n
    becomes (.trap f) s (raise kTRAPI (f.i16.setWidth 64) 0)
      ∧ (c.intrap = false ∨ c.main.loops.length ≠ c.traprec.toNat / 2 ^ 16 % 8 → becomes (.eret f) s (raise kILLB 0 0xB))
      ∧ (c.intrap = true → c.main.loops.length = c.traprec.toNat / 2 ^ 16 % 8 →
          becomes (.eret f) s fun b => { b with target := some c.trappc, stages := staged, cur :=
            { b.cur with intrap := false, main := { b.cur.main with pc := b.cur.trappc } } })
      ∧ (¬idle → waitsFor (.tfence f) s .tfence)
      ∧ (idle → s.bun.cur.flags &&& s.bun.cur.flagen = 0#64 → exec (.tfence f) s = .next s)
      ∧ (idle → s.bun.cur.flags &&& s.bun.cur.flagen ≠ 0#64 →
          becomes (.tfence f) s (raise kARITH (s.bun.cur.flags &&& s.bun.cur.flagen) 0))
      ∧ asks (.sysc f) .x (.sysc f.i16.toNat
          (if f.i16 = 2#16 then BitVec.ofNat 64 (s.pointOf s.bun.core) else s.rd .x f.a.toNat))
      ∧ (f.d.toNat < 16 → asks (.kstat f) .e (.kstat (f.i16.toNat % 4) (s.rd f.slot.file f.a.toNat)))
      ∧ (c.modeS = false → becomes (.resumeg f) s (raise kPRIV 0 0))
      ∧ (c.modeS = true → 2 ^ 32 ≤ (s.rd .x f.a.toNat).toNat → becomes (.resumeg f) s (raise kPROT (s.rd .x f.a.toNat) 0))
      ∧ (c.modeS = true → (s.rd .x f.a.toNat).toNat < 2 ^ 32 → asks (.resumeg f) .x (.resumeg (s.rd .x f.a.toNat).toNat))

/-- R57 to R59: FLAGRD reads the flags under the mask that I16 spells, FLAGCLR, with no flag
landing in its clk, clears them, FIRSTEV.VALID and FIRSTPC. R65, R66, R68, R202, R205, R238: the control registers by number. CSRRD
gives the register of Table 3-8 as it stood before the bundle, CALNEXT as the calendar says at issue, and a read of MQTAIL is an
acquire of the entries that it shows; CSRWR by a mode that may write it writes it, and by another raises PRIV; a MODQ register
refuses an illegal modulus and its slot owes MQ; a geometry is taken while the queue is empty; a write of MQHEAD frees the slots
up to it, unless more would be freed than hold written entries, when it is ignored. That a value at or above SIZE counts modulo
SIZE is the model's choice (log entry 48). -/
def Obligations.FlagsAndControlRegisters : Prop :=
  (∀ (f : Fields) (s : State), guardOf f s = true →
     let masked (k : Nat) : Bool := f.i16.getLsbD (k / 8) && f.i16.getLsbD (8 + k % 8)
     (∃ v, yields (.flagrd f) f s .x v 0 ∧ ∀ k, k < 64 → v.getLsbD k = (masked k && s.bun.cur.flags.getLsbD k))
       ∧ (s.bun.landed = [] → ∃ t, exec (.flagclr f) s = .next t ∧ onlyCur s t
           ∧ (∀ k, k < 64 → t.bun.cur.flags.getLsbD k = (!(masked k) && s.bun.cur.flags.getLsbD k))
           ∧ t.bun.cur = { s.bun.cur with flags := t.bun.cur.flags, firstpc := 0,
                                          firstev := s.bun.cur.firstev &&& 0x7FFFFFFFFFFFFFFF#64 }))
  ∧ (∀ (f : Fields) (s : State), guardOf f s = true → s.bun.cur.recording = false →
       let n := f.i16.toNat
       let c := s.bun.pre
       let v := s.rd .x f.a.toNat
       let write (m : Nat) (g : Core → Core) : Prop := n = m → becomes (.csrwr f) s fun b => { b with cur := g b.cur }
       let open_ := n = 0x008 ∨ n = 0x009 ∨ n = 0x010 ∨ n = 0x022 ∨ (0x030 ≤ n ∧ n ≤ 0x037)
       let super := n = 0x020 ∨ n = 0x021 ∨ n = 0x070
       let legal := v.toNat % 2 = 1 ∧ 3 ≤ v.toNat ∧ v.toNat < 2 ^ 62
       let bank := c.bank s.bun.hnd
       let q := s.bun.cur.mq
       let reads (m : Nat) (w : Word) : Prop := n = m → s.csr n = w
       (n ≠ 0x023 → yields (.csrrd f) f s .x (s.csr n) 0)
         ∧ (n = 0x023 → ∃ t, exec (.csrrd f) s = .next t ∧ gives (s.acquireEntries c) t f.slot .x f.d.toNat
             (.word (BitVec.ofNat 64 (c.mq.tail + c.mq.used * 2 ^ 16))) 0)
         ∧ (∀ w : Word, w.toNat = (if c.modeS then 1 else 0) + (if c.hen then 4 else 0) + (if c.intrap then 8 else 0)
             + 16 * bank.loops.length → reads 0x000 w)
         ∧ reads 0x020 (BitVec.ofNat 64 c.mq.base) ∧ reads 0x021 (BitVec.ofNat 64 c.mq.size)
         ∧ reads 0x022 (BitVec.ofNat 64 c.mq.head)
         ∧ (∀ j, j < 8 → reads (0x030 + j) (c.modq.toList.getD j 3#64))
         ∧ reads 0x040 (BitVec.ofNat 64 c.rng.words.length) ∧ reads 0x041 (BitVec.ofNat 64 c.rng.ctr)
         ∧ (n = 0x050 → calendarSays s.bun.tick.toNat 3 (s.csr n))
         ∧ (∀ w : Word, (∀ g, g < 64 → w.getLsbD g = (decide (g < 8) && c.gated.getLsbD g)) → reads 0x060 w)
         ∧ reads 0x070 (s.context c.ctx).subcnt
         ∧ (n = 0x001 → s.csr n = BitVec.ofNat 64 s.bun.core) ∧ (n = 0x002 → s.csr n = c.gang) ∧ (n = 0x003 → s.csr n = c.launch)
         ∧ (n = 0x004 → s.csr n = c.argp) ∧ (n = 0x008 → s.csr n = c.trapvec) ∧ (n = 0x009 → s.csr n = c.trappc)
         ∧ (n = 0x00A → s.csr n = c.traprec) ∧ (n = 0x00B → s.csr n = c.trapaddr) ∧ (n = 0x010 → s.csr n = c.flagen)
         ∧ (n = 0x011 → s.csr n = c.firstev) ∧ (n = 0x012 → s.csr n = c.firstpc)
         ∧ (¬open_ → ¬(super ∧ c.modeS = true) →
             becomes (.csrwr f) s fun b => { b with raised := b.raised ++ [⟨kPRIV, f.slot, 0, 0, 0⟩] })
         ∧ write 0x008 (fun k => { k with trapvec := v &&& 0x00FFFFFFFFFFFFFC#64 })
         ∧ write 0x009 (fun k => { k with trappc := v &&& 0x00FFFFFFFFFFFFFC#64 })
         ∧ write 0x010 (fun k => { k with flagen := v })
         ∧ (∀ j : Fin 8, n = 0x030 + j.val → legal →
             becomes (.csrwr f) s fun b => { b with cur := { b.cur with modq := b.cur.modq.set j v } })
         ∧ (0x030 ≤ n → n ≤ 0x037 → ¬legal → ∃ t, exec (.csrwr f) s = .next t ∧ onlyCur s t ∧ coreFrame s.bun.cur t.bun.cur
             ∧ (∀ h file m, settled t.bun.cur h file m = settled s.bun.cur h file m)
             ∧ ∀ k, owedFlags t.bun.cur k = if k = f.slot then owedFlags s.bun.cur k ||| fMQ else owedFlags s.bun.cur k)
         ∧ (n = 0x070 → c.modeS = true → becomes (.csrwr f) s fun b => { b with post := b.post ++ [.subcnt v] })
         ∧ (∀ base size, c.modeS = true →
             (n = 0x020 ∧ base = v.toNat % 2 ^ 21 ∧ size = s.bun.cur.mq.size) ∨
               (n = 0x021 ∧ base = s.bun.cur.mq.base ∧ size = v.toNat % 2 ^ 13) →
             (s.bun.cur.mq.used = 0 → geometryOk base size = true → becomes (.csrwr f) s fun b =>
               { b with cur := { b.cur with mq := { b.cur.mq with base := base, size := size, head := 0, tail := 0 } } })
             ∧ (s.bun.cur.mq.used ≠ 0 ∨ geometryOk base size = false → exec (.csrwr f) s = .next s))
         ∧ (n = 0x022 →
             let h := v.toNat % 2 ^ 12 % q.size
             let d := (h + q.size - q.head) % q.size
             let written := q.used - (q.arriving.map fun e => e.2.1.length / 64).sum
             (q.size = 0 ∨ written < d → exec (.csrwr f) s = .next s)
             ∧ (0 < q.size → d ≤ written → becomes (.csrwr f) s fun b => { b with cur := { b.cur with
                 mq := { q with head := h, used := q.used - d },
                 run := b.cur.run.map fun r => { r with freed := r.freed + d } } })))

/-- R69, R198: SPWAKE ends the gating of the groups of its mask and makes each of them awake 512 clk later; SPGATE
gates idle groups, whose bytes read as zero from then on, and stalls while one of them is busy; both act as their bundle commits.
R86, R92, R93, R96, R97, R223: the atomics and wide-cell instructions on scratchpad read the old value, store the new one and give D
the old value, in slot order; their range is in use for 6 clk (R200). Beyond the scratchpad they raise PROT, misaligned
UNALIGN, and in a packed region PKDACC. -/
def Obligations.ScratchpadPowerAndAtomics : Prop :=
  (∀ (f : Fields) (s : State), guardOf f s = true → Memory.wf s.bun.cur.sp = true →
     let mask (g : Nat) : Bool := (s.rd .x f.a.toNat).getLsbD g
     let busy := ∃ g, g < 8 ∧ mask g = true ∧ s.bun.cur.gated.getLsbD g = false ∧ s.bun.cur.groupBusy g = true
     let acts (p : Post) (d : Core → Core → Prop) : Prop :=
       ∀ (u : State) (b : Bun), Memory.wf (u.coreOf b.core).sp = true →
         ∃ t, u.perform b p = u.setCore b.core t ∧ d (u.coreOf b.core) t
     (∃ gs, (becomes (.spwake f) s fun b => { b with post := b.post ++ [.spWake gs] })
         ∧ (∀ g, g ∈ gs ↔ g < 8 ∧ mask g = true)
         ∧ acts (.spWake gs) fun c d =>
             (∀ g, g < 8 → d.gated.getLsbD g = (c.gated.getLsbD g && !(mask g)))
             ∧ (∀ g w, (g, w) ∈ d.waking ↔ (g, w) ∈ c.waking
                 ∨ (g < 8 ∧ mask g = true ∧ c.gated.getLsbD g = true ∧ w = c.clk + 512))
             ∧ d = { c with gated := d.gated, waking := d.waking })
       ∧ (busy → becomes (.spgate f) s fun b => { b with stall := true })
       ∧ (¬busy → ∃ gs, (becomes (.spgate f) s fun b => { b with post := b.post ++ [.spGate gs] })
           ∧ (∀ g, g ∈ gs ↔ g < 8 ∧ mask g = true ∧ s.bun.cur.gated.getLsbD g = false)
           ∧ acts (.spGate gs) fun c d =>
               (∀ g, g < 8 → (d.gated.getLsbD g = true ↔ c.gated.getLsbD g = true ∨ g ∈ gs))
               ∧ (∀ x, readByte d.sp x = if x / 2 ^ 18 ∈ gs then 0 else readByte c.sp x)
               ∧ (∀ e, e ∈ d.waking ↔ e ∈ c.waking ∧ e.1 ∉ gs)
               ∧ d = { c with gated := d.gated, waking := d.waking, sp := d.sp, spBad := d.spBad }))
  ∧ (∀ (f : Fields) (s : State), (f.slot = .aga ∨ f.slot = .agb) → f.d.toNat < 24 → guardOf f s = true →
       Memory.wf s.bun.cur.sp = true →
       let ea := opA f s + (if f.len = .three then f.l32.signExtend 64 else 0#64)
       let old (n : Nat) : Nat := readN s.bun.cur.sp ea.toNat n
       let t := f.t.toNat
       let c := (opC f s).toNat
       let b := (opBReg f s).toNat
       let at_ (n : Nat) (write reads : Bool) : Prop :=
         ea.toNat < 2 ^ 21 ∧ ea.toNat % n = 0 ∧ spClear s.bun.cur ea.toNat (ea.toNat + n) write false
           ∧ (reads = true → s.bun.cur.badWord ea.toNat (ea.toNat + n) false = none)
       let used (n : Nat) : State := s.uses ea.toNat (ea.toNat + n) 6
       let swaps (i : Instr) (n new : Nat) (v : Word) (fl : FlagSet) : Prop :=
         ∃ u w, exec i s = .next w ∧ stores (used n) u f.slot ea.toNat (natToBytes n new)
           ∧ gives u w f.slot f.slot.file f.d.toNat (.word v) fl
       let changes (i : Instr) (new : Nat) : Prop :=
         ∃ w, exec i s = .next w ∧ stores (used 64) w f.slot ea.toNat (natToBytes 64 new)
       let packed (n : Nat) : List Raise :=
         if s.bun.cur.meetsPacked ea.toNat (ea.toNat + n) then [⟨kPKDACC, f.slot, BitVec.ofNat 64 ea.toNat, 0, 0⟩] else []
       let traps (i : Instr) (n : Nat) : Prop :=
         (2 ^ 21 ≤ ea.toNat → becomes i s fun x => { x with raised := x.raised ++ [⟨kPROT, f.slot, ea, 0, 0⟩] })
           ∧ (ea.toNat < 2 ^ 21 → ea.toNat % n ≠ 0 →
               becomes i s fun x => { x with raised := x.raised ++ packed n ++ [⟨kUNALIGN, f.slot, ea, 0, 0⟩] })
           ∧ (ea.toNat < 2 ^ 21 → ea.toNat % n = 0 →
               (∀ w, s.bun.cur.chaseBlocks ea.toNat (ea.toNat + n) w = false) → (s.bun.cur.asleep ea.toNat (ea.toNat + n)).2 = false →
               (∀ r, s.bun.cur.badWord ea.toNat (ea.toNat + n) r = none) →
               ∃ w, exec i s = .next w ∧ w.bun.raised = s.bun.raised ++ packed n ∧ w.bun.stall = s.bun.stall)
           ∧ (ea.toNat < 2 ^ 21 → ea.toNat % n = 0 → (∀ w, s.bun.cur.chaseBlocks ea.toNat (ea.toNat + n) w = true) →
               ∃ w, exec i s = .next w ∧ w.bun.stall = true)
       traps (.atom f) (tBytes t) ∧ traps (.acas f) (tBytes t) ∧ traps (.fxadd f) 64 ∧ traps (.fxclr f) 64 ∧ traps (.fxrd f) 64
         ∧ (at_ (tBytes t) true true →
           swaps (.atom f) (tBytes t) (atomOp f.i16.toNat (tBytes t) (old (tBytes t)) c) (tExtend t (old (tBytes t))) 0
           ∧ swaps (.acas f) (tBytes t)
               (if old (tBytes t) = b % 2 ^ (8 * tBytes t) then c % 2 ^ (8 * tBytes t) else old (tBytes t))
               (tExtend t (old (tBytes t))) 0)
         ∧ (at_ 64 true true → changes (.fxadd f) (fxAdd (old 64) c)) ∧ (at_ 64 true false → changes (.fxclr f) 0)
         ∧ (at_ 64 true true → f.i16.getLsbD 0 = true →
             swaps (.fxrd f) 64 0 (BitVec.ofNat 64 ((fxRead (old 64)).bits % 2 ^ 32)) (fxRead (old 64)).flags)
         ∧ (at_ 64 false true → f.i16.getLsbD 0 = false → ∃ w, exec (.fxrd f) s = .next w
             ∧ gives (used 64) w f.slot f.slot.file f.d.toNat
                 (.word (BitVec.ofNat 64 ((fxRead (old 64)).bits % 2 ^ 32))) (fxRead (old 64)).flags))

/-- R67, R68, R70, R175, R176: TICK and SLOTQ give the count and the calendar of their issue; YIELD, HNDRET and HNDEN. R71, R72,
R185, R186, R227, R229, R231: HALT, DRAIN, WAITEV and DBGBRK go on when what they wait for has come, and otherwise hold their
bundle; a DRAIN that goes on, and a WAITEV that a message ends, is an acquire. A DRAIN waits for every earlier access but a store, no
atomic, that its scope orders for no observer: below `.sys` one to the CXL tier, and at `.core` any while no engine command of
the core is left (log entry 10). Where a stop request is pending, a DBGBRK does not halt (log entry 43). -/
def Obligations.TimeAndWaits : Prop :=
  ∀ (f : Fields) (s : State), guardOf f s = true → s.bun.cur.recording = false →
    let idle := (∀ m ∈ s.bun.cur.cmds, m.eng = .mark) ∧ s.bun.cur.mats = [] ∧ s.bun.cur.keys = []
    let scope := f.sc.toNat
    let storeOnly (g : GAcc) : Prop := g.opc = 0x04 ∨ g.opc = 0x14
    let done := ∀ g ∈ s.bun.cur.gacc, g.first < s.bun.first →
      storeOnly g ∧ ((scope = 0 ∧ idle) ∨ (scope < 4 ∧ s.inCxl g.pa = true))
    let mask := f.i16.toNat % 4
    let limit := s.rd .x f.a.toNat
    let code : Option Nat :=
      if mask = 0 ∧ limit = 0#64 then some 0
      else if mask % 2 = 1 ∧ s.bun.cur.mq.hasMessage = true ∧ s.bun.cur.hen = false then some 1
      else if 2 ≤ mask ∧ s.bun.runs < s.bun.cur.runsEnded then some 2
      else if limit ≠ 0#64 ∧ limit.toNat ≤ s.sys.tick.toNat then some 3 else none
    let hold (i : Instr) (h : Hold) : Prop := waitsFor i s h
    (idle → becomes (.halt f) s fun b => { b with halts := true }) ∧ (¬idle → hold (.halt f) .halt)
      ∧ (done → exec (.drain f) s = .next (s.post (.acquire scope))) ∧ (¬done → hold (.drain f) (.drain scope))
      ∧ (∀ k, code = some k → ∃ t, exec (.waitev f) s = .next t
          ∧ gives (if k = 1 then s.acquireEntries s.bun.cur else s) t f.slot .x f.d.toNat (.word (BitVec.ofNat 64 k)) 0)
      ∧ (code = none → hold (.waitev f) (.waitev mask limit))
      ∧ (s.bun.pre.dbg.state = 1 → s.bun.pre.dbg.skip = false → s.bun.pre.stopReq = false →
          becomes (.dbgbrk f) s fun b => { b with brk := some f.i16.toNat })
      ∧ (s.bun.pre.dbg.state ≠ 1 ∨ s.bun.pre.dbg.skip = true ∨ s.bun.pre.stopReq = true → exec (.dbgbrk f) s = .next s)
      ∧ yields (.tick f) f s .x s.bun.tick 0
      ∧ (∃ v, yields (.slotq f) f s .x v 0 ∧ calendarSays s.bun.tick.toNat (f.i16.toNat % 4) v)
      ∧ (becomes (.yield f) s fun b => { b with yields := true })
      ∧ (becomes (.hndret f) s fun b => { b with hndret := true })
      ∧ (becomes (.hnden f) s fun b => { b with cur := { b.cur with hen := (s.rd .x f.a.toNat).getLsbD 0 } })

/-- R184, R228: WAITX and TESTX on a completion object in scratchpad or in global memory, at least or equal to their target; one
that finds its value is an acquire, and what it has read in global memory is read no older behind it. -/
def Obligations.CompletionObjects : Prop :=
  ∀ (f : Fields) (s : State), guardOf f s = true → s.bun.cur.recording = false → s.bun.answer = none →
    let sp := f.i16.getLsbD 0
    let a := (s.rd .x f.a.toNat).toNat
    let target := s.rd .x f.b.toNat
    let v := BitVec.ofNat 64 (readN s.bun.cur.sp a 8)
    let met := if f.v then v = target else target.toNat ≤ v.toNat
    let traps (i : Instr) (more : List Raise) : Prop := ∃ h, becomes i s fun b => { b with raised := b.raised ++ more, hold := h }
    let wait := Hold.waitx sp (s.rd .x f.a.toNat) 0 target f.v
    let packed := s.bun.cur.meetsPacked a (a + 8)
    let tests (u : State) (b : Prop) : Prop := f.d.toNat < 16 → ∀ ok : Bool, (ok = true ↔ b) →
      ∃ t, exec (.testx f) s = .next t ∧ onlyCur (if ok then u.post (.acquire f.sc.toNat) else u) t
        ∧ coreSets u.bun.cur t.bun.cur s.bun.hnd f.d.toNat ok
    (sp = true → 2 ^ 21 ≤ a → traps (.waitx f) [⟨kPROT, f.slot, s.rd .x f.a.toNat, 0, 0⟩])
      ∧ (sp = true → a < 2 ^ 21 → a % 8 ≠ 0 →
          traps (.waitx f) ((if packed then [⟨kPKDACC, f.slot, BitVec.ofNat 64 a, 0, 0⟩] else [])
            ++ [⟨kUNALIGN, f.slot, s.rd .x f.a.toNat, 0, 0⟩]))
      ∧ (∀ e pa bs, sp = false → a < 2 ^ 56 → a % 8 = 0 → (∀ x ∈ s.bun.xlf, x.1 ≠ a / 4096) →
          s.accept (s.rd .x f.a.toNat) accLoad = .ok e pa →
          (s.inCxl pa && (s.bun.cur.refused || s.bun.cur.refusing.isSome)) = false →
          s.mayRead s.bun.cur s.bun.first pa 8 = true → s.drainBefore s.bun.core s.bun.hnd pa = false → s.homePaused pa = false →
          s.dataRead pa 8 e.subst true = .ok (bs, 0) →
          let w := BitVec.ofNat 64 (bytesToNat bs)
          let got := if f.v then w = target else target.toNat ≤ w.toNat
          let u := s.lookedUp e
          let v := u.post (.seen pa)
          (got → exec (.waitx f) s = .next (v.post (.acquire f.sc.toNat)))
            ∧ (¬got → exec (.waitx f) s = .next (u.holds (.waitx false (s.rd .x f.a.toNat) pa target f.v)))
            ∧ tests v got)
      ∧ (sp = true → a < 2 ^ 21 → a % 8 = 0 → spClear s.bun.cur a (a + 8) false false → s.bun.stall = false →
          (met → exec (.waitx f) s = .next (s.post (.acquire f.sc.toNat)))
          ∧ (¬met → waitsFor (.waitx f) s wait)
          ∧ tests s met)

/-- R178 to R180: the barrier instructions on a tag of the gang: BARA arrives, as an acquire where its own wait saw a release, BARW
and BARS go on once the arrival has been released, as an acquire, and each holds its bundle while it has not; a tag beyond the
gang's is illegal with reason 0xB. -/
def Obligations.Barriers : Prop :=
  ∀ (f : Fields) (s : State), guardOf f s = true →
    let t := f.i16.toNat % 8
    let tags := s.bun.pre.gang.toNat / 2 ^ 23 % 2 ^ 4
    let arrived := s.bun.cur.arr.getLsbD t
    let hold (i : Instr) (h : Hold) : Prop := waitsFor i s h
    let joined : State := s.post (.acquire (if s.bun.cur.gang.toNat / 2 ^ 27 % 2 ^ 4 ≤ 1 then 1 else 2))
    let bad (i : Instr) : Prop := becomes i s fun b => { b with raised := b.raised ++ [⟨kILLB, f.slot, 0, 0xB, 0⟩] }
    (tags ≤ t → bad (.bara f) ∧ bad (.barw f) ∧ bad (.bars f))
      ∧ (t < tags → arrived = true → hold (.bara f) (.bara t) ∧ hold (.barw f) (.barw t) ∧ hold (.bars f) (.bars t))
      ∧ (t < tags → arrived = false → exec (.barw f) s = .next joined)
      ∧ (t < tags → arrived = false → Hold.bars t ∈ s.bun.was → exec (.bars f) s = .next joined)
      ∧ (t < tags → arrived = false → s.bun.cur.gacc = [] →
          exec (.bara f) s = .next ((if Hold.bara t ∈ s.bun.was then joined else s).onCur fun c =>
              { c with arr := c.arr ||| (1#8 <<< t) })
            ∧ (Hold.bars t ∉ s.bun.was → hold (.bars f) (.bars t)))

/-- R181 to R183: the owner pushes at the bottom and pops from the bottom of a deque of 64; a steal waits for the
answer of the member's port and then gives its value and success; a pop or steal that obtains an entry is an acquire. R187: ENQ checks its record's offset and its queue,
then waits for the append as a release, and writes whether it was made. -/
def Obligations.DequesAndEnq : Prop :=
  (∀ (f : Fields) (s : State), guardOf f s = true → s.bun.cur.recording = false →
     let p := f.i16.toNat % 16
     let v := s.rd .x f.a.toNat
     let d := s.bun.cur.deque
     let joined : State := s.post (.acquire (if s.bun.cur.gang.toNat / 2 ^ 27 % 2 ^ 4 ≤ 1 then 1 else 2))
     let both (i : Instr) (g : Core → Core) (w : Word) (ok : Bool) : Prop :=
       ∃ u t, exec i s = .next t ∧ gives ((if ok then joined else s).onCur g) u f.slot .x f.d.toNat (.word w) 0 ∧ onlyCur u t
         ∧ coreSets u.bun.cur t.bun.cur s.bun.hnd p ok
     let size := s.bun.pre.gang.toNat / 2 ^ 11 % 2 ^ 12
     (d.length < 64 → s.bun.cur.gacc = [] → ∃ t, exec (.dqpush f) s = .next t ∧ onlyCur s t
         ∧ coreSets { s.bun.cur with deque := d ++ [v] } t.bun.cur s.bun.hnd p true)
       ∧ (64 ≤ d.length → setsPred (.dqpush f) s p false)
       ∧ (∀ w rest, d = rest ++ [w] → both (.dqpop f) (fun c => { c with deque := rest }) w true)
       ∧ (d = [] → both (.dqpop f) id 0 false)
       ∧ (size ≤ v.toNat → becomes (.dqsteal f) s fun b => { b with raised := b.raised ++ [⟨kILLB, f.slot, 0, 0xB, 0⟩] })
       ∧ (v.toNat < size → s.bun.answer = none → waitsFor (.dqsteal f) s (.steal v.toNat))
       ∧ (∀ w ok, v.toNat < size → s.bun.answer = some (w, ok) → both (.dqsteal f) id w ok)
       ∧ (v.toNat < size → v.toNat = s.bun.pre.gang.toNat % 2 ^ 11 → yields (.dqcnt f) f s .x (BitVec.ofNat 64 d.length) 0)
       ∧ (v.toNat < size → v.toNat ≠ s.bun.pre.gang.toNat % 2 ^ 11 → ∃ t, exec (.dqcnt f) s = .next t
           ∧ t.bun.post = s.bun.post ++ [.ask s.bun.cur.nextId (.dqcnt v.toNat)]
           ∧ (discards .x f.d.toNat = false → t.bun.cur.isEmpty s.bun.hnd .x f.d.toNat = true)
           ∧ t = { s with bun := { s.bun with post := t.bun.post, cur :=
               { s.bun.cur with pend := t.bun.cur.pend, nextId := t.bun.cur.nextId } } }
           ∧ ∀ h file n, sameReg s.bun.hnd .x f.d.toNat h file n = false →
               settled t.bun.cur h file n = settled s.bun.cur h file n))
  ∧ (∀ (f : Fields) (s : State), guardOf f s = true → s.bun.cur.recording = false →
       let q := (s.rd .x f.a.toNat)
       let off := (s.rd .x f.b.toNat)
       let placed := off.toNat % 128 = 0 ∧ off.toNat < 2 ^ 21
       let bad : List Raise := if placed then [] else [⟨kPROT, f.slot, off, 0, 0⟩]
       let raise (k : Nat) (v : Word) (b : Bun) : Bun := { b with raised := b.raised ++ bad ++ [⟨k, f.slot, v, 0, 0⟩] }
       let mine := (s.queueOf q.toNat).ctx = s.bun.pre.ctx ∧ s.hasQueue s.bun.pre.vfOf q.toNat = true
       let may := (s.queueOf q.toNat).sok = false ∨ s.bun.pre.modeS = true
       (2 ^ 13 ≤ q.toNat → becomes (.enq f) s (raise kPROT q))
         ∧ (q.toNat < 2 ^ 13 → ¬mine → becomes (.enq f) s (raise kOWN q))
         ∧ (q.toNat < 2 ^ 13 → mine → ¬may → becomes (.enq f) s (raise kPRIV 0))
         ∧ (¬placed → q.toNat < 2 ^ 13 → mine → may → becomes (.enq f) s fun b => { b with raised := b.raised ++ bad })
         ∧ (placed → q.toNat < 2 ^ 13 → mine → may →
             (∀ w ok, s.bun.answer = some (w, ok) → setsPred (.enq f) s (f.i16.toNat % 16) ok)
             ∧ (s.bun.answer = none → spReads s off.toNat (off.toNat + 128) false → s.bun.stall = false →
                 s.bun.cur.gacc = [] → waitsFor (.enq f) s (.enq q.toNat off.toNat))))


/-! ### Scratchpad and global memory -/

/-- R84, R86, R89: LD reads the scratchpad as it stood before the bundle and gives D the value extended by its type; ST stores the
low bytes of C; both update A through its modifier when V is set, a modifier of mode 3 raising UNALIGN beside what the access
does; PROT and UNALIGN where the address is illegal, and PKDACC beside UNALIGN in a packed region. The range of an LD is in use for
4 clk (R200). -/
def Obligations.LoadStore : Prop :=
  ∀ (f : Fields) (s : State), (f.slot = .aga ∨ f.slot = .agb) → f.a.toNat < 24 → guardOf f s = true →
    Memory.wf s.bun.cur.sp = true →
    let ea := opA f s + offM f
    let n := tBytes f.t.toNat
    let file := fileOfCode f.slot.file f.sc
    let val (v : Word) : RegVal := if isRunFile file then .run ⟨if f.t.toNat ≤ 4 then tagS64 else tagN64, [(v, 1)]⟩ else .word v
    let legal := ea.toNat < 2 ^ 21 ∧ ea.toNat % n = 0
    let wrong (i : Instr) : Prop := ∃ u t, exec i s = .next t ∧ postMods s u f
      ∧ ((2 ^ 21 ≤ ea.toNat ∧ t = u.raise f kPROT ea) ∨ (ea.toNat < 2 ^ 21 ∧
        t = (if s.bun.cur.meetsPacked ea.toNat (ea.toNat + n) then u.raise f kPKDACC (BitVec.ofNat 64 ea.toNat) else u).raise f
          kUNALIGN ea))
    (¬legal → wrong (.ld f) ∧ wrong (.st f))
      ∧ (legal → f.d.toNat < file.size → spReads s ea.toNat (ea.toNat + n) false →
          ∃ u t, exec (.ld f) s = .next t ∧ postMods s u f
            ∧ gives (u.uses ea.toNat (ea.toNat + n) 4) t f.slot file f.d.toNat (val (tExtend f.t.toNat (readN s.bun.pre.sp ea.toNat n))) 0)
      ∧ (legal → spClear s.bun.cur ea.toNat (ea.toNat + n) true false →
          ∃ u t, exec (.st f) s = .next t ∧ postMods s u f
            ∧ stores u t f.slot ea.toNat (natToBytes n (opCSc f s).toNat))

/-- R91, R92, R94, R96 to R98, R323: the global accesses are accepted at issue once translated, checked and not busy;
a register they deliver into is empty from then on; a misaligned one is looked up too, by the model's reading (log entry 47), and
raises UNALIGN; PREFG posts its prefetch and raises nothing. R209 to R211, R214, R216, R218, R323: what acceptance meets on its way: a
table miss holds the bundle for its walk, a compressed page for its expansion, and a fault is raised with the access's
address, that of a walk it waited for too, whose ACC is the model's choice (log entries 20 and 25). A bundle whose accesses were
accepted ahead of a handler run (log entry 24) is not spoken of. -/
def Obligations.GlobalAccesses : Prop :=
  (∀ (f : Fields) (s : State), (f.slot = .aga ∨ f.slot = .agb) → f.a.toNat < 24 → f.d.toNat < 24 → guardOf f s = true → s.bun.mem = none →
     let near := opA f s + offM f
     let far := opA f s + (if f.len = .three then f.l32.signExtend 64 else 0#64)
     let c := opC f s
     let n := tBytes f.t.toNat
     let one (i : Instr) (opc size acc : Nat) (ea b c : Word) (dest post : Bool) : Prop :=
       (2 ^ 56 ≤ ea.toNat → ∃ u t, exec i s = .next t ∧ (if post then postMods s u f else u = s)
           ∧ t = u.raise f kPROT ea 0 acc)
         ∧ (ea.toNat < 2 ^ 56 → ea.toNat % size ≠ 0 → ∃ u t, exec i s = .next t
           ∧ (if post then postMods s u f else u = s) ∧ t = (u.access f ea acc).2.raise f kUNALIGN ea)
         ∧ ∀ e pa, (∀ x ∈ s.bun.xlf, x.1 ≠ ea.toNat / 4096) → ea.toNat < 2 ^ 56 → ea.toNat % size = 0 → s.accept ea acc = .ok e pa →
           (s.inCxl pa && (s.bun.cur.refused || s.bun.cur.refusing.isSome)) = false → ∃ u t, exec i s = .next t
           ∧ (if post then postMods s u f else u = s) ∧ accepts u t f opc ea b c e pa dest
     one (.ldg f) 0x03 n accLoad near 0 0 true true ∧ one (.stg f) 0x04 n accStore near 0 c false true
       ∧ one (.atomg f) 0x12 n accAtomic far 0 c true false
       ∧ one (.acasg f) 0x13 n accAtomic far (opBReg f s) c true false
       ∧ one (.fxaddg f) 0x14 64 accAtomic far 0 c false false
       ∧ one (.fxrdg f) 0x15 64 (if f.i16.getLsbD 0 then accAtomic else accLoad) far 0 0 true false
       ∧ becomes (.prefg f) s fun b => { b with post := b.post ++ [.prefetch near] })
  ∧ (∀ (f : Fields) (s : State), guardOf f s = true → s.bun.mem = none → f.v = false →
       let ea := opA f s + offM f
       ea.toNat < 2 ^ 56 → ea.toNat % tBytes f.t.toNat = 0 →
       (∀ x, s.bun.xlf.find? (fun x => x.1 == ea.toNat / 4096) = some x → becomes (.ldg f) s fun b => { b with raised :=
           b.raised ++ [⟨x.2, f.slot, ea, 0, if x.2 = kXLATE then accLoad else accWalk⟩] })
       ∧ ((∀ x ∈ s.bun.xlf, x.1 ≠ ea.toNat / 4096) →
        (∀ k, s.accept ea accLoad = .fault k →
           becomes (.ldg f) s fun b => { b with raised := b.raised ++ [⟨k, f.slot, ea, 0, accLoad⟩] })
         ∧ (∀ e pa, s.accept ea accLoad = .ok e pa → s.inCxl pa = true → s.bun.cur.refused = true →
             becomes (.ldg f) s fun b => { b with raised := b.raised ++ [⟨kCXLBUSY, f.slot, ea, 0, accLoad⟩] })
         ∧ (s.accept ea accLoad = .miss → waitsFor (.ldg f) s (.translate ea accLoad))
         ∧ (∀ k subst, s.accept ea accLoad = .expand k subst → waitsFor (.ldg f) s (.expand k true ea subst))
         ∧ (s.accept ea accLoad = .wait → waitsFor (.ldg f) s (.expand 0 false ea 0))))

/-- R161 to R164: a run transfer whose path is free, whose forme is legal and whose span is clear loads D from the rows as
they stood before the bundle, or stores the elements of C and their scales; under V it then advances A past what it moved. Through a forme of an empty tensor nothing moves (R118). A forme that is empty
or run-packed raises FMTMIS beside the PROT or PKDACC of the address. The range is in use until the transfer lands (R200). -/
def Obligations.RunTransfers : Prop :=
  ∀ (f : Fields) (s : State), (f.slot = .aga ∨ f.slot = .agb) → f.d.toNat < 16 → f.a.toNat < 24 → guardOf f s = true →
    Memory.wf s.bun.cur.sp = true → pathFree f s.bun.cur ≤ s.bun.cur.clk →
    let fm := formeOf f s
    let file := fileOfCode f.slot.file f.sc
    let c := s.rdRun file f.c.toNat
    let a := opA f s
    let none_ := fm.d0 = 0 ∨ fm.d1 = 0
    let n := if none_ then 0 else if f.len = .three then f.l32.toNat % 2 ^ 16 else min fm.d0 65535
    let cv : RunReg := if none_ then { c with slugs := [] } else c
    let first := if 2 ^ 21 ≤ a.toNat then [⟨kPROT, f.slot, a, 0, 0⟩]
      else if s.bun.cur.meetsPacked a.toNat (a.toNat + 1) then [⟨kPKDACC, f.slot, BitVec.ofNat 64 a.toNat, 0, 0⟩] else []
    let wrong (i : Instr) : Prop :=
      becomes i s fun b => { b with raised := b.raised ++ first ++ [⟨kFMTMIS, f.slot, 0, 0, 0⟩] }
    let clear (p : Span) (write : Bool) : Prop :=
      let may (lo hi : Nat) : Prop := if write then spClear s.bun.cur lo hi true false else spReads s lo hi false
      p.ea + p.bytes ≤ 2 ^ 21 ∧ p.ea < 2 ^ 21 ∧ (p.blocks ≠ 0 → p.scale + p.blocks ≤ 2 ^ 21)
        ∧ (16 ≤ fmtBits fm.fmt → p.ea % (fmtBits fm.fmt / 8) = 0)
        ∧ may p.ea (p.ea + p.bytes) ∧ (p.blocks ≠ 0 → may p.scale (p.scale + p.blocks))
    let adv (u t : State) (on : Bool) (step : Nat) : Prop :=
      if f.v && on then gives u t f.slot f.slot.file f.a.toNat (.word (a + BitVec.ofNat 64 step)) 0 else t = u
    let rowStep (k : Nat) : Nat := rowBytes fm.fmt k + (if fm.mxb then 2 ^ 32 * ((k + 31) / 32) else 0)
    let path (u t : State) : Prop := t = u.onCur fun k => { k with pathFree := t.bun.cur.pathFree }
    let got := loadDense fm n (elemOfRow fm.fmt (readN s.bun.pre.sp (spanOf fm a n).ea (spanOf fm a n).bytes))
      fun k => (readByte s.bun.pre.sp ((spanOf fm a n).scale + k)).toNat
    let img := packRun c
    let waited (b : Nat) : Prop := s.bun.since + ((b + 511) / 512 - 1) ≤ s.bun.cur.clk
    let sp := spanOf fm a cv.len
    let put := storeDense fm cv
    (fm.empty = true ∨ fm.runpk = true → wrong (.ldv f) ∧ wrong (.stv f))
      ∧ (fm.empty = false → fm.runpk = false → isRunFile file = true → clear (spanOf fm a n) false →
          waited (rowBytes fm.fmt got.1.len + (if fm.mxb then (got.1.len + 31) / 32 else 0)) →
          ∃ u w t, exec (.ldv f) s = .next t
            ∧ gives (s.usesSpan (spanOf fm a n) (s.pathLat got.1.runs)) u f.slot file f.d.toNat (.run got.1) got.2
            ∧ adv u w (got.1.len != 0) (rowStep got.1.len) ∧ path w t)
      ∧ (fm.empty = false → fm.runpk = false → clear sp true → waited (sp.bytes + sp.blocks) →
          ∃ u w x y t, exec (.stv f) s = .next t ∧ stores (s.usesSpan sp (s.pathLat cv.runs)) u f.slot sp.ea (natToBytes sp.bytes (rowOfElems fm.fmt put.1))
            ∧ (if sp.blocks = 0 then w = u else stores u w f.slot sp.scale (put.2.1.map fun x => BitVec.ofNat 8 x))
            ∧ onlyCur w x ∧ coreFrame w.bun.cur x.bun.cur
            ∧ (∀ h file' m, settled x.bun.cur h file' m = settled w.bun.cur h file' m)
            ∧ (∀ k, owedFlags x.bun.cur k = if k = f.slot then owedFlags w.bun.cur k ||| put.2.2 else owedFlags w.bun.cur k)
            ∧ adv x y (cv.len != 0) (rowStep cv.len) ∧ path y t)
      ∧ (∀ r, waited 0 → a.toNat < 2 ^ 21 → a.toNat % 16 = 0 → isRunFile file = true →
          loadPacked a (fun off n => readN s.bun.pre.sp (a.toNat + off) n) = .ok r →
          a.toNat + 16 + slugBytes r.tag * r.runs ≤ 2 ^ 21 →
          spReads s a.toNat (a.toNat + (16 + slugBytes r.tag * r.runs)) true →
          ∃ u w t, exec (.ldvp f) s = .next t
            ∧ gives (s.uses a.toNat (a.toNat + (16 + slugBytes r.tag * r.runs)) (s.pathLat r.runs)) u f.slot file f.d.toNat (.run r) 0 ∧ adv u w true (packedBytes r)
            ∧ path w t)
      ∧ (∀ marks, waited 0 → a.toNat + img.length ≤ 2 ^ 21 → a.toNat < 2 ^ 21 → a.toNat % 16 = 0 →
          s.bun.pre.meetsQueue a.toNat (a.toNat + img.length) = false →
          s.bun.cur.marked a.toNat (a.toNat + img.length) = some marks →
          spClear s.bun.cur a.toNat (a.toNat + img.length) true true →
          ∃ u w t, exec (.stvp f) s = .next t ∧ stores (s.uses a.toNat (a.toNat + img.length) (s.pathLat c.runs)) u f.slot a.toNat img
            ∧ adv (u.onCur fun k => { k with packed := marks }) w true (packedBytes c) ∧ path w t)

/-! ### Engines at issue -/

/-- R246 to R251, R260, R262 to R265, R375: GALADV, GALREL, SMSG, SMSGT, OBJADD and SCRUB complete on operands that are legal
and with room in their engine and the chase. Each puts one command at the end of its engine's queue and claims its ranges;
SCRUB of kind GANGSP is no command, and acts as its bundle commits. GALADV of an unbound galley, or of more rows than the ring
has, makes its bundle illegal; a message without credits stalls its bundle, or under SMSGT clears its predicate. -/
def Obligations.EngineQueues : Prop :=
  ∀ (f : Fields) (s : State), f.slot = .xe → guardOf f s = true →
    let c := s.bun.cur
    let g := c.galley f.i16.toNat
    let rows := f.i16.toNat / 8
    let ahead := g.ranges (g.head + ringRows g.ring) rows
    let inc := if f.len = .three then f.l32.setWidth 64 else opBReg f s
    let len := f.i16.toNat % 1024
    let n := (len + 63) / 64
    let lo := (opC f s).toNat
    let k := (opA f s).toNat
    let h := if f.len = .three then f.l32.setWidth 64 else opBReg f s
    let legal := k < c.gangSize ∧ lo + len ≤ 2 ^ 21 ∧ lo < 2 ^ 21 ∧ lo % 8 = 0 ∧ h.toNat < 2 ^ 56 ∧ h.toNat % 4 = 0
      ∧ c.meetsPacked lo (lo + len) = false ∧ n + 1 ≤ c.credits
    let mayGo := n + 1 ≤ c.creditOf k ∧ ∀ d, s.memberCore s.bun.core k = some d → s.resending s.bun.core d = false
    let sends (i : Instr) (opc : Nat) (u : Core) : Prop :=
      legal → mayGo → roomFor c .message [(lo, lo + len)] →
        ∃ t m, exec i s = .next t ∧ isCommand m s f .message opc ∧ m.eb = opBReg f s
          ∧ t.bun.cur.cmds = c.cmds ++ [m] ∧ claimed c t.bun.cur m.id [(lo, lo + len)] []
          ∧ (t.bun.cur.peer k).credit = some (c.creditOf k - (n + 1))
          ∧ t.bun.cur.sp = c.sp ∧ t.sys = s.sys ∧ t.cores = s.cores ∧ enginesOnly u t.bun.cur
    let top := k + (opBReg f s).toNat
    (descriptorFits c (opC f s) false → g.bound = true → rows ≤ ringRows g.ring →
        (∀ r ∈ ahead, c.meetsPacked r.1 r.2 = false) → roomFor c .galley ahead →
        enqueues (.galadv f) s f .galley 0x12 [] ahead fun m d =>
          m.gal.head = g.head + ringRows g.ring ∧ d.galley f.i16.toNat = { g with head := g.head + rows })
      ∧ (g.bound = false ∨ ringRows g.ring < rows →
          becomes (.galadv f) s fun b => { b with raised := b.raised ++ [⟨kILLB, f.slot, 0, 0xB, 0⟩] })
      ∧ (descriptorFits c (opC f s) false → roomFor c .galley [] →
          enqueues (.galrel f) s f .galley 0x13 [] [] fun m d => m.gal = g ∧ d.galleys = c.galleys)
      ∧ sends (.smsg f) 0x14 c
      ∧ (c.recording = false → s.bun.mem = none → sends (.smsgt f) 0x15 (c.setPred s.bun.hnd (f.i16.toNat / 1024 % 16) true))
      ∧ (legal → ¬mayGo →
          (becomes (.smsg f) s fun b => { b with stall := true })
          ∧ (c.recording = false → s.bun.mem = none → setsPred (.smsgt f) s (f.i16.toNat / 1024 % 16) false))
      ∧ (descriptorFits c (opA f s) false → (opA f s).getLsbD 57 = false → k < 2 ^ 58 → roomFor c .coll [] →
          enqueues (.objadd f) s f .coll 0x16 [] [] fun m _ => m.eb = inc)
      ∧ (descriptorFits c (opC f s) true → k < 2 ^ 21 → k % 64 = 0 → top % 64 = 0 → top ≤ 2 ^ 21 → roomFor c .copy [(k, top)] →
          enqueues (.scrubSp f) s f .copy 0x23 [] [(k, top)] fun m d => m.eb = opBReg f s
            ∧ d.packed = c.packed.filter fun p => !(k ≤ p.1 && p.2 ≤ top))
      ∧ (descriptorFits c (opC f s) true → ∃ m, isCommand m s f .mark 0x23 ∧ becomes (.scrubGangsp f) s fun b =>
          { b with cur := { b.cur with nextId := b.cur.nextId + 1 }, post := b.post ++ [.scrubGang m] })

/-- R254 to R259, R266, R267: COPY, GALSET and COLL enter their queues once every check of Table 14-4 passes; the command
keeps the formes and the shape as they stood at issue. A COPY claims what it reads and writes as far as that is known at issue (log
entry 48); a COLL reads its buffer and writes what its kind delivers to its rank (R251), and keeps its ranks and what its buffer
in memory held as it issued. -/
def Obligations.EngineTransfers : Prop :=
  ∀ (f : Fields) (s : State), f.slot = .xe → guardOf f s = true →
    let c := s.bun.cur
    let forme (lo : Nat) : Forme := s.formeAt (f.i16.toNat / 2 ^ lo % 64)
    let fs := forme 0
    let fd := forme 6
    let sa := eaSpace (opA f s)
    let sb := eaSpace (opBReg f s)
    let o := f.l32.toNat
    let src (sh : Shape) : Side := sideOf fs (eaAddr (opA f s)) (sh.dims.map fun d => (d.1, d.2.1))
    let reads (sh : Shape) : Int × Int := sourceSpan c fs (eaAddr (opA f s)) (sh.dims.map fun d => (d.1, d.2.1))
    let cmd : Cmd := { s.command f .copy 0x10 with
      formes := [fs, fd], block := if f.len = .three then readBytes s.bun.pre.sp o 256 else [] }
    let known (sh : Shape) : Option (List (Int × Int)) := packedTargets s cmd (reads sh)
    let dst (sh : Shape) : Side := targetSide fd (eaAddr (opBReg f s)) (sh.dims.map fun d => (d.1, d.2.2)) (known sh)
    let first (sh : Shape) : Nat := (min 960 (streamBytes fd sh) + 63) / 64
    let rd (sh : Shape) : List (Nat × Nat) := if sa = 0 then [spRange (reads sh)] else []
    let wr (sh : Shape) : List (Nat × Nat) := if sb = 0 then [spRange (dst sh).most] else []
    let start := if f.len = .three then f.l32.toNat else 0
    let g : Galley := ⟨true, BitVec.ofNat 64 (eaAddr (opA f s)), opBReg f s, start, start, forme 3⟩
    let ring := g.ranges start (ringRows (opBReg f s))
    let count := collCount f (forme 4)
    let lo := eaAddr (opBReg f s)
    let bytes := rowBytes (forme 4).fmt count
    let span := if eaSpace (opBReg f s) = 0 then [(lo, lo + bytes)] else []
    let own (r : Rank) : Bool := r.pkg == s.sys.pkg && s.rankCore r == some s.bun.core
    let part (ranks : List Rank) : List (Nat × Nat) :=
      let p := collSpan (fmtBits (forme 4).fmt) (collKind f) count ranks.length ((ranks.findIdx? own).getD 0)
      if eaSpace (opBReg f s) = 0 then [(lo + p.1, lo + p.2)] else []
    (∀ sh, (f.len = .two → fs.d0 = fd.d0 ∧ fs.d1 = fd.d1 ∧ sh = shapeOfFormes fs fd) →
        (f.len = .three → o % 64 = 0 ∧ o + 256 ≤ 2 ^ 21 ∧ spReads s o (o + 256) false ∧ s.bun.stall = false
          ∧ shapeOfBlock (readBytes s.bun.pre.sp o 256) (sb = 2) = some sh) →
        f.len ≠ .one → engChecks (opA f s) [0, 1] 0 = [] →
        engChecks (opBReg f s) (if sa = 0 then [0, 1, 2] else [0, 1]) s.bun.pre.gangSize = [] →
        compChecks c (opC f s) true true = [] → copyFormes fs fd sa sb = [] →
        shapeChecks fs fd sh (eaAddr (opA f s)) (eaAddr (opBReg f s)) (sb = 2) = [] →
        rangeChecks sa (src sh).least.1 (src sh).least.2 = [] →
        (sb ≠ 2 → rangeChecks sb (dst sh).least.1 (dst sh).least.2 = []) → (sb = 2 → first sh = 0 ∨ first sh + 1 ≤ c.credits) →
        (sb = 0 → destChecks { c with mq := s.bun.pre.mq } fd (dst sh) (known sh).isSome = []) → roomFor c .copy (rd sh ++ wr sh) →
        enqueues (.copy f) s f .copy 0x10 (rd sh) (wr sh) fun m _ => m.formes = [fs, fd] ∧ m.eb = opBReg f s)
      ∧ (engChecks (opA f s) [1] 0 = [] → compChecks c (opC f s) true false = [] → ringOk (opBReg f s) = true →
          (forme 3).empty = false → (forme 3).runpk = false → rowBytes (forme 3).fmt (forme 3).d0 ≤ ringRow (opBReg f s) →
          ringChecks c ring = [] → roomFor c .galley ring →
          enqueues (.galset f) s f .galley 0x11 [] ring fun m d => m.gal = g ∧ d.galley f.i16.toNat = g)
      ∧ (∀ ranks, (opA f s).toNat < 2 ^ 16 → engChecks (opBReg f s) [0, 1] 0 = [] → compChecks c (opC f s) true false = [] →
          rangeChecks (eaSpace (opBReg f s)) lo (lo + bytes) = [] →
          (8 ≤ fmtBits (forme 4).fmt → lo % (fmtBits (forme 4).fmt / 8) = 0) →
          (eaSpace (opBReg f s) = 0 → packedChecks c lo (lo + bytes) = []) →
          s.groupPaused c.ctx (opA f s).toNat = false → s.groupOf c.ctx (opA f s).toNat = .ok ranks →
          ranks.any own = true →
          (∀ r ∈ ranks, r.pkg ≠ s.sys.pkg → (s.sessionWith c.vfOf r.pkg).isSome = true) →
          collChecks f (forme 4) ranks.length = [] → roomFor c .coll (span ++ part ranks) →
          enqueues (.coll f) s f .coll 0x17 span (part ranks) fun m _ => m.formes = [forme 4] ∧ m.group = ranks
            ∧ (eaSpace (opBReg f s) = 1 → m.image = s.asIssued lo bytes))

/-- R121, R270, R271: RNGCFG keys the generator, empties its queue and makes its next block due 12 clk later; TIDWR writes an
entry of the forme table that Table 5-8 accepts, or raises FMTMIS; TIDRD stores one. -/
def Obligations.GeneratorAndFormes : Prop :=
  ∀ (f : Fields) (s : State), f.slot = .xe → guardOf f s = true → Memory.wf s.bun.cur.sp = true → s.bun.stall = false →
    let a := (opA f s).toNat % 2 ^ 56
    let fm : Forme := BitVec.ofNat 256 (readN s.bun.pre.sp a 32)
    let n := f.i16.toNat % 64
    let clear (w : Bool) : Prop := engChecks (opA f s) [0] 0 = [] ∧ a % 32 = 0 ∧
      if w then spClear s.bun.cur a (a + 32) true false else spReads s a (a + 32) false
    (becomes (.rngcfg f) s fun b => { b with cur := { b.cur with rng :=
        { key := opA f s, ctr := (opBReg f s).toNat + (opC f s).toNat * 2 ^ 64, words := [], ready := b.cur.clk + 12 } } })
      ∧ (clear false → fm.accepted = true → ∃ t, exec (.tidwr f) s = .next t ∧ onlyCur s t
          ∧ t.bun.cur = { s.bun.cur with formes := t.bun.cur.formes }
          ∧ ∀ k, k < 64 → t.bun.cur.formes.toList.getD k 0 = if k = n then fm else s.bun.cur.formes.toList.getD k 0)
      ∧ (clear false → fm.accepted = false →
          becomes (.tidwr f) s fun b => { b with raised := b.raised ++ [⟨kFMTMIS, f.slot, 0, 0, 0⟩] })
      ∧ (clear true → ∃ t, exec (.tidrd f) s = .next t
          ∧ stores s t f.slot a (natToBytes 32 (s.bun.pre.formes.toList.getD n 0).toNat))

/-! ### The matrix engine and the key port at issue -/

/-- R278 to R292: the matrix instructions enter the engine's queue in order, and the front end's state of planes and tiles
changes at issue; MSTAT reads a tile's state, or waits for its last operation under `.w`. -/
def Obligations.MatrixQueue : Prop :=
  ∀ (f : Fields) (s : State), f.slot = .xe → guardOf f s = true →
    let c := s.bun.cur
    let enters (i : Instr) (opc : Nat) (tiles : List Nat) (front : Core → Prop) : Prop :=
      ∃ t o, exec i s = .next t ∧ onlyCur s t ∧ enginesOnly c t.bun.cur ∧ t.bun.cur.mats = c.mats ++ [o]
        ∧ isCommand o.cmd s f .matrix opc ∧ o.tiles = tiles ∧ front t.bun.cur
    let tile := f.i16.toNat % 8
    let tiles := (List.range 8).filter fun k => f.i16.getLsbD k
    let fm := s.formeAt f.i16.toNat
    let cls := classOf fm
    let k := dimOf f 0 8 (classKs cls)
    let n := dimOf f 8 6 (if cls = 5 then 8 else 32)
    let p := patchOf fm (eaAddr (opA f s)) (opBReg f s) n k
    let df := s.formeAt (f.i16.toNat / 8 % 64)
    let ft := c.frontTile tile
    let dn := dimOf f 8 6 (if ft.1 = 3 then 8 else 32)
    let dp := patchOf df (eaAddr (opA f s)) (opBReg f s) (dimOf f 0 8 128) dn
    let basic := engChecks (opA f s) [0] 0 = [] ∧ compChecks c (opC f s) true false = []
    (roomFor c .matrix [] → enters (.mswap f) 0x02 [] fun d => d.fActive = c.fShadow ∧ d.fShadow = c.fActive)
      ∧ (tiles = [] → exec (.mzero f) s = .next s)
      ∧ (tiles ≠ [] → roomFor c .matrix [] → enters (.mzero f) 0x06 tiles fun d =>
          ∀ j, j < 8 → d.frontTile j = if f.i16.getLsbD j then (0, 0) else c.frontTile j)
      ∧ (basic → cls ≠ 0 → k ≤ classKs cls → (cls = 5 → n ≤ 8) → coordChecks fm (eaAddr (opA f s)) (opBReg f s) = [] →
          p.checks c = [] → roomFor c .matrix [p.elems, p.scales] → enters (.mload f) 0x01 [] fun d =>
            d.fShadow.cls = cls ∧ d.fShadow.k = k ∧ d.fShadow.n = n ∧ d.fActive = c.fActive)
      ∧ (basic → drainOk df ft.1 ft.2 = true → (ft.1 = 3 → dn ≤ 8) → coordChecks df (eaAddr (opA f s)) (opBReg f s) = [] →
          dn * fmtBits df.fmt % 8 = 0 → dp.checks c = [] → roomFor c .matrix [dp.elems, dp.scales] →
          enters (.mdrain f) 0x05 [tile] fun d =>
            d.frontTile tile = if f.i16.getLsbD 9 then (0, 0) else c.frontTile tile)
      ∧ (f.d.toNat < 16 → (f.v && c.busy tile) = false → yields (.mstat f) f s .e (c.mstat tile) 0)
      ∧ (f.d.toNat < 16 → (f.v && c.busy tile) = true → s.bun.mem = none → ∃ t, exec (.mstat f) s = .next t
          ∧ t.bun.cur.isEmpty s.bun.hnd .e f.d.toNat = true)

/-- R276, R281, R285, R288: MMUL and MMOD, on a patch or on a galley, stream rows against the active plane when classes, tile and placement
agree; a mismatch raises FMTMIS. -/
def Obligations.MatrixStreams : Prop :=
  ∀ (f : Fields) (s : State), f.slot = .xe → guardOf f s = true →
    let c := s.bun.cur
    let gal := f.i16.getLsbD 10
    let g := c.galley (f.i16.toNat / 2 ^ 11)
    let fm := if gal then g.forme else s.formeAt (f.i16.toNat / 8 % 64)
    let cls := classOf fm
    let tile := f.i16.toNat % 8
    let rows := if f.len = .three then f.l32.toNat % 2 ^ 8 else 128
    let mode := if cls = 4 then 2 else if cls = 5 then 3 else 1
    let xsc : Int := if cls = 4 then imageExp fm + c.fActive.xscp else 0
    let patch := patchOf fm (eaAddr (opA f s)) (opBReg f s) rows c.fActive.k
    let rs := if gal then g.ranges (g.head + coordRow (opBReg f s)) rows else [patch.elems, patch.scales]
    let placed := compChecks c (opC f s) true false = [] ∧
      if gal then g.bound = true ∧ coordRow (opBReg f s) + rows ≤ ringRows g.ring ∧ coordChecks fm 0 (opBReg f s) = []
        ∧ fm.mxb = false ∧ ringChecks c rs = []
      else engChecks (opA f s) [0] 0 = [] ∧ coordChecks fm (eaAddr (opA f s)) (opBReg f s) = [] ∧ patch.checks c = []
    let same := cls ≠ 0 ∧ cls = c.fActive.cls
    let fits := mmTileBad f mode xsc (c.frontTile tile) = false
    let one (i : Instr) (opc : Nat) (kind : Prop) : Prop :=
      (placed → same → kind → fits → 0 < rows → roomFor c .matrix rs →
        ∃ t o, exec i s = .next t ∧ onlyCur s t ∧ enginesOnly c t.bun.cur ∧ t.bun.cur.mats = c.mats ++ [o]
          ∧ isCommand o.cmd s f .matrix opc ∧ o.tiles = [tile] ∧ o.mode = mode ∧ o.xsc = xsc
          ∧ claimed c t.bun.cur o.cmd.id rs []
          ∧ t.bun.cur.frontTile tile =
            if f.i16.getLsbD 9 = true ∨ (c.frontTile tile).1 = 0 then (mode, xsc) else c.frontTile tile)
      ∧ (placed → 0 < rows → ¬(same ∧ kind ∧ fits) →
        becomes i s fun b => { b with raised := b.raised ++ [⟨kFMTMIS, f.slot, 0, 0, 0⟩] })
    one (.mmul f) 0x03 (cls ≠ 5) ∧ one (.mmod f) 0x04 (cls = 5 ∧ fm.modq = c.fActive.modq)

/-- R27, R367 to R369, R382: the key commands raise PRIV in mode U; in mode S, with a legal block and descriptor and
room at the key port, they join its queue with their block. R356, R357, R369 to R376: a key command is handed off; a
rotation accepted makes a second generation live; a page of a rotation, one in each event; a command whose result is known writes
its status record and leaves; quarantine; a SEAL takes a new number as it begins. That a rotation goes page by page, and which
VALUE a status record of a quarantine has, is the model's reading (log entry 16). -/
def Obligations.KeyPort : Prop :=
  (∀ (f : Fields) (s : State), f.slot = .xe → guardOf f s = true → s.bun.stall = false →
     let c := s.bun.cur
     let a := (opA f s).toNat % 2 ^ 56
     let b := readBytes s.bun.pre.sp a 64
     let one (i : Instr) (opc : Nat) (bad : List Byte → Bool) : Prop :=
       (s.bun.pre.modeS = false → becomes i s fun x => { x with raised := x.raised ++ [⟨kPRIV, f.slot, 0, 0, 0⟩] })
       ∧ (s.bun.pre.modeS = true → engChecks (opA f s) [0] 0 = [] → compChecks c (opC f s) false false = [] → a % 64 = 0 →
           spReads s a (a + 64) false → bad b = false → kbStat b % 16 = 0 → roomFor c .key [(a, a + 64)] →
           ∃ t m, exec i s = .next t ∧ onlyCur s t ∧ enginesOnly c t.bun.cur ∧ t.bun.cur.keys = c.keys ++ [m]
             ∧ isCommand m s f .key opc ∧ m.block = b ∧ claimed c t.bun.cur m.id [(a, a + 64)] [])
     one (.krot f) 0x20 (kbBad 0) ∧ one (.keySeal f) 0x21 (kbBad 1) ∧ one (.keyUnseal f) 0x22 (kbBad 2)
       ∧ one (.scrubPages f) 0x23 (kbBad 3) ∧ one (.scrubKeys f) 0x23 (kbBad 4) ∧ one (.fabkey f) 0x24 (fbBad s.sys.pkg))
  ∧ (∀ (core key : Nat) (s : State),
       let c := s.coreOf core
       let free (m : Cmd) (rest : List Cmd) : Core := { c with chase := c.chase.filter fun r => r.cmd ≠ m.id, keys := rest }
       let status (j : KeyJob) (r : Nat × Nat × Nat) : List Byte :=
         natToBytes 16 (r.1 % 2 ^ 8 + j.cmd.opc * 2 ^ 8 + (if j.cmd.opc = 0x23 then j.cmd.f.i16.toNat % 4 else 0) * 2 ^ 16
           + r.2.1 % 2 ^ 32 * 2 ^ 32 + r.2.2 % 2 ^ 64 * 2 ^ 64)
       let quiet (j : KeyJob) : Prop := kbStat j.cmd.block = 0 ∧ compNone j.cmd.ec = true
       let held (vf gen : Nat) : Prop :=
         ∃ e ∈ s.sys.frames, e.2.valid = true ∧ e.2.owner = vf ∧ e.2.rsvd = false ∧ e.2.gen = gen % 2
       (∀ m rest g, c.keys = m :: rest → s.gangAt core = some g → s.enginesHeld core = false → s.sys.slotOpen ≠ some 2 →
           (∀ x ∈ c.gacc, m.id < x.id) →
           (m.opc ≠ 0x20 → happens (.keyHandoff core) s
             (let u := s.setCore core (free m rest)
              { u with sys := { u.sys with jobs := u.sys.jobs ++
                 [{ core := core, cmd := m, launch := g.launch, vf := c.vfOf, ctx := c.ctx, gang := g.id, since := s.sys.tick,
                    queue := (s.launchOf g.launch).map fun l => l.queue }] } }))
           ∧ (m.opc = 0x20 → s.rotating c.vfOf = false → (s.vf c.vfOf).bind ≠ .quarantined →
               ∃ t, happens (.keyHandoff core) s t ∧ t.coreOf core = free m rest ∧ (t.vf c.vfOf).old = true
                 ∧ (t.vf c.vfOf).cur = (if (s.vf c.vfOf).old then (s.vf c.vfOf).cur else (s.vf c.vfOf).cur + 1)
                 ∧ t.sys.jobs.length = s.sys.jobs.length + 1 ∧ t.sys.mem = s.sys.mem))
         ∧ (∀ j, s.sys.jobs[key]? = some j →
             (∀ r u, j.result = some r → kbStat j.cmd.block ≠ 0 → compNone j.cmd.ec = true →
                 s.dvaPaused j.ctx (kbStat j.cmd.block) = false →
                 ({ s with sys := { s.sys with jobs := s.sys.jobs.erase j } }).gWrite .package j.ctx (kbStat j.cmd.block) (status j r)
                   accStore false false = (.ok (), u) →
                 happens (.keyCommandComplete key) s u)
             ∧ (j.result = none → j.verdict = none → j.cmd.opc ≠ 0x24 → (s.vf j.vf).bind = .quarantined → quiet j →
                 happens (.keyCommandComplete key) s
                   (let j' := { j with result := some (0x0B, 0, 0) }
                    { s with sys := { s.sys with jobs := (s.sys.jobs.set key j').erase j' } }))
             ∧ (j.result = none → j.verdict = none → (s.vf j.vf).bind ≠ .quarantined → j.cmd.opc = 0x23 → j.cmd.f.i16.toNat % 4 ≠ 2 → quiet j →
                 s.rotating j.vf = false → (s.vf j.vf).old = true → kbGen j.cmd.block + 1 = (s.vf j.vf).cur →
                 ¬held j.vf (kbGen j.cmd.block) →
                 ∃ t, happens (.keyCommandComplete key) s t ∧ t.vf j.vf = { s.vf j.vf with old := false } ∧ t.cores = s.cores
                   ∧ t.sys.frames = s.sys.frames ∧ t.sys.mem = s.sys.mem)
             ∧ (∀ e, j.result = none → j.verdict = none → (s.vf j.vf).bind ≠ .quarantined → j.cmd.opc = 0x20 → j.busy = false → s.sys.slotOpen = none →
                 j.page < kbLen j.cmd.block / 65536 →
                 let dva := kbBase j.cmd.block + 65536 * j.page
                 let k := e.phys dva / 65536
                 s.walkPage j.ctx dva = .ok e → s.owns j.vf (e.phys dva) = true → (s.frame k).gen ≠ (s.vf j.vf).cur % 2 →
                 (s.frame k).comp = 0 → s.nameBad k = false →
                 ∃ t, happens (.keyCommandComplete key) s t ∧ (t.frame k).gen = (s.vf j.vf).cur % 2
                   ∧ (t.vf j.vf).rotated = (s.vf j.vf).rotated + 1
                   ∧ t.sys.jobs[key]? = some { j with page := j.page + 1, count := j.count + 1 }
                   ∧ ∀ g, g / 16 = (s.frame k).loc.getD k → (t.ctr g).major = (s.ctr g).major + 1 ∧ (t.ctr g).minors = [])
             ∧ (j.result = none → j.verdict = none → j.sealing = none → (s.vf j.vf).bind = .bound → j.cmd.opc = 0x21 → s.sealWaits key j = false →
                 s.sys.slotOpen = none →
                 ∃ t, happens (.keyCommandComplete key) s t
                   ∧ t.sys.lastOf (s.vf j.vf).tid = s.sys.lastOf (s.vf j.vf).tid + 1)))
/-! ### Events of a core -/

/-- R59, R71, R182, R184 to R186, R227, R230: a bundle that is held at issue has a turn once what it waits for has come about,
and nothing else changes. A TFENCE waits for what its sequencer issued before it; a DRAIN for every earlier load and atomic,
and for the earlier stores that its scope orders for some observer; a release for the earlier accesses. That stores in the CXL tier
are left out below `.sys` is R227; that an idle core has no observer at `.core` is the model's (log entry 10). -/
def Obligations.WaitsEnd : Prop :=
  ∀ (core : Nat) (s : State),
    let c := s.coreOf core
    let on (i : Instr) (p : Held → Prop) : Prop := (∃ h ∈ s.held, h.core = core ∧ p h) → happens i s (turnNext s core)
    let idle : Prop := (∀ m ∈ c.cmds, m.eng = .mark) ∧ c.mats = [] ∧ c.keys = []
    let message (mask : Nat) : Prop := mask % 2 = 1 ∧ c.mq.hasMessage = true ∧ c.hen = false
    let ended (mask : Nat) (h : Held) : Prop := mask / 2 % 2 = 1 ∧ h.runs < c.runsEnded
    on (.waitxSatisfied core) (fun h => (∃ sp a pa t eq, h.hold = .waitx sp a pa t eq) ∧ h.answer ≠ none)
      ∧ on (.waitevWake core) (fun h => ∃ mask dl, h.hold = .waitev mask dl ∧ (message mask ∨ ended mask h))
      ∧ on (.waitevDeadline core) (fun h => ∃ mask dl, h.hold = .waitev mask dl ∧ ¬message mask ∧ ¬ended mask h ∧ dl ≠ 0#64
          ∧ dl.toNat ≤ s.sys.tick.toNat)
      ∧ on (.tfenceDrained core) (fun h => h.hold = .tfence ∧ (∀ p ∈ c.pend, p.hnd = h.hnd → h.first ≤ p.id) ∧ ∀ o ∈ c.mats, h.first ≤ o.cmd.id)
      ∧ on (.drainDone core) (fun h => ∃ scope, h.hold = .drain scope ∧ ∀ g ∈ c.gacc, g.first < h.first →
          (g.opc = 0x04 ∨ g.opc = 0x14) ∧ ((scope = 0 ∧ idle) ∨ (scope < 4 ∧ s.inCxl g.pa = true)))
      ∧ on (.drainDone core) (fun h => ∃ scope, h.hold = .release scope ∧ ∀ g ∈ c.gacc, g.first < h.first →
          scope < 4 ∧ s.inCxl g.pa = true)
      ∧ on (.haltCommandsDone core) (fun h => h.hold = .halt ∧ idle)
      ∧ on (.dqstealAnswer core) (fun h => (∃ m, h.hold = .steal m) ∧ h.answer ≠ none)
      ∧ (core < 2048 → c.placed ≠ none → (∀ h ∈ s.held, h.core ≠ core) →
          happens (.bundleStallRelease core) s (turnNext s core))

/-- R14, R15, R57: in a clk each register takes the first result in flight that names it once that result is due; the others
stay in flight, and the flags of those that land are set in their slots' bytes. A core whose clock stands lands nothing
(R340). R14, R19, Table 1-3, Table 3-1, Table 7-1: the register that an instruction of a fixed latency writes is empty from its
issue until the clk in which the result is due. P counts the slugs of the result without `.c`, of A, or the segments of A and the
mask; that an XMOV of a scalar into a run register takes 2 clk is R154 as log entry 47 reads it, and that VPUT counts the slugs it
makes is log entry 48. -/
def Obligations.ResultsLand : Prop :=
  (∀ (s : State) (f : Fields), guardOf f s = true → passes s.bun →
    let writes (i : Instr) (file : RFile) (n lat : Nat) : Prop :=
      ∃ t, exec i s = .next t ∧ (passes t.bun → arrives s t s.bun.hnd file n lat)
    let of_ (lat : Nat) (is : List (Fields → Instr)) : Prop := ∀ i ∈ is, writes (i f) f.slot.file f.d.toNat lat
    let named := fileOfCode f.slot.file f.sc
    let a := runA f s
    let ends (r : RunReg) : List Nat := (List.range r.runs).map fun k => ((r.slugs.take (k + 1)).map Prod.snd).sum
    let run (base div : Nat) (i : Fields → Instr) : Prop :=
      ∀ u, exec (i { f with v := false }) s = .next u → passes u.bun →
        ∃ r, settled u.bun.cur s.bun.hnd f.slot.file f.d.toNat = .run r
          ∧ writes (i f) f.slot.file f.d.toNat (base + (r.runs + div - 1) / div)
    of_ 1 [.add, .addImm, .sub, .subImm, .and, .andImm, .or, .orImm, .xor, .xorImm, .andn, .andnImm, .shl, .shlImm, .shr,
        .shrImm, .sar, .sarImm, .rol, .rolImm, .min, .minImm, .max, .maxImm, .minn, .minnImm, .maxn, .maxnImm, .add32,
        .add32Imm, .sub32, .sub32Imm, .sel, .clz, .ctz, .popc, .brev, .bswap, .sext, .sextImm, .zext, .zextImm, .bfx, .bfi,
        .lit, .lith, .aadd, .aaddImm, .amov, .mset, .amod, .elit]
      ∧ of_ 2 [.addmod, .submod, .fmin, .fminImm, .fmax, .fmaxImm, .fclass]
      ∧ of_ 3 [.mul, .mulImm, .mulh, .mulhImm, .mulhn, .mulhnImm, .madd]
      ∧ of_ 4 [.fadd, .faddImm, .fsub, .fsubImm, .fmul, .fmulImm, .ffma, .fcvti, .fcvtf]
      ∧ of_ 6 [.mulmod, .atom, .acas, .fxrd]
      ∧ of_ 20 [.div, .divImm, .divn, .divnImm, .rem, .remImm, .remn, .remnImm]
      ∧ (∀ i ∈ [Instr.call, .callx, .lidx, .ptox, .flagrd, .csrrd, .slotq, .tick], writes (i f) .x f.d.toNat 2)
      ∧ (∀ i ∈ [Instr.xmovScalar, .xmovXe], writes (i f) f.slot.file f.d.toNat
          (if isRunFile named then 2 + ((s.rdRun named f.a.toNat).runs + 15) / 16 else 2))
      ∧ writes (.ld f) named f.d.toNat 4
      ∧ ((f.v = false ∨ s.bun.cur.busy (mmTile f) = false) → writes (.mstat f) f.slot.file f.d.toNat 2)
      ∧ ((f.slot = .va ∨ f.slot = .vb) →
          (∀ i ∈ [Instr.vadd, .vaddImm, .vsub, .vsubImm, .vmul, .vmulImm, .vfma, .vmin, .vminImm, .vmax, .vmaxImm, .vabs,
              .vneg, .vand, .vandImm, .vor, .vorImm, .vxor, .vxorImm, .vshl, .vshlImm, .vshr, .vshrImm, .vsar, .vsarImm,
              .vcmpeq, .vcmpeqImm, .vcmpne, .vcmpneImm, .vcmplt, .vcmpltImm, .vcmple, .vcmpleImm, .vsel, .viota, .vcat, .vput,
              .vmodadd, .vmodsub, .vmodmul, .vbscale], run 2 16 i)
          ∧ (∀ i ∈ [Instr.vexp2, .vlog2, .vrcp, .vrsq, .vsqrt, .vtanh, .vsigm], run 6 16 i)
          ∧ (∀ i ∈ [Instr.vcvt, .vqnt], run 2 (if f.rm = 4 then 4 else 16) i)
          ∧ (∀ i ∈ [Instr.vcoal, .vslice, .vsetl], writes (i f) f.slot.file f.d.toNat (2 + (a.runs + 15) / 16))
          ∧ writes (.vsplat f) f.slot.file f.d.toNat 3
          ∧ (∀ i ∈ [Instr.vlen, .vruns, .vget], writes (i f) named f.d.toNat (2 + (a.runs + 15) / 16))
          ∧ (∀ i ∈ [Instr.vredsum, .vredmax, .vredmin, .vcount, .vfirst],
              (f.i16.getLsbD 15 = false → writes (i f) named f.d.toNat (2 + (a.runs + 15) / 16))
              ∧ (f.i16.getLsbD 15 = true → a.len = (runC f s).len → (∀ e ∈ a.slugs ++ (runC f s).slugs, 0 < e.2) →
                  writes (i f) named f.d.toNat (2 + ((ends a ++ ends (runC f s)).dedup.length + 15) / 16)))
          ∧ ((s.rdRun named f.a.toNat).runs ≤ 128 → writes (.xmovRun f) f.slot.file f.d.toNat
              (if isRunFile named then 2 + ((s.rdRun named f.a.toNat).runs + 15) / 16 else 2))
          ∧ (∀ u, exec (.vbfly { f with v := false }) s = .next u → passes u.bun → f.d.toNat + 1 < 32 →
              ∃ r, settled u.bun.cur s.bun.hnd f.slot.file f.d.toNat = .run r ∧
                ∀ n ∈ [f.d.toNat, f.d.toNat + 1], writes (.vbfly f) f.slot.file n (2 + (r.runs + 15) / 16)))
      ∧ (∀ i ∈ [Instr.ldv, .ldvp], isRunFile named = true → s.bun.coal = false → s.bun.since ≤ s.bun.cur.clk →
          ∃ t, exec (i f) s = .next t ∧ (passes t.bun → ∃ r, settled t.bun.cur s.bun.hnd named f.d.toNat = .run r
            ∧ (s.bun.cur.clk < s.bun.since + 4 + (r.runs + 15) / 16 →
                arrives s t s.bun.hnd named f.d.toNat (s.bun.since + 4 + (r.runs + 15) / 16 - s.bun.cur.clk)))))
  ∧ (∀ (core : Nat) (s : State), s.clockHeld core = true → happens (.resultLand core) s s) ∧
  ∀ (core : Nat) (s : State), core < 2048 → s.clockHeld core = false → (∀ a ∈ s.sys.asks, a.core = core → ∀ k x, a.what ≠ .kstat k x) →
    let c := s.coreOf core
    let clash (p q : Pend) : Prop := ∃ file n, q.dst = some (file, n) ∧ p.names q.hnd file n = true
    let lands (i : Nat) (p : Pend) : Prop := due c p ∧ ∀ j q, j < i → c.pend[j]? = some q → ¬clash q p
    ∃ d, happens (.resultLand core) s (s.setCore core d)
      ∧ d = { c with main := d.main, hnd := d.hnd, v := d.v, w := d.w, pend := d.pend, flags := d.flags,
                     firstev := d.firstev, firstpc := d.firstpc }
      ∧ bankFrame c.main d.main ∧ bankFrame c.hnd d.hnd
      ∧ (∀ i p, c.pend[i]? = some p → ¬lands i p → p ∈ d.pend) ∧ d.pend.Sublist c.pend
      ∧ (∀ p ∈ d.pend, ∃ i, c.pend[i]? = some p ∧ ¬lands i p)
      ∧ (∀ i p file n, c.pend[i]? = some p → lands i p → p.dst = some (file, n) → n < file.size → discards file n = false →
          ((∃ r, p.val = .run r) ↔ isRunFile file = true) → file ≠ .p → regVal d p.hnd file n = p.val)
      ∧ (∀ h file n, (∀ i p, c.pend[i]? = some p → lands i p → p.names h file n = false) →
          regVal d h file n = regVal c h file n)
      ∧ ∀ b, b < 64 → (d.flags.getLsbD b = true ↔ c.flags.getLsbD b = true
          ∨ ∃ i p, c.pend[i]? = some p ∧ lands i p ∧ b / 8 = p.slot.num ∧ p.flags.getLsbD (b % 8) = true)

/-- R22, R23, R69, R270: an empty bundle changes nothing; a miss fills the line of the header, unless an expander is refusing
the core (R218); a group is awake when its clk have passed; the generator appends one Philox block while four words are free.
R174: a handler run starts at the handler address of the message at MQHEAD, with a0 of the handler's bank at its header and
nothing on its way to it; the main sequencer's bank is unchanged. Beside a main bundle held at issue that is not yet done ahead of the run
(R236) it comes with the core's next turn; one that waits for the clk of a run operation or a transfer is at no boundary (the
event and the turn are the model's, log entry 24). The header's group is awake and its words are whole (R200, R201). -/
def Obligations.ClocksAndHandlerRuns : Prop :=
  (∀ (core g : Nat) (s : State), core < 2048 →
     let c := s.coreOf core
     let pc := c.main.pc
     let line := pc.toNat / 64 * 64
     happens .emptyBundle s s
       ∧ (∀ e bs, c.placed ≠ none → s.clockHeld core = false → c.refused = false → c.run = none → c.mainLive = true → c.lineWords pc = none → pc.toNat < 2 ^ 56 →
           s.tlbFind core c.ctx line = some e → e.x = true → s.gate c.ctx (e.phys line) = .go →
           s.homePaused (e.phys line) = false → c.refusing = none → s.dataRead (e.phys line) 64 0 false = .ok (bs, 0) →
           ∃ t, happens (.fetchMissFill core pc) s t ∧ t.sys = { s.sys with tlbs := t.sys.tlbs }
             ∧ (e ∈ c.tlb → t.sys = s.sys)
             ∧ (t.coreOf core).lineWords pc = some ((wordsOf bs).drop (pc.toNat % 64 / 4))
             ∧ ∃ tl ic, t = { s.setCore core { c with tlb := tl, icache := ic } with sys := t.sys })
       ∧ (∀ n, (g, n) ∈ c.waking → n ≤ c.clk →
           happens (.spGroupWakeDone core g) s (s.setCore core { c with waking := c.waking.filter fun w => w.1 ≠ g }))
       ∧ (c.placed ≠ none → s.clockHeld core = false → c.rng.words.length ≤ 60 → c.rng.ready ≤ c.clk →
           happens (.rngBlock core) s (s.setCore core { c with rng :=
             { c.rng with words := c.rng.words ++ philox c.rng.key.toNat c.rng.ctr, ctr := (c.rng.ctr + 1) % 2 ^ 128,
                          ready := c.clk + 1 } })))
  ∧ (∀ (core : Nat) (s : State),
       let c := s.coreOf core
       let off := c.mq.base + 64 * c.mq.head
       let handler := readN c.sp off 8 % 2 ^ 56
       let bytes := readN c.sp (off + 8) 8 % 2 ^ 10
       core < 2048 → s.clockHeld core = false → s.aborting core = false → c.placed ≠ none → c.quiet = false → c.run = none →
         c.hen = true → c.parked = false → c.stopped = none → c.mq.hasMessage = true → (c.owes = true → c.mainLive = false) →
         (∀ h ∈ s.held, h.core = core → h.hnd = false → h.hold.boundary = true) →
         ((∃ h ∈ s.held, h.core = core ∧ h.hnd = false ∧ ∀ x ∈ s.held, x.core = core → x.hnd = false → x.mem = none) →
           happens (.handlerRunStart core) s (turnNext s core))
         ∧ ((∀ h ∈ s.held, h.core = core → h.hnd = false → h.mem ≠ none) → (c.asleep off (off + 16)).2 = false →
             c.badWord off (off + 16) false = none →
         ∃ d, happens (.handlerRunStart core) s (s.setCore core d)
           ∧ d = { c with hnd := d.hnd, pend := d.pend, stale := d.stale, run := some ⟨c.mq.head, (bytes + 63) / 64 + 1, 0⟩ }
           ∧ d.isEmpty true .a 0 = false ∧ (∀ h file n, sameReg true .a 0 h file n = false → settled d h file n = settled c h file n)
           ∧ (∀ k, owedFlags d k = owedFlags c k) ∧ d.stale.Sublist c.stale
           ∧ d.hnd.pc = BitVec.ofNat 64 handler ∧ d.hnd.loops = [] ∧ d.hnd.preds = c.hnd.preds
           ∧ ∀ file n, regVal d true file n = if file = .a ∧ n = 0 then .word (BitVec.ofNat 64 off) else regVal c true file n))

/-- R64, Table 3-7, R182, R188, R327, R328: the answers of services (ECHO its operand, CLOCK the operating point that the bundle
took with it at issue, SYSC's statement), of a count of another member's deque and of RESUMEG
land in their registers. A SYSC NOTIFY gives the fault queue a record, which is written at TAIL with the next SEQ once its tick
has passed and the ring has room, and its reply lands after that. -/
def Obligations.Replies : Prop :=
  ∀ (core : Nat) (s : State), (s.coreOf core).recording = false →
    let sysc (p : Nat → Bool) (w : Ask) : Bool := match w with
      | .sysc n _ => p n
      | _ => false
    let lands (i : Instr) (p : Nat → Bool) (v : Word → Word) : Prop :=
      ∀ a n x, firstAsk s core (sysc p) a → a.what = .sysc n x → happens i s (answered s a (v x))
    let isCount (w : Ask) : Bool := match w with
      | .dqcnt _ => true
      | _ => false
    let isResume (w : Ask) : Bool := match w with
      | .resumeg _ => true
      | _ => false
    let ctx := (s.coreOf core).ctx
    let named (token : Nat) (g : Gang) : Prop := s.tokenGang ctx token = some g
    lands (.syscEcho core) (fun n => n == 0) (fun x => x)
      ∧ lands (.syscClock core) (fun n => n == 2) (fun x => x)
      ∧ lands (.syscOtherService core) (fun n => 2 < n) (fun _ => 0xFFFFFFFFFFFFFFFF#64)
      ∧ (∀ a m o, (∀ h ∈ s.held, h.core = core → ∀ k, h.hold = .steal k → h.answer = none) → firstAsk s core isCount a →
          a.what = .dqcnt m → s.memberCore core m = some o → s.pathOpen core o = true →
          happens (.dqstealAnswer core) s (answered s a (BitVec.ofNat 64 (s.coreOf o).deque.length)))
      ∧ (∀ a token, firstAsk s core isResume a → a.what = .resumeg token →
          (∀ g, named token g → g.parked = false → happens (.gangResume core) s (answered s a 1#64))
          ∧ (∀ g, named token g → g.parked = true → s.recordPending g.launch g.gidx = false →
              happens (.gangResume core) s ((answered s a 0#64).resume g))
          ∧ (s.tokenGang ctx token = none → (∀ g ∈ s.sys.saved, g.ctx = ctx → g.token ≠ token) →
              happens (.gangResume core) s (answered s a 2#64)))
      ∧ (∀ a x rest g l, s.sys.asks = a :: rest → a.core = core → a.what = .sysc 1 x → (∀ r ∈ rest, r.core ≠ core) →
          s.gangAt core = some g → s.launchOf g.launch = some l → s.sys.faults = [] →
          let bytes := s.faultBytes 2 0 0 g.token 0 0 0 (s.coreOf core).member l.ctx l.queue l.slot x
          happens (.syscNotify core) s { s with sys := { s.sys with
            asks := { a with what := .notified } :: rest,
            faults := [⟨l.ctx, bytes, none, some (core, a.id), 0, l.id, s.sys.tick.toNat, core, g.gidx⟩] } })
      ∧ (∀ r u, s.sys.faults = [r] → r.tick < s.sys.tick.toNat → (∀ l, s.launchOf r.launch = some l → l.aborting = false) →
          let c := s.context r.ctx
          let at_ := c.fqDva.toNat + 64 * c.fqTail
          ringFull c.fqLen c.fqHead c.fqTail = false → s.dvaPaused r.ctx at_ = false →
          s.gWrite .package r.ctx at_ (natToBytes 64 (r.bytes + c.fqSeq * 2 ^ 256)) accStore false false = (.ok (), u) →
          let t := s.flushFaults
          t.sys.faults = [] ∧ t.sys.mem = u.sys.mem ∧ t.cores = u.cores
            ∧ (t.context r.ctx).fqTail = ((u.context r.ctx).fqTail + 1) % (u.context r.ctx).fqLen
            ∧ (t.context r.ctx).fqSeq = (u.context r.ctx).fqSeq + 1)
      ∧ (∀ a, firstAsk s core (fun w => match w with
            | .sysc n _ => n == 1
            | .notified => true
            | _ => false) a → a.what = .notified → s.sys.asks.all (fun b => b.core != core || (match b.what with
              | .sysc n _ => n != 1
              | _ => true)) = true →
          (∀ r ∈ s.sys.faults, r.notify ≠ some (core, a.id)) → s.aborting core = false →
          happens (.syscNotify core) s (answered s a 0#64))

/-- R328: RESUMEG lets every member of the gang go on. R171, R179, R180: a barrier that every member has arrived at or
left releases, clearing ARR of the tag in each; a gang whose members have all halted with nothing left to do ends, and
its cores hold no gang; the scratchpad of a gang that SCRUB GANGSP has marked is zeroed (R375). That the registers and the other
scratchpads stand as they were, discarded only in that nothing reads them, is the model's reading of R171 (log entry 47). -/
def Obligations.GangEvents : Prop :=
  (∀ (s : State) (g : Gang), g ∈ s.sys.gangs →
     let t := s.resume g
     (∀ x ∈ t.sys.gangs, x.id = g.id → x.parked = false)
       ∧ (∀ k ∈ g.cores, (t.coreOf k).parked = false ∧ (t.coreOf k).hndParked = false ∧ (t.coreOf k).stopped ≠ some .parked
           ∧ (∀ m ∈ (t.coreOf k).cmds, m.parked = false) ∧ ∀ o ∈ (t.coreOf k).mats, o.cmd.parked = false)
       ∧ (∀ k, k ∉ g.cores → t.coreOf k = s.coreOf k) ∧ t.held = s.held ∧ t.sys.mem = s.sys.mem)
  ∧ (∀ (gang tag : Nat) (s : State) (g : Gang), s.gangOf gang = some g → g.cores.Nodup →
       ((tag < 8 ∧ (∀ k ∈ g.cores, (s.coreOf k).departed = true ∨ (s.coreOf k).arr.getLsbD tag = true)
           ∧ (∃ k ∈ g.cores, (s.coreOf k).arr.getLsbD tag = true) ∧ s.gangPaused g = false ∧ s.stoppedInWait g = false
           ∧ ∀ k ∈ g.cores, s.islandHeld k = false) →
           ∃ t, happens (.barrierRelease gang tag) s t
             ∧ (∀ k ∈ g.cores, t.coreOf k = { s.coreOf k with arr := (s.coreOf k).arr &&& ~~~(1#8 <<< tag) })
             ∧ (∀ k, k ∉ g.cores → t.coreOf k = s.coreOf k) ∧ t.sys = s.sys ∧ t.held = s.held
             ∧ (∀ k, .turn k ∈ t.agenda ↔ .turn k ∈ s.agenda ∨ (k ∈ g.cores ∧ ∃ h ∈ s.held, h.core = k
                 ∧ (h.hold = .bara tag ∨ h.hold = .barw tag ∨ h.hold = .bars tag))))
         ∧ (s.aborting (g.cores.headD 0) = false → (∀ k ∈ g.cores, s.memberDone k = true) →
             ∃ t, happens (.gangEnd gang) s t ∧ (∀ k ∈ g.cores, (t.coreOf k).placed = none
                 ∧ (t.coreOf k).sp = (if g.scrub then [] else (s.coreOf k).sp) ∧ (t.coreOf k).main = (s.coreOf k).main
                 ∧ (t.coreOf k).v = (s.coreOf k).v ∧ (t.coreOf k).w = (s.coreOf k).w)
               ∧ (∀ k, k ∉ g.cores → t.coreOf k = s.coreOf k) ∧ (∀ x ∈ t.sys.gangs, x.id ≠ g.id)
               ∧ (∀ l, s.launchOf g.launch = some l → t.launchOf g.launch = some { l with ended := l.ended + 1 })
               ∧ t.sys.mem = s.sys.mem))

/-- R181 to R183, R187, R189, R190: a steal that has reached a deque's port in an earlier clk takes its top entry, in order of
arrival and member; ENQ writes its record at TAIL and moves it, or is refused where the queue takes none. That the owner goes
before a steal that arrives in its own clk is R183, and that a steal arrives at a tick and a clk of the owner is the model's
(log entries 5 and 24); that an ENQ whose ring write faults answers as a refusal is the model's (log entry 25). -/
def Obligations.DequePortAndEnq : Prop :=
  ∀ (core : Nat) (s : State),
    let steals (q : DqReq) (h : Held) : Prop := h.core = q.asker ∧ h.hnd = q.hnd ∧ (∃ m, h.hold = .steal m) ∧ h.answer = none
    let c := s.coreOf core
    let there (q : DqReq) : Prop := q.owner = core
      ∧ (q.tick.toNat < s.sys.tick.toNat ∨ q.tick = s.sys.tick ∧ q.clk < c.clk) ∧ s.pathOpen q.asker core = true
    (∀ q, q ∈ s.sys.dqReqs → there q → s.islandHeld core = false →
        (∀ r ∈ s.sys.dqReqs, there r → r ≠ q → q.tick.toNat < r.tick.toNat
          ∨ q.tick = r.tick ∧ (q.clk < r.clk ∨ q.clk = r.clk ∧ q.member < r.member)) →
        ∃ t : State, happens (.dequePortRequest core) s t
          ∧ t = { s with held := t.held, sys := { s.sys with dqReqs := s.sys.dqReqs.erase q },
                         cores := mput s.cores core { c with deque := c.deque.drop 1 } }
          ∧ t.held.length = s.held.length
          ∧ ∀ (i : Nat) (h : Held), s.held[i]? = some h →
              (steals q h → t.held[i]? = some { h with answer := some (match c.deque with
                | v :: _ => (v, true)
                | [] => (0, false)) })
              ∧ (¬steals q h → t.held[i]? = some h))
      ∧ (∀ h k off pre post, s.held = pre ++ h :: post → h.core = core → h.answer = none → h.hold = .enq k off →
          (∀ x ∈ pre ++ post, x.core ≠ core) →
          let q := s.queueOf k
          let told (u : State) (ok : Bool) : State :=
            turnNext { u with held := pre ++ { h with answer := some (if ok then 1 else 0, ok) } :: post } core
          (q.takes = false → happens (.enqAnswer core) s (told s false))
          ∧ (q.takes = true → s.rangePaused q.ctx (q.ring.toNat + 128 * q.tail) 128 = false →
              let r := s.gWrite (.core core) q.ctx (q.ring.toNat + 128 * q.tail) (readBytes h.pre.sp off 128) accStore
                (!h.pre.modeS) false
              (∀ x u, r = (.error x, u) → happens (.enqAnswer core) s (told u false))
              ∧ ∀ u, r = (.ok (), u) → q.nrec ≠ 1 → ∃ t, happens (.enqAnswer core) s t
                  ∧ t = { told u true with sys := { u.sys with queues := t.sys.queues } }
                  ∧ (t.queueOf k).tail = (q.tail + 1) % q.nrec
                  ∧ (t.queueOf k).state = (if q.state = .idle then .ready else q.state)
                  ∧ ∀ j, j ≠ k → t.queueOf j = u.queueOf j))

/-! ### Messages, barriers and gangs -/

/-- R204, R264: the first entry on its way is accepted while its slots are free, and refused otherwise; either way an
acknowledgement with the free count goes back, and the sender's source range may be free (R251). A receiver that is refusing an
earlier entry of the sender refuses this one too, though it fits; one that no queue of its size can hold ends the sender's launch
with PROT. R204, R264: an accepted entry is written into its slots and TAIL passes
it; an acknowledgement sets CR to the free count less the slots still undecided or unsent; a refused entry goes again once CR
allows; a sender that waits may probe. That CR counts the entries not yet sent as well, and the probe, are the model's (log
entry 44). -/
def Obligations.Messages : Prop :=
  (∀ (src dst : Nat) (s : State) (e : Msg),
     s.sys.msgs.find? (fun x => x.src == src && x.dst == dst && !x.refused) = some e → (s.coreOf dst).placed ≠ none →
       s.pathOpen src dst = true → s.islandHeld dst = false → (s.coreOf dst).recording = false →
     let others (t : State) : Prop := ∀ j, j ≠ dst →
       t.coreOf j = { s.coreOf j with chase := (t.coreOf j).chase } ∧ (j ≠ src → t.coreOf j = s.coreOf j)
     let c := s.coreOf dst
     let k := (s.coreOf src).member
     let p := c.peer k
     let n := (e.payload.length + 63) / 64 + 1
     let free := c.mq.size - c.mq.used
     ((p.refusing = none ∨ p.refusing = some e.seq) → n ≤ free →
         ∃ t, happens (.mqEntryArrival src dst) s t
           ∧ (t.coreOf dst).mq = { c.mq with used := c.mq.used + n, arriving := c.mq.arriving ++
               [((c.mq.head + c.mq.used) % max 1 c.mq.size, entryImage e p.nextSeq, false)] }
           ∧ ((t.coreOf dst).peer k).nextSeq = (p.nextSeq + 1) % 2 ^ 32 ∧ ((t.coreOf dst).peer k).refusing = none
           ∧ t.sys = { s.sys with msgs := s.sys.msgs.erase e, acks := s.sys.acks ++
               [{ sender := src, member := c.member, seq := e.seq, accepted := true, free := free - n, slots := n }] }
           ∧ others t)
       ∧ (free < n ∨ (p.refusing ≠ none ∧ p.refusing ≠ some e.seq) →
           ∃ t, happens (.mqEntryArrival src dst) s
               (if n ≤ c.mq.size then t else t.fatal src kPROT 0 e.hdr (2 ^ 7) (BitVec.ofNat 64 n) 0)
             ∧ (t.coreOf dst).mq = c.mq ∧ t.sys.mem = s.sys.mem ∧ t.held = s.held ∧ t.sys.launches = s.sys.launches
             ∧ ((t.coreOf dst).peer k).refusing = some (p.refusing.getD e.seq)
             ∧ t.sys.acks = s.sys.acks ++
                 [{ sender := src, member := c.member, seq := e.seq, accepted := false, free := free, slots := n }]
             ∧ others t))
  ∧ (∀ (src dst k : Nat) (s : State), s.islandHeld src = false →
       let c := s.coreOf src
       let m := (s.coreOf dst).member
       (∀ slot bs rest, c.mq.arriving = (slot, bs, false) :: rest → (∀ e ∈ rest, e.2.2 = false) → Memory.wf c.sp = true →
           c.gated = 0#8 → c.waking = [] → slot + bs.length / 64 ≤ c.mq.size → bs.length % 64 = 0 →
           ∃ d, happens (.mqEntryWritten src 0) s (s.setCore src d)
             ∧ d = { c with sp := d.sp, spBad := d.spBad, mq := { c.mq with
                 tail := (c.mq.tail + bs.length / 64) % max 1 c.mq.size, arriving := rest } }
             ∧ ∀ a, readByte d.sp a = if c.mq.base + 64 * slot ≤ a ∧ a < c.mq.base + 64 * slot + bs.length
                 then bs.getD (a - (c.mq.base + 64 * slot)) 0 else readByte c.sp a)
         ∧ (∀ a, s.sys.acks.find? (fun x => x.sender == src && x.member == m) = some a → s.pathOpen src dst = true →
             let u := { s with sys := { s.sys with acks := s.sys.acks.erase a } }
             happens (.mqAckReceive src dst) s
               (u.onCore src fun c => c.setPeer m { c.peer m with credit := some (a.free - u.undecided src dst - c.unsent m) }))
         ∧ (∀ e, s.sys.msgs.find? (fun x => x.src == src && x.dst == dst && x.refused) = some e →
             entrySlots e.payload.length ≤ c.creditOf m → s.enginesHeld src = false →
             ∃ t, happens (.mqResend src dst) s t ∧ { e with refused := false } ∈ t.sys.msgs
               ∧ t.sys.msgs.length = s.sys.msgs.length ∧ (t.coreOf src).creditOf m = c.creditOf m - entrySlots e.payload.length
               ∧ t = { s with cores := t.cores, sys := { s.sys with msgs := t.sys.msgs } })
         ∧ (s.resending src dst = true → s.enginesHeld src = false → s.pathOpen src dst = true → c.placed ≠ none →
             (s.coreOf dst).placed = c.placed → (∀ a ∈ s.sys.acks, a.sender = src → a.member = m → a.probe = false) →
             happens (.mqProbe src dst) s { s with sys := { s.sys with acks := s.sys.acks ++
               [{ sender := src, member := m, seq := 0, accepted := false,
                  free := (s.coreOf dst).mq.size - (s.coreOf dst).mq.used, probe := true }] } })
         ∧ (k ≠ 0 → ∀ slot bs pre post, c.mq.arriving = pre ++ (slot, bs, false) :: post → pre.length = k →
             (∀ e ∈ pre, e.2.2 = false) → c.gated = 0#8 → c.waking = [] →
             ∃ d, happens (.mqEntryWritten src k) s (s.setCore src d) ∧ d.mq.tail = c.mq.tail
               ∧ d.mq.arriving = pre ++ (slot, bs, true) :: post))

/-! ### Queues, launches and gangs -/

/-- R189, R190, R193, R196, R327: a doorbell moves TAIL or stops the queue with error 5; a descriptor may be written while its
queue is DISABLED; enabling and disabling; aging; the driver's move of a fault ring's HEAD. That HEAD of a disabled queue meets TAIL is the
model's (log entry 48); that a fault ring's HEAD is taken modulo its length, and that a descriptor's fields are kept as written,
are the model's (log entry 34). -/
def Obligations.QueueTables : Prop :=
  ∀ (vf k n ctx : Nat) (value : Word) (d : BitVec 256) (s : State), s.queueAt vf k = some n →
    let q := s.queueOf n
    let t := value.toNat
    let added := (t + q.nrec - q.tail) % q.nrec
    let free := q.nrec - 1 - (q.tail + q.nrec - q.head) % q.nrec
    let live := s.running vf = true ∧ q.state ≠ .disabled ∧ q.state ≠ .error
    let becomes (i : Instr) (x : Queue) : Prop := happens i s (s.onQueue n fun _ => x)
    let f := d.toNat
    (live → t < q.nrec → t < 2 ^ 16 → added ≤ free →
        becomes (.doorbellWrite vf k 8 value)
          (if t = q.tail then q
           else if q.state = .idle then { q with tail := t, state := .ready, level := q.prio, span := 0 }
           else { q with tail := t }))
      ∧ (live → q.launch = none → (q.nrec ≤ t ∨ 2 ^ 16 ≤ t ∨ free < added) →
          ∃ u, happens (.doorbellWrite vf k 8 value) s u ∧ u = { s with sys := { s.sys with queues := u.sys.queues } }
            ∧ u.queueOf n = { q with wait := none, isDep := false, met := false, state := .error, err := 5 }
            ∧ ∀ j, j ≠ n → u.queueOf j = s.queueOf j)
      ∧ (q.state = .disabled →
          becomes (.queueDescriptorWrite vf k d)
            { q with ring := BitVec.ofNat 64 (f % 2 ^ 56), nrec := f / 2 ^ 64 % 2 ^ 17, prio := f / 2 ^ 88 % 8,
                     sok := f / 2 ^ 91 % 2 = 1, ctx := f / 2 ^ 96 % 2 ^ 8, level := f / 2 ^ 88 % 8 }
          ∧ becomes (.queueEnable vf k) { q with state := .idle, head := 0, tail := 0, err := 0, level := q.prio, span := 0 })
      ∧ (q.launch = none →
          ∃ u, happens (.queueDisable vf k) s u ∧ u = { s with sys := { s.sys with queues := u.sys.queues } }
            ∧ u.queueOf n = { q with wait := none, isDep := false, met := false, state := .disabled, err := 0, head := q.tail }
            ∧ ∀ j, j ≠ n → u.queueOf j = s.queueOf j)
      ∧ (∀ l, q.launch = some l → ∃ u, happens (.queueDisable vf k) s u ∧ (u.queueOf n).state = .disabled
          ∧ (u.queueOf n).launch = none ∧ u.sys.mem = s.sys.mem ∧ u.cores = s.cores
          ∧ ∀ x ∈ u.sys.launches, x.id = l → x.dropped = true)
      ∧ (256 ≤ q.span → (q.state = .ready ∨ q.state = .placing) →
          becomes (.queueAging n) { q with level := min 7 (q.level + 1), span := q.span - 256 })
      ∧ ((s.context ctx).vf = some vf → s.sys.faults = [] →
          happens (.faultQueueHeadWrite vf ctx value) s
            (s.onContext ctx fun c => { c with fqHead := value.toNat % max 1 c.fqLen }))

/-- R191 to R193: a record at HEAD of a READY queue that is served is checked in the order of R192; NOP retires, SIGNAL adds
to its object and retires, WAIT and a dependence make the queue WAITING, and a LAUNCH begins to place. That the record of a LAUNCH
whose dependence is met is read again, and which cluster's compositor adds, are the model's (log entry 48). -/
def Obligations.RecordsServed : Prop :=
  ∀ (n r : Nat) (sup : Bool) (s u : State),
    let q := s.queueOf n
    let at_ (lo w : Nat) : Nat := r / 2 ^ lo % 2 ^ w
    let obj := at_ 64 56
    let retired (x : State) : State := x.onQueue n fun q =>
      let h := (q.head + 1) % max 1 q.nrec
      { q with head := h, state := if h = q.tail then .idle else .ready, launch := none, wait := none, isDep := false,
               met := false, level := q.prio, span := 0 }
    let waiting (x : State) (obj target : Nat) (eq dep : Bool) : State := x.onQueue n fun q =>
      { q with state := .waiting, wait := some (BitVec.ofNat 64 obj, BitVec.ofNat 64 target, eq), isDep := dep, met := false }
    let good (typ : Nat) : Prop := recordError r q.sok sup = none ∧ at_ 0 8 = typ
    let c := u.queueOf n
    let wctx := q.ctx
    let ends (dep : Bool) (i : Instr) (t : State) : Prop :=
      q.state = .waiting → q.isDep = dep → q.met = true → q.wait ≠ none → happens i s t
    (s.served n = true →
      ends false (.waitRetire n) (retired s)
        ∧ ends true (.dependenceMet n) (s.onQueue n fun q => { q with state := .ready, wait := none, met := false }))
      ∧ (s.served n = true → q.state = .ready → s.dvaPaused wctx q.headAt = false → s.readRecord q = (.ok (r, sup), u) →
          (good 4 → happens (.nopRecord n) s (retired u))
          ∧ (∀ code, recordError r q.sok sup = some code → ∀ i ∈ [Instr.nopRecord n, .signalRecord n, .waitRecord n,
              .launchRecord n], ∃ t, happens i s t
                ∧ (c.state ≠ .disabled → (t.queueOf n).state = .error ∧ (t.queueOf n).err = code ∧ (t.queueOf n).head = c.head)
                ∧ t.cores = u.cores ∧ t.sys.mem = u.sys.mem)
          ∧ (good 3 → u.dvaPaused c.ctx obj = false → ∀ x,
              u.gAdd (compositor n) c.ctx obj (BitVec.ofNat 64 (at_ 128 64)) accStore false false = (.ok (), x) →
              happens (.signalRecord n) s (retired x))
          ∧ (good 2 → u.dvaPaused c.ctx obj = false → ∀ bs x, u.gRead none c.ctx obj 8 accLoad false = (.ok bs, x) →
              happens (.waitRecord n) s (waiting x obj (at_ 128 64) (at_ 16 1 = 1) false))
          ∧ (good 1 → c.launch = none → at_ 576 56 ≠ 0 → c.isDep = false → u.dvaPaused c.ctx (at_ 576 56) = false → ∀ bs x,
              u.gRead none c.ctx (at_ 576 56) 8 accLoad false = (.ok bs, x) →
              happens (.launchRecord n) s (waiting x (at_ 576 56) (at_ 640 64) false true))
          ∧ (good 1 → c.launch = none → (at_ 576 56 = 0 ∨ c.isDep = true) → at_ 288 32 ≠ 0 → at_ 192 56 = 0 →
              ∀ vf, (u.context c.ctx).vf = some vf →
              let l : Launch :=
                { id := u.sys.nextId, queue := n, slot := c.head, vf := vf, ctx := c.ctx, s := at_ 16 1 = 1, record := at_ 17 1 = 1,
                  code := BitVec.ofNat 64 (at_ 64 56), args := BitVec.ofNat 64 (at_ 128 56), formes := [],
                  gsize := at_ 256 12, tags := at_ 268 4, gcount := at_ 288 32, mqbase := at_ 320 21, mqsize := at_ 352 13,
                  trapvec := BitVec.ofNat 64 (at_ 384 56), done := BitVec.ofNat 64 (at_ 448 56),
                  inc := BitVec.ofNat 64 (at_ 512 64) }
              happens (.launchRecord n) s
                ({ u with sys := { u.sys with launches := u.sys.launches ++ [l], nextId := u.sys.nextId + 1 } }.onQueue n
                  fun x => { x with state := .placing, launch := some l.id, isDep := false })))

/-- R12, R168, R170, R194 to R196, R329: the first context in the order of the round that offers a launch whose next gang fits has
it placed, or has its launch end where its gangs can be held by no beds of the function; a placed gang's cores start at the record's code with registers, predicates, flags and
scratchpad as R12 gives them; a launch whose gangs have ended writes its status and counts; an aborted one gives up its
cores. -/
def Obligations.LaunchesAndGangs : Prop :=
  ∀ (vf launch : Nat) (s : State),
    let v := s.vf vf
    let all := s.ctxsOf vf
    let live := all.filter fun c => (s.queuesOf c).any fun e => e.2.eligible
    let u := s.grant all live (s.rounds live)
    let order := (roundOrder v.lastCtx live).filter fun c =>
      0 < (u.context c).balance && !(u.sys.saved.any fun g => g.ctx == c)
    let may := v.bind = .bound ∧ v.tdisp = .run ∧ (∃ b ∈ s.sys.bedNow, b.2 = vf) ∧ s.nextSaved vf = none
      ∧ live.any s.headsPaused = false
    let visit := order.findSome? (u.nextPlace vf)
    let gone (l : Launch) (x : State) : State :=
      { x with sys := { x.sys with launches := x.sys.launches.filter fun y => y.id ≠ l.id } }
    (∀ l cs, may → visit = some (l, some cs) → cs.Nodup →
        ∃ t, happens (.gangPlace vf) s t ∧ t.sys.mem = s.sys.mem ∧ (∀ k, k ∉ cs → t.coreOf k = s.coreOf k)
          ∧ (∃ g ∈ t.sys.gangs, g.cores = cs ∧ g.gidx = l.nextGang ∧ g.launch = l.id ∧ g.id = s.sys.nextId)
          ∧ (∀ x, s.launchOf l.id = some x → t.launchOf l.id = some { x with nextGang := x.nextGang + 1 })
          ∧ ∀ m k, cs[m]? = some k →
              let c := t.coreOf k
              c.main = { pc := l.code } ∧ c.hnd = {} ∧ c.modeS = l.s ∧ c.hen = false ∧ c.intrap = false ∧ c.flags = 0#64
                ∧ c.flagen = 0#64 ∧ c.argp = l.args ∧ c.trapvec = l.trapvec ∧ c.sp = [] ∧ c.deque = [] ∧ c.arr = 0#8
                ∧ c.gang = BitVec.ofNat 64 (m + l.gsize * 2 ^ 11 + l.tags * 2 ^ 23 + clusterCount cs * 2 ^ 27 + l.nextGang * 2 ^ 32)
                ∧ c.placed = some s.sys.nextId ∧ c.used = true ∧ c.departed = false ∧ (∀ i, c.modq.toList.getD i 3#64 = 3#64)
                ∧ ∀ i, i < 64 → c.formes.toList.getD i 0 = l.formes.getD i 0)
      ∧ (∀ l, may → visit = some (l, none) → ∃ t, happens (.gangPlace vf) s t ∧ t.cores = s.cores
          ∧ (∀ x ∈ t.sys.launches, x.id = l.id → x.status = 3 ∧ x.dropped = true) ∧ (t.queueOf l.queue).launch = none)
      ∧ (∀ l, s.launchOf launch = some l → l.aborting = false → (l.dropped = true ∨ l.nextGang = l.gcount) →
          l.ended = l.nextGang → (s.queueOf l.queue).launch ≠ some l.id →
          (l.done = 0#64 → happens (.launchComplete launch) s (gone l s))
          ∧ (l.done ≠ 0#64 → s.rangePaused l.ctx l.done.toNat 16 = false → ∀ x y,
              s.gWrite (compositor l.queue) l.ctx (l.done.toNat + 8) (natToBytes 8 l.status) accStore false false = (.ok (), x) →
              x.gAdd (compositor l.queue) l.ctx l.done.toNat l.inc accStore false false = (.ok (), y) →
              happens (.launchComplete launch) s (gone l y)))
      ∧ (∀ l f, s.launchOf launch = some l → l.fault = some f → l.aborting = true →
          let cores := (s.gangsOf launch).flatMap Gang.cores
          s.quietened cores = true → s.rangePaused l.ctx (s.context l.ctx).dumpDva.toNat (s.dumpSize l cores) = false →
          ∃ t, happens (.launchAbort launch) s t ∧ (∀ g ∈ t.sys.gangs, g.launch ≠ launch)
            ∧ (∀ k ∈ cores, (t.coreOf k).placed = none)
            ∧ ∃ x, t.launchOf launch = some x ∧ x.aborting = false ∧ x.dropped = true ∧ x.ended = l.nextGang
              ∧ x.status = if l.status = 0 then 1 + f.kind * 2 ^ 8 + f.gidx * 2 ^ 16 else l.status)

/-! ### Pre-emption -/

/-- R196, R334 to R338, R344, R366: the ladder's steps, each at a slot opening, the stop of a core, the save of a gang whose members
have all stopped, the zeroing of a core whose island is not held, and a stop for migration. Which beds are contested, which
gangs go out with them, and what a zeroed core holds beyond Table 20-4, are the model's (log entry 36). -/
def Obligations.Preemption : Prop :=
  ∀ (vf core gang ctx : Nat) (s : State),
    let v := s.vf vf
    let c := s.coreOf core
    let now := s.sys.tick.toNat / 3904
    let asked (gs : List Gang) (t : State) : Prop :=
      (∀ g ∈ gs, ∀ k ∈ g.cores, (t.coreOf k).stopReq = true) ∧ (∀ g ∈ gs, ∀ x ∈ t.sys.gangs, x.id = g.id → x.stopping = true)
        ∧ t.sys.mem = s.sys.mem
    let hard (t : State) : Prop := (t.vf vf).ladder = .hard ∧ (t.vf vf).ladderSince = now
    let opened (p : Nat) : Prop := s.sys.slotOpen ≠ none ∧ s.sys.tick.toNat % 3904 = 0 ∧ (slotOf now).isSome = true ∧ p ≤ now
    let ending := v.ladder = .run ∧ opened (v.sliceStart + v.sliceLen) ∧ ∃ b ∈ s.sys.bedNow, b.2 = vf
    (ending → s.contested vf = false → happens (.sliceEnd vf) s (s.onVf vf fun v => { v with sliceStart := now }))
      ∧ (ending → s.contested vf = true → v.g1 ≠ 0 →
          happens (.sliceEnd vf) s (s.onVf vf fun v => { v with ladder := .soft, ladderSince := now }))
      ∧ (ending → s.contested vf = true → v.g1 = 0 →
          ∃ t, happens (.sliceEnd vf) s t ∧ hard t ∧ asked (s.outgoing vf) t)
      ∧ (v.ladder = .soft → opened (v.ladderSince + v.g1) →
          ∃ t, happens (.ladderG1Expiry vf) s t ∧ hard t ∧ asked (s.outgoing vf) t)
      ∧ (v.ladder = .hard → opened (v.ladderSince + v.g2) →
          ∀ g ∈ s.stoppingOf vf, (∃ k ∈ g.cores, (s.coreOf k).quiet = false) →
          ∃ t, happens (.ladderG2Expiry vf) s t ∧ (t.vf vf).ladder = .kill ∧ t.cores = s.cores
            ∧ ∀ l ∈ t.sys.launches, l.id = g.launch → l.aborting = true ∧ l.dropped = true)
      ∧ (∀ w, (s.context ctx).vf = some w → ∃ t, happens (.migrationStop ctx) s t ∧ (t.context ctx).migrating = true
          ∧ t.sys.mem = s.sys.mem ∧ ∀ g ∈ s.sys.gangs, (∃ l, s.launchOf g.launch = some l ∧ l.ctx = ctx) →
              (∀ k ∈ g.cores, (t.coreOf k).stopReq = true)
              ∧ (if (s.vf w).ladder = .hard ∨ (s.vf w).ladder = .kill then
                  (t.vf w).ladder = (s.vf w).ladder ∧ (t.vf w).ladderSince = (s.vf w).ladderSince
                else (t.vf w).ladder = .hard ∧ (t.vf w).ladderSince = (s.sys.tick.toNat + 3903) / 3904
                  ∧ ∀ o ∈ s.outgoing w, ∀ k ∈ o.cores, (t.coreOf k).stopReq = true))
      ∧ (∀ g, s.gangAt core = some g → s.toSave g = true → s.atStop core = true → c.quiet = false → c.run = none → c.pend = [] →
          c.gacc = [] → c.mats = [] → s.commandsStand core = true → c.mq.arriving = [] → (∀ a ∈ s.sys.asks, a.core ≠ core) →
          happens (.coreStop core) s ({ s with held := s.held.filter fun h => h.core ≠ core }.setCore core
            { c with quiet := true, stopped :=
                if c.departed then c.stopped else some (c.stopped.getD .parked) }))
      ∧ (∀ g l area u, s.gangOf gang = some g → s.launchOf g.launch = some l → s.toSave g = true → l.aborting = false →
          (∀ k ∈ g.cores, (s.coreOf k).quiet = true ∧ (s.coreOf k).spBad = [] ∧ (s.coreOf k).soft = [] ∧ s.islandHeld k = false) →
          (∀ a ∈ s.sys.acks, a.sender ∉ g.cores) → (∀ q ∈ s.sys.dqReqs, q.owner ∉ g.cores ∧ q.asker ∉ g.cores) →
          s.areaFor l.ctx g.cores.length = some area →
          s.rangePaused l.ctx (s.recordAt l.ctx area) (recordBytes * g.cores.length) = false →
          s.putRecords l.ctx g.cores (s.recordAt l.ctx area) 0 = ((g.cores.length, none), u) →
          ∃ t, happens (.gangSave gang) s t ∧ (∀ x ∈ t.sys.gangs, x.id ≠ g.id) ∧ (∀ k ∈ g.cores, (t.coreOf k).placed = none)
            ∧ t.sys.mem = u.sys.mem ∧ t.sys.saved = u.sys.saved ++ [u.savedForm g l.ctx area])
      ∧ (core ∈ s.sys.zeroing → c.placed = none → s.islandHeld core = false →
          ∃ t, happens (.coreZeroingComplete core) s t
            ∧ t.coreOf core = { clk := c.clk, nextId := c.nextId, modq := Vector.replicate 8 0#64 }
            ∧ t.sys.zeroing = s.sys.zeroing.erase core ∧ t.sys.mem = s.sys.mem)

/-! ### Memory -/

/-- R211, R216, R218, R228, R364: a walk fills the tables of the cores that joined it, or gives its fault to the bundles that
wait for it; an expansion puts a page back in its storage; an expander refuses a core, takes its accesses after all, or has
refused them for 100 µs; a global access performs at its home; a background scrub. That a failed expansion leaves the name
compressed, and how the 100 µs are counted, are the model's (log entry 20), so is the access code of a walk's fault (log entry 25);
values taken before a load are the model's way to R229 (log entry 10). -/
def Obligations.MemoryEvents : Prop :=
  ∀ (cluster core k ctx page : Nat) (s : State), page < 2 ^ 44 →
    let c := s.coreOf core
    let ws := s.walksOf cluster
    let walk (w : Walk) : Prop := (ws.take 64).find? (fun w => w.ctx == ctx && w.page == page) = some w
      ∧ s.walkPaused ctx (page * 4096) = false ∧ s.tableTouch ctx (page * 4096) = none
      ∧ ((∀ x ∈ s.cores, w.joined x.1 = true → x.2.refusing = none) ∨ ∀ a ∈ s.tableEntries ctx (page * 4096), s.inCxl a = false)
    let i := Instr.walkComplete cluster ctx (BitVec.ofNat 64 page)
    (∀ w e, walk w → s.walkPage ctx (page * 4096) = .ok e → (∀ x, w.joined x = true → s.islandHeld x = false) →
        ∃ t, happens i s t ∧ t.held = s.held ∧ t.sys.mem = s.sys.mem
          ∧ (∀ x ∈ w.cores, e ∈ (t.coreOf x).tlb ∧ .turn x ∈ t.agenda ∧ e ∈ t.sharedTlb (x / 256))
          ∧ (∀ x ∈ w.cmds, e ∈ (t.coreOf x.1).tlb ∧ e ∈ t.sharedTlb (x.1 / 256))
          ∧ ∀ x ∈ w.fetches, e ∈ (t.coreOf x.1).tlb ∧ e ∈ t.sharedTlb (x.1 / 256))
      ∧ (∀ w x, walk w → s.walkPage ctx (page * 4096) = .error x → w.fetches = [] →
          let u := w.cmds.foldl (fun u m => u.cmdFault m.1 m.2.1 x (if x = 0x10 then m.2.2.1 else 4) (BitVec.ofNat 64 m.2.2.2))
            { s with held := s.held.map (Held.walkFails w x), sys := { s.sys with walks := s.sys.walks.erase w } }
          happens i s { u with agenda := w.cores.map .turn ++ u.agenda })
      ∧ (∀ e, s.sys.expansions.find? (fun e => e.frame == k) = some e → s.homePaused (k * 65536) = false →
          let bad := if s.frameTreeBad e.into then some kINTEG else s.packFault k e.subst
          (bad = none → (∀ l ∈ (s.frame k).packLines k, s.lineLost l = false) → Memory.wf s.sys.mem = true →
            ∃ t, happens (.expansionComplete k) s t ∧ (t.frame k).comp = 0
              ∧ ∀ o, o < 65536 → t.physByte (k * 65536 + o) = readByte (s.frame k).packed o)
          ∧ (∀ x, bad = some x →
              ∃ t, happens (.expansionComplete k) s t ∧ (t.frame k).comp = 1 ∧ (t.frame e.into).stfree = true
                ∧ t.sys.mem = s.sys.mem))
      ∧ (core < 2048 → c.placed ≠ none → s.sys.slotOpen = none →
          (c.refusing = none → happens (.cxlbusyTimeout core) s (s.setCore core { c with refusing := some s.sys.tick.toNat }))
          ∧ ∀ n, c.refusing = some n →
            (s.sys.tick.toNat < n + 100000 →
                happens (.cxlbusyTimeout core) s (turnNext (s.setCore core { c with refusing := none }) core))
            ∧ (n + 100000 ≤ s.sys.tick.toNat → ∃ t, happens (.cxlbusyTimeout core) s t ∧ (t.coreOf core).refused = true
                ∧ (t.coreOf core).refusing = none ∧ .turn core ∈ t.agenda
                ∧ (s.sys.walks.Nodup → ∀ w ∈ t.sys.walks, ¬(w.joined core = true ∧ s.walksCxl w = true))
                ∧ (c.cmds = [] → (∀ w ∈ s.sys.walks, ¬(w.joined core = true ∧ s.walksCxl w = true)) →
                    t = turnNext (s.setCore core { c with refusing := none, refused := true }) core)))
      ∧ (∀ g old, c.gacc.find? (fun g => g.id == k) = some g → s.mayPerform core c g = true → c.recording = false →
          s.homeRead g = .ok (old, 0) →
          let own (i : Nat) : Option GAcc :=
            ((c.gacc.takeWhile fun h => h.id ≠ k).filter fun h => h.pa ≤ g.pa + i ∧ g.pa + i < h.pa + h.bytes).getLast?
          let byte (i : Nat) : Byte := match own i with
            | none => BitVec.ofNat 8 (old / 2 ^ (8 * i))
            | some h => BitVec.ofNat 8 (h.c.toNat / 2 ^ (8 * (g.pa + i - h.pa)))
          let seen := if g.opc = 0x03 then bytesToNat ((List.range g.bytes).map byte) else old
          let r := g.effect seen
          let keeps (d x : Core) : Prop := x = { d with stale := x.stale }
          ∃ t, happens (.globalAccessPerform core k) s t
            ∧ keeps (match r.val with
              | some v => (c.dropAcc k).reply k 1 (.word v) r.flags
              | none => c.dropAcc k) (t.coreOf core)
            ∧ t.sys = (match r.write with
              | some v => ((s.dirty g.ctx g.ea.toNat).physWrite g.pa (natToBytes g.bytes v)).sys
              | none => s.sys)
            ∧ (∀ j, j ≠ core → keeps (s.coreOf j) (t.coreOf j))
            ∧ (g.acq = true → g.scope = 4 → ∀ v ∈ (t.coreOf core).stale, v.writers = [])
            ∧ (g.opc = 0x03 → r.val = some (tExtend g.f.t.toNat seen) ∧ r.write = none)
            ∧ (g.opc = 0x04 → r.val = none ∧ r.write = some g.c.toNat))
      ∧ (∀ g x, c.gacc.find? (fun g => g.id == k) = some g → s.mayPerform core c g = true → c.recording = false →
          s.homeRead g = .error x →
          happens (.globalAccessPerform core k) s
            ((s.setCore core (c.dropAcc k)).fatal core x 0 g.hdr (2 ^ g.slot.num) g.ea 0))
      ∧ (inMap (k * 65536) = true → s.homePaused (k * 65536) = false → (s.sys.zl.map Prod.fst).Nodup →
          ((s.frame k).scrub = true → ∃ t, happens (.backgroundScrubComplete k) s t ∧ (t.frame k).scrub = false
              ∧ (∀ x, x / 65536 = k → t.zlBit x = false)
              ∧ (∀ g, g / 16 = k → (t.ctr g).major = (s.ctr g).major + 1 ∧ (t.ctr g).minors = []) ∧ t.cores = s.cores)
          ∧ ((s.frame k).scrub = false → s.sys.boot.linked = true → k ∉ s.sys.clean →
              happens (.backgroundScrubComplete k) s { s with sys := { s.sys with clean := k :: s.sys.clean } }))

/-! ### Engines -/

/-- R249, R258, R260, R261, R263, R265, R269, R303: chunks start and complete, galley rows land, and a command that has fully
performed adds its increment to its object and leaves its queue. A collective's entry starts and ends in two events, the
arbiter's choice and an entry that waits at the gate going first are the model's (log entries 31 and 32); a step between packages is an
entry at both ends (R386). -/
def Obligations.EngineEvents : Prop :=
  ∀ (core cmd cluster : Nat) (s : State) (m : Cmd), (s.coreOf core).cmdOf cmd = some m →
    let c := s.coreOf core
    let starts := s.chunkReady core m = true ∧ (c.rouseAll (c.touches m)).1 = true
      ∧ s.cmdMiss core c.ctx cmd accERead m.chunkReads = none ∧ c.refusing = none
    let w := ringRow m.gal.ring
    let slot := ringBase m.gal.ring + m.gal.slot (m.gal.head + m.progress) * w
    let leaves (i : Instr) (d : Word) (inc : Nat) : Prop :=
      ∀ u, s.objMiss core m d = none → s.countObj core c.ctx m.user d inc = (.done, u) → s.rankAt core m.id = none →
        u.rankAt core m.id = none → happens i s (u.onCore core fun c => (c.unbind m).dropCmd m.id)
    (∀ m' u, starts → m.eng = .copy → s.readChunk core m = (.ok m', u) → m'.eng = .copy → (m.opc ≠ 0x10 ∨ eaSpace m'.eb ≠ 2) →
        m'.opc = m.opc →
        let x := { m' with prio := 0 }
        let v := u.onCore core fun c => c.setCmd { x with started := true }
        happens (.chunkStart core cmd) s (if v.sourceDone core x then v.onCore core fun c => c.freeRanges m'.id false else v))
      ∧ (∀ m' u, starts → m.eng = .galley → s.readChunk core m = (.ok m', u) → m'.eng = .galley →
          happens (.chunkStart core cmd) s (u.onCore core fun c => c.setCmd { m' with prio := 0, started := true }))
      ∧ (∀ d, starts → m.eng = .message → s.memberCore core (m.ea.toNat % 2 ^ 11) = some d → c.spError (eaAddr m.ec)
          (eaAddr m.ec + m.f.i16.toNat % 1024) = false → eaAddr m.ec + m.f.i16.toNat % 1024 ≤ 2 ^ 21 →
          ∃ t, happens (.chunkStart core cmd) s t ∧ t.sys = { s.sys with msgs := s.sys.msgs ++
            [{ src := core, dst := d, handler := m.handler, kind := 0,
               payload := readBytes c.sp (eaAddr m.ec) (m.f.i16.toNat % 1024),
               seq := (c.peer (m.ea.toNat % 2 ^ 11)).sent, cmd := m.id, hdr := m.hdr }] })
      ∧ (∀ bs u, m.chunk = some bs → m.eng = .copy → m.opc = 0x10 → m.parked = false → s.enginesHeld core = false →
          eaSpace m.eb ≠ 2 → m.toPacked = false → m.copyReading = false → c.refusing = none →
          s.cmdMiss core c.ctx cmd accEWrite m.chunkWrites = none →
          s.scatter core c.ctx m.user (eaSpace m.eb) m.pieces.1
            (m.targets m.nextSpan.1 m.nextSpan.2) bs = (.ok (), u) →
          happens (.chunkComplete core cmd) s (u.onCore core fun c => c.afterChunk m))
      ∧ (∀ bs, m.chunk = some bs → m.eng = .galley → m.parked = false → s.enginesHeld core = false → bs.length ≤ w →
          Memory.wf c.sp = true →
          ∃ d, happens (.galleyRowLand core cmd) s (s.setCore core d)
            ∧ (∀ x, readByte d.sp x = if slot ≤ x ∧ x < slot + w then bs.getD (x - slot) 0 else readByte c.sp x)
            ∧ d.cmdOf cmd = some { m with chunk := none, progress := m.progress + 1 }
            ∧ d = { c with sp := d.sp, spBad := d.spBad, chase := d.chase, cmds := d.cmds })
      ∧ (s.enginesHeld core = false → s.aborting core = false → m.parked = false →
          (s.performed core m = true → leaves (.commandComplete core cmd) m.object (compInc m.object))
          ∧ (m.opc = 0x16 → m.eng = .coll → s.objWaits core cmd = false → (∀ g ∈ c.gacc, cmd < g.id) →
              leaves (.objaddPerform core cmd) m.ea m.eb.toNat))
      ∧ (∀ r qs, s.busyRank cluster = none → s.firstRank cluster = none → s.arbitrate cluster = some (r, qs) → r.core = core →
          r.cmd = cmd → r.steps = false → s.disagree r = false →
          let v := { s with sys := { s.sys with collQueues := qs } }
          (v.admits (v.entryReach r m) r.entry.2.1 = true →
            (eaSpace m.eb ≠ 0 ∨ (c.rouse (eaAddr m.eb + r.entry.1) (eaAddr m.eb + r.entry.1 + r.entry.2.1)).1 = true) →
            happens (.collEntry cluster) s (v.setRank { r with busy := true, first := false }))
          ∧ (v.admits (v.entryReach r m) r.entry.2.1 = false → r.first = false →
            happens (.collEntry cluster) s (v.setRank { r with first := true })))
      ∧ (∀ r u, s.busyRank cluster = some r → r.core = core → r.cmd = cmd → r.steps = false → s.enginesHeld core = false → c.refusing = none →
          let lo := eaAddr m.eb + r.entry.1
          let d := { r with busy := false }
          let v := s.setRank d
          (eaSpace m.eb = 1 → s.rangePaused r.ctx lo r.entry.2.1 = false
            ∧ s.cmdMiss core r.ctx cmd accEWrite (pagesOf lo r.entry.2.1) = none) →
          v.engWrite core r.ctx m.user (eaSpace m.eb) lo (d.entryBytes (collRanks v.sys.colls d)).1 = (.ok (), u) →
          ∃ t, happens (.collEntry cluster) s t ∧ t.sys.mem = u.sys.mem ∧ (t.coreOf core).sp = (u.coreOf core).sp
            ∧ ∀ x ∈ t.sys.colls, x.core = core → x.cmd = cmd → x.peer = false → x.written = r.written + r.entry.2.2.2)
      ∧ (∀ r qs, s.busyRank cluster = none → s.firstRank cluster = none → s.arbitrate cluster = some (r, qs) → r.steps = true →
          let v := { s with sys := { s.sys with collQueues := qs } }
          happens (.collEntry cluster) s
            (if v.admits { peer := true } r.size = true then v.setRank { r with busy := true, first := false }
             else if r.first then s else v.setRank { r with first := true }))
      ∧ (∀ r, s.busyRank cluster = some r → s.sys.slotOpen ≠ some 2 →
          (r.peer = true → happens (.collEntry cluster) s (s.setRank
            { r with busy := false, inbox := r.inbox.drop 1, got := r.got ++ r.inbox.headD [],
                     image := rawElems r.forme.fmt r.count (r.got ++ r.inbox.headD []) }))
          ∧ (r.peer = false → s.enginesHeld r.core = false → ∀ p rest e, r.far = p :: rest →
              s.sessionWith (s.rankVf r) p.1 = some e →
              let n := r.sent + r.part.length
              happens (.collEntry cluster) s
                ((s.fabSend e.num (16 * r.cluster)
                  (bodyBytes (.collect p.2 r.handle r.seq r.rank r.kind r.op r.forme.fmt r.count r.part))).setRank
                  { r with busy := false, far := if r.bytes ≤ n then rest else r.far, sent := if r.bytes ≤ n then 0 else n })))

/-- R116, R282 to R293: the matrix engine starts operations in order, and each takes effect on planes and tiles as it
finishes, its flags landing in XE's byte. That operands are read, and their ranges freed, at the start and results are written at
the finish is the model's (log entry 30), so is RG of an operation that moves nothing (log entry 48). -/
def Obligations.MatrixEngine : Prop :=
  ∀ (core cmd : Nat) (s : State) (o : MatOp), s.enginesHeld core = false →
    let c := s.coreOf core
    let before := c.mats.takeWhile fun x => x.cmd.id ≠ o.cmd.id
    let starts := c.mats.find? (fun o => !o.started) = some o ∧ o.cmd.parked = false ∧ startsAfter c.clk before o = true
      ∧ c.engineWaits o.cmd.id = false ∧ s.forked c o.cmd.id = true ∧ (c.rouseAll (o.reads c)).1 = true
      ∧ c.softRead (o.reads c) = none
    let finishes := c.mats.find? (fun o => o.cmd.id == cmd) = some o ∧ o.started = true ∧ o.cmd.parked = false ∧ o.due c ≤ c.clk
      ∧ (∀ p ∈ before, ∀ t ∈ p.tiles, t ∉ o.tiles) ∧ (c.rouseAll (o.writes c)).1 = true ∧ c.softMerge (o.writes c) = none
    let done := (c.effect o).1.landFlags o.cmd (c.effect o).2
    (starts → o.cmd.opc ≠ 0x02 →
        happens (.matrixOpStart core) s
          (s.setCore core ((c.setMat { c.readMat o with started := true, begun := c.clk }).freeRanges o.cmd.id false)))
      ∧ (starts → o.cmd.opc = 0x02 →
          ∃ d, happens (.matrixOpStart core) s (s.setCore core d) ∧ d.active = c.shadow ∧ d.shadow = c.active
            ∧ d.tiles = c.tiles ∧ ∀ x ∈ d.mats, x.cmd.id ≠ o.cmd.id)
      ∧ (finishes → o.cmd.opc = 0x06 →
          ∃ d, happens (.matrixOpFinish core cmd) s (s.setCore core d) ∧ (∀ t ∈ o.tiles, t < 8 → d.tiles.toList.getD t {} = {})
            ∧ (∀ t, t ∉ o.tiles → d.tiles.toList.getD t {} = c.tiles.toList.getD t {})
            ∧ d.active = c.active ∧ d.shadow = c.shadow ∧ d.sp = c.sp)
      ∧ (finishes → (o.cmd.opc = 0x01 ∨ o.cmd.opc = 0x03 ∨ o.cmd.opc = 0x04 ∨ o.cmd.opc = 0x05) →
          s.objMiss core o.cmd o.cmd.ec = none → ∀ t,
          (s.setCore core done).countObj core c.ctx o.cmd.user o.cmd.ec (compInc o.cmd.ec) = (.done, t) →
          happens (.matrixOpFinish core cmd) s (t.onCore core fun c => c.dropMat o))
/-! ### The calendar -/

/-- R298, R305, R307, R308, Table 16-1: the slots of the calendar; one opens and closes with them, once the timebase is
synchronised; islands take their operating points, under the module's power cap; overruns that repeat raise a machine check; a
trip stops its island. That islands go to 1.0 GHz where the points chosen would pass the cap is the model's (log entry 38). -/
def Obligations.Calendar : Prop :=
  (∀ p r, r < 3904 → 6 < p % 65536 →
      (p % 64 ≠ 0 → slotAt (3904 * p + r) = if r < 352 then some (0, 352 - r) else none)
        ∧ (p % 64 = 0 → slotAt (3904 * p + r) = if r < 1408 then some (1, 1408 - r) else none))
    ∧ (∀ p r, p % 65536 = 0 → r < 24576 → slotAt (3904 * p + r) = some (2, 24576 - r))
    ∧ (∀ p r, p % 65536 = 0 → 24576 ≤ r → r < 27328 → slotAt (3904 * p + r) = none)
    ∧ ∀ (s : State) (island res : Nat) (value : Word),
      let isl (t : State) (i : Nat) : Island := t.sys.islands.toList.getD i {}
      let fits := Config.modulePower (s.sys.islands.toList.map Island.after) ≤ s.sys.powerCap
      let chosen (x : Island) : Nat := if fits then x.next.getD x.point else 10
      (∀ cls left, slotAt s.sys.tick.toNat = some (cls, left) → s.sys.boot.timed = true → s.sys.slotOpen = none →
          ∃ t, happens .slotOpen s t ∧ t.sys.slotOpen = some cls ∧ t.sys.mem = s.sys.mem ∧ t.sys.tick = s.sys.tick
            ∧ (cls ≠ 1 → t.sys.islands = s.sys.islands)
            ∧ (∀ i, i < 16 → cls = 1 → (isl s i).tripped = false →
                let p := chosen (isl s i)
                isl t i = { isl s i with point := p, next := none,
                                         held := decide ((isl s i).next ≠ none ∨ p ≠ (isl s i).point) })
            ∧ (∀ i, i < 16 → cls = 1 → (isl s i).tripped = true → (isl s i).cooled = false → isl t i = isl s i)
            ∧ (∀ i, i < 16 → cls = 1 → (isl s i).tripped = true → (isl s i).cooled = true →
                isl t i = { isl s i with tripped := false, point := 10 })
            ∧ (∀ i, i < 4 → t.sys.cxl.toList.getD i .down =
                (if cls = 2 ∧ s.sys.cxl.toList.getD i .down = .error then .training else s.sys.cxl.toList.getD i .down)))
        ∧ (∀ cls, s.sys.slotOpen = some cls → (∀ e ∈ s.sys.contexts, e.2.dlOwed = []) → (∀ left, slotAt s.sys.tick.toNat ≠ some (cls, left)) →
            ∃ t : State, happens .slotClose s t ∧ t.sys.slotOpen = none ∧ (∀ i, i < 16 → isl t i = { isl s i with held := false })
              ∧ (∀ (i : Nat) (e : Nat × Mrovr), s.sys.mrovr[i]? = some e → t.sys.mrovr[i]? = some (e.1,
                  if e.2.hit = false then { e.2 with streak := 0 }
                  else if e.2.streak = 3 then { e.2 with streak := 0, mce := true, hit := false }
                  else { e.2 with streak := e.2.streak + 1, hit := false }))
              ∧ t = { s with sys := { s.sys with slotOpen := none, islands := t.sys.islands, mrovr := t.sys.mrovr,
                                                 mces := t.sys.mces } })
        ∧ (island < 16 → ∃ t, happens (.thermalTrip island) s t
            ∧ isl t island = { isl s island with tripped := true, cooled := false } ∧ (∀ i, i ≠ island → isl t i = isl s i)
            ∧ t = { s with sys := { s.sys with islands := t.sys.islands, mces := (176 + island) :: s.sys.mces } })
        ∧ (∃ t : State, happens (.mrovrMceClear res value) s t ∧ t = { s with sys := { s.sys with mrovr := t.sys.mrovr } }
            ∧ ∀ (i : Nat) (e : Nat × Mrovr), s.sys.mrovr[i]? = some e → t.sys.mrovr[i]? = some (e.1,
                { e.2 with mce := e.2.mce && !(decide (e.1 = res) && value.getLsbD 35) }))

/-! ### Debugger -/

/-- R339, R340, Table 20-9: the operations of a core's debug mailbox, for a core that runs a launch of the function: ADDR and
DATA are as they were last written, and READ and WRITE wait while an open slot pauses the memory they reach (R300). An operation
that does not suit STATE answers RESULT 0xFF and changes nothing else; a core that runs no launch of the function does not answer.
A HALT takes effect at the core's bundle boundary, which is there at once where no bundle of it is held but in a wait. Which
operations suit which STATE, and that a core with a stop request pending halts only after it, are the model's (log entry 43). -/
def Obligations.DebugMailbox : Prop :=
  ∀ (vf core : Nat) (operand addr data : Word) (s : State),
    let c := s.coreOf core
    let d := c.dbg
    let noted (op : Nat) (x : Word) (r : Nat) (m : Mailbox) : Mailbox :=
      { m with cmd := BitVec.ofNat 64 (op + x.toNat % 2 ^ 56 * 2 ^ 8), result := r }
    let box (m : Mailbox) : State := s.setCore core { c with dbg := m }
    let a := { d with addr := addr }
    let n := operand.toNat % 2 ^ 16
    let edge (k : Nat) : Prop := (∀ h ∈ s.held, h.core = k → h.hold.boundary = true) ∧ (s.coreOf k).stopReq = false
    (s.inWindow vf core = false →
        ∀ i ∈ [Instr.dbgArm vf core, .dbgDisarm vf core, .dbgHalt vf core operand, .dbgBreak vf core addr data,
          .dbgStep vf core operand, .dbgRun vf core, .dbgRead vf core addr, .dbgWrite vf core addr], happens i s s)
      ∧ ∀ g l, s.gangAt core = some g → s.launchOf g.launch = some l → l.vf = vf → s.running vf = true → core < 2048 →
        (d.state ≠ 2 → happens (.dbgArm vf core) s (box { noted 1 0 0 d with state := 1 }))
        ∧ (d.state = 2 → happens (.dbgArm vf core) s (box (noted 1 0 0xFF d)))
        ∧ happens (.dbgDisarm vf core) s
            (box { noted 2 0 0 d with state := 0, breaks := [0, 0, 0, 0], step := none, skip := false,
                                                halting := false })
        ∧ (d.state = 1 → operand.getLsbD 0 = false → edge core →
            happens (.dbgHalt vf core operand) s
              (box { noted 3 operand 0 d with state := 2, code := 0, step := none, halting := false }))
        ∧ (d.state = 1 → operand.getLsbD 0 = false → ¬edge core →
            happens (.dbgHalt vf core operand) s (box { noted 3 operand 0 d with halting := true }))
        ∧ (d.state = 1 → operand.getLsbD 0 = true → (∀ k ∈ g.cores, k < 2048) → ∃ t, happens (.dbgHalt vf core operand) s t
            ∧ (∀ k ∈ g.cores, if edge k then (t.coreOf k).dbg.state = 2 else (t.coreOf k).dbg.halting = true) ∧ ∀ k, k ∉ g.cores → k ≠ core → t.coreOf k = s.coreOf k)
        ∧ (d.state ≠ 1 → happens (.dbgHalt vf core operand) s (box (noted 3 operand 0xFF d)))
        ∧ (d.state ≠ 0 → happens (.dbgBreak vf core addr data) s
            (box { noted 4 0 0 { a with data := data } with breaks := d.breaks.set (addr.toNat % 4) data }))
        ∧ (d.state = 0 → happens (.dbgBreak vf core addr data) s (box (noted 4 0 0xFF { a with data := data })))
        ∧ (d.state = 2 → happens (.dbgStep vf core operand) s (box
            (if n = 0 then noted 5 operand 0 d
             else { noted 5 operand 0 d with state := 1, step := some (n, c.clk), skip := true })))
        ∧ (d.state ≠ 2 → happens (.dbgStep vf core operand) s (box (noted 5 operand 0xFF d)))
        ∧ (d.state = 2 → happens (.dbgRun vf core) s (box { noted 6 0 0 d with state := 1, step := none, skip := true }))
        ∧ (d.state ≠ 2 → happens (.dbgRun vf core) s (box (noted 6 0 0xFF d)))
        ∧ (d.state ≠ 0 →
            let v := box (noted 7 0 0 a)
            let paused := s.rangePaused c.ctx addr.toNat (recordBytes + c.pendingList.length)
            (paused = true → happens (.dbgRead vf core addr) s (box a))
            ∧ (paused = false → ∀ u,
              v.gWrite .package c.ctx addr.toNat (imageBytes (v.coreImage core) ++ c.pendingList) accStore false false = (.ok (), u) →
              happens (.dbgRead vf core addr) s u))
        ∧ (d.state = 0 → happens (.dbgRead vf core addr) s (box (noted 7 0 0xFF a)))
        ∧ (d.state = 2 →
            let paused := s.rangePaused c.ctx addr.toNat recordBytes
            (paused = true → happens (.dbgWrite vf core addr) s (box a))
            ∧ (paused = false → ∀ bs u,
              (box (noted 8 0 0 a)).gRead none c.ctx addr.toNat recordBytes accLoad false = (.ok bs, u) →
              happens (.dbgWrite vf core addr) s
                (u.onCore core fun c => (c.withRegs (writeBytes [] 0 bs)).withWords (writeBytes [] 0 bs))))
        ∧ (d.state ≠ 2 → happens (.dbgWrite vf core addr) s (box (noted 8 0 0xFF a)))
        ∧ ((∀ h ∈ s.held, h.core ≠ core) → d.state = 1 → d.skip = false → c.stopReq = false → ∀ b ∈ d.breaks, b ≠ 0#64 →
            b = (c.bank c.run.isSome).pc →
            happens (.dbgBreakpointHit core) s (box { d with state := 2, code := 0, step := none }))
        ∧ (∀ m t, d.step = some (m, t) → d.state = 1 → c.stopReq = false → t + 65536 ≤ c.clk →
            happens (.dbgStepTimeout core) s (box { d with state := 2, result := 2, step := none, skip := false }))

/-! ### The host -/

/-- R210, R341, R343, R387: the driver's writes of the context table, the aperture, the host's accesses through it, and the
frame mailbox. What a write of the ESP field sets up is the model's (log entry 7), as is the fault log's HEAD modulo its length
(34), the replays that it drops (26), which bits of ARM and LOGOVF act and that an invalidation takes pages of 4 KiB (41), and that
the mailbox needs RUN, a quota, and a readable page to compress (40). -/
def Obligations.HostInterface : Prop :=
  ∀ (vf ctx off frame arg pages : Nat) (value : Word) (s : State),
    let mine := (s.context ctx).vf = some vf
    let on (i : Instr) (g : Context → Context) : Prop := mine → happens i s (s.onContext ctx g)
    let run := (s.vf vf).tdisp = .run
    let fr := s.frame frame
    let mailed (u : State) (op a st : Nat) : State :=
      let w := u.onVf vf fun v => { v with mbOp := op, mbF := frame, mbArg := a, mbStatus := st }
      { w with sys := { w.sys with reply := .status st } }
    let own := fr.owner = vf ∧ fr.valid = true ∧ fr.rsvd = false
    let ap := (s.vf vf).aperture.toNat
    let actx := ap % 2 ^ 8
    let dva := ap / 2 ^ 36 * 2 ^ 36 + off % 2 ^ 36
    let reply (u : State) (r : HostReply) : State := { u with sys := { u.sys with reply := r } }
    let open_ := run ∧ (s.vf vf).bind ≠ .quarantined ∧ (s.context actx).vf = some vf
    (mine → (s.inFlight ctx = false ∨ anytime off = true) → off ≠ 0x08 → off ≠ 0x40 → off ≠ 0xB8 → off ≠ 0xD0 →
        happens (.contextEntryWrite vf ctx off value) s (s.onContext ctx fun c => c.write off value))
      ∧ (mine → s.inFlight ctx = false → value.getLsbD 0 = true →
          happens (.contextEntryWrite vf ctx 0x08 value) s
            (s.onContext ctx fun c =>
            { c with enable := true, weight := value.toNat / 2 ^ 8 % 2 ^ 8, migrating := false }))
      ∧ (s.inFlight ctx = true → anytime off = false → happens (.contextEntryWrite vf ctx off value) s s)
      ∧ (mine → s.inFlight ctx = false → s.sys.esp = [] → value.toNat / 2 ^ 63 = 1 →
          ∃ t a, happens (.contextEntryWrite vf ctx 0xD0 value) s t ∧ t = { s with sys := { s.sys with
            contexts := t.sys.contexts, esp := [a] } } ∧ (∀ k, t.context k = s.context k) ∧ a.spi = value.toNat % 2 ^ 32
            ∧ a.ctx = ctx ∧ (a.egress = true ↔ value.getLsbD 32 = true) ∧ a.ring = (s.context ctx).espRing
            ∧ a.buffers = (s.context ctx).espBuffers)
      ∧ on (.logRingHeadWrite vf ctx value) (fun c =>
          let d := { c with logHead := value.toNat % max 1 c.logLen }
          { d with replayed := c.replayed.filter d.logSpan.contains })
      ∧ on (.dirtyLogHeadWrite vf ctx value) (fun c => { c with dlHead := value.toNat % 2 ^ 24 })
      ∧ (value.getLsbD 0 = true → on (.dirtyLogArmWrite vf ctx value) (fun c => { c with dlArm := true, dlMarks := [] }))
      ∧ (value.getLsbD 0 = false → on (.dirtyLogArmWrite vf ctx value) (fun c => { c with dlArm := false }))
      ∧ (value.getLsbD 0 = true → on (.logovfClear vf ctx value) (fun c => { c with dlOvf := false }))
      ∧ (mine → ∃ t, happens (.invalidationCommand vf ctx value pages) s t ∧ t.sys.mem = s.sys.mem
          ∧ (∀ k e, e ∈ (t.coreOf k).tlb → e.ctx = ctx →
              overlaps e.page (e.page + e.size) value.toNat (value.toNat + 4096 * (pages % 2 ^ 16)) = false)
          ∧ (∀ k e, e ∈ (t.coreOf k).tlb → e ∈ (s.coreOf k).tlb))
      ∧ (run → happens (.bar2ApertureWrite vf value) s
          (s.onVf vf fun v => { v with aperture := value &&& 0x00FFFFF0000000FF#64 }))
      ∧ (open_ → s.dvaPaused actx dva = false →
          (∀ n bs u, s.gRead none actx dva n accLoad true = (.ok bs, u) →
              happens (.hostBar2Access vf off (.read n)) s (reply u (.bytes bs)))
          ∧ (∀ bs u, s.gWrite .host actx dva bs accStore false false = (.ok (), u) →
              happens (.hostBar2Access vf off (.write bs)) s (reply u .none)))
      ∧ (¬open_ → ∀ n bs, happens (.hostBar2Access vf off (.read n)) s (reply s .unsupported)
          ∧ happens (.hostBar2Access vf off (.write bs)) s (reply s .dropped))
      ∧ (run → inMap (frame * 65536) = true → fr.valid = false → fr.rsvd = false → fr.stfree = false → fr.lent = false →
          frame ∈ s.sys.clean → (s.framesOf vf).length < (s.vf vf).frameQuota →
          happens (.frameAssign vf frame) s (mailed (s.setFrame frame fun x =>
            { x with owner := vf, valid := true, gen := (s.vf vf).cur % 2, comp := 0, loc := none }) 1 0 0))
      ∧ (run → own → arg < 8 → happens (.framePlaceNear vf frame arg) s
          (mailed (s.setFrame frame fun x => { x with near := true, ncl := arg }) 2 arg 0))
      ∧ (run → own → fr.comp = 0 → fr.stfree = false → fr.lent = false → fr.loc = none → isCxlFrame frame = false →
          s.frameTouched frame = false →
          (s.integBad (65536 * frame) 65536 = false → s.eccLines (65536 * frame) 65536 = 0 → ∃ t, happens (.frameCompress vf frame) s t ∧ (t.frame frame).comp = 1 ∧ (t.frame frame).stfree = true
            ∧ ∀ o, o < 65536 → t.physByte (65536 * frame + o) = s.physByte (65536 * frame + o))
          ∧ ((s.context arg).vf = some vf → happens (.frameDonate vf frame arg) s
              (mailed (s.setFrame frame fun x => { x with valid := false, stfree := true, ctx := arg }) 4 arg 0)))

/-! ### Binding -/

/-- R351 to R354, Tables 22-2 to 22-4: TDISP moves the interface, SPDM answers in the order of its negotiation, and RECORD and
the parties' SHAREs bind a tenant, whose root secret the last share gives; an unbind ends the tenant's launches. The error codes 3,
4 and 6, the form of FINISH and what the replies hold are the model's (log entry 17), as is that PARTY at or above NPARTY is not
judged (41). -/
def Obligations.Binding : Prop :=
  ∀ (vf index session party : Nat) (bytes : List Byte) (s : State),
    let v := s.vf vf
    let say (u : State) (r : HostReply) : State := { u with sys := { u.sys with reply := r } }
    let to_ (i : Instr) (w : Vf) (r : HostReply) : Prop := happens i s (say (s.onVf vf fun _ => w) r)
    let told (i : Instr) (r : HostReply) : Prop := happens i s (say s r)
    let own := sized 48 (Config.sha384 Config.ownChain)
    let live (need : Bool) : Prop := ∃ e ∈ v.sessions, e.id = session ∧ (e.established = true ∨ need = false)
    let mine (e : SpdmSession) : Prop := e.id = session ∧ e.established = true ∧ e.requester = partyOf v.record party
    let changed (go : SpdmSession → SpdmSession) : Vf :=
      { v with sessions := v.sessions.map fun e => if e.id = session then go e else e }
    let shares := v.shares ++ [(party, bytes)]
    let cert := bytes.take (bytes.length - 96)
    let proves (e : SpdmSession) : Prop :=
      96 < bytes.length ∧ Config.signatureOk cert e.transcript (bytes.drop (bytes.length - 96)) = true
    (v.tdisp = .unlocked → to_ (.lockInterfaceRequest vf) { v with tdisp := .locked } (.status 0))
      ∧ (v.tdisp = .locked → to_ (.startInterfaceRequest vf) { v with tdisp := .run } (.status 0))
      ∧ (v.tdisp = .unlocked ∨ v.bind = .unbound → to_ (.stopInterfaceRequest vf) { v with tdisp := .unlocked } (.status 0))
      ∧ told (.getDeviceInterfaceState vf) (.bytes (natToBytes 1 v.tdisp.code))
      ∧ ((v.tdisp = .locked ∨ v.tdisp = .run) →
          told (.getDeviceInterfaceReport vf) (.bytes (deviceId ++ sized 48 (Config.sha384 s.colophon))))
      ∧ to_ (.getVersion vf) { v with spdmStep := 1 } (.bytes [0x13])
      ∧ (1 ≤ v.spdmStep → ∃ r, to_ (.getCapabilities vf) { v with spdmStep := 2 } (.bytes r))
      ∧ (2 ≤ v.spdmStep → ∃ r, to_ (.negotiateAlgorithms vf) { v with spdmStep := 3 } (.bytes r))
      ∧ (v.spdmStep < 3 → told (.getDigests vf) (.status 4))
      ∧ (3 ≤ v.spdmStep → told (.getDigests vf) (.bytes own) ∧ told (.getCertificate vf 0) (.bytes Config.ownChain)
          ∧ (∃ sig, happens (.challenge vf bytes) s (say { s with free := s.free + 1 } (.bytes (own ++ bytes ++ sig))))
          ∧ (1 ≤ index → index ≤ 7 → told (.getMeasurements vf index) (.bytes (s.measurement index)))
          ∧ told (.getMeasurements vf 0xFF) (.bytes (s.colophon ++ s.sys.signature))
          ∧ (v.sessions.length < 16 → ∃ t r, happens (.keyExchange vf bytes) s t ∧ t.sys.reply = .bytes r
              ∧ t.vf vf = { v with sessions := v.sessions ++ [{ id := freeSession v.sessions, requester := [], transcript := bytes ++ r }] })
          ∧ (16 ≤ v.sessions.length → told (.keyExchange vf bytes) (.status 3)))
      ∧ (live false → ∀ ok : Bool, (ok = true ↔ ∀ e ∈ v.sessions, e.id = session → proves e) →
          happens (.finish vf session bytes) s
            (if ok then say (s.onVf vf fun _ =>
                changed fun e => { e with established := true, requester := sized 48 (Config.sha384 cert) }) (.status 0)
             else say s (.status 6)))
      ∧ (live true → to_ (.keyUpdate vf session) (changed fun e => { e with epoch := e.epoch + 1 }) (.status 0)
          ∧ to_ (.heartbeat vf session) v (.status 0))
      ∧ (live false → to_ (.endSession vf session)
          { v with sessions := v.sessions.filter fun e => e.id ≠ session } (.status 0))
      ∧ (v.tdisp = .locked → v.bind = .unbound → v.unbinding = false → bytes.length = 832 → blockBits bytes 0 8 = 1 →
          1 ≤ blockBits bytes 8 5 → blockBits bytes 8 5 ≤ 16 → blockBits bytes 13 499 = 0 →
          to_ (.record vf bytes)
            { v with bind := .recorded, record := bytes, tid := sized 48 (Config.sha384 bytes), nparty := blockBits bytes 8 5,
                     shares := [] } (.status 0))
      ∧ (live true → v.bind ≠ .unbound → told (.getrec vf session) (.bytes (sized 48 v.tid ++ natToBytes 1 v.nparty)))
      ∧ (v.tdisp = .locked → (v.bind = .recorded ∨ v.bind = .collecting) → party < v.nparty → bytes.length = 48 →
          (∃ e ∈ v.sessions, mine e) → (∀ e ∈ v.shares, e.1 ≠ party) →
          (shares.length < v.nparty → to_ (.share vf session party bytes) { v with shares := shares, bind := .collecting } (.status 0))
          ∧ (v.nparty ≤ shares.length → ∃ t, happens (.share vf session party bytes) s t ∧ (t.vf vf).bind = .bound
              ∧ (t.vf vf).cur = 0 ∧ (t.vf vf).old = false
              ∧ (t.vf vf).rs = sized 48 (Config.hkdfExtract v.tid (sharesInOrder shares v.nparty))))
      ∧ (v.tdisp = .run → v.bind ≠ .unbound → ∃ t, happens (.tenantUnbind vf) s t ∧ (t.vf vf).bind = .unbound
          ∧ (t.vf vf).unbinding = true ∧ (∀ l ∈ t.sys.launches, l.vf = vf → l.aborting = true ∧ l.dropped = true)
          ∧ (∀ e ∈ t.sys.fabric, e.vf ≠ vf) ∧ t.sys.mem = s.sys.mem)

/-! ### Sessions and ports -/

/-- R379 to R385: the handshake behind FABKEY, the ends of a session, and the packets that one accepts: a session that closes ends
the launch of a COLL that needs it; a flit that has been accepted is dropped, an old counter is dropped, and a packet whose counter
skips or whose tag fails quarantines the tenant. Which COLLs a closed session ends, one handshake at a time as initiator, and how
the loss of a path is kept, are the model's (log entry 42). -/
def Obligations.Sessions : Prop :=
  ∀ (key num step : Nat) (s : State) (j : KeyJob) (peer : PeerRequest) (hello : NypHello) (proof : NypProof) (pkt : FabricPacket),
    let closed : State := { s with sys := { s.sys with fabric := s.sys.fabric.filter fun e => e.num ≠ num } }
    let known (u : State) (r : Nat × Nat × Nat) (t : State) : Prop :=
      t.sys.jobs = u.sys.jobs.set key { j with result := some r } ∧ (∀ h ∈ t.sys.shakes, h.serves j = false)
        ∧ t.sys.mem = s.sys.mem ∧ t.cores = s.cores
    let plain := bodyBytes pkt.body
    let ends (i : Instr) : Prop :=
      ∃ t, happens i s t ∧ t.sys.fabric = closed.sys.fabric ∧ t.sys.mem = s.sys.mem
        ∧ ((∀ k, ∀ m ∈ (closed.coreOf k).cmds, closed.cutOff k m = false) → t = closed)
        ∧ ∀ k g, ∀ m ∈ (closed.coreOf k).cmds, closed.cutOff k m = true → closed.gangAt k = some g →
            ∀ l ∈ t.sys.launches, l.id = g.launch → l.aborting = true
    let lost (e : FabSession) : Prop := ∃ p ∈ s.sys.noPath, p.1 = e.peer ∧ p.2 + 2 ^ 30 ≤ s.sys.tick.toNat
    let ended := j.since.toNat + 2 ^ 30 ≤ s.sys.tick.toNat ∨ ∃ p ∈ s.sys.noPath, p.1 = fbPeer j.cmd.block
    (∀ e, s.sys.fabric.find? (fun e => e.num == num) = some e →
        (lost e → ends (.sessionPathTimeout num)) ∧ (¬lost e → happens (.sessionPathTimeout num) s s))
      ∧ ends (.peerSessionClose num)
      ∧ (s.fabJob key = some j →
          (s.shakeOf j = none → ended →
              ∃ t, happens (.fabkeyTimeout key) s t ∧ known s (0x0D, 0, 0) t ∧ t.sys.fabric = s.sys.fabric)
          ∧ (ended → happens (.fabkeyPeerRequest key peer) s s)
          ∧ (s.shakeOf j = none → ¬ended → peer.pkg = fbPeer j.cmd.block → 64 ≤ s.openCount j.vf ∨ 64 ≤ peer.openSessions →
              ∃ t, happens (.fabkeyPeerRequest key peer) s t ∧ known s (0x0F, 0, 0) t)
          ∧ (s.shakeOf j = none → ¬ended → peer.pkg = fbPeer j.cmd.block → s.openCount j.vf < 64 → peer.openSessions < 64 →
              (∀ h ∈ s.sys.shakes, h.initiator = false) →
              ∃ t h, happens (.fabkeyPeerRequest key peer) s t ∧ t.sys.shakes = s.sys.shakes ++ [h] ∧ h.peer = peer.pkg
                ∧ h.initiator = decide (s.sys.pkg < peer.pkg) ∧ h.step = if s.sys.pkg < peer.pkg then 1 else 0)
          ∧ (∀ h, s.shakeOf j = some h →
              (1 ≤ step → step ≤ 4 → ∃ t, happens (.nypoeloAbort key step) s t ∧ known s (0x0E, step, 0) t)
              ∧ (h.initiator = false → h.step = 0 →
                  (s.helloOk j.vf hello = true → ∃ t h', happens (.nypoeloMsg1 key hello) s t ∧ t.shakeOf j = some h' ∧ h'.step = 2
                    ∧ h'.peerPoint = hello.point)
                  ∧ (s.helloOk j.vf hello = false → ∃ t, happens (.nypoeloMsg1 key hello) s t ∧ known s (0x0E, 1, 0) t))
              ∧ (h.initiator = true → h.step = 1 →
                  (s.helloOk j.vf hello = true → Config.signatureOk hello.chain h.digest hello.signature = true →
                    ∃ t h', happens (.nypoeloMsg2 key hello) s t ∧ t.shakeOf j = some h' ∧ h'.step = 3)
                  ∧ (s.helloOk j.vf hello = false ∨ Config.signatureOk hello.chain h.digest hello.signature = false →
                    ∃ t, happens (.nypoeloMsg2 key hello) s t ∧ known s (0x0E, 2, 0) t))
              ∧ (h.initiator = false → h.step = 2 →
                  let right := Config.signatureOk h.peerChain h.digest proof.signature = true
                    ∧ proof.tag = confirmTag (s.vf j.vf).rs h.digest "I" h.digest
                  (right → ∃ t h', happens (.nypoeloMsg3 key proof) s t ∧ t.shakeOf j = some h' ∧ h'.step = 4)
                  ∧ (¬right → ∃ t, happens (.nypoeloMsg3 key proof) s t ∧ known s (0x0E, 3, 0) t))
              ∧ (h.initiator = true → h.step = 3 →
                  (proof.tag = confirmTag (s.vf j.vf).rs h.peerChain "R" h.digest →
                    ∃ t e, happens (.nypoeloMsg4 key proof) s t ∧ known s (0x00, 0, e.num) t ∧ t.sys.fabric = s.sys.fabric ++ [e]
                      ∧ e.vf = h.vf ∧ e.peer = h.peer ∧ e.num = s.sys.pkg % 2 ^ 10 * 2 ^ 22 + h.opened % 2 ^ 22)
                  ∧ (proof.tag ≠ confirmTag (s.vf j.vf).rs h.peerChain "R" h.digest →
                    ∃ t, happens (.nypoeloMsg4 key proof) s t ∧ known s (0x0E, 4, 0) t ∧ t.sys.fabric = s.sys.fabric))))
      ∧ (∀ e, s.sys.fabric.find? (fun e => e.num == num) = some e → s.sys.slotOpen ≠ some 2 →
          let last := mget 0 e.rx pkt.port
          let flit := (e.peer, pkt.port, pkt.seq)
          let again := s.sys.flits.contains flit = true
          let tag := sized 16 (Config.gcmTag e.recvKey (fabNonce pkt.port pkt.counter) [] plain)
          (again → happens (.fabricPacketReceive num pkt) s s)
          ∧ (¬again → pkt.counter ≤ last →
              happens (.fabricPacketReceive num pkt) s { s with sys := { s.sys with flits := flit :: s.sys.flits } })
          ∧ (¬again → pkt.counter = last + 1 → pkt.tag = tag → ∀ bs, pkt.body = .reply bs →
              ∃ t, happens (.fabricPacketReceive num pkt) s t ∧ t.sys.reply = .bytes bs ∧ t.sys.mem = s.sys.mem
                ∧ ∃ x ∈ t.sys.fabric, x.num = num ∧ mget 0 x.rx pkt.port = last + 1)
          ∧ (¬again → last < pkt.counter → (pkt.counter ≠ last + 1 ∨ pkt.tag ≠ tag) →
              ∃ t, happens (.fabricPacketReceive num pkt) s t ∧ ((s.vf e.vf).bind = .bound → (t.vf e.vf).bind = .quarantined)
                ∧ (∀ x ∈ t.sys.fabric, x.vf ≠ e.vf) ∧ t.sys.mem = s.sys.mem
                ∧ ∀ l ∈ t.sys.launches, l.vf = e.vf → l.aborting = true))

/-- R299, R350, R388 to R392: Ethernet packets of a security association, the states of CXL ports, bring-up, reset and
management. That 4 KiB of a payload are kept, where a packet of no association is counted, and the firmware images 2 to 5, are the
model's (log entry 17); the frames reserved at the end of bring-up and its steps without an event are (40); so is that a port leaves
DOWN for TRAINING in the bring-up slot (37). -/
def Obligations.PortsAndManagement : Prop :=
  ∀ (spi port : Nat) (pkt : EspPacket) (bytes : List Byte) (s : State),
    let told (a : EspSa) : List Byte := a.tag (s.espKey a) pkt.seq pkt.iv pkt.payload
    let boot (b : Boot) : State := { s with sys := { s.sys with boot := b } }
    let cxl (t : State) (i : Nat) : CxlState := t.sys.cxl.toList.getD i .down
    let portTo (i : Instr) (c : CxlState) : Prop :=
      ∃ t, happens i s t ∧ cxl t port = c ∧ (∀ i, i ≠ port → cxl t i = cxl s i)
        ∧ t = { s with sys := { s.sys with cxl := t.sys.cxl } }
    let set (m : MgmtItem) (y : Sys) : Prop := happens (.managementSet m) s { s with sys := y }
    let dva (a : EspSa) : Nat := a.ring.toNat + 4096 * a.next
    (∀ a, s.sys.esp.find? (fun a => a.spi == spi && !a.egress) = some a → s.dvaPaused a.ctx (dva a) = false →
        s.closedCtx a.ctx = false → a.seq < pkt.seq →
        pkt.tag = told a → ∀ u,
          s.gWrite .host a.ctx (dva a) (pkt.payload.take 4096) accStore false false = (.ok (), u) →
          ∃ t, happens (.espIngress spi pkt) s t ∧ t.sys.mem = u.sys.mem ∧ ∃ b ∈ t.sys.esp, b.spi = spi ∧ b.egress = false
            ∧ b.seq = pkt.seq ∧ b.next = (a.next + 1) % max 1 a.buffers)
      ∧ (∀ a vf, s.sys.esp.find? (fun a => a.spi == spi && !a.egress) = some a → (s.context a.ctx).vf = some vf →
          (a.fresh pkt.seq = false ∨ pkt.tag ≠ told a) →
          happens (.espIngress spi pkt) s (s.onVf vf fun v => { v with espDropped := v.espDropped + 1 }))
      ∧ (s.sys.esp.find? (fun a => a.spi == spi && !a.egress) = none → pkt.vf < 64 →
          happens (.espIngress spi pkt) s (s.onVf pkt.vf fun v => { v with espDropped := v.espDropped + 1 }))
      ∧ (∀ a bs u, s.sys.esp.find? (fun a => a.spi == spi && a.egress) = some a → s.dvaPaused a.ctx (dva a) = false →
          s.closedCtx a.ctx = false → s.gRead none a.ctx (dva a) 4096 accLoad false = (.ok bs, u) →
          ∃ t p, happens (.espEgress spi) s t ∧ t.sys.sent = p :: u.sys.sent ∧ t.sys.mem = u.sys.mem
            ∧ ∃ b ∈ t.sys.esp, b.spi = spi ∧ b.egress = true ∧ b.seq = a.seq + 1)
      ∧ (port < 4 → cxl s port = .training → portTo (.cxlLinkActive port) .active)
      ∧ (port < 4 → (cxl s port = .active ∨ cxl s port = .training) → portTo (.cxlLinkError port) .error)
      ∧ (∃ t, happens .reset s t ∧ t.cores = [] ∧ t.held = [] ∧ t.sys.mem = [] ∧ t.sys.launches = [] ∧ t.sys.vfs = []
          ∧ t.sys.frames = [] ∧ t.sys.fabric = [] ∧ t.sys.boot = .measured ∧ t.sys.tick = 0#64
          ∧ t.sys.seqTable = s.sys.seqTable ∧ t.sys.floor = s.sys.floor ∧ t.sys.bootNonce = sized 16 (Config.freeBytes s.free)
          ∧ t.sys.signature = colophonSign t.sys.measured)
      ∧ (s.sys.boot = .measured → s.bringUp = boot .released)
      ∧ (s.sys.boot = .released → s.bringUp.sys.boot = .training ∧ s.bringUp.sys.trainAt = s.sys.tick.toNat
          ∧ (∀ i, i < 4 → cxl s.bringUp i = if cxl s i = .down then .training else cxl s i)
          ∧ s.bringUp = { s with sys := { s.sys with boot := .training, trainAt := s.bringUp.sys.trainAt, cxl := s.bringUp.sys.cxl } })
      ∧ (s.sys.boot = .synced → s.bringUp = boot .up)
      ∧ (s.sys.boot = .training → s.sys.trainAt + 24576 ≤ s.sys.tick.toNat → ∃ t, happens .bringupSlotEnd s t ∧ t.sys.boot = .trained
          ∧ (∀ k, t.frame k = if k ∈ Config.reservedFrames then { s.frame k with rsvd := true } else s.frame k)
          ∧ t = { s with sys := { s.sys with boot := .trained, frames := t.sys.frames } })
      ∧ (s.sys.boot = .trained → happens .timebaseSync s { s with sys := { s.sys with boot := .synced, tick := 0, tenths := 0 } })
      ∧ (2 ≤ port → port ≤ 5 → happens (.firmwareUpdate port bytes) s
          { s with sys := { s.sys with firmware := mput s.sys.firmware port (sized 48 bytes) } })
      ∧ (port < 1024 → set (.pkg port) { s.sys with pkg := port })
      ∧ (port ≤ 4200 → set (.powerCap port) { s.sys with powerCap := port })
      ∧ (4200 < port → set (.powerCap port) s.sys)

/-! ### Encodings -/

/-- R20, R21, R32, Tables 2-1 and 2-2: decoding the encoding of a well-formed slot instruction gives it back, whatever words
follow; and words that decode are the encoding of the instruction that they decode to, which is well formed. -/
def Obligations.DecodeEncode : Prop :=
  (∀ (i : Instr) (opc : Nat) (f : Fields) (rest : List IWord), i.wf = true → i.slotPart = some (opc, f) →
    decodeSlot f.slot (encode i ++ rest) = (.ok i, some rest))
  ∧ ∀ (k : Slot) (ws rest : List IWord) (i : Instr), decodeSlot k ws = (.ok i, some rest) →
      ws = encode i ++ rest ∧ i.wf = true ∧ ∃ opc f, i.slotPart = some (opc, f) ∧ f.slot = k

/-- The worked encodings of Tables 1-5, 3-4, 7-6, 9-4, 12-3, 14-7, 15-6 and 22-11 decode to the instructions that the spec
writes beside them. -/
def Obligations.DecodeWords : Prop :=
  let one (k : Slot) (ws : List IWord) (i : Instr) : Prop := decodeSlot k ws = (.ok i, some [])
  one .sa [0x0208C080#32] (.add { plainFields .sa .one with d := 3, a := 1, b := 2 })
    ∧ one .sb [0x2629014C#32] (.sub { plainFields .sb .one with g := 3, gn := true, d := 4, a := 5, b := 6, wa := true })
    ∧ one .ctl [0x00200301#32, 0x60100000#32] (.loops { plainFields .ctl .two with a := 4, i16 := 0x6010 })
    ∧ one .va [0x82090081#32, 0x80000003#32]
        (.vaddImm { plainFields .va .two with d := 4, a := 1, b := 2, v := true, c := 3, i16 := 0x8000 })
    ∧ one .ctl [0x00225001#32, 0x00020000#32] (.dqsteal { plainFields .ctl .two with d := 9, a := 4, i16 := 2 })
    ∧ one .aga [0x00180201#32, 0x00004906#32] (.stg { plainFields .aga .two with a := 3, c := 6, t := 4, rm := 2, sc := 2 })
    ∧ one .xe [0x02080802#32, 0x01040003#32, 0x00000400#32]
        (.copy { plainFields .xe .three with a := 1, b := 2, c := 3, i16 := 0x0104, l32 := 0x400 })
    ∧ one .xe [0x02200181#32, 0x02100000#32] (.mmul { plainFields .xe .two with a := 4, b := 2, i16 := 0x0210 })
    ∧ one .xe [0x00081001#32, 0x00000003#32] (.krot { plainFields .xe .two with a := 1, c := 3 })

/-! ### Steps -/

/-- R14, R16, R17, R20: a step runs what it decodes. With a core's turn next and a legal bundle at its program counter, whose
slots find their sources full, the step is the meanings of the bundle's instructions in slot order, in the state that its
clock leaves, and then what becomes of the bundle (`State.finish`). With no move to come it is so for the core in focus, after
time has passed, and a clk that issues nothing lets an event that is due come about. An event that comes next is its own
meaning, once bring-up lets it come about; before, it is passed over (Table 23-6, log entry 40). The calendar, fault records,
quarantines, ladders, unbinds and waited-for objects are looked at behind each step. Which move comes next is the model's choice
(log entry 2), and that a slot instruction is no event is too (log entry 9). -/
def Obligations.StepRuns : Prop :=
  let after (t : State) : State := t.keepCalendar.flushFaults.payQuarantines.ladders.unbinds.watch
  (∀ (s : State) (k : Nat) (rest : List Move) (hnd : Bool) (b : Bundle), s.agenda = .turn k :: rest → k < 2048 →
    let w := { s with agenda := rest }
    issuing w k hnd b → sourcesFull (atIssue w k hnd b) b →
      step s = thenDo (inOrder (b.slots.map Prod.snd) (atIssue w k hnd b)) fun t =>
        after (t.finish.forget k))
  ∧ (∀ (s : State) (hnd : Bool) (b : Bundle), s.agenda = [] → s.focus < 2048 → issuing s.elapse s.focus hnd b →
      sourcesFull (atIssue s.elapse s.focus hnd b) b →
        step s = thenDo (inOrder (b.slots.map Prod.snd) (atIssue s.elapse s.focus hnd b)) fun t =>
          let u := t.finish.forget s.focus
          after (if u.progressed then u else u.background s.focus))
  ∧ (∀ (s : State) (i : Instr) (rest : List Move), s.agenda = .event i :: rest → i.slotPart = none → mayCome s.sys.boot i = true →
      step s = thenDo (exec i { s with agenda := rest }) after)
  ∧ (∀ (s : State) (i : Instr) (rest : List Move), s.agenda = .event i :: rest → (i.slotPart ≠ none ∨ mayCome s.sys.boot i = false) →
      step s = .next (after { s with agenda := rest }))
  ∧ (∀ (s : State) (k : Nat) (rest : List Move), s.agenda = .turn k :: rest → 2048 ≤ k → step s = .fault (.noSuchCore k))
  ∧ ∀ (s : State), s.agenda = [] → 2048 ≤ s.focus → step s = .fault (.noSuchCore s.focus)

/-- R16, R324: a bundle of one instruction whose guard is true and which finds a source empty does not run: with the wait bit
of none of its empty sources set the bundle stalls, every core as its clock left it; with the bit of one set, and a trap
handler to take it, it traps with EMPTY, TRAPADDR naming the slot, the field and the register, unless the instruction is
illegal or privileged here whatever its empty sources hold: these kinds come first (R18). That they do for a slot with an empty
source is the model's reading (log entry 19). -/
def Obligations.EmptySources : Prop :=
  ∀ (s : State) (i : Instr) (opc : Nat) (f : Fields), i.slotPart = some (opc, f) → passes s.bun → s.bun.was = [] → s.bun.mem = none →
    guardOf f s = true →
    let refs := (sourcesOf opc f).filter fun r => s.bun.pre.isEmpty s.bun.hnd r.file r.reg
    let c := s.coreOf s.bun.core
    refs ≠ [] →
      ((∀ r ∈ refs, r.wait = false) → s.bun.wake = [] → ∃ t, s.issue [(f.slot, i)] = .next t ∧ t.held = s.held
          ∧ ∀ k, t.coreOf k = s.coreOf k)
      ∧ ∀ r before after, refs = before ++ r :: after → r.wait = true → (∀ q ∈ before, q.wait = false) →
          let at_ : Word := BitVec.ofNat 64 (f.slot.num + r.field * 8 + r.reg * 2 ^ 8)
          let u : State := { s with bun := { s.bun with raised := [⟨0x03, f.slot, at_, 0, 0⟩], stall := refs.any fun q => !q.wait } }
          let early (q : Raise) : Prop := q.kind = 0x20 ∨ q.kind = 0x21
          (∀ g l, s.valueJudged opc f = false → s.gangAt s.bun.core = some g → s.launchOf g.launch = some l → l.fault = none →
            ∀ v, exec i u = .next v → (∃ more, v.bun.raised = u.bun.raised ++ more ∧ ∃ q ∈ more, early q) →
            ∃ t l' x, s.issue [(f.slot, i)] = .next t ∧ t.launchOf g.launch = some l' ∧ l'.aborting = true ∧ l'.fault = some x
              ∧ (x.kind = 0x20 ∨ x.kind = 0x21))
          ∧ ((s.valueJudged opc f = true ∨ ∀ v, exec i u = .next v → ∀ q ∈ v.bun.raised, ¬early q) →
          s.bun.hnd = false → c.trapvec ≠ 0#64 → c.intrap = false →
          ∃ t, s.issue [(f.slot, i)] = .next t ∧ (∀ k, k ≠ s.bun.core → t.coreOf k = s.coreOf k)
            ∧ ∃ d : Core, d =
                { c with trappc := s.bun.hdr, intrap := true, main := { c.main with pc := c.trapvec },
                         traprec := BitVec.ofNat 64 (0x03 + 2 ^ f.slot.num * 2 ^ 8 + c.main.loops.length * 2 ^ 16),
                         trapaddr := at_ }
              ∧ t.coreOf s.bun.core = d.bubble.bubble)

/-- R17, R45, R47 to R53, R62, R70, R71, R174, R175, R334: how a bundle that raises nothing ends, with nothing to do outside its core.
It commits as a whole: the core that its slots left becomes the core, and the next address is that behind the bundle, or the
target of a taken transfer after a bubble of 2 clk. Without one, the end events of the loop entries in reach come about, innermost
first: an entry whose range the bundle leaves turns back to START for another pass, its stages set; or stops the core where a
stop request has cut it short of N; or is popped, and the next entry's end event comes about. HALT leaves the core departed
with no loop entry, HNDRET frees what its run has left of its message, and YIELD stops the core where a stop request is pending.
Stalled, a bundle leaves every core as it is; held, it leaves every core as it is but for the arrival bit of a BARS, and is kept with
the core as it read it, unless it waits where a stop request is pending: there the core stops. What a stop request does to an
entry already cut, and the address behind a pop, are the model's (log entry 6); that no stop comes where part of the bundle is done is
too (24). -/
def Obligations.BundleEnds : Prop :=
  (∀ (k : Bank) (e : LoopEntry) (n : Nat),
      (k.setStages e).preds.getLsbD n =
          (if 10 ≤ n ∧ n < 16 then decide (n - 10 < e.stages ∧ n - 10 ≤ e.e.toNat ∧ e.e.toNat - (n - 10) < e.lim.toNat)
           else k.preds.getLsbD n)
        ∧ k.clearStages.preds.getLsbD n = (if 10 ≤ n ∧ n < 16 then false else k.preds.getLsbD n)
        ∧ k.setStages e = { k with preds := (k.setStages e).preds } ∧ k.clearStages = { k with preds := k.clearStages.preds })
  ∧ ∀ s : State, s.bun.raised = [] → s.bun.brk = none → s.bun.wake = [] →
    let b := s.bun
    let t := s.finish
    let other (x : Held) : Bool := !(x.core == b.core && x.hnd == b.hnd)
    let staged (k : Bank) (e : LoopEntry) : Bank := if e.staged then k.setStages e else k
    let ended (c : Core) : Core :=
      match c.run with
      | none => c
      | some r => { c with run := none, runsEnded := c.runsEnded + 1, owes := true,
                           mq := if r.freed < r.slots ∧ c.mq.size ≠ 0 then
                               { c.mq with head := (r.slot + r.slots) % c.mq.size, used := c.mq.used - (r.slots - r.freed) }
                             else c.mq }
    let fin (c0 : Core) (cut : Bool) : Core :=
      let c1 := if b.hnd then c0 else { c0 with owes := false }
      let c2 := if b.hndret then ended c1 else c1
      let c3 := if b.halts then { c2 with departed := true, main := { c2.main with loops := [] } } else c2
      let c4 := if cut then { c3 with stopped := some .loopCut }
        else if b.yields = true ∧ b.hnd = false ∧ c3.stopReq = true then { c3 with stopped := some .yielded } else c3
      { c4 with dbg := { c4.dbg with skip := false } }
    let k0 := b.cur.bank b.hnd
    let k1 := if b.clears then k0.clearStages else k0
    let k := if b.stages then (match k1.loops with
      | e :: _ => staged k1 e
      | [] => k1) else k1
    let after := b.hdr + BitVec.ofNat 64 (4 * b.words)
    let at_ (k : Bank) (pc : Word) : Core := b.cur.setBank b.hnd { k with pc := pc }
    let frozen := if b.hnd = false ∧ b.cur.intrap = true then b.cur.traprec.toNat / 2 ^ 16 % 8 else 0
    let leaves (e : LoopEntry) : Prop := e.start.toNat ≤ b.hdr.toNat ∧ b.hdr.toNat < e.stopAt.toNat ∧ e.stopAt.toNat ≤ after.toNat
    (b.stall = true → t.held = s.held ∧ ∀ k, t.coreOf k = s.coreOf k)
      ∧ (∀ h, b.stall = false → b.hold = some h →
          (h.isWait = true → b.hnd = false → b.mem = none → (s.coreOf b.core).stopReq = false) →
          t.held = s.held.filter other ++
            [(⟨b.core, b.hnd, b.hdr, b.pre, h, b.was, b.since, b.tick, b.first, b.mem, b.sent, b.coal, b.runs, b.answer, b.xlf⟩ : Held)]
          ∧ ((∀ g, h ≠ .bars g) → ∀ k, t.coreOf k = s.coreOf k)
          ∧ ∀ g, h = .bars g → b.was = [] → t.coreOf b.core =
              { s.coreOf b.core with arr := (s.coreOf b.core).arr ||| (1#8 <<< g) })
      ∧ (∀ h, b.stall = false → b.hold = some h → h.isWait = true → b.hnd = false → b.mem = none → (s.coreOf b.core).stopReq = true →
          t.held = s.held.filter other ∧ t.coreOf b.core = { s.coreOf b.core with stopped := some .waiting }
          ∧ ∀ k, k ≠ b.core → t.coreOf k = s.coreOf k)
      ∧ (passes b → b.logs = 0 → b.post = [] → b.cur.dbg.step = none →
          t.held = s.held.filter other ∧ (∀ k, k ≠ b.core → t.coreOf k = s.coreOf k)
          ∧ (∀ a, b.target = some a → t.coreOf b.core = fin (at_ k a).bubble.bubble false)
          ∧ (b.target = none → k.loops.length ≤ frozen → t.coreOf b.core = fin (at_ k after) false)
          ∧ ∀ e ls, b.target = none → k.loops = e :: ls → frozen < k.loops.length →
              let cuts := b.hnd = false ∧ b.cur.stopReq = true ∧ e.stop = false
              let d := if cuts then { e with stop := true, lim := if e.n.toNat ≤ e.e.toNat + 1 then e.n else e.e + 1 } else e
              let popped := if e.staged then { k with loops := ls }.clearStages else { k with loops := ls }
              let u : State := { s with bun := { b with cur := b.cur.setBank b.hnd popped, clears := false, stages := false } }
              (¬leaves e → t.coreOf b.core = fin (at_ k after) false)
              ∧ (leaves e → d.e.toNat + 2 < d.lim.toNat + d.stages →
                  let d' := { d with e := d.e + 1 }
                  t.coreOf b.core = fin (at_ (staged { k with loops := d' :: ls } d') e.start) false)
              ∧ (leaves e → ¬d.e.toNat + 2 < d.lim.toNat + d.stages → d.stop = true → d.lim.toNat < d.n.toNat →
                  t.coreOf b.core = fin (at_ { k with loops := d :: ls } e.start) true)
              ∧ (leaves e → ¬d.e.toNat + 2 < d.lim.toNat + d.stages → ¬(d.stop = true ∧ d.lim.toNat < d.n.toNat) →
                  t = { u.finish with bun := b }))

/-- R18, R60, R324 to R330: how a bundle ends that raises. It reports the first kind, in the order of precise kinds, that one of
its slots raised. A precise program-level kind discards all that its slots did and
enters the handler, after a bubble of 2 clk, with the bundle's own header in TRAPPC, the kind, the slots that raised it and the loop depth in TRAPREC and
INTRAP set; with no handler to take it the launch ends with the kind. A recoverable kind discards what the slots did and parks
the gang. A fatal kind ends the launch. A bundle that is held for what an access or a run operation needs, which could bring out an
earlier kind, waits for it first; SPSOFT, UNCOR and INTEG end the launch once the bundle has committed. That a held bundle waits
first, and the order of the last three kinds, are the model's (log entry 19). -/
def Obligations.TrapEntry : Prop :=
  (∀ (b : Bun) (before : List Nat) (k : Nat) (after : List Nat),
    [0x20, 0x21, 0x03, 0x24, 0x25, 0x23, 0x22, 0x04, 0x02, 0x01, 0x10, 0x11, 0x12] = before ++ k :: after →
      (b.reports = some k ↔ (∃ r ∈ b.raised, r.kind = k) ∧ ∀ r ∈ b.raised, r.kind ∉ before))
  ∧ ∀ (s : State) (k : Nat),
    let b := s.bun
    let t := s.finish
    let c := s.coreOf b.core
    let slots := fun m : Nat => m < 256 ∧ ∀ j : Slot, m.testBit j.num = b.raised.any fun r => r.kind == k && r.slot == j
    let ready := b.hnd = false ∧ c.trapvec ≠ 0#64 ∧ c.intrap = false
    let ends (form : Nat) := ∀ g l, s.gangAt b.core = some g → s.launchOf g.launch = some l → l.fault = none →
      (∀ j, t.coreOf j = s.coreOf j) ∧ ∃ l' x, t.launchOf g.launch = some l' ∧ l'.aborting = true ∧ l'.dropped = true
        ∧ l'.fault = some x ∧ x.kind = k ∧ x.form = form
    let stops := b.reports = some k ∧ (b.stall = false ∨ ∃ r ∈ b.raised, r.kind = 0x03) ∧ ∀ h, b.hold = some h → h.outranks k = false
    let later := b.reports = none ∧ b.stall = false ∧ b.hold = none ∧ b.brk = none ∧ b.logs = 0 ∧ b.post = []
      ∧ b.cur.placed = c.placed ∧ (∀ r ∈ b.raised, r.kind ≠ 0x05 ∧ r.kind ≠ 0x06)
    (∀ h, b.stall = false → b.reports = some k → b.hold = some h → h.outranks k = true → h.isWait = false → b.brk = none →
        ∃ x ∈ t.held, x.core = b.core ∧ x.hnd = b.hnd ∧ x.hold = h ∧ x.pre = b.pre)
    ∧ (∀ before after, [0x28, 0x27, 0x26] = before ++ k :: after → (∃ r ∈ b.raised, r.kind = k) →
        (∀ r ∈ b.raised, r.kind ∉ before) → later → ∀ g l, s.gangAt b.core = some g → s.launchOf g.launch = some l →
        l.fault = none → (t.coreOf b.core).sp = b.cur.sp ∧ ∃ l' x, t.launchOf g.launch = some l' ∧ l'.aborting = true
          ∧ l'.dropped = true ∧ l'.fault = some x ∧ x.kind = k)
    ∧ (stops →
      (k ≤ 0x04 → ready → ∃ m r, slots m ∧ r ∈ b.raised ∧ r.kind = k
          ∧ (∀ q ∈ b.raised, q.kind = k → r.slot.num ≤ q.slot.num)
          ∧ (∀ j, j ≠ b.core → t.coreOf j = s.coreOf j)
          ∧ ∃ d : Core, d =
              { c with trappc := b.hdr, intrap := true, trapaddr := r.addr, main := { c.main with pc := c.trapvec },
                       traprec := BitVec.ofNat 64 (k + m * 2 ^ 8 + c.main.loops.length * 2 ^ 16) }
            ∧ t.coreOf b.core = d.bubble.bubble)
      ∧ (k ≤ 0x04 → ¬ready → ends (if b.hnd = false ∧ c.intrap = true then 2 else 1))
      ∧ (k = 0x10 ∨ k = 0x11 ∨ k = 0x12 → ∀ g l, s.gangAt b.core = some g → s.launchOf g.launch = some l →
          (∃ g', t.gangOf g.id = some g' ∧ g'.parked = true)
            ∧ (∀ j ∈ g.cores, t.coreOf j =
                { s.coreOf j with parked := true,
                                  hndParked := (s.coreOf j).hndParked || (decide (j = b.core) && b.hnd) })
            ∧ ∀ j, j ∉ g.cores → j ≠ b.core → t.coreOf j = s.coreOf j)
      ∧ (0x20 ≤ k → k ≠ 0x26 → ends 0))
/-! ### The machine as a whole -/

/-- What the spec gives the module at reset: no core placed, engines, queues and tables empty, the control registers of Tables
3-5 to 3-9 at their reset values (MODQ 3, the others 0), no scratchpad group gated, message queues empty, ARR 0, tiles and planes
empty, every queue DISABLED, contexts disabled, counter blocks 0, the timebase at 0, CXL ports DOWN, the power cap 4.2 kW, a
module measured and not yet trained. Storage and scratchpads are in canonical form. That predicates are false but for p0, loop stacks
empty, tiles in MODE 0 and planes EMPTY, where the spec states no reset value, is the model's (log entry 1). -/
def Obligations.ResetState : Prop :=
  let s := State.reset
  Safety.Canonical s
    ∧ (∀ k, let c := s.coreOf k
        c.placed = none ∧ c.flagen = 0 ∧ c.flags = 0 ∧ c.firstev = 0 ∧ c.firstpc = 0 ∧ c.trappc = 0 ∧ c.traprec = 0
          ∧ c.trapaddr = 0 ∧ c.hen = false ∧ c.intrap = false ∧ c.gated = 0 ∧ c.mq.head = 0 ∧ c.mq.tail = 0 ∧ c.mq.used = 0
          ∧ c.rng.ctr = 0 ∧ c.rng.words = [] ∧ c.packed = [] ∧ c.chase = [] ∧ c.deque = [] ∧ c.arr = 0 ∧ c.cmds = []
          ∧ c.mats = [] ∧ c.keys = [] ∧ c.pend = [] ∧ c.main.loops = [] ∧ c.hnd.loops = [] ∧ c.dbg.state = 0
          ∧ (∀ i : Nat, i < 8 → c.modq.toList.getD i 0#64 = 3#64)
          ∧ (∀ i : Nat, i < 8 → (c.galleys.toList.getD i {}).bound = false ∧ (c.tiles.toList.getD i {}).mode = 0)
          ∧ c.active.cls = 0 ∧ c.shadow.cls = 0
          ∧ ∀ b : Bool, ∀ n : Nat, (c.pred b n = true ↔ n = 0) ∧ c.isEmpty b .x n = false)
    ∧ (∀ q, (s.queueOf q).state = .disabled) ∧ (∀ q, (s.context q).vf = none)
    ∧ s.sys.tick = 0 ∧ s.sys.boot = .measured ∧ s.sys.powerCap = 4200 ∧ s.sys.launches = [] ∧ s.sys.gangs = []
    ∧ s.sys.beds = [] ∧ s.sys.frames = [] ∧ s.sys.ctrs = [] ∧ s.sys.fabric = [] ∧ s.held = []
    ∧ ∀ p : Nat, p < 4 → s.sys.cxl.toList.getD p .active = .down

/-- Every step keeps storage and every scratchpad in canonical form: addresses rise strictly and no listed byte reads as an
unlisted one would, so that equal contents are equal data. It holds of every state in that form, run or not, and of every
instruction and event. -/
def Obligations.CanonicalKept : Prop := ∀ s t : State, Safety.Canonical s → step s = .next t → Safety.Canonical t
end

