-- ==== Sys2Proof/Laws/Memory.lean ====
section
/-! SUPPORT. Sorted maps and memory: read after write, the canonical form, and that every operation over storage and
scratchpad keeps it. -/

namespace Sys2Proof.Laws

open Sys2Proof Sys2Proof.Machine Sys2Proof.Safety

/-! ### Sorted maps -/

@[simp] theorem mget_mput {α : Type} (d : α) (m : List (Nat × α)) (k : Nat) (v : α) (j : Nat) :
    mget d (mput m k v) j = if k = j then v else mget d m j := by
  induction m with
  | nil => by_cases h : k = j <;> simp [mput, mget, h]
  | cons e r ih =>
    obtain ⟨i, w⟩ := e
    unfold mput
    split
    · by_cases h : k = j <;> simp [mget, h]
    · split
      · rename_i hk; subst hk; by_cases h : k = j <;> simp [mget, h]
      · rename_i h1 h2
        by_cases hi : i = j
        · have : k ≠ j := fun h => h2 (h.trans hi.symm)
          simp [mget, hi, this]
        · simp [mget, hi, ih]

theorem mem_mput {α : Type} {m : List (Nat × α)} {k : Nat} {v : α} {e : Nat × α} (h : e ∈ mput m k v) : e = (k, v) ∨ e ∈ m := by
  induction m with
  | nil => simp only [mput, List.mem_singleton] at h; exact .inl h
  | cons x r ih =>
    obtain ⟨i, w⟩ := x
    unfold mput at h
    split at h
    · rcases List.mem_cons.mp h with h | h
      · exact .inl h
      · exact .inr h
    · split at h
      · rcases List.mem_cons.mp h with h | h
        · exact .inl h
        · exact .inr (List.mem_cons_of_mem _ h)
      · rcases List.mem_cons.mp h with h | h
        · exact .inr (h ▸ List.mem_cons_self)
        · rcases ih h with h | h
          · exact .inl h
          · exact .inr (List.mem_cons_of_mem _ h)

/-- A key's value is one that the map lists, or the default. -/
theorem mget_mem {α : Type} (d : α) (m : List (Nat × α)) (k : Nat) : mget d m k = d ∨ (k, mget d m k) ∈ m := by
  induction m with
  | nil => exact .inl rfl
  | cons e r ih =>
    obtain ⟨i, w⟩ := e
    by_cases h : i = k
    · subst h; exact .inr (by simp [mget])
    · rcases ih with ih | ih
      · exact .inl (by simp [mget, h, ih])
      · exact .inr (by simp only [mget, h, if_false]; exact List.mem_cons_of_mem _ ih)

/-! ### The canonical form -/

theorem wfFrom_mono {lo lo' : Nat} {m : List Host.Cell} (h : wfFrom lo m = true) (hl : lo' ≤ lo) : wfFrom lo' m = true := by
  cases m with
  | nil => rfl
  | cons e r =>
    simp only [wfFrom, Bool.and_eq_true, decide_eq_true_eq] at h ⊢
    exact ⟨⟨hl.trans h.1.1, h.1.2⟩, h.2⟩

/-- Below its lowest address a memory reads as unlisted. -/
theorem readByte_below {lo : Nat} {m : List Host.Cell} (h : wfFrom lo m = true) {a : Nat} (ha : a < lo) :
    readByte m a = unlisted := by
  induction m generalizing lo with
  | nil => rfl
  | cons e r ih =>
    simp only [wfFrom, Bool.and_eq_true, decide_eq_true_eq] at h
    have : e.1 ≠ a := by omega
    have := ih h.2 (by omega)
    unfold readByte at this ⊢
    simp [mget, *]

theorem wfFrom_writeByte {lo : Nat} {m : List Host.Cell} (h : wfFrom lo m = true) {a : Nat} (ha : lo ≤ a) (v : Byte) :
    wfFrom lo (writeByte m a v) = true := by
  induction m generalizing lo with
  | nil => unfold writeByte; split <;> simp_all [wfFrom]
  | cons e r ih =>
    obtain ⟨j, w⟩ := e
    simp only [wfFrom, Bool.and_eq_true, decide_eq_true_eq] at h
    obtain ⟨⟨h1, h2⟩, h3⟩ := h
    unfold writeByte
    split
    · split
      · simp [wfFrom, h1, h2, h3]
      · have : a + 1 ≤ j := by omega
        simp [wfFrom, *]
    · split
      · subst_vars
        split
        · exact wfFrom_mono h3 (by omega)
        · simp [wfFrom, *]
      · have := ih h3 (by omega)
        simp [wfFrom, h1, h2, this]

theorem readByte_writeByte {lo : Nat} {m : List Host.Cell} (h : wfFrom lo m = true) (a : Nat) (v : Byte) (x : Nat) :
    readByte (writeByte m a v) x = if x = a then v else readByte m x := by
  induction m generalizing lo with
  | nil =>
    unfold writeByte
    by_cases hv : v = unlisted
    · by_cases hx : x = a <;> simp [hv, hx, readByte, mget]
    · by_cases hx : x = a
      · simp [hv, hx, readByte, mget]
      · have : a ≠ x := fun h => hx h.symm
        simp [hv, hx, readByte, mget, this]
  | cons e r ih =>
    obtain ⟨j, w⟩ := e
    have hw := h
    simp only [wfFrom, Bool.and_eq_true, decide_eq_true_eq] at h
    obtain ⟨⟨_, h2⟩, h3⟩ := h
    have below : ∀ y, y ≤ j → y ≠ j → readByte r y = unlisted := fun y hy _ => readByte_below h3 (by omega)
    have cons (l : List Host.Cell) (k : Nat) (b : Byte) : readByte ((k, b) :: l) x = if k = x then b else readByte l x := rfl
    unfold writeByte
    split
    · rename_i hlt
      split
      · rename_i hv
        by_cases hx : x = a
        · subst hx
          have : j ≠ x := by omega
          simp [cons, this, hv, below x (by omega) (by omega)]
        · simp [hx]
      · rw [cons]
        by_cases hx : x = a
        · simp [hx]
        · have : a ≠ x := fun h => hx h.symm
          simp [hx, this]
    · split
      · rename_i _ hj
        subst hj
        split
        · rename_i hv
          by_cases hx : x = a
          · subst hx; simp [hv, readByte_below h3 (Nat.lt_succ_self x)]
          · have : a ≠ x := fun h => hx h.symm
            simp [cons, hx, this]
        · rw [cons, cons]
          by_cases hx : x = a
          · simp [hx]
          · have : a ≠ x := fun h => hx h.symm
            simp [hx, this]
      · rename_i hn hj
        rw [cons, cons, ih h3]
        by_cases hx : x = a
        · subst hx
          have : j ≠ x := fun h => hj h.symm
          simp [this]
        · simp [hx]

/-- Two memories in canonical form that read alike are equal data. -/
theorem Memory_ext {lo : Nat} {m n : List Host.Cell} (hm : wfFrom lo m = true) (hn : wfFrom lo n = true)
    (h : ∀ a, readByte m a = readByte n a) : m = n := by
  induction m generalizing n lo with
  | nil =>
    cases n with
    | nil => rfl
    | cons e r =>
      simp only [wfFrom, Bool.and_eq_true, decide_eq_true_eq] at hn
      have := h e.1
      simp only [readByte, mget, if_true] at this
      exact absurd this.symm hn.1.2
  | cons e r ih =>
    obtain ⟨i, v⟩ := e
    have hm0 := hm
    simp only [wfFrom, Bool.and_eq_true, decide_eq_true_eq] at hm
    cases n with
    | nil =>
      have := h i
      simp only [readByte, mget, if_true] at this
      exact absurd this hm.1.2
    | cons e' r' =>
      obtain ⟨j, w⟩ := e'
      have hn0 := hn
      simp only [wfFrom, Bool.and_eq_true, decide_eq_true_eq] at hn
      have cons (l : List Host.Cell) (k : Nat) (b : Byte) (x : Nat) :
          readByte ((k, b) :: l) x = if k = x then b else readByte l x := rfl
      have hij : i = j := by
        rcases Nat.lt_trichotomy i j with hlt | heq | hlt
        · have := h i
          have hj : j ≠ i := by omega
          rw [cons, cons, if_pos rfl, if_neg hj, readByte_below hn.2 (by omega)] at this
          exact absurd this hm.1.2
        · exact heq
        · have := h j
          have hj : i ≠ j := by omega
          rw [cons, cons, if_pos rfl, if_neg hj, readByte_below hm.2 (by omega)] at this
          exact absurd this.symm hn.1.2
      subst hij
      have hv : v = w := by have := h i; rw [cons, cons, if_pos rfl, if_pos rfl] at this; exact this
      subst hv
      have : r = r' := ih hm.2 hn.2 fun a => by
        by_cases ha : i = a
        · subst ha; rw [readByte_below hm.2 (by omega), readByte_below hn.2 (by omega)]
        · have := h a; rw [cons, cons, if_neg ha, if_neg ha] at this; exact this
      rw [this]

theorem wf_writeByte {m : List Host.Cell} (h : Memory.wf m = true) (a : Nat) (v : Byte) : Memory.wf (writeByte m a v) = true :=
  wfFrom_writeByte h (Nat.zero_le a) v

theorem wf_writeBytes {m : List Host.Cell} (h : Memory.wf m = true) (a : Nat) (bs : List Byte) :
    Memory.wf (writeBytes m a bs) = true := by
  induction bs generalizing m a with
  | nil => exact h
  | cons b bs ih => exact ih (wf_writeByte h a b) (a + 1)

theorem wf_writeN {m : List Host.Cell} (h : Memory.wf m = true) (a n v : Nat) : Memory.wf (writeN m a n v) = true :=
  wf_writeBytes h a _

/-- What bytes read as after a write: those written, and the others as before. -/
theorem readByte_writeBytes {m : List Host.Cell} (h : Memory.wf m = true) (a : Nat) (bs : List Byte) (x : Nat) :
    readByte (writeBytes m a bs) x = if a ≤ x ∧ x < a + bs.length then bs.getD (x - a) 0 else readByte m x := by
  induction bs generalizing m a with
  | nil =>
    have : ¬(a ≤ x ∧ x < a + ([] : List Byte).length) := by simp only [List.length_nil]; omega
    rw [if_neg this]; rfl
  | cons b bs ih =>
    show readByte (writeBytes (writeByte m a b) (a + 1) bs) x = _
    rw [ih (wf_writeByte h a b) (a + 1), readByte_writeByte h]
    simp only [List.length_cons]
    by_cases hx : x = a
    · subst hx
      have h1 : ¬(x + 1 ≤ x ∧ x < x + 1 + bs.length) := by omega
      have h2 : x ≤ x ∧ x < x + (bs.length + 1) := by omega
      rw [if_neg h1, if_pos rfl, if_pos h2]; simp
    · by_cases hr : a + 1 ≤ x ∧ x < a + 1 + bs.length
      · have h2 : a ≤ x ∧ x < a + (bs.length + 1) := by omega
        rw [if_pos hr, if_pos h2]
        have : x - a = (x - (a + 1)) + 1 := by omega
        rw [this]; simp
      · have h2 : ¬(a ≤ x ∧ x < a + (bs.length + 1)) := by omega
        rw [if_neg hr, if_neg hx, if_neg h2]

theorem wfFrom_filter {lo : Nat} {m : List Host.Cell} (h : wfFrom lo m = true) (p : Host.Cell → Bool) :
    wfFrom lo (m.filter p) = true := by
  induction m generalizing lo with
  | nil => rfl
  | cons e r ih =>
    have h0 := h
    simp only [wfFrom, Bool.and_eq_true, decide_eq_true_eq] at h
    by_cases hp : p e
    · rw [List.filter_cons_of_pos hp]
      simp [wfFrom, h.1.1, h.1.2, ih h.2]
    · rw [List.filter_cons_of_neg hp]
      exact ih (wfFrom_mono h.2 (by omega))

theorem wf_filter {m : List Host.Cell} (h : Memory.wf m = true) (p : Host.Cell → Bool) : Memory.wf (m.filter p) = true :=
  wfFrom_filter h p

/-! ### Scratchpad -/

theorem wf_spWrite {c : Core} (h : Memory.wf c.sp = true) (a : Nat) (bs : List Byte) : Memory.wf (c.spWrite a bs).sp = true :=
  wf_writeBytes h a bs

theorem wf_gateGroup {c : Core} (h : Memory.wf c.sp = true) (g : Nat) : Memory.wf (c.gateGroup g).sp = true := wf_filter h _

theorem spWrite_reads {c : Core} (h : Memory.wf c.sp = true) (a : Nat) (bs : List Byte) (x : Nat) :
    readByte (c.spWrite a bs).sp x = if a ≤ x ∧ x < a + bs.length then bs.getD (x - a) 0 else readByte c.sp x :=
  readByte_writeBytes h a bs x

/-- A write of the scratchpad as statements say it. -/
theorem spWrite_stores {c : Core} (h : Memory.wf c.sp = true) (a : Nat) (bs : List Byte) : coreStores c (c.spWrite a bs) a bs := by
  refine ⟨rfl, spWrite_reads h a bs, fun w => ?_⟩
  simp only [Core.spWrite, List.mem_filter, Bool.not_eq_true', Bool.and_eq_false_iff, decide_eq_false_iff_not]
  constructor
  · rintro ⟨h1, h2⟩; exact ⟨h1, by rintro ⟨h3, h4⟩; rcases h2 with h2 | h2 <;> contradiction⟩
  · rintro ⟨h1, h2⟩
    refine ⟨h1, ?_⟩
    by_cases h3 : a ≤ 8 * w
    · exact .inr fun h4 => h2 ⟨h3, h4⟩
    · exact .inl h3

/-! ### States -/

/-- The scratchpad of a core of a state in canonical form is in canonical form, listed or not. -/
theorem Canonical_sp {s : State} (h : Canonical s) (k : Nat) : Memory.wf (s.coreOf k).sp = true := by
  rcases mget_mem ({} : Core) s.cores k with e | e
  · unfold State.coreOf; rw [e]; rfl
  · exact h.2 _ e

theorem Canonical_setCore {s : State} (h : Canonical s) (k : Nat) {c : Core} (hc : Memory.wf c.sp = true) :
    Canonical (s.setCore k c) :=
  ⟨h.1, fun e he => by rcases mem_mput he with rfl | he; exacts [hc, h.2 e he]⟩

theorem Canonical_onCore {s : State} (h : Canonical s) (k : Nat) (g : Core → Core)
    (hg : ∀ c : Core, Memory.wf c.sp = true → Memory.wf (g c).sp = true) : Canonical (s.onCore k g) :=
  Canonical_setCore h k (hg _ (Canonical_sp h k))

/-- A change of anything but storage and cores keeps the canonical form. -/
theorem Canonical_of_eq {s t : State} (h : Canonical s) (hm : t.sys.mem = s.sys.mem) (hc : t.cores = s.cores) : Canonical t :=
  ⟨hm ▸ h.1, fun e he => h.2 e (hc ▸ he)⟩

@[simp] theorem touchBlock_mem (s : State) (g : Nat) : (s.touchBlock g).sys.mem = s.sys.mem := by
  unfold State.touchBlock; dsimp only; split <;> rfl

@[simp] theorem touchBlock_cores (s : State) (g : Nat) : (s.touchBlock g).cores = s.cores := by
  unfold State.touchBlock; dsimp only; split <;> rfl

@[simp] theorem bumpLine_mem (s : State) (st : Nat) : (s.bumpLine st).sys.mem = s.sys.mem := by
  simp [State.bumpLine]

@[simp] theorem bumpLine_cores (s : State) (st : Nat) : (s.bumpLine st).cores = s.cores := by
  simp [State.bumpLine]

theorem Canonical_writeLine {s : State} (h : Canonical s) (st : Nat) (bs : List Byte) : Canonical (s.writeLine st bs) := by
  have hb := h.1
  rw [← bumpLine_mem s st] at hb
  refine ⟨?_, fun e he => h.2 e (bumpLine_cores s st ▸ he)⟩
  unfold State.writeLine
  dsimp only
  split
  · exact wf_writeBytes (wf_writeBytes hb _ _) _ _
  · exact wf_writeBytes hb _ _

theorem Canonical_physWriteGo {s : State} (h : Canonical s) (n pa : Nat) (bs : List Byte) : Canonical (s.physWriteGo n pa bs) := by
  induction n generalizing s pa bs with
  | zero => exact h
  | succ n ih =>
    unfold State.physWriteGo
    split
    · exact h
    · exact ih (Canonical_writeLine h _ _) _ _

theorem Canonical_physWrite {s : State} (h : Canonical s) (pa : Nat) (bs : List Byte) : Canonical (s.physWrite pa bs) :=
  Canonical_physWriteGo h _ _ _

/-- A fold of changes that each keep the canonical form keeps it. -/
theorem Canonical_foldl {α : Type} {f : State → α → State} (hf : ∀ s a, Canonical s → Canonical (f s a)) (l : List α) {s : State}
    (h : Canonical s) : Canonical (l.foldl f s) := by
  induction l generalizing s with
  | nil => exact h
  | cons a l ih => exact ih (hf s a h)

theorem Canonical_fillFrame {s : State} (h : Canonical s) (st : Nat) (page : List Host.Cell) : Canonical (s.fillFrame st page) := by
  unfold State.fillFrame
  exact Canonical_foldl (fun _ _ hs => Canonical_writeLine hs _ _) _ h

/-- A change that touches every core the same way, and no scratchpad, keeps the canonical form. -/
theorem Canonical_mapCores {s : State} (h : Canonical s) (g : Nat × Core → Core) (hg : ∀ e, (g e).sp = e.2.sp) :
    Canonical { s with cores := s.cores.map fun e => (e.1, g e) } := by
  refine ⟨h.1, fun e he => ?_⟩
  obtain ⟨x, hx, rfl⟩ := List.mem_map.mp he
  exact (hg x).symm ▸ h.2 x hx

@[simp] theorem noted_sp (k : Nat) (o : Observer) (pa n : Nat) (c : Core) : (c.noted k o pa n).sp = c.sp := by
  unfold Core.noted; dsimp only; split <;> rfl

theorem Canonical_noteWrite {s : State} (h : Canonical s) (o : Observer) (pa n : Nat) : Canonical (s.noteWrite o pa n) :=
  Canonical_mapCores h _ fun _ => noted_sp _ _ _ _ _

theorem Canonical_storeFrom {s : State} (h : Canonical s) (o : Observer) (pa : Nat) (bs : List Byte) :
    Canonical (s.storeFrom o pa bs) := Canonical_noteWrite (Canonical_physWrite h _ _) _ _ _

/-! ### Expansions -/

theorem Canonical_giveUp {s : State} (h : Canonical s) (e : Expansion) : Canonical (s.giveUp e) := Canonical_of_eq h rfl rfl

theorem Canonical_unpacked {s : State} (h : Canonical s) (e : Expansion) : Canonical (s.unpacked e).2 := by
  unfold State.unpacked
  dsimp only
  split
  · exact h
  · exact Canonical_of_eq h rfl rfl

/-- A change of the ownership map and of the expansions under way keeps the canonical form. -/
theorem Canonical_entries {t : State} (h : Canonical t) (k : Nat) (g : Frame → Frame) (es : List Expansion) :
    Canonical { t.setFrame k g with sys := { (t.setFrame k g).sys with expansions := es } } := ⟨h.1, h.2⟩

theorem Canonical_settleLent {s : State} (h : Canonical s) (k : Nat) : Canonical (s.settleLent k) := Canonical_of_eq h rfl rfl

theorem Canonical_expandNow {s : State} (h : Canonical s) (e : Expansion) : Canonical (s.expandNow e).2 := by
  unfold State.expandNow
  split
  · exact Canonical_giveUp h e
  · have hf := Canonical_fillFrame (Canonical_unpacked h e) e.into (s.unpacked e).1
    dsimp only
    split
    · exact Canonical_entries hf _ _ _
    · exact Canonical_settleLent (Canonical_entries hf _ _ _) _

theorem Canonical_expanded {s : State} (h : Canonical s) (k : Nat) : Canonical (s.expanded k).2 := by
  unfold State.expanded
  split
  · exact h
  · exact Canonical_expandNow h _

theorem Canonical_startExpansion {s : State} (h : Canonical s) (ctx k : Nat) (core : Option Nat) (dva subst : Nat) :
    Canonical (s.startExpansion ctx k core dva subst) := by
  unfold State.startExpansion
  split
  · exact h
  · exact Canonical_of_eq h rfl rfl

theorem Canonical_openTables {s : State} (h : Canonical s) (ctx dva n : Nat) : Canonical (s.openTables ctx dva n) := by
  induction n generalizing s with
  | zero => exact h
  | succ n ih =>
    unfold State.openTables
    split
    · exact h
    · rename_i k packed _
      have hx : Canonical ((if packed then s.startExpansion ctx k else s).expanded k).2 := by
        split
        · exact Canonical_expanded (Canonical_startExpansion h _ _ _ _ _) _
        · exact Canonical_expanded h _
      generalize (if packed then s.startExpansion ctx k else s).expanded k = r at hx
      obtain ⟨r1, t⟩ := r
      cases r1 with
      | error x => exact hx
      | ok _ => exact ih hx

/-! ### Translation and accesses of the context's space -/

theorem Canonical_tlbFill {s : State} (h : Canonical s) (core : Nat) (walked : Bool) (e : TlbEntry) :
    Canonical (s.tlbFill core walked e) := by
  have hx : Canonical (if s.islandHeld core then s else s.onCore core fun c => { c with tlb := tlbPut 64 e c.tlb }) := by
    split
    · exact h
    · exact Canonical_onCore h core (fun c => { c with tlb := tlbPut 64 e c.tlb }) fun _ hc => hc
  unfold State.tlbFill
  dsimp only
  generalize (if s.islandHeld core then s else _) = u at hx ⊢
  split
  · exact Canonical_of_eq hx rfl rfl
  · exact hx

theorem Canonical_xlateNow {s : State} (h : Canonical s) (core : Option Nat) (ctx dva : Nat) :
    Canonical (s.xlateNow core ctx dva).2 := by
  unfold State.xlateNow
  split
  · exact Canonical_openTables h _ _ _
  · split
    · exact Canonical_tlbFill h _ _ _
    · have ht := Canonical_openTables h ctx dva 24
      dsimp only
      split
      · exact Canonical_tlbFill ht _ _ _
      · exact ht

theorem Canonical_reach {s : State} (h : Canonical s) (core : Option Nat) (ctx dva acc : Nat) (user inside : Bool) :
    Canonical (s.reach core ctx dva acc user inside).2 := by
  unfold State.reach
  split
  · exact h
  · have hx := Canonical_xlateNow h core ctx dva
    generalize s.xlateNow core ctx dva = r at hx
    obtain ⟨r1, t⟩ := r
    cases r1 with
    | error k => exact hx
    | ok e =>
      have ready (r : Except Nat Unit × State) (hr : Canonical r.2) :
          Canonical (match r with
            | (.error x, s) => ((.error x, s) : Except Nat (TlbEntry × Nat) × State)
            | (.ok _, s) => (.ok (e, e.phys dva), s)).2 := by
        obtain ⟨r1, t⟩ := r
        cases r1 <;> exact hr
      dsimp only
      split
      · exact hx
      · split
        · exact hx
        · split <;> exact hx
        · exact ready _ (Canonical_expanded hx _)
        · exact ready _ (Canonical_expanded (Canonical_startExpansion hx _ _ _ _ _) _)

theorem Canonical_appendDirty {s : State} (h : Canonical s) (ctx page : Nat) : Canonical (s.appendDirty ctx page) := by
  have lost {t : State} (ht : Canonical t) (x : Nat) : Canonical
      (if x = kINTEG then
        { t.dirtyLost ctx page with sys := { (t.dirtyLost ctx page).sys with
            owedQuar := ctx :: (t.dirtyLost ctx page).sys.owedQuar } }
       else t.dirtyLost ctx page) := by
    split <;> exact Canonical_of_eq ht rfl rfl
  unfold State.appendDirty
  dsimp only
  split
  · exact h
  · split
    · exact Canonical_of_eq h rfl rfl
    · have hx := Canonical_reach h none ctx ((s.context ctx).dlBase.toNat + 8 * (s.context ctx).dlTail) accStore false false
      generalize s.reach none ctx ((s.context ctx).dlBase.toNat + 8 * (s.context ctx).dlTail) accStore false false = r at hx
      obtain ⟨r1, t⟩ := r
      cases r1 with
      | error x => exact lost hx x
      | ok p =>
        dsimp only
        split
        · exact lost hx _
        · exact Canonical_of_eq (Canonical_storeFrom hx _ _ _) rfl rfl

theorem Canonical_dirty {s : State} (h : Canonical s) (ctx dva : Nat) : Canonical (s.dirty ctx dva) := by
  unfold State.dirty
  dsimp only
  split
  · exact h
  · split
    · exact Canonical_of_eq h rfl rfl
    · exact Canonical_appendDirty h _ _

theorem Canonical_gReadGo {s : State} (h : Canonical s) (core : Option Nat) (ctx acc : Nat) (user inside sub : Bool)
    (k dva n : Nat) (out : List Byte) (bad : Nat) :
    Canonical (s.gReadGo core ctx acc user inside sub k dva n out bad).2 := by
  induction k generalizing s dva n out bad with
  | zero => exact h
  | succ k ih =>
    unfold State.gReadGo
    split
    · exact h
    · have hx := Canonical_reach h core ctx dva acc user inside
      dsimp only
      generalize s.reach core ctx dva acc user inside = r at hx
      obtain ⟨r1, t⟩ := r
      cases r1 with
      | error x => exact hx
      | ok p =>
        dsimp only
        split
        · exact hx
        · exact ih hx _ _ _ _

theorem Canonical_gRead {s : State} (h : Canonical s) (core : Option Nat) (ctx dva n acc : Nat) (sub user inside : Bool) :
    Canonical (s.gRead core ctx dva n acc sub user inside).2 := by
  have hx := Canonical_gReadGo h core ctx acc user inside sub (n / 64 + 2) dva n [] 0
  unfold State.gRead
  generalize s.gReadGo core ctx acc user inside sub (n / 64 + 2) dva n [] 0 = r at hx
  obtain ⟨r1, t⟩ := r
  cases r1 with
  | error x => exact hx
  | ok p =>
    dsimp only
    split
    · exact hx
    · exact Canonical_of_eq hx rfl rfl

theorem Canonical_gWriteGo {s : State} (h : Canonical s) (o : Observer) (ctx acc : Nat) (user inside : Bool) (k dva : Nat)
    (bs : List Byte) : Canonical (s.gWriteGo o ctx acc user inside k dva bs).2 := by
  induction k generalizing s dva bs with
  | zero => exact h
  | succ k ih =>
    unfold State.gWriteGo
    split
    · exact h
    · have hx := Canonical_reach h o.tables ctx dva acc user inside
      dsimp only
      generalize s.reach o.tables ctx dva acc user inside = r at hx
      obtain ⟨r1, t⟩ := r
      cases r1 with
      | error x => exact hx
      | ok p =>
        dsimp only
        split
        · exact hx
        · exact ih (Canonical_storeFrom (Canonical_dirty hx _ _) _ _ _) _ _

theorem Canonical_gWrite {s : State} (h : Canonical s) (o : Observer) (ctx dva : Nat) (bs : List Byte) (acc : Nat)
    (user inside : Bool) : Canonical (s.gWrite o ctx dva bs acc user inside).2 := Canonical_gWriteGo h _ _ _ _ _ _ _ _

theorem Canonical_gAdd {s : State} (h : Canonical s) (o : Observer) (ctx dva : Nat) (inc : Word) (acc : Nat)
    (user inside : Bool) : Canonical (s.gAdd o ctx dva inc acc user inside).2 := by
  have hx := Canonical_gRead h o.tables ctx dva 8 acc false user inside
  unfold State.gAdd
  generalize s.gRead o.tables ctx dva 8 acc false user inside = r at hx
  obtain ⟨r1, t⟩ := r
  cases r1 with
  | error x => exact hx
  | ok p => exact Canonical_gWrite hx _ _ _ _ _ _ _

/-- The memory right after reset is in canonical form. -/
theorem Canonical_reset : Canonical State.reset := ⟨rfl, fun _ h => by cases h⟩

end Sys2Proof.Laws
end

