-- ==== Sys2Proof/Laws/State.lean ====
section
/-! SUPPORT. What each named update of State leaves in each field, and what the accessors read behind it. -/

namespace Sys2Proof.Laws

open Sys2Proof Sys2Proof.Machine Sys2Proof.Safety

/-! ### setCore -/

@[simp] theorem setCore_cores (s : State) (k : Nat) (c : Core) : (s.setCore k c).cores = mput s.cores k c := rfl
@[simp] theorem setCore_agenda (s : State) (k : Nat) (c : Core) : (s.setCore k c).agenda = s.agenda := rfl
@[simp] theorem setCore_focus (s : State) (k : Nat) (c : Core) : (s.setCore k c).focus = s.focus := rfl
@[simp] theorem setCore_bun (s : State) (k : Nat) (c : Core) : (s.setCore k c).bun = s.bun := rfl
@[simp] theorem setCore_held (s : State) (k : Nat) (c : Core) : (s.setCore k c).held = s.held := rfl
@[simp] theorem setCore_free (s : State) (k : Nat) (c : Core) : (s.setCore k c).free = s.free := rfl
@[simp] theorem setCore_sys (s : State) (k : Nat) (c : Core) : (s.setCore k c).sys = s.sys := rfl

/-! ### onCore -/

@[simp] theorem onCore_cores (s : State) (k : Nat) (g : Core → Core) : (s.onCore k g).cores = mput s.cores k (g (s.coreOf k)) := rfl
@[simp] theorem onCore_agenda (s : State) (k : Nat) (g : Core → Core) : (s.onCore k g).agenda = s.agenda := rfl
@[simp] theorem onCore_focus (s : State) (k : Nat) (g : Core → Core) : (s.onCore k g).focus = s.focus := rfl
@[simp] theorem onCore_bun (s : State) (k : Nat) (g : Core → Core) : (s.onCore k g).bun = s.bun := rfl
@[simp] theorem onCore_held (s : State) (k : Nat) (g : Core → Core) : (s.onCore k g).held = s.held := rfl
@[simp] theorem onCore_free (s : State) (k : Nat) (g : Core → Core) : (s.onCore k g).free = s.free := rfl
@[simp] theorem onCore_sys (s : State) (k : Nat) (g : Core → Core) : (s.onCore k g).sys = s.sys := rfl

/-! ### onCur -/

@[simp] theorem onCur_cores (s : State) (g : Core → Core) : (s.onCur g).cores = s.cores := rfl
@[simp] theorem onCur_agenda (s : State) (g : Core → Core) : (s.onCur g).agenda = s.agenda := rfl
@[simp] theorem onCur_focus (s : State) (g : Core → Core) : (s.onCur g).focus = s.focus := rfl
@[simp] theorem onCur_bun (s : State) (g : Core → Core) : (s.onCur g).bun = { s.bun with cur := g s.bun.cur } := rfl
@[simp] theorem onCur_held (s : State) (g : Core → Core) : (s.onCur g).held = s.held := rfl
@[simp] theorem onCur_free (s : State) (g : Core → Core) : (s.onCur g).free = s.free := rfl
@[simp] theorem onCur_sys (s : State) (g : Core → Core) : (s.onCur g).sys = s.sys := rfl
@[simp] theorem onCur_coreOf (s : State) (g : Core → Core) (j : Nat) : (s.onCur g).coreOf j = s.coreOf j := rfl

/-! ### raise -/

@[simp] theorem raise_cores (s : State) (f : Fields) (k : Nat) (a : Word) (r x : Nat) : (s.raise f k a r x).cores = s.cores := rfl
@[simp] theorem raise_agenda (s : State) (f : Fields) (k : Nat) (a : Word) (r x : Nat) : (s.raise f k a r x).agenda = s.agenda := rfl
@[simp] theorem raise_focus (s : State) (f : Fields) (k : Nat) (a : Word) (r x : Nat) : (s.raise f k a r x).focus = s.focus := rfl
@[simp] theorem raise_bun (s : State) (f : Fields) (k : Nat) (a : Word) (r x : Nat) :
    (s.raise f k a r x).bun = { s.bun with raised := s.bun.raised ++ [⟨k, f.slot, a, r, x⟩] } := rfl
@[simp] theorem raise_held (s : State) (f : Fields) (k : Nat) (a : Word) (r x : Nat) : (s.raise f k a r x).held = s.held := rfl
@[simp] theorem raise_free (s : State) (f : Fields) (k : Nat) (a : Word) (r x : Nat) : (s.raise f k a r x).free = s.free := rfl
@[simp] theorem raise_sys (s : State) (f : Fields) (k : Nat) (a : Word) (r x : Nat) : (s.raise f k a r x).sys = s.sys := rfl
@[simp] theorem raise_coreOf (s : State) (f : Fields) (k : Nat) (a : Word) (r x : Nat) (j : Nat) : (s.raise f k a r x).coreOf j = s.coreOf j := rfl

/-! ### stalls -/

@[simp] theorem stalls_cores (s : State) : (s.stalls).cores = s.cores := rfl
@[simp] theorem stalls_agenda (s : State) : (s.stalls).agenda = s.agenda := rfl
@[simp] theorem stalls_focus (s : State) : (s.stalls).focus = s.focus := rfl
@[simp] theorem stalls_bun (s : State) : (s.stalls).bun = { s.bun with stall := true } := rfl
@[simp] theorem stalls_held (s : State) : (s.stalls).held = s.held := rfl
@[simp] theorem stalls_free (s : State) : (s.stalls).free = s.free := rfl
@[simp] theorem stalls_sys (s : State) : (s.stalls).sys = s.sys := rfl
@[simp] theorem stalls_coreOf (s : State) (j : Nat) : (s.stalls).coreOf j = s.coreOf j := rfl

/-! ### holds -/

@[simp] theorem holds_cores (s : State) (h : Hold) : (s.holds h).cores = s.cores := rfl
@[simp] theorem holds_agenda (s : State) (h : Hold) : (s.holds h).agenda = s.agenda := rfl
@[simp] theorem holds_focus (s : State) (h : Hold) : (s.holds h).focus = s.focus := rfl
@[simp] theorem holds_bun (s : State) (h : Hold) :
    (s.holds h).bun = { s.bun with hold := match s.bun.hold with
        | none => some h
        | some old => some (if h.replaces old then h else old) } := rfl
@[simp] theorem holds_held (s : State) (h : Hold) : (s.holds h).held = s.held := rfl
@[simp] theorem holds_free (s : State) (h : Hold) : (s.holds h).free = s.free := rfl
@[simp] theorem holds_sys (s : State) (h : Hold) : (s.holds h).sys = s.sys := rfl
@[simp] theorem holds_coreOf (s : State) (h : Hold) (j : Nat) : (s.holds h).coreOf j = s.coreOf j := rfl

/-! ### post -/

@[simp] theorem post_cores (s : State) (p : Post) : (s.post p).cores = s.cores := rfl
@[simp] theorem post_agenda (s : State) (p : Post) : (s.post p).agenda = s.agenda := rfl
@[simp] theorem post_focus (s : State) (p : Post) : (s.post p).focus = s.focus := rfl
@[simp] theorem post_bun (s : State) (p : Post) : (s.post p).bun = { s.bun with post := s.bun.post ++ [p] } := rfl
@[simp] theorem post_held (s : State) (p : Post) : (s.post p).held = s.held := rfl
@[simp] theorem post_free (s : State) (p : Post) : (s.post p).free = s.free := rfl
@[simp] theorem post_sys (s : State) (p : Post) : (s.post p).sys = s.sys := rfl
@[simp] theorem post_coreOf (s : State) (p : Post) (j : Nat) : (s.post p).coreOf j = s.coreOf j := rfl

/-! ### setP -/

@[simp] theorem setP_cores (s : State) (n : Nat) (v : Bool) : (s.setP n v).cores = s.cores := rfl
@[simp] theorem setP_agenda (s : State) (n : Nat) (v : Bool) : (s.setP n v).agenda = s.agenda := rfl
@[simp] theorem setP_focus (s : State) (n : Nat) (v : Bool) : (s.setP n v).focus = s.focus := rfl
@[simp] theorem setP_bun (s : State) (n : Nat) (v : Bool) :
    (s.setP n v).bun = { s.bun with cur := s.bun.cur.setPred s.bun.hnd n v } := rfl
@[simp] theorem setP_held (s : State) (n : Nat) (v : Bool) : (s.setP n v).held = s.held := rfl
@[simp] theorem setP_free (s : State) (n : Nat) (v : Bool) : (s.setP n v).free = s.free := rfl
@[simp] theorem setP_sys (s : State) (n : Nat) (v : Bool) : (s.setP n v).sys = s.sys := rfl
@[simp] theorem setP_coreOf (s : State) (n : Nat) (v : Bool) (j : Nat) : (s.setP n v).coreOf j = s.coreOf j := rfl

/-! ### result -/

@[simp] theorem result_cores (s : State) (f : Fields) (opc : Nat) (file : RFile) (n : Nat) (lat : Option Nat) (v : RegVal) (fl : FlagSet) :
    (s.result f opc file n lat v fl).cores = s.cores := rfl
@[simp] theorem result_agenda (s : State) (f : Fields) (opc : Nat) (file : RFile) (n : Nat) (lat : Option Nat) (v : RegVal) (fl : FlagSet) :
    (s.result f opc file n lat v fl).agenda = s.agenda := rfl
@[simp] theorem result_focus (s : State) (f : Fields) (opc : Nat) (file : RFile) (n : Nat) (lat : Option Nat) (v : RegVal) (fl : FlagSet) :
    (s.result f opc file n lat v fl).focus = s.focus := rfl
@[simp] theorem result_bun (s : State) (f : Fields) (opc : Nat) (file : RFile) (n : Nat) (lat : Option Nat) (v : RegVal) (fl : FlagSet) :
    (s.result f opc file n lat v fl).bun = { s.bun with cur := s.bun.cur.produce s.bun.hnd f.slot s.bun.hdr opc file n lat v fl } := rfl
@[simp] theorem result_held (s : State) (f : Fields) (opc : Nat) (file : RFile) (n : Nat) (lat : Option Nat) (v : RegVal) (fl : FlagSet) :
    (s.result f opc file n lat v fl).held = s.held := rfl
@[simp] theorem result_free (s : State) (f : Fields) (opc : Nat) (file : RFile) (n : Nat) (lat : Option Nat) (v : RegVal) (fl : FlagSet) :
    (s.result f opc file n lat v fl).free = s.free := rfl
@[simp] theorem result_sys (s : State) (f : Fields) (opc : Nat) (file : RFile) (n : Nat) (lat : Option Nat) (v : RegVal) (fl : FlagSet) :
    (s.result f opc file n lat v fl).sys = s.sys := rfl
@[simp] theorem result_coreOf (s : State) (f : Fields) (opc : Nat) (file : RFile) (n : Nat) (lat : Option Nat) (v : RegVal) (fl : FlagSet) (j : Nat) : (s.result f opc file n lat v fl).coreOf j = s.coreOf j := rfl

/-! ### onContext -/

@[simp] theorem onContext_cores (s : State) (k : Nat) (g : Context → Context) : (s.onContext k g).cores = s.cores := rfl
@[simp] theorem onContext_agenda (s : State) (k : Nat) (g : Context → Context) : (s.onContext k g).agenda = s.agenda := rfl
@[simp] theorem onContext_focus (s : State) (k : Nat) (g : Context → Context) : (s.onContext k g).focus = s.focus := rfl
@[simp] theorem onContext_bun (s : State) (k : Nat) (g : Context → Context) : (s.onContext k g).bun = s.bun := rfl
@[simp] theorem onContext_held (s : State) (k : Nat) (g : Context → Context) : (s.onContext k g).held = s.held := rfl
@[simp] theorem onContext_free (s : State) (k : Nat) (g : Context → Context) : (s.onContext k g).free = s.free := rfl
@[simp] theorem onContext_sys (s : State) (k : Nat) (g : Context → Context) :
    (s.onContext k g).sys = { s.sys with contexts := mput s.sys.contexts k (g (s.context k)) } := rfl
@[simp] theorem onContext_coreOf (s : State) (k : Nat) (g : Context → Context) (j : Nat) : (s.onContext k g).coreOf j = s.coreOf j := rfl

/-! ### onVf -/

@[simp] theorem onVf_cores (s : State) (k : Nat) (g : Vf → Vf) : (s.onVf k g).cores = s.cores := rfl
@[simp] theorem onVf_agenda (s : State) (k : Nat) (g : Vf → Vf) : (s.onVf k g).agenda = s.agenda := rfl
@[simp] theorem onVf_focus (s : State) (k : Nat) (g : Vf → Vf) : (s.onVf k g).focus = s.focus := rfl
@[simp] theorem onVf_bun (s : State) (k : Nat) (g : Vf → Vf) : (s.onVf k g).bun = s.bun := rfl
@[simp] theorem onVf_held (s : State) (k : Nat) (g : Vf → Vf) : (s.onVf k g).held = s.held := rfl
@[simp] theorem onVf_free (s : State) (k : Nat) (g : Vf → Vf) : (s.onVf k g).free = s.free := rfl
@[simp] theorem onVf_sys (s : State) (k : Nat) (g : Vf → Vf) :
    (s.onVf k g).sys = { s.sys with vfs := mput s.sys.vfs k (g (s.vf k)) } := rfl
@[simp] theorem onVf_coreOf (s : State) (k : Nat) (g : Vf → Vf) (j : Nat) : (s.onVf k g).coreOf j = s.coreOf j := rfl

/-! ### onQueue -/

@[simp] theorem onQueue_cores (s : State) (k : Nat) (g : Queue → Queue) : (s.onQueue k g).cores = s.cores := rfl
@[simp] theorem onQueue_agenda (s : State) (k : Nat) (g : Queue → Queue) : (s.onQueue k g).agenda = s.agenda := rfl
@[simp] theorem onQueue_focus (s : State) (k : Nat) (g : Queue → Queue) : (s.onQueue k g).focus = s.focus := rfl
@[simp] theorem onQueue_bun (s : State) (k : Nat) (g : Queue → Queue) : (s.onQueue k g).bun = s.bun := rfl
@[simp] theorem onQueue_held (s : State) (k : Nat) (g : Queue → Queue) : (s.onQueue k g).held = s.held := rfl
@[simp] theorem onQueue_free (s : State) (k : Nat) (g : Queue → Queue) : (s.onQueue k g).free = s.free := rfl
@[simp] theorem onQueue_sys (s : State) (k : Nat) (g : Queue → Queue) :
    (s.onQueue k g).sys = { s.sys with queues := mput s.sys.queues k (g (s.queueOf k)) } := rfl
@[simp] theorem onQueue_coreOf (s : State) (k : Nat) (g : Queue → Queue) (j : Nat) : (s.onQueue k g).coreOf j = s.coreOf j := rfl

/-! ### onLaunch -/

@[simp] theorem onLaunch_cores (s : State) (id : Nat) (g : Launch → Launch) : (s.onLaunch id g).cores = s.cores := rfl
@[simp] theorem onLaunch_agenda (s : State) (id : Nat) (g : Launch → Launch) : (s.onLaunch id g).agenda = s.agenda := rfl
@[simp] theorem onLaunch_focus (s : State) (id : Nat) (g : Launch → Launch) : (s.onLaunch id g).focus = s.focus := rfl
@[simp] theorem onLaunch_bun (s : State) (id : Nat) (g : Launch → Launch) : (s.onLaunch id g).bun = s.bun := rfl
@[simp] theorem onLaunch_held (s : State) (id : Nat) (g : Launch → Launch) : (s.onLaunch id g).held = s.held := rfl
@[simp] theorem onLaunch_free (s : State) (id : Nat) (g : Launch → Launch) : (s.onLaunch id g).free = s.free := rfl
@[simp] theorem onLaunch_sys (s : State) (id : Nat) (g : Launch → Launch) :
    (s.onLaunch id g).sys = { s.sys with launches := s.sys.launches.map fun l => if l.id = id then g l else l } := rfl
@[simp] theorem onLaunch_coreOf (s : State) (id : Nat) (g : Launch → Launch) (j : Nat) : (s.onLaunch id g).coreOf j = s.coreOf j := rfl

/-! ### onGang -/

@[simp] theorem onGang_cores (s : State) (id : Nat) (g : Gang → Gang) : (s.onGang id g).cores = s.cores := rfl
@[simp] theorem onGang_agenda (s : State) (id : Nat) (g : Gang → Gang) : (s.onGang id g).agenda = s.agenda := rfl
@[simp] theorem onGang_focus (s : State) (id : Nat) (g : Gang → Gang) : (s.onGang id g).focus = s.focus := rfl
@[simp] theorem onGang_bun (s : State) (id : Nat) (g : Gang → Gang) : (s.onGang id g).bun = s.bun := rfl
@[simp] theorem onGang_held (s : State) (id : Nat) (g : Gang → Gang) : (s.onGang id g).held = s.held := rfl
@[simp] theorem onGang_free (s : State) (id : Nat) (g : Gang → Gang) : (s.onGang id g).free = s.free := rfl
@[simp] theorem onGang_sys (s : State) (id : Nat) (g : Gang → Gang) :
    (s.onGang id g).sys = { s.sys with gangs := s.sys.gangs.map fun x => if x.id = id then g x else x } := rfl
@[simp] theorem onGang_coreOf (s : State) (id : Nat) (g : Gang → Gang) (j : Nat) : (s.onGang id g).coreOf j = s.coreOf j := rfl

/-! ### setFrame -/

@[simp] theorem setFrame_cores (s : State) (k : Nat) (g : Frame → Frame) : (s.setFrame k g).cores = s.cores := rfl
@[simp] theorem setFrame_agenda (s : State) (k : Nat) (g : Frame → Frame) : (s.setFrame k g).agenda = s.agenda := rfl
@[simp] theorem setFrame_focus (s : State) (k : Nat) (g : Frame → Frame) : (s.setFrame k g).focus = s.focus := rfl
@[simp] theorem setFrame_bun (s : State) (k : Nat) (g : Frame → Frame) : (s.setFrame k g).bun = s.bun := rfl
@[simp] theorem setFrame_held (s : State) (k : Nat) (g : Frame → Frame) : (s.setFrame k g).held = s.held := rfl
@[simp] theorem setFrame_free (s : State) (k : Nat) (g : Frame → Frame) : (s.setFrame k g).free = s.free := rfl
@[simp] theorem setFrame_sys (s : State) (k : Nat) (g : Frame → Frame) :
    (s.setFrame k g).sys = { s.sys with frames := mput s.sys.frames k (g (s.frame k)) } := rfl
@[simp] theorem setFrame_coreOf (s : State) (k : Nat) (g : Frame → Frame) (j : Nat) : (s.setFrame k g).coreOf j = s.coreOf j := rfl

/-! ### Reads -/

@[simp] theorem coreOf_setCore (s : State) (k : Nat) (c : Core) (j : Nat) :
    (s.setCore k c).coreOf j = if k = j then c else s.coreOf j := mget_mput _ _ _ _ _
@[simp] theorem coreOf_onCore (s : State) (k : Nat) (g : Core → Core) (j : Nat) :
    (s.onCore k g).coreOf j = if k = j then g (s.coreOf k) else s.coreOf j := mget_mput _ _ _ _ _
@[simp] theorem context_onContext (s : State) (k : Nat) (g : Context → Context) (j : Nat) :
    (s.onContext k g).context j = if k = j then g (s.context k) else s.context j := mget_mput _ _ _ _ _
@[simp] theorem vf_onVf (s : State) (k : Nat) (g : Vf → Vf) (j : Nat) :
    (s.onVf k g).vf j = if k = j then g (s.vf k) else s.vf j := mget_mput _ _ _ _ _
@[simp] theorem queueOf_onQueue (s : State) (k : Nat) (g : Queue → Queue) (j : Nat) :
    (s.onQueue k g).queueOf j = if k = j then g (s.queueOf k) else s.queueOf j := mget_mput _ _ _ _ _
@[simp] theorem frame_setFrame (s : State) (k : Nat) (g : Frame → Frame) (j : Nat) :
    (s.setFrame k g).frame j = if k = j then g (s.frame k) else s.frame j := mget_mput _ _ _ _ _

/-! ### The bundle in flight -/

/-- A slot instruction's outcome is always a next state: what its body leaves, or the state itself (Table 2-2, R17). -/
theorem onGuard_next (f : Fields) (s : State) (body : State → State) :
    onGuard f s body = .next (if guardOf f s then body s else s) := rfl
theorem onGuard_false {f : Fields} {s : State} (h : guardOf f s = false) (body : State → State) : onGuard f s body = .next s := by
  simp [onGuard, h]
theorem onGuard_true {f : Fields} {s : State} (h : guardOf f s = true) (body : State → State) :
    onGuard f s body = .next (body s) := by
  simp [onGuard, h]

/-- A change of the bundle's core is a change of nothing else. -/
theorem onlyCur_onCur (s : State) (g : Core → Core) : onlyCur s (s.onCur g) := rfl

theorem onlyCur_trans {s t u : State} (h : onlyCur s t) (h' : onlyCur t u) : onlyCur s u := by
  unfold onlyCur at h h' ⊢
  rw [h'] ; rw [h]

/-! ### Banks -/

@[simp] theorem bank_setBank (c : Core) (h h' : Bool) (b : Bank) : (c.setBank h b).bank h' = if h = h' then b else c.bank h' := by
  cases h <;> cases h' <;> rfl

end Sys2Proof.Laws
end

