-- ==== Sys2Proof/Laws/Faults.lean ====
section
/-! SUPPORT. What the fault of a command, and the end of the launches that need a closed session, leave alone. -/

namespace Sys2Proof.Laws

open Sys2Proof Sys2Proof.Machine

/-- What ending a launch leaves alone. -/
def keepsMemory (s t : State) : Prop :=
  t.sys.mem = s.sys.mem ∧ t.sys.fabric = s.sys.fabric ∧ t.sys.contexts = s.sys.contexts ∧ t.sys.gangs = s.sys.gangs

theorem keepsMemory_trans {s t u : State} (h : keepsMemory s t) (h' : keepsMemory t u) : keepsMemory s u :=
  ⟨h'.1.trans h.1, h'.2.1.trans h.2.1, h'.2.2.1.trans h.2.2.1, h'.2.2.2.trans h.2.2.2⟩

theorem condemn_keeps (s : State) (launch : Nat) (f : FirstFault) : keepsMemory s (s.condemn launch f) :=
  ⟨rfl, rfl, rfl, rfl⟩

/-- A fatal fault other than INTEG ends its launch and touches no memory and no session (R329). -/
theorem fatal_keeps (s : State) (core kind form : Nat) (baddr : Word) (slots : Nat) (addr : Word) (ill : BitVec 128)
    (h : kind ≠ kINTEG) : keepsMemory s (s.fatal core kind form baddr slots addr ill) := by
  unfold State.fatal
  rw [if_neg h]
  cases s.gangAt core with
  | none => exact ⟨rfl, rfl, rfl, rfl⟩
  | some g => exact condemn_keeps ..

/-- The fatal fault of a command likewise (R250, R329). -/
theorem cmdFault_keeps (s : State) (core cmd kind acc : Nat) (dva : Word) (h : recoverable kind = false) (h' : kind ≠ kINTEG) :
    keepsMemory s (s.cmdFault core cmd kind acc dva) := by
  unfold State.cmdFault
  rw [h]
  exact keepsMemory_trans (t := s.onCore core fun c => c.stopCmd cmd) ⟨rfl, rfl, rfl, rfl⟩ (fatal_keeps _ _ _ _ _ _ _ _ h')

/-- The end of the launches whose COLL needs a closed session touches no memory and no session (R385). -/
theorem endCutOff_keeps (s : State) : keepsMemory s s.endCutOff := by
  unfold State.endCutOff
  generalize s.cores.map Prod.fst = ks
  induction ks generalizing s with
  | nil => exact ⟨rfl, rfl, rfl, rfl⟩
  | cons k ks ih =>
    refine keepsMemory_trans ?_ (ih _)
    dsimp only
    split
    · exact ⟨rfl, rfl, rfl, rfl⟩
    · exact cmdFault_keeps _ _ _ kOWN _ _ rfl (by decide)

end Sys2Proof.Laws
end

