-- ==== Sys2Proof/Laws/OpcodeMap.lean ====
section
/-! SUPPORT. The opcode map and the constructors agree: the constructor of an opcode carries that opcode and its fields. -/

namespace Sys2Proof

theorem slotPart_of_ctl (opc : Nat) (f : Fields) (i : Instr) (h : ctlCtor opc f = some i) :
    i.slotPart = some (opc, f) := by
  unfold ctlCtor at h
  split at h <;> first | (cases h; rfl) | (simp at h)

theorem slotPart_of_scalar (opc : Nat) (f : Fields) (i : Instr) (h : scalarCtor opc f = some i) :
    i.slotPart = some (opc, f) := by
  unfold scalarCtor at h
  split at h <;> first | (cases h; rfl) | (split at h <;> cases h <;> rfl) | (simp at h)

theorem slotPart_of_address (opc : Nat) (f : Fields) (i : Instr) (h : addressCtor opc f = some i) :
    i.slotPart = some (opc, f) := by
  unfold addressCtor at h
  split at h <;> first | (cases h; rfl) | (split at h <;> cases h <;> rfl) | (simp at h)

theorem slotPart_of_run (opc : Nat) (f : Fields) (i : Instr) (h : runCtor opc f = some i) :
    i.slotPart = some (opc, f) := by
  unfold runCtor at h
  split at h <;> first | (cases h; rfl) | (split at h <;> cases h <;> rfl) | (simp at h)

theorem slotPart_of_engine (opc : Nat) (f : Fields) (i : Instr) (h : engineCtor opc f = some i) :
    i.slotPart = some (opc, f) := by
  unfold engineCtor at h
  split at h <;> first | (cases h; rfl) | (split at h <;> cases h <;> rfl) | (simp at h)

/-- What the opcode map answers has that opcode and those fields. -/
theorem slotPart_of_ctorOf (k : Cls) (opc : Nat) (f : Fields) (i : Instr) (h : ctorOf k opc f = some i) :
    i.slotPart = some (opc, f) := by
  cases k
  · exact slotPart_of_ctl _ _ _ h
  · exact slotPart_of_scalar _ _ _ h
  · exact slotPart_of_address _ _ _ h
  · exact slotPart_of_run _ _ _ h
  · exact slotPart_of_engine _ _ _ h

end Sys2Proof
end

