-- ==== Sys2Proof/Laws/PerInstr.lean ====
section
/-! SUPPORT. For every constructor of `Instr`: its opcode fits the field OPC (Table 2-1), and its encoding has the words
its length says (R21). -/

set_option Elab.async false

namespace Sys2Proof.Laws.Opc

open Sys2Proof

/-- The opcode of a slot instruction fits seven bits, and its encoding is as long as its length field says. -/
def Statement (i : Instr) : Prop :=
  ∀ opc f, i.slotPart = some (opc, f) → opc < 128 ∧ (encode i).length = f.len.words

theorem of_slot (i : Instr) (opc : Nat) (f : Fields) (h : i.slotPart = some (opc, f)) (hb : opc < 128) : Statement i := by
  intro opc' f' h'
  rw [h] at h'
  cases h'
  refine ⟨hb, ?_⟩
  simp only [encode, h]
  cases f.len <;> rfl

theorem of_event (i : Instr) (h : i.slotPart = none) : Statement i := by
  intro opc f h'
  rw [h] at h'
  cases h'

theorem nop (f : Fields) : Statement (.nop f) := of_slot _ _ f rfl (by decide)
theorem br (f : Fields) : Statement (.br f) := of_slot _ _ f rfl (by decide)
theorem brx (f : Fields) : Statement (.brx f) := of_slot _ _ f rfl (by decide)
theorem call (f : Fields) : Statement (.call f) := of_slot _ _ f rfl (by decide)
theorem callx (f : Fields) : Statement (.callx f) := of_slot _ _ f rfl (by decide)
theorem loop (f : Fields) : Statement (.loop f) := of_slot _ _ f rfl (by decide)
theorem loops (f : Fields) : Statement (.loops f) := of_slot _ _ f rfl (by decide)
theorem lbrk (f : Fields) : Statement (.lbrk f) := of_slot _ _ f rfl (by decide)
theorem lidx (f : Fields) : Statement (.lidx f) := of_slot _ _ f rfl (by decide)
theorem pset (f : Fields) : Statement (.pset f) := of_slot _ _ f rfl (by decide)
theorem pand (f : Fields) : Statement (.pand f) := of_slot _ _ f rfl (by decide)
theorem por (f : Fields) : Statement (.por f) := of_slot _ _ f rfl (by decide)
theorem pxor (f : Fields) : Statement (.pxor f) := of_slot _ _ f rfl (by decide)
theorem pandn (f : Fields) : Statement (.pandn f) := of_slot _ _ f rfl (by decide)
theorem ptox (f : Fields) : Statement (.ptox f) := of_slot _ _ f rfl (by decide)
theorem xtop (f : Fields) : Statement (.xtop f) := of_slot _ _ f rfl (by decide)
theorem tfence (f : Fields) : Statement (.tfence f) := of_slot _ _ f rfl (by decide)
theorem trap (f : Fields) : Statement (.trap f) := of_slot _ _ f rfl (by decide)
theorem sysc (f : Fields) : Statement (.sysc f) := of_slot _ _ f rfl (by decide)
theorem eret (f : Fields) : Statement (.eret f) := of_slot _ _ f rfl (by decide)
theorem flagrd (f : Fields) : Statement (.flagrd f) := of_slot _ _ f rfl (by decide)
theorem flagclr (f : Fields) : Statement (.flagclr f) := of_slot _ _ f rfl (by decide)
theorem csrrd (f : Fields) : Statement (.csrrd f) := of_slot _ _ f rfl (by decide)
theorem csrwr (f : Fields) : Statement (.csrwr f) := of_slot _ _ f rfl (by decide)
theorem drain (f : Fields) : Statement (.drain f) := of_slot _ _ f rfl (by decide)
theorem waitx (f : Fields) : Statement (.waitx f) := of_slot _ _ f rfl (by decide)
theorem testx (f : Fields) : Statement (.testx f) := of_slot _ _ f rfl (by decide)
theorem bara (f : Fields) : Statement (.bara f) := of_slot _ _ f rfl (by decide)
theorem barw (f : Fields) : Statement (.barw f) := of_slot _ _ f rfl (by decide)
theorem bars (f : Fields) : Statement (.bars f) := of_slot _ _ f rfl (by decide)
theorem dqpush (f : Fields) : Statement (.dqpush f) := of_slot _ _ f rfl (by decide)
theorem dqpop (f : Fields) : Statement (.dqpop f) := of_slot _ _ f rfl (by decide)
theorem dqsteal (f : Fields) : Statement (.dqsteal f) := of_slot _ _ f rfl (by decide)
theorem dqcnt (f : Fields) : Statement (.dqcnt f) := of_slot _ _ f rfl (by decide)
theorem enq (f : Fields) : Statement (.enq f) := of_slot _ _ f rfl (by decide)
theorem slotq (f : Fields) : Statement (.slotq f) := of_slot _ _ f rfl (by decide)
theorem tick (f : Fields) : Statement (.tick f) := of_slot _ _ f rfl (by decide)
theorem yield (f : Fields) : Statement (.yield f) := of_slot _ _ f rfl (by decide)
theorem halt (f : Fields) : Statement (.halt f) := of_slot _ _ f rfl (by decide)
theorem hndret (f : Fields) : Statement (.hndret f) := of_slot _ _ f rfl (by decide)
theorem hnden (f : Fields) : Statement (.hnden f) := of_slot _ _ f rfl (by decide)
theorem waitev (f : Fields) : Statement (.waitev f) := of_slot _ _ f rfl (by decide)
theorem spwake (f : Fields) : Statement (.spwake f) := of_slot _ _ f rfl (by decide)
theorem spgate (f : Fields) : Statement (.spgate f) := of_slot _ _ f rfl (by decide)
theorem dbgbrk (f : Fields) : Statement (.dbgbrk f) := of_slot _ _ f rfl (by decide)
theorem resumeg (f : Fields) : Statement (.resumeg f) := of_slot _ _ f rfl (by decide)
theorem add (f : Fields) : Statement (.add f) := of_slot _ _ f rfl (by decide)
theorem addImm (f : Fields) : Statement (.addImm f) := of_slot _ _ f rfl (by decide)
theorem sub (f : Fields) : Statement (.sub f) := of_slot _ _ f rfl (by decide)
theorem subImm (f : Fields) : Statement (.subImm f) := of_slot _ _ f rfl (by decide)
theorem and (f : Fields) : Statement (.and f) := of_slot _ _ f rfl (by decide)
theorem andImm (f : Fields) : Statement (.andImm f) := of_slot _ _ f rfl (by decide)
theorem or (f : Fields) : Statement (.or f) := of_slot _ _ f rfl (by decide)
theorem orImm (f : Fields) : Statement (.orImm f) := of_slot _ _ f rfl (by decide)
theorem xor (f : Fields) : Statement (.xor f) := of_slot _ _ f rfl (by decide)
theorem xorImm (f : Fields) : Statement (.xorImm f) := of_slot _ _ f rfl (by decide)
theorem andn (f : Fields) : Statement (.andn f) := of_slot _ _ f rfl (by decide)
theorem andnImm (f : Fields) : Statement (.andnImm f) := of_slot _ _ f rfl (by decide)
theorem shl (f : Fields) : Statement (.shl f) := of_slot _ _ f rfl (by decide)
theorem shlImm (f : Fields) : Statement (.shlImm f) := of_slot _ _ f rfl (by decide)
theorem shr (f : Fields) : Statement (.shr f) := of_slot _ _ f rfl (by decide)
theorem shrImm (f : Fields) : Statement (.shrImm f) := of_slot _ _ f rfl (by decide)
theorem sar (f : Fields) : Statement (.sar f) := of_slot _ _ f rfl (by decide)
theorem sarImm (f : Fields) : Statement (.sarImm f) := of_slot _ _ f rfl (by decide)
theorem rol (f : Fields) : Statement (.rol f) := of_slot _ _ f rfl (by decide)
theorem rolImm (f : Fields) : Statement (.rolImm f) := of_slot _ _ f rfl (by decide)
theorem min (f : Fields) : Statement (.min f) := of_slot _ _ f rfl (by decide)
theorem minImm (f : Fields) : Statement (.minImm f) := of_slot _ _ f rfl (by decide)
theorem max (f : Fields) : Statement (.max f) := of_slot _ _ f rfl (by decide)
theorem maxImm (f : Fields) : Statement (.maxImm f) := of_slot _ _ f rfl (by decide)
theorem minn (f : Fields) : Statement (.minn f) := of_slot _ _ f rfl (by decide)
theorem minnImm (f : Fields) : Statement (.minnImm f) := of_slot _ _ f rfl (by decide)
theorem maxn (f : Fields) : Statement (.maxn f) := of_slot _ _ f rfl (by decide)
theorem maxnImm (f : Fields) : Statement (.maxnImm f) := of_slot _ _ f rfl (by decide)
theorem add32 (f : Fields) : Statement (.add32 f) := of_slot _ _ f rfl (by decide)
theorem add32Imm (f : Fields) : Statement (.add32Imm f) := of_slot _ _ f rfl (by decide)
theorem sub32 (f : Fields) : Statement (.sub32 f) := of_slot _ _ f rfl (by decide)
theorem sub32Imm (f : Fields) : Statement (.sub32Imm f) := of_slot _ _ f rfl (by decide)
theorem cmpeq (f : Fields) : Statement (.cmpeq f) := of_slot _ _ f rfl (by decide)
theorem cmpeqImm (f : Fields) : Statement (.cmpeqImm f) := of_slot _ _ f rfl (by decide)
theorem cmpne (f : Fields) : Statement (.cmpne f) := of_slot _ _ f rfl (by decide)
theorem cmpneImm (f : Fields) : Statement (.cmpneImm f) := of_slot _ _ f rfl (by decide)
theorem cmplt (f : Fields) : Statement (.cmplt f) := of_slot _ _ f rfl (by decide)
theorem cmpltImm (f : Fields) : Statement (.cmpltImm f) := of_slot _ _ f rfl (by decide)
theorem cmple (f : Fields) : Statement (.cmple f) := of_slot _ _ f rfl (by decide)
theorem cmpleImm (f : Fields) : Statement (.cmpleImm f) := of_slot _ _ f rfl (by decide)
theorem cmpltn (f : Fields) : Statement (.cmpltn f) := of_slot _ _ f rfl (by decide)
theorem cmpltnImm (f : Fields) : Statement (.cmpltnImm f) := of_slot _ _ f rfl (by decide)
theorem cmplen (f : Fields) : Statement (.cmplen f) := of_slot _ _ f rfl (by decide)
theorem cmplenImm (f : Fields) : Statement (.cmplenImm f) := of_slot _ _ f rfl (by decide)
theorem tstbit (f : Fields) : Statement (.tstbit f) := of_slot _ _ f rfl (by decide)
theorem tstbitImm (f : Fields) : Statement (.tstbitImm f) := of_slot _ _ f rfl (by decide)
theorem sel (f : Fields) : Statement (.sel f) := of_slot _ _ f rfl (by decide)
theorem clz (f : Fields) : Statement (.clz f) := of_slot _ _ f rfl (by decide)
theorem ctz (f : Fields) : Statement (.ctz f) := of_slot _ _ f rfl (by decide)
theorem popc (f : Fields) : Statement (.popc f) := of_slot _ _ f rfl (by decide)
theorem brev (f : Fields) : Statement (.brev f) := of_slot _ _ f rfl (by decide)
theorem bswap (f : Fields) : Statement (.bswap f) := of_slot _ _ f rfl (by decide)
theorem sext (f : Fields) : Statement (.sext f) := of_slot _ _ f rfl (by decide)
theorem sextImm (f : Fields) : Statement (.sextImm f) := of_slot _ _ f rfl (by decide)
theorem zext (f : Fields) : Statement (.zext f) := of_slot _ _ f rfl (by decide)
theorem zextImm (f : Fields) : Statement (.zextImm f) := of_slot _ _ f rfl (by decide)
theorem bfx (f : Fields) : Statement (.bfx f) := of_slot _ _ f rfl (by decide)
theorem bfi (f : Fields) : Statement (.bfi f) := of_slot _ _ f rfl (by decide)
theorem lit (f : Fields) : Statement (.lit f) := of_slot _ _ f rfl (by decide)
theorem lith (f : Fields) : Statement (.lith f) := of_slot _ _ f rfl (by decide)
theorem xmovScalar (f : Fields) : Statement (.xmovScalar f) := of_slot _ _ f rfl (by decide)
theorem mul (f : Fields) : Statement (.mul f) := of_slot _ _ f rfl (by decide)
theorem mulImm (f : Fields) : Statement (.mulImm f) := of_slot _ _ f rfl (by decide)
theorem mulh (f : Fields) : Statement (.mulh f) := of_slot _ _ f rfl (by decide)
theorem mulhImm (f : Fields) : Statement (.mulhImm f) := of_slot _ _ f rfl (by decide)
theorem mulhn (f : Fields) : Statement (.mulhn f) := of_slot _ _ f rfl (by decide)
theorem mulhnImm (f : Fields) : Statement (.mulhnImm f) := of_slot _ _ f rfl (by decide)
theorem div (f : Fields) : Statement (.div f) := of_slot _ _ f rfl (by decide)
theorem divImm (f : Fields) : Statement (.divImm f) := of_slot _ _ f rfl (by decide)
theorem divn (f : Fields) : Statement (.divn f) := of_slot _ _ f rfl (by decide)
theorem divnImm (f : Fields) : Statement (.divnImm f) := of_slot _ _ f rfl (by decide)
theorem rem (f : Fields) : Statement (.rem f) := of_slot _ _ f rfl (by decide)
theorem remImm (f : Fields) : Statement (.remImm f) := of_slot _ _ f rfl (by decide)
theorem remn (f : Fields) : Statement (.remn f) := of_slot _ _ f rfl (by decide)
theorem remnImm (f : Fields) : Statement (.remnImm f) := of_slot _ _ f rfl (by decide)
theorem madd (f : Fields) : Statement (.madd f) := of_slot _ _ f rfl (by decide)
theorem mulmod (f : Fields) : Statement (.mulmod f) := of_slot _ _ f rfl (by decide)
theorem addmod (f : Fields) : Statement (.addmod f) := of_slot _ _ f rfl (by decide)
theorem submod (f : Fields) : Statement (.submod f) := of_slot _ _ f rfl (by decide)
theorem fadd (f : Fields) : Statement (.fadd f) := of_slot _ _ f rfl (by decide)
theorem faddImm (f : Fields) : Statement (.faddImm f) := of_slot _ _ f rfl (by decide)
theorem fsub (f : Fields) : Statement (.fsub f) := of_slot _ _ f rfl (by decide)
theorem fsubImm (f : Fields) : Statement (.fsubImm f) := of_slot _ _ f rfl (by decide)
theorem fmul (f : Fields) : Statement (.fmul f) := of_slot _ _ f rfl (by decide)
theorem fmulImm (f : Fields) : Statement (.fmulImm f) := of_slot _ _ f rfl (by decide)
theorem ffma (f : Fields) : Statement (.ffma f) := of_slot _ _ f rfl (by decide)
theorem fmin (f : Fields) : Statement (.fmin f) := of_slot _ _ f rfl (by decide)
theorem fminImm (f : Fields) : Statement (.fminImm f) := of_slot _ _ f rfl (by decide)
theorem fmax (f : Fields) : Statement (.fmax f) := of_slot _ _ f rfl (by decide)
theorem fmaxImm (f : Fields) : Statement (.fmaxImm f) := of_slot _ _ f rfl (by decide)
theorem fcmpeq (f : Fields) : Statement (.fcmpeq f) := of_slot _ _ f rfl (by decide)
theorem fcmpeqImm (f : Fields) : Statement (.fcmpeqImm f) := of_slot _ _ f rfl (by decide)
theorem fcmplt (f : Fields) : Statement (.fcmplt f) := of_slot _ _ f rfl (by decide)
theorem fcmpltImm (f : Fields) : Statement (.fcmpltImm f) := of_slot _ _ f rfl (by decide)
theorem fcmple (f : Fields) : Statement (.fcmple f) := of_slot _ _ f rfl (by decide)
theorem fcmpleImm (f : Fields) : Statement (.fcmpleImm f) := of_slot _ _ f rfl (by decide)
theorem fcvti (f : Fields) : Statement (.fcvti f) := of_slot _ _ f rfl (by decide)
theorem fcvtf (f : Fields) : Statement (.fcvtf f) := of_slot _ _ f rfl (by decide)
theorem fclass (f : Fields) : Statement (.fclass f) := of_slot _ _ f rfl (by decide)
theorem ld (f : Fields) : Statement (.ld f) := of_slot _ _ f rfl (by decide)
theorem st (f : Fields) : Statement (.st f) := of_slot _ _ f rfl (by decide)
theorem ldg (f : Fields) : Statement (.ldg f) := of_slot _ _ f rfl (by decide)
theorem stg (f : Fields) : Statement (.stg f) := of_slot _ _ f rfl (by decide)
theorem ldv (f : Fields) : Statement (.ldv f) := of_slot _ _ f rfl (by decide)
theorem ldvp (f : Fields) : Statement (.ldvp f) := of_slot _ _ f rfl (by decide)
theorem stv (f : Fields) : Statement (.stv f) := of_slot _ _ f rfl (by decide)
theorem stvp (f : Fields) : Statement (.stvp f) := of_slot _ _ f rfl (by decide)
theorem aadd (f : Fields) : Statement (.aadd f) := of_slot _ _ f rfl (by decide)
theorem aaddImm (f : Fields) : Statement (.aaddImm f) := of_slot _ _ f rfl (by decide)
theorem amov (f : Fields) : Statement (.amov f) := of_slot _ _ f rfl (by decide)
theorem mset (f : Fields) : Statement (.mset f) := of_slot _ _ f rfl (by decide)
theorem amod (f : Fields) : Statement (.amod f) := of_slot _ _ f rfl (by decide)
theorem atom (f : Fields) : Statement (.atom f) := of_slot _ _ f rfl (by decide)
theorem acas (f : Fields) : Statement (.acas f) := of_slot _ _ f rfl (by decide)
theorem fxadd (f : Fields) : Statement (.fxadd f) := of_slot _ _ f rfl (by decide)
theorem fxrd (f : Fields) : Statement (.fxrd f) := of_slot _ _ f rfl (by decide)
theorem fxclr (f : Fields) : Statement (.fxclr f) := of_slot _ _ f rfl (by decide)
theorem atomg (f : Fields) : Statement (.atomg f) := of_slot _ _ f rfl (by decide)
theorem acasg (f : Fields) : Statement (.acasg f) := of_slot _ _ f rfl (by decide)
theorem fxaddg (f : Fields) : Statement (.fxaddg f) := of_slot _ _ f rfl (by decide)
theorem fxrdg (f : Fields) : Statement (.fxrdg f) := of_slot _ _ f rfl (by decide)
theorem prefg (f : Fields) : Statement (.prefg f) := of_slot _ _ f rfl (by decide)
theorem vadd (f : Fields) : Statement (.vadd f) := of_slot _ _ f rfl (by decide)
theorem vaddImm (f : Fields) : Statement (.vaddImm f) := of_slot _ _ f rfl (by decide)
theorem vsub (f : Fields) : Statement (.vsub f) := of_slot _ _ f rfl (by decide)
theorem vsubImm (f : Fields) : Statement (.vsubImm f) := of_slot _ _ f rfl (by decide)
theorem vmul (f : Fields) : Statement (.vmul f) := of_slot _ _ f rfl (by decide)
theorem vmulImm (f : Fields) : Statement (.vmulImm f) := of_slot _ _ f rfl (by decide)
theorem vfma (f : Fields) : Statement (.vfma f) := of_slot _ _ f rfl (by decide)
theorem vmin (f : Fields) : Statement (.vmin f) := of_slot _ _ f rfl (by decide)
theorem vminImm (f : Fields) : Statement (.vminImm f) := of_slot _ _ f rfl (by decide)
theorem vmax (f : Fields) : Statement (.vmax f) := of_slot _ _ f rfl (by decide)
theorem vmaxImm (f : Fields) : Statement (.vmaxImm f) := of_slot _ _ f rfl (by decide)
theorem vabs (f : Fields) : Statement (.vabs f) := of_slot _ _ f rfl (by decide)
theorem vneg (f : Fields) : Statement (.vneg f) := of_slot _ _ f rfl (by decide)
theorem vand (f : Fields) : Statement (.vand f) := of_slot _ _ f rfl (by decide)
theorem vandImm (f : Fields) : Statement (.vandImm f) := of_slot _ _ f rfl (by decide)
theorem vor (f : Fields) : Statement (.vor f) := of_slot _ _ f rfl (by decide)
theorem vorImm (f : Fields) : Statement (.vorImm f) := of_slot _ _ f rfl (by decide)
theorem vxor (f : Fields) : Statement (.vxor f) := of_slot _ _ f rfl (by decide)
theorem vxorImm (f : Fields) : Statement (.vxorImm f) := of_slot _ _ f rfl (by decide)
theorem vshl (f : Fields) : Statement (.vshl f) := of_slot _ _ f rfl (by decide)
theorem vshlImm (f : Fields) : Statement (.vshlImm f) := of_slot _ _ f rfl (by decide)
theorem vshr (f : Fields) : Statement (.vshr f) := of_slot _ _ f rfl (by decide)
theorem vshrImm (f : Fields) : Statement (.vshrImm f) := of_slot _ _ f rfl (by decide)
theorem vsar (f : Fields) : Statement (.vsar f) := of_slot _ _ f rfl (by decide)
theorem vsarImm (f : Fields) : Statement (.vsarImm f) := of_slot _ _ f rfl (by decide)
theorem vcmpeq (f : Fields) : Statement (.vcmpeq f) := of_slot _ _ f rfl (by decide)
theorem vcmpeqImm (f : Fields) : Statement (.vcmpeqImm f) := of_slot _ _ f rfl (by decide)
theorem vcmpne (f : Fields) : Statement (.vcmpne f) := of_slot _ _ f rfl (by decide)
theorem vcmpneImm (f : Fields) : Statement (.vcmpneImm f) := of_slot _ _ f rfl (by decide)
theorem vcmplt (f : Fields) : Statement (.vcmplt f) := of_slot _ _ f rfl (by decide)
theorem vcmpltImm (f : Fields) : Statement (.vcmpltImm f) := of_slot _ _ f rfl (by decide)
theorem vcmple (f : Fields) : Statement (.vcmple f) := of_slot _ _ f rfl (by decide)
theorem vcmpleImm (f : Fields) : Statement (.vcmpleImm f) := of_slot _ _ f rfl (by decide)
theorem vsel (f : Fields) : Statement (.vsel f) := of_slot _ _ f rfl (by decide)
theorem vcoal (f : Fields) : Statement (.vcoal f) := of_slot _ _ f rfl (by decide)
theorem vsplat (f : Fields) : Statement (.vsplat f) := of_slot _ _ f rfl (by decide)
theorem viota (f : Fields) : Statement (.viota f) := of_slot _ _ f rfl (by decide)
theorem vslice (f : Fields) : Statement (.vslice f) := of_slot _ _ f rfl (by decide)
theorem vcat (f : Fields) : Statement (.vcat f) := of_slot _ _ f rfl (by decide)
theorem vsetl (f : Fields) : Statement (.vsetl f) := of_slot _ _ f rfl (by decide)
theorem vlen (f : Fields) : Statement (.vlen f) := of_slot _ _ f rfl (by decide)
theorem vruns (f : Fields) : Statement (.vruns f) := of_slot _ _ f rfl (by decide)
theorem vget (f : Fields) : Statement (.vget f) := of_slot _ _ f rfl (by decide)
theorem vput (f : Fields) : Statement (.vput f) := of_slot _ _ f rfl (by decide)
theorem vredsum (f : Fields) : Statement (.vredsum f) := of_slot _ _ f rfl (by decide)
theorem vredmax (f : Fields) : Statement (.vredmax f) := of_slot _ _ f rfl (by decide)
theorem vredmin (f : Fields) : Statement (.vredmin f) := of_slot _ _ f rfl (by decide)
theorem vcount (f : Fields) : Statement (.vcount f) := of_slot _ _ f rfl (by decide)
theorem vfirst (f : Fields) : Statement (.vfirst f) := of_slot _ _ f rfl (by decide)
theorem xmovRun (f : Fields) : Statement (.xmovRun f) := of_slot _ _ f rfl (by decide)
theorem vcvt (f : Fields) : Statement (.vcvt f) := of_slot _ _ f rfl (by decide)
theorem vqnt (f : Fields) : Statement (.vqnt f) := of_slot _ _ f rfl (by decide)
theorem vexp2 (f : Fields) : Statement (.vexp2 f) := of_slot _ _ f rfl (by decide)
theorem vlog2 (f : Fields) : Statement (.vlog2 f) := of_slot _ _ f rfl (by decide)
theorem vrcp (f : Fields) : Statement (.vrcp f) := of_slot _ _ f rfl (by decide)
theorem vrsq (f : Fields) : Statement (.vrsq f) := of_slot _ _ f rfl (by decide)
theorem vsqrt (f : Fields) : Statement (.vsqrt f) := of_slot _ _ f rfl (by decide)
theorem vtanh (f : Fields) : Statement (.vtanh f) := of_slot _ _ f rfl (by decide)
theorem vsigm (f : Fields) : Statement (.vsigm f) := of_slot _ _ f rfl (by decide)
theorem vmodadd (f : Fields) : Statement (.vmodadd f) := of_slot _ _ f rfl (by decide)
theorem vmodsub (f : Fields) : Statement (.vmodsub f) := of_slot _ _ f rfl (by decide)
theorem vmodmul (f : Fields) : Statement (.vmodmul f) := of_slot _ _ f rfl (by decide)
theorem vbfly (f : Fields) : Statement (.vbfly f) := of_slot _ _ f rfl (by decide)
theorem vbscale (f : Fields) : Statement (.vbscale f) := of_slot _ _ f rfl (by decide)
theorem mload (f : Fields) : Statement (.mload f) := of_slot _ _ f rfl (by decide)
theorem mswap (f : Fields) : Statement (.mswap f) := of_slot _ _ f rfl (by decide)
theorem mmul (f : Fields) : Statement (.mmul f) := of_slot _ _ f rfl (by decide)
theorem mmod (f : Fields) : Statement (.mmod f) := of_slot _ _ f rfl (by decide)
theorem mdrain (f : Fields) : Statement (.mdrain f) := of_slot _ _ f rfl (by decide)
theorem mzero (f : Fields) : Statement (.mzero f) := of_slot _ _ f rfl (by decide)
theorem mstat (f : Fields) : Statement (.mstat f) := of_slot _ _ f rfl (by decide)
theorem copy (f : Fields) : Statement (.copy f) := of_slot _ _ f rfl (by decide)
theorem galset (f : Fields) : Statement (.galset f) := of_slot _ _ f rfl (by decide)
theorem galadv (f : Fields) : Statement (.galadv f) := of_slot _ _ f rfl (by decide)
theorem galrel (f : Fields) : Statement (.galrel f) := of_slot _ _ f rfl (by decide)
theorem smsg (f : Fields) : Statement (.smsg f) := of_slot _ _ f rfl (by decide)
theorem smsgt (f : Fields) : Statement (.smsgt f) := of_slot _ _ f rfl (by decide)
theorem objadd (f : Fields) : Statement (.objadd f) := of_slot _ _ f rfl (by decide)
theorem coll (f : Fields) : Statement (.coll f) := of_slot _ _ f rfl (by decide)
theorem rngcfg (f : Fields) : Statement (.rngcfg f) := of_slot _ _ f rfl (by decide)
theorem tidwr (f : Fields) : Statement (.tidwr f) := of_slot _ _ f rfl (by decide)
theorem tidrd (f : Fields) : Statement (.tidrd f) := of_slot _ _ f rfl (by decide)
theorem xmovXe (f : Fields) : Statement (.xmovXe f) := of_slot _ _ f rfl (by decide)
theorem elit (f : Fields) : Statement (.elit f) := of_slot _ _ f rfl (by decide)
theorem krot (f : Fields) : Statement (.krot f) := of_slot _ _ f rfl (by decide)
theorem keySeal (f : Fields) : Statement (.keySeal f) := of_slot _ _ f rfl (by decide)
theorem keyUnseal (f : Fields) : Statement (.keyUnseal f) := of_slot _ _ f rfl (by decide)
theorem scrubSp (f : Fields) : Statement (.scrubSp f) := of_slot _ _ f rfl (by decide)
theorem scrubGangsp (f : Fields) : Statement (.scrubGangsp f) := of_slot _ _ f rfl (by decide)
theorem scrubPages (f : Fields) : Statement (.scrubPages f) := of_slot _ _ f rfl (by decide)
theorem scrubKeys (f : Fields) : Statement (.scrubKeys f) := of_slot _ _ f rfl (by decide)
theorem fabkey (f : Fields) : Statement (.fabkey f) := of_slot _ _ f rfl (by decide)
theorem kstat (f : Fields) : Statement (.kstat f) := of_slot _ _ f rfl (by decide)
theorem emptyBundle : Statement (.emptyBundle) := of_event _ rfl
theorem bundleStallRelease (a) : Statement (.bundleStallRelease a) := of_event _ rfl
theorem resultLand (a) : Statement (.resultLand a) := of_event _ rfl
theorem fetchMissFill (a b) : Statement (.fetchMissFill a b) := of_event _ rfl
theorem spGroupWakeDone (a b) : Statement (.spGroupWakeDone a b) := of_event _ rfl
theorem handlerRunStart (a) : Statement (.handlerRunStart a) := of_event _ rfl
theorem mqEntryArrival (a b) : Statement (.mqEntryArrival a b) := of_event _ rfl
theorem mqEntryWritten (a b) : Statement (.mqEntryWritten a b) := of_event _ rfl
theorem mqAckReceive (a b) : Statement (.mqAckReceive a b) := of_event _ rfl
theorem mqResend (a b) : Statement (.mqResend a b) := of_event _ rfl
theorem mqProbe (a b) : Statement (.mqProbe a b) := of_event _ rfl
theorem barrierRelease (a b) : Statement (.barrierRelease a b) := of_event _ rfl
theorem gangEnd (a) : Statement (.gangEnd a) := of_event _ rfl
theorem dequePortRequest (a) : Statement (.dequePortRequest a) := of_event _ rfl
theorem dqstealAnswer (a) : Statement (.dqstealAnswer a) := of_event _ rfl
theorem waitxSatisfied (a) : Statement (.waitxSatisfied a) := of_event _ rfl
theorem waitevWake (a) : Statement (.waitevWake a) := of_event _ rfl
theorem waitevDeadline (a) : Statement (.waitevDeadline a) := of_event _ rfl
theorem tfenceDrained (a) : Statement (.tfenceDrained a) := of_event _ rfl
theorem drainDone (a) : Statement (.drainDone a) := of_event _ rfl
theorem haltCommandsDone (a) : Statement (.haltCommandsDone a) := of_event _ rfl
theorem enqAnswer (a) : Statement (.enqAnswer a) := of_event _ rfl
theorem syscEcho (a) : Statement (.syscEcho a) := of_event _ rfl
theorem syscNotify (a) : Statement (.syscNotify a) := of_event _ rfl
theorem syscClock (a) : Statement (.syscClock a) := of_event _ rfl
theorem gangResume (a) : Statement (.gangResume a) := of_event _ rfl
theorem doorbellWrite (a b c d) : Statement (.doorbellWrite a b c d) := of_event _ rfl
theorem queueDescriptorWrite (a b c) : Statement (.queueDescriptorWrite a b c) := of_event _ rfl
theorem queueEnable (a b) : Statement (.queueEnable a b) := of_event _ rfl
theorem queueDisable (a b) : Statement (.queueDisable a b) := of_event _ rfl
theorem launchRecord (a) : Statement (.launchRecord a) := of_event _ rfl
theorem waitRecord (a) : Statement (.waitRecord a) := of_event _ rfl
theorem signalRecord (a) : Statement (.signalRecord a) := of_event _ rfl
theorem nopRecord (a) : Statement (.nopRecord a) := of_event _ rfl
theorem waitRetire (a) : Statement (.waitRetire a) := of_event _ rfl
theorem dependenceMet (a) : Statement (.dependenceMet a) := of_event _ rfl
theorem gangPlace (a) : Statement (.gangPlace a) := of_event _ rfl
theorem launchComplete (a) : Statement (.launchComplete a) := of_event _ rfl
theorem queueAging (a) : Statement (.queueAging a) := of_event _ rfl
theorem walkComplete (a b c) : Statement (.walkComplete a b c) := of_event _ rfl
theorem faultQueueHeadWrite (a b c) : Statement (.faultQueueHeadWrite a b c) := of_event _ rfl
theorem expansionComplete (a) : Statement (.expansionComplete a) := of_event _ rfl
theorem cxlbusyTimeout (a) : Statement (.cxlbusyTimeout a) := of_event _ rfl
theorem globalAccessPerform (a b) : Statement (.globalAccessPerform a b) := of_event _ rfl
theorem launchAbort (a) : Statement (.launchAbort a) := of_event _ rfl
theorem chunkStart (a b) : Statement (.chunkStart a b) := of_event _ rfl
theorem chunkComplete (a b) : Statement (.chunkComplete a b) := of_event _ rfl
theorem commandComplete (a b) : Statement (.commandComplete a b) := of_event _ rfl
theorem galleyRowLand (a b) : Statement (.galleyRowLand a b) := of_event _ rfl
theorem objaddPerform (a b) : Statement (.objaddPerform a b) := of_event _ rfl
theorem collEntry (a) : Statement (.collEntry a) := of_event _ rfl
theorem matrixOpStart (a) : Statement (.matrixOpStart a) := of_event _ rfl
theorem matrixOpFinish (a b) : Statement (.matrixOpFinish a b) := of_event _ rfl
theorem rngBlock (a) : Statement (.rngBlock a) := of_event _ rfl
theorem keyHandoff (a) : Statement (.keyHandoff a) := of_event _ rfl
theorem keyCommandComplete (a) : Statement (.keyCommandComplete a) := of_event _ rfl
theorem backgroundScrubComplete (a) : Statement (.backgroundScrubComplete a) := of_event _ rfl
theorem slotOpen : Statement (.slotOpen) := of_event _ rfl
theorem slotClose : Statement (.slotClose) := of_event _ rfl
theorem thermalTrip (a) : Statement (.thermalTrip a) := of_event _ rfl
theorem mrovrMceClear (a b) : Statement (.mrovrMceClear a b) := of_event _ rfl
theorem sliceEnd (a) : Statement (.sliceEnd a) := of_event _ rfl
theorem ladderG1Expiry (a) : Statement (.ladderG1Expiry a) := of_event _ rfl
theorem coreStop (a) : Statement (.coreStop a) := of_event _ rfl
theorem gangSave (a) : Statement (.gangSave a) := of_event _ rfl
theorem ladderG2Expiry (a) : Statement (.ladderG2Expiry a) := of_event _ rfl
theorem coreZeroingComplete (a) : Statement (.coreZeroingComplete a) := of_event _ rfl
theorem migrationStop (a) : Statement (.migrationStop a) := of_event _ rfl
theorem dbgArm (a b) : Statement (.dbgArm a b) := of_event _ rfl
theorem dbgDisarm (a b) : Statement (.dbgDisarm a b) := of_event _ rfl
theorem dbgHalt (a b c) : Statement (.dbgHalt a b c) := of_event _ rfl
theorem dbgBreak (a b c d) : Statement (.dbgBreak a b c d) := of_event _ rfl
theorem dbgStep (a b c) : Statement (.dbgStep a b c) := of_event _ rfl
theorem dbgRun (a b) : Statement (.dbgRun a b) := of_event _ rfl
theorem dbgRead (a b c) : Statement (.dbgRead a b c) := of_event _ rfl
theorem dbgWrite (a b c) : Statement (.dbgWrite a b c) := of_event _ rfl
theorem dbgBreakpointHit (a) : Statement (.dbgBreakpointHit a) := of_event _ rfl
theorem dbgStepTimeout (a) : Statement (.dbgStepTimeout a) := of_event _ rfl
theorem dirtyLogArmWrite (a b c) : Statement (.dirtyLogArmWrite a b c) := of_event _ rfl
theorem logovfClear (a b c) : Statement (.logovfClear a b c) := of_event _ rfl
theorem contextEntryWrite (a b c d) : Statement (.contextEntryWrite a b c d) := of_event _ rfl
theorem invalidationCommand (a b c d) : Statement (.invalidationCommand a b c d) := of_event _ rfl
theorem bar2ApertureWrite (a b) : Statement (.bar2ApertureWrite a b) := of_event _ rfl
theorem hostBar2Access (a b c) : Statement (.hostBar2Access a b c) := of_event _ rfl
theorem frameAssign (a b) : Statement (.frameAssign a b) := of_event _ rfl
theorem framePlaceNear (a b c) : Statement (.framePlaceNear a b c) := of_event _ rfl
theorem frameCompress (a b) : Statement (.frameCompress a b) := of_event _ rfl
theorem frameDonate (a b c) : Statement (.frameDonate a b c) := of_event _ rfl
theorem tenantUnbind (a) : Statement (.tenantUnbind a) := of_event _ rfl
theorem record (a b) : Statement (.record a b) := of_event _ rfl
theorem getrec (a b) : Statement (.getrec a b) := of_event _ rfl
theorem share (a b c d) : Statement (.share a b c d) := of_event _ rfl
theorem getVersion (a) : Statement (.getVersion a) := of_event _ rfl
theorem getCapabilities (a) : Statement (.getCapabilities a) := of_event _ rfl
theorem negotiateAlgorithms (a) : Statement (.negotiateAlgorithms a) := of_event _ rfl
theorem getDigests (a) : Statement (.getDigests a) := of_event _ rfl
theorem getCertificate (a b) : Statement (.getCertificate a b) := of_event _ rfl
theorem challenge (a b) : Statement (.challenge a b) := of_event _ rfl
theorem getMeasurements (a b) : Statement (.getMeasurements a b) := of_event _ rfl
theorem keyExchange (a b) : Statement (.keyExchange a b) := of_event _ rfl
theorem finish (a b c) : Statement (.finish a b c) := of_event _ rfl
theorem keyUpdate (a b) : Statement (.keyUpdate a b) := of_event _ rfl
theorem heartbeat (a b) : Statement (.heartbeat a b) := of_event _ rfl
theorem endSession (a b) : Statement (.endSession a b) := of_event _ rfl
theorem lockInterfaceRequest (a) : Statement (.lockInterfaceRequest a) := of_event _ rfl
theorem startInterfaceRequest (a) : Statement (.startInterfaceRequest a) := of_event _ rfl
theorem stopInterfaceRequest (a) : Statement (.stopInterfaceRequest a) := of_event _ rfl
theorem getDeviceInterfaceState (a) : Statement (.getDeviceInterfaceState a) := of_event _ rfl
theorem getDeviceInterfaceReport (a) : Statement (.getDeviceInterfaceReport a) := of_event _ rfl
theorem nypoeloMsg1 (a b) : Statement (.nypoeloMsg1 a b) := of_event _ rfl
theorem nypoeloMsg2 (a b) : Statement (.nypoeloMsg2 a b) := of_event _ rfl
theorem nypoeloMsg3 (a b) : Statement (.nypoeloMsg3 a b) := of_event _ rfl
theorem nypoeloMsg4 (a b) : Statement (.nypoeloMsg4 a b) := of_event _ rfl
theorem nypoeloAbort (a b) : Statement (.nypoeloAbort a b) := of_event _ rfl
theorem fabkeyTimeout (a) : Statement (.fabkeyTimeout a) := of_event _ rfl
theorem sessionPathTimeout (a) : Statement (.sessionPathTimeout a) := of_event _ rfl
theorem fabricPacketReceive (a b) : Statement (.fabricPacketReceive a b) := of_event _ rfl
theorem espIngress (a b) : Statement (.espIngress a b) := of_event _ rfl
theorem espEgress (a) : Statement (.espEgress a) := of_event _ rfl
theorem cxlLinkActive (a) : Statement (.cxlLinkActive a) := of_event _ rfl
theorem cxlLinkError (a) : Statement (.cxlLinkError a) := of_event _ rfl
theorem reset : Statement (.reset) := of_event _ rfl
theorem bringupSlotEnd : Statement (.bringupSlotEnd) := of_event _ rfl
theorem timebaseSync : Statement (.timebaseSync) := of_event _ rfl
theorem managementSet (a) : Statement (.managementSet a) := of_event _ rfl
theorem firmwareUpdate (a b) : Statement (.firmwareUpdate a b) := of_event _ rfl
theorem syscOtherService (a) : Statement (.syscOtherService a) := of_event _ rfl
theorem logRingHeadWrite (a b c) : Statement (.logRingHeadWrite a b c) := of_event _ rfl
theorem dirtyLogHeadWrite (a b c) : Statement (.dirtyLogHeadWrite a b c) := of_event _ rfl
theorem fabkeyPeerRequest (a b) : Statement (.fabkeyPeerRequest a b) := of_event _ rfl
theorem peerSessionClose (a) : Statement (.peerSessionClose a) := of_event _ rfl

end Sys2Proof.Laws.Opc
end

