-- ==== Sys2Proof/Laws/Results.lean ====
section
/-! SUPPORT. What producing a result does, said once (R14, R15, R57), and what setting a predicate does. -/

namespace Sys2Proof.Laws

open Sys2Proof Sys2Proof.Machine Sys2Proof.Safety

theorem getD_set {α : Type} {k : Nat} (r : Vector α k) (d v : α) (n m : Nat) (h : n < k) :
    (r.setIfInBounds n v).toList.getD m d = if n = m then v else r.toList.getD m d := by
  simp only [List.getD_eq_getElem?_getD]
  by_cases hm : n = m
  · subst hm; simp [h]
  · simp [hm]

/-! ### Banks -/

theorem Bank_reg_setReg (b : Bank) (file : RFile) (n : Nat) (v : Word) (file' : RFile) (m : Nat)
    (hn : n < file.size) (hp : file ≠ .p) (hv : isRunFile file = false) :
    (b.setReg file n v).reg file' m =
      if file = file' ∧ n = m ∧ discards file n = false then v else b.reg file' m := by
  cases file <;> simp only [RFile.size, isRunFile, reduceCtorEq, ne_eq, not_true_eq_false, not_false_eq_true] at hn hp hv <;>
    cases file' <;> simp only [Bank.setReg, Bank.reg, discards, reduceCtorEq, false_and, if_false, true_and] <;>
    by_cases h0 : n = 0 <;> by_cases hm : n = m <;>
    first
      | (subst h0; subst hm; simp)
      | (subst h0; simp [hm])
      | (subst hm; simp [h0, hn])
      | (simp [h0, hm])

theorem Bank_setReg_frame (b : Bank) (file : RFile) (n : Nat) (v : Word) : bankFrame b (b.setReg file n v) := by
  unfold bankFrame Bank.setReg
  by_cases h : n = 0 <;> cases file <;> simp [h]

/-! ### Cores -/

/-- The kind of value a register file takes. -/
def fits (file : RFile) : RegVal → Bool
  | .word _ => !isRunFile file && file != .p
  | .run _ => isRunFile file

/-- A register's own value. -/
def own (c : Core) (h : Bool) (file : RFile) (n : Nat) : RegVal :=
  if isRunFile file then .run (c.runReg file n) else .word (c.reg h file n)

theorem settled_eq (c : Core) (h : Bool) (file : RFile) (n : Nat) :
    settled c h file n = match (c.pend.filter fun p => p.names h file n).getLast? with
      | some p => p.val
      | none => own c h file n := rfl

theorem own_writeVal (c : Core) (hnd : Bool) (file : RFile) (n : Nat) (v : RegVal) (h : Bool) (file' : RFile) (m : Nat)
    (hn : n < file.size) (hf : fits file v = true) :
    own (c.writeVal hnd file n v) h file' m =
      if sameReg hnd file n h file' m && !(discards file n) then v else own c h file' m := by
  cases v with
  | word w =>
    simp only [fits, Bool.and_eq_true, Bool.not_eq_true', bne_iff_ne, ne_eq] at hf
    simp only [own, Core.writeVal]
    by_cases hr : isRunFile file' = true
    · have : file ≠ file' := by rintro rfl; simp [hf.1] at hr
      have h2 : ((c.setReg hnd file n w).runReg file' m) = c.runReg file' m := by
        unfold Core.setReg Core.setBank Core.runReg; cases hnd <;> rfl
      simp [sameReg, this, hr, h2]
    · simp only [Bool.not_eq_true] at hr
      simp only [hr, if_false, Bool.false_eq_true, sameReg, hf.1, Bool.false_or]
      by_cases hh : hnd = h
      · subst hh
        have := Bank_reg_setReg (c.bank hnd) file n w file' m hn hf.2 hf.1
        have h3 : (c.setReg hnd file n w).reg hnd file' m = ((c.bank hnd).setReg file n w).reg file' m := by
          unfold Core.setReg Core.setBank Core.reg Core.bank; cases hnd <;> rfl
        rw [h3, this]
        by_cases h1 : file = file' <;> by_cases h2 : n = m <;> by_cases h4 : discards file n <;> simp [h1, h2, h4, Core.reg] <;> simp_all
      · have h3 : (c.setReg hnd file n w).reg h file' m = c.reg h file' m := by
          unfold Core.setReg Core.setBank Core.reg Core.bank; cases hnd <;> cases h <;> simp_all
        simp [hh, h3]
  | run r =>
    have hd : discards file n = false := by cases file <;> simp_all [fits, isRunFile, discards]
    simp only [own, Core.writeVal, hd, sameReg]
    cases file <;> simp [fits, isRunFile] at hf <;> cases file' <;>
      simp only [isRunFile, if_true, if_false, Core.setRun, Core.runReg, Core.reg, Core.bank, Bool.false_eq_true, RFile.size] at hn ⊢ <;>
      first
        | rfl
        | (rw [getD_set _ _ _ _ _ hn]; by_cases hm : n = m <;> simp [hm])

theorem own_pend (c : Core) (ps : List Pend) (i : Nat) (h : Bool) (file : RFile) (n : Nat) :
    own { c with pend := ps, nextId := i } h file n = own c h file n := by
  cases file <;> cases h <;> rfl

theorem writeVal_frame (c : Core) (hnd : Bool) (file : RFile) (n : Nat) (v : RegVal) :
    (c.writeVal hnd file n v) = { c with main := (c.writeVal hnd file n v).main, hnd := (c.writeVal hnd file n v).hnd,
                                         v := (c.writeVal hnd file n v).v, w := (c.writeVal hnd file n v).w }
      ∧ bankFrame c.main (c.writeVal hnd file n v).main ∧ bankFrame c.hnd (c.writeVal hnd file n v).hnd := by
  cases v with
  | word w =>
    have := Bank_setReg_frame (c.bank hnd) file n w
    cases hnd <;> exact ⟨rfl, by first | exact this | exact ⟨rfl, rfl, rfl⟩, by first | exact this | exact ⟨rfl, rfl, rfl⟩⟩
  | run r => cases file <;> exact ⟨rfl, ⟨rfl, rfl, rfl⟩, ⟨rfl, rfl, rfl⟩⟩

theorem settled_push (c : Core) (p : Pend) (i : Nat) (h : Bool) (file : RFile) (n : Nat) :
    settled { c with pend := c.pend ++ [p], nextId := i } h file n =
      if p.names h file n then p.val else settled c h file n := by
  have ho := own_pend c (c.pend ++ [p]) i h file n
  rw [settled_eq, settled_eq]
  by_cases hp : p.names h file n <;> simp [List.filter_append, hp, ho]

theorem owed_push (c : Core) (p : Pend) (i : Nat) (k : Slot) :
    owedFlags { c with pend := c.pend ++ [p], nextId := i } k =
      if k = p.slot then owedFlags c k ||| p.flags else owedFlags c k := by
  unfold owedFlags
  by_cases hk : k = p.slot
  · subst hk; simp [List.filter_append]
  · have : (p.slot == k) = false := by simpa using fun h => hk h.symm
    simp [List.filter_append, hk, this]

theorem settled_write (c : Core) (hnd : Bool) (file : RFile) (n : Nat) (v : RegVal) (h : Bool) (file' : RFile) (m : Nat)
    (hn : n < file.size) (hf : fits file v = true) (he : c.isEmpty hnd file n = false) (hd : discards file n = false) :
    settled (c.writeVal hnd file n v) h file' m = if sameReg hnd file n h file' m then v else settled c h file' m := by
  have hp : (c.writeVal hnd file n v).pend = c.pend := by rw [(writeVal_frame c hnd file n v).1]
  rw [settled_eq, settled_eq, hp, own_writeVal c hnd file n v h file' m hn hf]
  by_cases hs : sameReg hnd file n h file' m
  · have : (c.pend.filter fun p => p.names h file' m) = [] := by
      rw [List.filter_eq_nil_iff]
      intro p hm hq
      have : c.isEmpty hnd file n = true := by
        unfold Core.isEmpty
        rw [List.any_eq_true]
        refine ⟨p, hm, ?_⟩
        simp only [sameReg, Bool.and_eq_true, beq_iff_eq, Bool.or_eq_true] at hs
        obtain ⟨⟨rfl, rfl⟩, hs⟩ := hs
        rcases hs with hs | rfl
        · simp only [Pend.names, hs, Bool.true_or, Bool.and_true] at hq ⊢; exact hq
        · exact hq
      rw [he] at this; cases this
    simp [this, hs, hd]
  · simp [hs]

/-- A result of a legal register: what it comes to hold, the flags to come, and the frame. -/
theorem produce_gives (c : Core) (hnd : Bool) (k : Slot) (hdr : Word) (opc : Nat) (file : RFile) (n : Nat)
    (lat : Option Nat) (v : RegVal) (fl : FlagSet) (hn : n < file.size) (hf : fits file v = true) :
    coreGives c (c.produce hnd k hdr opc file n lat v fl) hnd k file n v fl := by
  have nm (q : Pend) (hq : q.dst = some (file, n)) (hh : q.hnd = hnd) (h : Bool) (file' : RFile) (m : Nat) :
      q.names h file' m = sameReg hnd file n h file' m := by
    unfold Pend.names sameReg
    rw [hq, hh]
    have e : (some (file, n) == some (file', m)) = (file == file' && n == m) := by
      rw [Bool.eq_iff_iff]; simp
    rw [e]
    by_cases h1 : file = file'
    · subst h1; rfl
    · rw [beq_eq_false_iff_ne.mpr h1]; rfl
  have nz (q : Pend) (hq : q.dst = none) (h : Bool) (file' : RFile) (m : Nat) : q.names h file' m = false := by
    unfold Pend.names; rw [hq]; rfl
  unfold Core.produce
  by_cases hd : discards file n
  · simp only [hd, if_true]
    by_cases h0 : fl = 0
    · subst h0
      simp only [if_true]
      refine ⟨⟨rfl, ⟨rfl, rfl, rfl⟩, ⟨rfl, rfl, rfl⟩⟩, ?_, ?_⟩
      · intro h file' m; simp [hd, settled_eq, own_pend c c.pend (c.nextId + 1)]
      · intro k'; simp [owedFlags]
    · simp only [h0, if_false]
      refine ⟨⟨rfl, ⟨rfl, rfl, rfl⟩, ⟨rfl, rfl, rfl⟩⟩, ?_, ?_⟩
      · intro h file' m; rw [settled_push, nz _ rfl]; simp [hd]
      · intro k'; rw [owed_push]
  · simp only [hd, if_false, Bool.false_eq_true]
    split
    · rename_i hl
      have he : Core.isEmpty { c with nextId := c.nextId + 1 } hnd file n = false := by simpa using hl.2
      have hp : (Core.writeVal { c with nextId := c.nextId + 1 } hnd file n v).pend = c.pend := by
        rw [(writeVal_frame _ hnd file n v).1]
      have hw := fun h file' m => settled_write { c with nextId := c.nextId + 1 } hnd file n v h file' m hn hf he
        (by simpa using hd)
      have ho := fun h file' m => own_pend c c.pend (c.nextId + 1) h file' m
      have hc : ∀ h file' m, settled { c with nextId := c.nextId + 1 } h file' m = settled c h file' m := by
        intro h file' m; rw [settled_eq, settled_eq, ho]
      have fr := writeVal_frame { c with nextId := c.nextId + 1 } hnd file n v
      generalize Core.writeVal { c with nextId := c.nextId + 1 } hnd file n v = d at hp hw fr
      by_cases h0 : fl = 0
      · subst h0
        simp only [if_true]
        refine ⟨⟨?_, fr.2.1, fr.2.2⟩, ?_, ?_⟩
        · rw [fr.1]
        · intro h file' m; rw [hw, hc]; simp [hd]
        · intro k'; simp [owedFlags, hp]
      · simp only [h0, if_false]
        refine ⟨⟨?_, fr.2.1, fr.2.2⟩, ?_, ?_⟩
        · rw [fr.1]
        · intro h file' m
          have := settled_push d ⟨c.nextId, hnd, k, hdr, opc, none, lat.map fun l => c.clk + l, v, fl⟩ d.nextId h file' m
          rw [show ({ d with pend := d.pend ++ [_], nextId := d.nextId } : Core) = { d with pend := d.pend ++ [_] } from rfl] at this
          rw [this, nz _ rfl, hw, hc]
          simp [hd]
        · intro k'
          have := owed_push d ⟨c.nextId, hnd, k, hdr, opc, none, lat.map fun l => c.clk + l, v, fl⟩ d.nextId k'
          rw [show ({ d with pend := d.pend ++ [_], nextId := d.nextId } : Core) = { d with pend := d.pend ++ [_] } from rfl] at this
          rw [this]
          simp [owedFlags, hp]
    · refine ⟨⟨rfl, ⟨rfl, rfl, rfl⟩, ⟨rfl, rfl, rfl⟩⟩, ?_, ?_⟩
      · intro h file' m
        rw [settled_push, nm _ rfl rfl]
        simp [hd]
      · intro k'; rw [owed_push]

/-- A result of the issuing instruction. -/
theorem result_gives (s : State) (f : Fields) (opc : Nat) (file : RFile) (n : Nat) (lat : Option Nat) (v : RegVal)
    (fl : FlagSet) (hn : n < file.size) (hf : fits file v = true) :
    gives s (s.result f opc file n lat v fl) f.slot file n v fl :=
  ⟨rfl, produce_gives s.bun.cur s.bun.hnd f.slot s.bun.hdr opc file n lat v fl hn hf⟩

/-! ### Predicates -/

theorem Bank_pred_setPred (b : Bank) (n : Nat) (v : Bool) (m : Nat) (hn : n < 16) (hm : m < 16) :
    (b.setPred n v).pred m = if m = n ∧ n ≠ 0 then v else b.pred m := by
  unfold Bank.setPred Bank.pred
  by_cases h0 : n = 0
  · simp [h0]
  · have hnot : ¬(n = 0 ∨ 16 ≤ n) := by omega
    rw [if_neg hnot]
    by_cases h : m = n
    · subst h; cases v <;> simp [h0, hm]
    · have : m - n ≠ 0 ∨ m < n := by omega
      cases v <;> simp only [h, hm, false_and, if_false, Bool.false_eq_true, if_true] <;> rcases this with h2 | h2 <;>
        simp [hm, h2]

theorem setPred_sets (c : Core) (hnd : Bool) (n : Nat) (b : Bool) (hn : n < 16) :
    coreSets c (c.setPred hnd n b) hnd n b := by
  refine ⟨?_, ?_⟩
  · intro h m hm
    have := Bank_pred_setPred (c.bank hnd) n b m hn hm
    cases hnd <;> cases h <;> simp_all [Core.pred, Core.setPred, Core.setBank, Core.bank]
  · have hb : ∀ x : Bank, x.setPred n b = { x with preds := (x.setPred n b).preds } := by
      intro x; unfold Bank.setPred; split <;> rfl
    cases hnd
    · simp only [Core.setPred, Core.setBank, Core.bank, Bool.false_eq_true, if_false]
      rw [hb c.main]
    · simp only [Core.setPred, Core.setBank, Core.bank, if_true]
      rw [hb c.hnd]

end Sys2Proof.Laws
end

