-- ==== Sys2Proof/Tests/Slice0.lean ====
section
/-! SUPPORT. Tests: ill-formed terms that the check refuses, worked encodings of the spec, and for each statement with
hypotheses concrete states and operands that meet them. -/

set_option maxRecDepth 1000000
set_option Elab.async false

namespace Sys2Proof.Tests

open Sys2Proof Sys2Proof.Machine Sys2Proof.Safety

/-! ### Small states -/

/-- A translation of the first GiB of context 0 to itself. -/
def flatTlb : TlbEntry := ⟨0, 0, 2 ^ 30, 0, true, false, false, 0⟩

/-- Core k of a gang of two, in mode S, with run registers of one element. -/
def coreA (k : Nat) : Core :=
  { placed := some 2, modeS := true, clk := 40, gang := BitVec.ofNat 64 (k + 2 * 2 ^ 11 + 8 * 2 ^ 23 + 2 ^ 27),
    trapvec := 0x1000, tlb := [flatTlb], mq := { base := 0, size := 16 }, credits := 16 }

/-- A launch of function 0, and its gang on cores 0 and 1. -/
def launchA : Launch :=
  { id := 1, queue := 0, slot := 0, vf := 0, ctx := 0, s := true, record := false, code := 0x40, args := 0, formes := [], gsize := 2,
    tags := 8, gcount := 1, mqbase := 0, mqsize := 16, trapvec := 0x1000, done := 0, inc := 0, nextGang := 1 }

def gangA : Gang := { id := 2, launch := 1, gidx := 0, token := 1, tags := 8, cores := [0, 1] }

/-- Context 0 of function 0: its tables map the first GiB to itself; rings and areas lie in frame 1. -/
def ctxA : Context :=
  { vf := some 0, enable := true, ptroot := 0, weight := 1, saveDva := 0x20000, saveLen := 0x2000000, dumpDva := 0x10000,
    dumpLen := 0x1000, fqDva := 0x18000, fqLen := 16, logDva := 0x19000, logLen := 16 }

def vfA : Vf := { tdisp := .run, bind := .bound, frameQuota := 100, queueQuota := 8, spdmStep := 3 }

def frameA : Frame := { valid := true }

/-- A queue of function 0 whose ring is empty. -/
def queueA : Queue := { ring := 0x1A000, nrec := 16, prio := 1, state := .idle }

/-- A module with that launch running, and memory that holds its tables alone. -/
def sysA : Sys :=
  { boot := .up, tick := 1000, launches := [launchA], gangs := [gangA], nextId := 3, nextToken := 2,
    contexts := [(0, ctxA)], vfs := [(0, vfA)], frames := [(0, frameA), (1, frameA), (2, frameA), (3, frameA)],
    mem := [(0, 1), (1, 0x10), (4096, 1), (4097, 0x20), (8192, 7)], queues := [(0, queueA)], doorbells := [(0, 0)],
    beds := [(0, 0)], bedNow := [(0, 0)], clean := [4] }

/-- That module with core 0 issuing a bundle of two words at 0x40. -/
def stateA : State :=
  { cores := [(0, coreA 0), (1, coreA 1)], sys := sysA,
    bun := { core := 0, hdr := 0x40, words := 2, pre := coreA 0, cur := coreA 0, since := 40 } }

/-- The same with another core behind the bundle, as read and as it stands. -/
def withCore (c : Core) : State :=
  { stateA with cores := [(0, c), (1, coreA 1)], bun := { stateA.bun with pre := c, cur := c } }

theorem test_stateA_canonical : Canonical stateA := by
  constructor
  · decide
  · intro e h
    simp only [stateA, List.mem_cons, List.not_mem_nil, or_false] at h
    rcases h with rfl | rfl <;> decide

/-- Fields with an a register, a b register and a destination. -/
def fld (k : Slot) (l : Len) (d a b : BitVec 5) : Fields := { plainFields k l with d := d, a := a, b := b }

/-! ### WellFormed: an ill-formed term for each check -/

theorem test_wf_add : (Instr.add (fld .sa .one 3 1 2)).wf = true := by decide
/-- SA has no divider: only SB decodes Table 2-9 (R41). -/
theorem test_wf_slot : (Instr.div (fld .sa .one 3 1 2)).wf = false := by decide
/-- A slot of another class (R41). -/
theorem test_wf_class : (Instr.add (fld .ctl .one 3 1 2)).wf = false := by decide
/-- The immediate form needs length 2 or 3 (R42). -/
theorem test_wf_length : (Instr.addImm (fld .sa .one 3 1 0)).wf = false := by decide
/-- A field that the instruction does not use is not zero (R36). -/
theorem test_wf_unused : (Instr.nop { plainFields .ctl .one with d := 1 }).wf = false := by decide
/-- A register number that its file does not have (R36): the a file has 24. -/
theorem test_wf_register : (Instr.amov (fld .aga .one 24 1 0)).wf = false := by decide
/-- Fields of words that the instruction does not have (R33). -/
theorem test_wf_absent : (Instr.add { fld .sa .one 3 1 2 with l32 := 1 }).wf = false := by decide
/-- A scope of STG that Table 12-1 does not have (R40). -/
theorem test_wf_scope : (Instr.stg { plainFields .aga .two with a := 3, c := 6, t := 4, rm := 2, sc := 5 }).wf = false := by
  decide
theorem test_wf_core : (Instr.resultLand 2048).wf = false ∧ (Instr.resultLand 2047).wf = true := by decide
theorem test_wf_group : (Instr.spGroupWakeDone 0 8).wf = false := by decide
theorem test_wf_pair : (Instr.mqEntryArrival 0 2048).wf = false := by decide
theorem test_wf_tag : (Instr.barrierRelease 1 8).wf = false := by decide
theorem test_wf_function : (Instr.gangPlace 64).wf = false := by decide
theorem test_wf_doorbell : (Instr.doorbellWrite 0 512 8 0).wf = false ∧ (Instr.doorbellWrite 0 0 9 0).wf = false := by decide
theorem test_wf_queue : (Instr.nopRecord 8192).wf = false := by decide
theorem test_wf_cluster : (Instr.collEntry 8).wf = false ∧ (Instr.walkComplete 8 0 0).wf = false := by decide
theorem test_wf_context : (Instr.migrationStop 256).wf = false := by decide
theorem test_wf_island : (Instr.thermalTrip 16).wf = false := by decide
theorem test_wf_port : (Instr.cxlLinkActive 4).wf = false := by decide

/-! ### Worked encodings -/

/-- Table 2-14: SA's ADD of a 32-bit literal, and AGA's LD. -/
theorem test_decode_add_imm : decodeSlot .sa [0x00294082#32, 0#32, 0x00010000#32] =
    (.ok (.addImm { fld .sa .three 5 5 0 with l32 := 0x10000 }), some []) := by decide
theorem test_decode_ld : decodeSlot .aga [0x0019C081#32, 0x004040C0#32] =
    (.ok (.ld { fld .aga .two 7 3 0 with t := 3, sc := 2, i16 := 0x0040 }), some []) := by decide
/-- Table 9-4: `bars 3` and `waitx.eq.pkg x5, x6`. -/
theorem test_decode_bars : decodeSlot .ctl [0x00000E81#32, 0x00030000#32] =
    (.ok (.bars { plainFields .ctl .two with i16 := 3 }), some []) := by decide
theorem test_decode_waitx : decodeSlot .ctl [0x86280C81#32, 0x00004000#32] =
    (.ok (.waitx { fld .ctl .two 0 5 6 with v := true, sc := 2 }), some []) := by decide
/-- Table 12-3: `ldg.s64.acq.pkg a5, [a3]`, and `.acq` on STG, which R40 refuses with reason 0x5. -/
theorem test_decode_ldg : decodeSlot .aga [0x00194181#32, 0x00004500#32] =
    (.ok (.ldg { fld .aga .two 5 3 0 with t := 4, rm := 1, sc := 2 }), some []) := by decide
theorem test_decode_stg_acq : (decodeSlot .aga [0x00180201#32, 0x00004506#32]).1 = .error 5 := by decide
/-- The program of chapter 13: `atomg.or.s64 a8, [a15], a10`. -/
theorem test_decode_atomg : decodeSlot .aga [0x007A0901#32, 0x0002010A#32] =
    (.ok (.atomg { fld .aga .two 8 15 0 with c := 10, t := 4, i16 := 2 }), some []) := by decide
/-- Table 15-6: MLOAD, MSWAP, MMUL on a galley, MDRAIN, MSTAT. -/
theorem test_decode_mload : decodeSlot .xe [0x05080082#32, 0x00010000#32, 0x00002080#32] =
    (.ok (.mload { fld .xe .three 0 1 5 with i16 := 1, l32 := 0x2080 }), some []) := by decide
theorem test_decode_mswap : decodeSlot .xe [0x00000100#32] = (.ok (.mswap (plainFields .xe .one)), some []) := by decide
theorem test_decode_mmul : decodeSlot .xe [0x02000182#32, 0x1C010000#32, 0x40#32] =
    (.ok (.mmul { fld .xe .three 0 0 2 with i16 := 0x1C01, l32 := 0x40 }), some []) := by decide
theorem test_decode_mdrain : decodeSlot .xe [0x02300281#32, 0x02180009#32] =
    (.ok (.mdrain { fld .xe .two 0 6 2 with c := 9, i16 := 0x0218 }), some []) := by decide
theorem test_decode_mstat : decodeSlot .xe [0x8001C381#32, 0x00020000#32] =
    (.ok (.mstat { fld .xe .two 7 0 0 with v := true, i16 := 2 }), some []) := by decide
/-- The programs of chapters 17, 18 and 21. -/
theorem test_decode_galset : decodeSlot .xe [0x05200881#32, 0x00180006#32] =
    (.ok (.galset { fld .xe .two 0 4 5 with c := 6, i16 := 0x18 }), some []) := by decide
theorem test_decode_smsg : decodeSlot .xe [0x00000A02#32, 0x02000009#32, 0x1234#32] =
    (.ok (.smsg { plainFields .xe .three with c := 9, i16 := 0x200, l32 := 0x1234 }), some []) := by decide
theorem test_decode_vmodmul : decodeSlot .vb [0x8208DD81#32, 0x00020000#32] =
    (.ok (.vmodmul { fld .vb .two 3 1 2 with v := true, i16 := 2 }), some []) := by decide
theorem test_decode_loops : decodeSlot .ctl [0x00000302#32, 0x40080000#32, 0x10#32] =
    (.ok (.loops { plainFields .ctl .three with i16 := 0x4008, l32 := 0x10 }), some []) := by decide
theorem test_decode_waitev : decodeSlot .ctl [0x00481481#32, 0#32] =
    (.ok (.waitev (fld .ctl .two 0 9 0)), some []) := by decide
/-- Table 22-11: SCRUB of a scratchpad range and of pages, KSTAT. -/
theorem test_decode_scrub_sp : decodeSlot .xe [0x05201181#32, 0x00000003#32] =
    (.ok (.scrubSp { fld .xe .two 0 4 5 with c := 3 }), some []) := by decide
theorem test_decode_scrub_pages : decodeSlot .xe [0x00081181#32, 0x00020003#32] =
    (.ok (.scrubPages { fld .xe .two 0 1 0 with c := 3, i16 := 2 }), some []) := by decide
theorem test_decode_kstat : decodeSlot .xe [0x0011D281#32, 0x00020000#32] =
    (.ok (.kstat { fld .xe .two 7 2 0 with i16 := 2 }), some []) := by decide
/-- The length code 0b11 (Table 1-6, code 0x2). -/
theorem test_decode_length : (decodeSlot .sa [0x0208C083#32]).1 = .error 2 := by decide
/-- Table 1-5: the whole bundle of ADD and SUB, three words. -/
theorem test_decode_bundle : (decodeBundle false [0xB4000006#32, 0x0208C080#32, 0x2629014C#32, 0xB4000000#32]) =
    .ok ⟨3, [(.sa, .add (fld .sa .one 3 1 2)),
      (.sb, .sub { fld .sb .one 4 5 6 with g := 3, gn := true, wa := true })]⟩ := by decide
/-- A header with a wrong marker is illegal (code 0x1). -/
theorem test_decode_header : (decodeBundle false [0xB0000001#32]) = .error ⟨true, []⟩ := by decide

/-! ### Witnesses: scalar and address instructions, predicates -/

theorem witness_SlotFrame :
    (Instr.add { fld .sa .one 3 1 2 with gn := true }).slotPart = some (1, { fld .sa .one 3 1 2 with gn := true })
      ∧ guardOf { fld .sa .one 3 1 2 with gn := true } stateA = false
      ∧ guardOf { fld .sa .one 3 1 2 with g := 1 } stateA = false := by decide +kernel

theorem witness_IntegerResults :
    guardOf (fld .sa .one 31 1 2) stateA = true ∧ guardOf (fld .sb .one 31 1 2) stateA = true := by decide +kernel

theorem witness_BitResults :
    let f := fld .sa .two 3 1 2
    let g := fun n => { f with i16 := n }
    let len := fun n => (g n).i16.toNat / 64 % 128
    guardOf f stateA = true ∧ (1 ≤ len 64 ∧ 0 + len 64 ≤ 64) ∧ (1 ≤ len (64 + 63) ∧ 63 + len (64 + 63) ≤ 64)
      ∧ (1 ≤ len 4096 ∧ 0 + len 4096 ≤ 64) ∧ { f with len := .three }.len = .three := by decide +kernel

theorem witness_PredicateResults : guardOf (fld .sa .one 15 1 2) stateA = true ∧ (15#5).toNat < 16 := by decide +kernel

theorem witness_Division :
    guardOf (fld .sb .one 3 1 2) stateA = true
      ∧ ¬(stateA.bun.cur.clk < stateA.bun.cur.divFree)
      ∧ (withCore { coreA 0 with divFree := 41 }).bun.cur.clk < 41 := by decide +kernel

/-- The least modulus, and the greatest that R66 takes. -/
theorem witness_ModularResults :
    let q := fun (s : State) => (s.bun.pre.modq.toList.getD 0 3#64).toNat
    let s := withCore { coreA 0 with modq := Vector.replicate 8 0x3FFFFFFFFFFFFFFF#64 }
    guardOf (fld .sb .one 3 1 2) stateA = true ∧ q stateA = 3 ∧ guardOf (fld .sb .one 3 1 2) s = true ∧ 3 ≤ q s
      ∧ q s < 2 ^ 62 := by decide +kernel

theorem witness_FloatResults : guardOf (fld .sb .one 15 1 2) stateA = true ∧ (15#5).toNat < 16 := by decide +kernel

/-- A core whose modifier a1 is v. -/
def modState (v : Word) : State := withCore ((coreA 0).setReg false .a 1 v)

theorem witness_MovesAndModifiers :
    let f := fld .aga .two 23 1 2
    let m := fun v => (opA f (modState v)).extractLsb' 62 2
    let len := fun v => ((opA f (modState v)).extractLsb' 32 24).toNat
    (f.slot ≠ .ctl ∧ f.slot ≠ .va ∧ f.slot ≠ .vb ∧ f.d.toNat < f.slot.file.size ∧ guardOf f stateA = true)
      ∧ f.len = .two ∧ { f with len := .three }.len = .three ∧ f.d.toNat < 24
      ∧ m 8 = 0 ∧ (m 0x4000000000000000 = 1 ∧ len 0x4000000000000000 = 0) ∧ (m 0x4000000500000008 = 1 ∧ 0 < len 0x4000000500000008)
      ∧ m 0x8800000000000001 = 2 ∧ m 0xC000000000000000 = 3 ∧ guardOf f (modState 8) = true := by decide +kernel

/-! ### Witnesses: run vectors -/

/-- v1 = (1, 1.0 × 2), v2 = (2.0 × 2), v3 a mask, as F32. -/
def coreRuns : Core :=
  (((coreA 0).setRun .v 1 ⟨0x01, [(0x3F800000, 1), (0x40000000, 1)]⟩).setRun .v 2 ⟨0x01, [(0x40000000, 2)]⟩).setRun .v 3
    ⟨0x30, [(1, 2)]⟩

/-- v1 with 128 slugs, v2 with two slugs: their sum has as many. -/
def coreLong : Core :=
  ((coreA 0).setRun .v 1 ⟨0x14, (List.range 128).map fun k => (BitVec.ofNat 64 (k % 2), 2)⟩).setRun .v 2
    ⟨0x14, [(0, 1), (1, 255)]⟩

def okOf {ε α : Type} (e : Except ε α) : Bool := match e with
  | .ok _ => true
  | .error _ => false

def forme32 : Forme := BitVec.ofNat 256 (0x01 + 2 * 2 ^ 8 + 2 * 2 ^ 32 + 2 * 2 ^ 64 + 8 * 2 ^ 96)

theorem witness_RunResults :
    let f := fld .va .two 15 1 2
    let s := withCore { coreRuns with formes := Vector.replicate 64 forme32 }
    guardOf f s = true ∧ unitFree f s.bun.cur ≤ s.bun.cur.clk ∧ f.d.toNat < 16 ∧ f.rm ≠ 4
      ∧ (match runBin .add f.v (rmode f) (runA f s) (runB f s) (runMask f s) with
          | .ok x => decide (s.bun.since + x.hold ≤ s.bun.cur.clk)
          | .error _ => false) = true
      ∧ okOf (runCvt f.v (cvtTag 0) 3 0 [] (runA f s)) = true
      ∧ (formeOf f s).empty = false ∧ (formeOf f s).runpk = false
      ∧ okOf (runQnt f.v (formeOf f s) 3 0 [] (runA f s)) = true := by decide +kernel

theorem witness_RunScalars :
    let f := { fld .va .two 15 1 0 with sc := 1 }
    let s := withCore coreRuns
    guardOf f s = true ∧ unitFree f s.bun.cur ≤ s.bun.cur.clk ∧ f.d.toNat < (fileOfCode f.slot.file f.sc).size
      ∧ { f with i16 := 1 }.i16.toNat < (elements (runA f s)).length
      ∧ (match runRed .sum (runA f s) (runMask f s) with
          | .ok _ => true
          | .error _ => false) = true
      ∧ s.bun.since ≤ s.bun.cur.clk
      ∧ isRunFile (fileOfCode f.slot.file f.sc) = false ∧ isRunFile (fileOfCode f.slot.file 5) = true ∧ f.v = false
      ∧ (s.rdRun (fileOfCode f.slot.file 5) f.a.toNat).slugs.length = 2
      ∧ (match capacity true (s.rdRun (fileOfCode f.slot.file 5) f.a.toNat).tag (s.rdRun (fileOfCode f.slot.file 5) f.a.toNat).slugs 0 with
          | .ok x => decide (s.bun.since + x.hold ≤ s.bun.cur.clk)
          | .error _ => false) = true := by decide +kernel

theorem witness_ButterflyAndDraws :
    let f := { fld .va .two 15 1 0 with rm := 4 }
    let s := withCore { coreRuns with rng := { words := [7] }, formes := Vector.replicate 64 forme32 }
    let n := ((runA f s).slugs.length + 3) / 4
    (guardOf f s = true ∧ unitFree f s.bun.cur ≤ s.bun.cur.clk ∧ s.bun.cur.rng.words = s.bun.pre.rng.words
      ∧ n ≤ s.bun.pre.rng.words.length ∧ okOf (runCvt f.v (cvtTag 0) 3 4 (s.bun.pre.rng.words.take n) (runA f s)) = true
      ∧ (formeOf f s).empty = false ∧ (formeOf f s).runpk = false ∧ (formeOf f s).mxb = false
      ∧ okOf (runQnt f.v (formeOf f s) 3 4 (s.bun.pre.rng.words.take n) (runA f s)) = true)
      ∧ (withCore coreRuns).bun.pre.rng.words.length < n
      ∧ ({ fld .vb .two 14 1 2 with c := 3 }).d.toNat + 1 < 16
      ∧ okOf (runBfly false 3 ⟨0x19, [(1, 1)]⟩ ⟨0x19, [(2, 1)]⟩ ⟨0x19, [(1, 1)]⟩) = true := by decide +kernel

/-- v1 and v2 with 100 and 101 slugs whose bounds differ: their sum has 200 segments, and 100 slugs once merged under V. -/
def coreNear : Core :=
  ((coreA 0).setRun .v 1 ⟨0x14, (List.range 100).map fun k => (BitVec.ofNat 64 k, 2)⟩).setRun .v 2
    ⟨0x14, (0, 1) :: (List.replicate 99 (0, 2) ++ [(0, 1)])⟩

theorem witness_RunTraps :
    let f := fld .va .two 4 1 2
    let g := { f with v := true }
    let s := withCore coreRuns
    let busy := withCore { coreRuns with runFree := (41, 0) }
    let short := withCore (coreRuns.setRun .v 2 ⟨0x01, [(0, 3)]⟩)
    let early (c : Core) : State := { withCore c with bun := { (withCore c).bun with since := 0 } }
    let r := fun (f : Fields) (s : State) => runBin .add f.v (rmode f) (runA f s) (runB f s) (runMask f s)
    guardOf f s = true ∧ unitFree f s.bun.cur ≤ s.bun.cur.clk ∧ busy.bun.cur.clk < unitFree f busy.bun.cur
      ∧ (match r f short with
          | .error (.lenmis _) => true
          | _ => false) = true
      ∧ (match r f (early coreLong) with
          | .error (.runovf _ n) => decide ((early coreLong).bun.since + n ≤ (early coreLong).bun.cur.clk)
          | _ => false) = true
      ∧ (match r g (withCore coreNear) with
          | .ok x => decide ((withCore coreNear).bun.cur.clk < (withCore coreNear).bun.since + x.hold)
          | _ => false) = true
      ∧ ((withCore coreNear).bun.hold = none
          ∧ { (withCore coreNear).bun with hold := some (.untilClk 50) }.hold = some (.untilClk 50))
      ∧ (match r g (withCore coreLong) with
          | .error (.runovf _ n) => decide ((withCore coreLong).bun.cur.clk < (withCore coreLong).bun.since + n)
          | _ => false) = true
      ∧ (elements (runA f s)).length ≤ { f with i16 := 2 }.i16.toNat ∧ (elements (s.rdRun .v 4)).length ≤ 2 := by decide +kernel

/-- Lengths 2 and 3 agree with no length; a mask of another length; a draw that overflows with its words there, and formes that
VQNT refuses, takes, and takes by blocks. -/
theorem witness_RunTraps_others :
    let f := { fld .va .two 4 1 2 with rm := 4, i16 := 0x8000 }
    let many (n : Nat) : List (Word × Nat) := (List.range n).map fun k => (BitVec.ofNat 64 k, 1)
    let long : Core := { (coreA 0).setRun .v 1 ⟨0x14, many 129⟩ with rng := { words := List.replicate 33 7 } }
    let s := withCore { long with formes := Vector.replicate 64 forme32 }
    let blocks : Forme := BitVec.ofNat 256 (0x04 + 2 ^ 8 + 2 ^ 13 + 32 * 2 ^ 16 + 32 * 2 ^ 32)
    let ovf (r : Except RunErr RunRes) : Bool := match r with
      | .error (.runovf _ _) => true
      | _ => false
    let short := withCore ((coreRuns.setRun .v 3 ⟨0x30, [(1, 3)]⟩))
    (∀ l, ¬((2 = 1 ∨ 2 = l) ∧ (3 = 1 ∨ 3 = l))) ∧ guardOf f s = true ∧ f.rm = 4 ∧ (129 + 3) / 4 ≤ s.bun.pre.rng.words.length
      ∧ ovf (runCvt f.v (cvtTag 0) 3 4 (s.bun.pre.rng.words.take 33) (runA f s)) = true
      ∧ ovf (runQnt f.v forme32 3 4 (s.bun.pre.rng.words.take 33) (runA f s)) = true
      ∧ (formeOf f (withCore long)).empty = true ∧ (formeOf f s).empty = false ∧ (formeOf f s).runpk = false ∧ (formeOf f s).mxb = false
      ∧ blocks.mxb = true
      ∧ (match runRed .sum (runA f short) (runMask { f with c := 3 } short) with
          | .error (.lenmis _) => true
          | _ => false) = true
      ∧ isRunFile (fileOfCode .v 5) = true ∧ ovf (capacity false 0x14 (many 129) 0) = true := by
  refine ⟨fun l => by omega, ?_⟩
  decide +kernel

theorem witness_RunElements :
    let a : RunReg := ⟨0x14, [(1, 2), (5, 1)]⟩
    let b : RunReg := ⟨0x14, [(3, 1)]⟩
    let c : RunReg := ⟨0x30, [(1, 1), (0, 2)]⟩
    let blocks : Forme := BitVec.ofNat 256 (0x04 + 2 ^ 8 + 2 ^ 13 + 32 * 2 ^ 16 + 32 * 2 ^ 32)
    let full (r : RunReg) : Prop := ∀ p ∈ r.slugs, 0 < p.2
    okOf (runBin .add true .rne a b none) = true ∧ okOf (runBin .add false .rne a b (some c)) = true
      ∧ okOf (runFma false .rne a b c) = true ∧ okOf (runAbs true a) = true ∧ okOf (runNeg true a) = true
      ∧ okOf (runCmp .lt true a b none) = true ∧ okOf (runCmp .lt true a b (some c)) = true ∧ okOf (runSel true a b c) = true
      ∧ okOf (runSf true sfSqrt a) = true ∧ okOf (runMod modAdd true 3 a b none) = true
      ∧ okOf (runMod modAdd true 3 a b (some c)) = true ∧ okOf ((runBfly true 3 a b c).map Prod.fst) = true
      ∧ okOf (runBscale true a b none) = true ∧ okOf (runBscale true a b (some c)) = true
      ∧ okOf (runCvt true 0x01 3 3 [] a) = true ∧ okOf (runCvt false 0x01 3 4 [7] a) = true
      ∧ (forme32.mxb = false ∧ okOf (runQnt true forme32 3 3 [] a) = true ∧ okOf (runQnt false forme32 3 4 [7] a) = true)
      ∧ (blocks.mxb = true ∧ full a ∧ okOf (runQnt true blocks 3 0 [] a) = true)
      ∧ okOf (runIota true 9 a) = true ∧ (∀ p ∈ a.slugs, 0 < p.2 ∧ p.2 < 2 ^ 64)
      ∧ okOf (runCat false a b) = true ∧ okOf (runSlice false a 3 1) = true
      ∧ okOf (runSetl false a 2) = true ∧ okOf (runSetl true a 5) = true ∧ (elements a).length < 5
      ∧ okOf (runPut false a 9 2) = true := by decide +kernel

/-! ### Witnesses: control -/

/-- Core 0 with x1 = v. -/
def xState (v : Word) : State := withCore ((coreA 0).setReg false .x 1 v)

theorem witness_Transfers :
    let f := fld .ctl .two 3 1 0
    let ok := fun v => decide (((xState v).rd .x f.a.toNat).toNat % 4 = 0 ∧ ((xState v).rd .x f.a.toNat).toNat < 2 ^ 56)
    guardOf f (xState 4) = true ∧ ok 0 = true ∧ ok 0xFFFFFFFFFFFFFC = true ∧ ok 2 = false ∧ ok 0x100000000000000 = false := by
  decide +kernel

/-- Core 0 with a loop stack. -/
def loopState (ls : List LoopEntry) : State := withCore { coreA 0 with main := { loops := ls } }

/-- A plain entry, and one of two stages. -/
def entryA : LoopEntry := { start := 0x40, stopAt := 0x60, n := 4, lim := 4 }
def entryB : LoopEntry := { entryA with staged := true, stages := 2 }

theorem witness_Loops :
    let f := { fld .ctl .two 3 1 0 with i16 := 8 }
    let full := fun (s : State) => 6 ≤ (s.bun.pre.bank s.bun.hnd).loops.length
    guardOf f (loopState []) = true ∧ ¬full (loopState [entryA]) ∧ (loopState [entryA]).rd .x 1 = 0
      ∧ ¬full (xState 5) ∧ (xState 5).rd .x 1 ≠ 0
      ∧ full (loopState (List.replicate 6 entryA))
      ∧ (loopState [entryB]).bun.pre.frozen false < 1 ∧ entryB.staged = true ∧ entryA.staged = false
      ∧ (loopState []).bun.pre.frozen false = 0
      ∧ (loopState [entryA, entryB]).bun.pre.main.loops[1]? = some entryB ∧ 1 < entryB.stages
      ∧ entryB.stages ≤ 2 ∧ (loopState [entryA]).bun.pre.main.loops[1]? = none := by decide +kernel

theorem witness_TrapsAndServices :
    let f := { fld .ctl .two 3 1 0 with i16 := 1 }
    let handler := { coreA 0 with intrap := true, traprec := 0x00010104, trappc := 0x80, main := { loops := [entryA] } }
    let p : Pend := ⟨9, false, .sb, 0, 0x0C, some (.y, 3), some 60, .word 0, 0⟩
    guardOf f stateA = true ∧ stateA.bun.pre.intrap = false
      ∧ (handler.intrap = true ∧ handler.main.loops.length = handler.traprec.toNat / 2 ^ 16 % 8)
      ∧ (∃ q ∈ [p], q.hnd = stateA.bun.hnd ∧ ¬(10 ≤ q.id)) ∧ (∀ q ∈ [p], q.hnd = stateA.bun.hnd → 9 ≤ q.id)
      ∧ (stateA.bun.cur.pend = [] ∧ stateA.bun.cur.mats = [] ∧ stateA.bun.cur.flags &&& stateA.bun.cur.flagen = 0#64)
      ∧ ({ coreA 0 with flags := 0x20000, flagen := 0x20000 }).flags &&& 0x20000#64 ≠ 0#64
      ∧ f.d.toNat < 16 ∧ ({ coreA 0 with modeS := false }).modeS = false
      ∧ (stateA.bun.pre.modeS = true ∧ 2 ^ 32 ≤ ((xState 0x100000000).rd .x 1).toNat)
      ∧ ((xState 0xFFFFFFFF).rd .x 1).toNat < 2 ^ 32 := by decide +kernel

theorem witness_FlagsAndControlRegisters :
    let f := fun n : BitVec 16 => { fld .ctl .two 3 1 0 with i16 := n }
    let q := (coreA 0).mq
    let two : MsgQueue := { q with used := 2, head := 15, arriving := [(0, List.replicate 64 0, false)] }
    let written (q : MsgQueue) : Nat := q.used - (q.arriving.map fun e => e.2.1.length / 64).sum
    guardOf (f 0x010) stateA = true ∧ (f 0x010).i16.toNat ≠ 0x023 ∧ (f 0x023).i16.toNat = 0x023 ∧ stateA.bun.landed = [] ∧ stateA.bun.cur.recording = false
      ∧ stateA.bun.pre.modeS = true
      ∧ (((xState 3).rd .x 1).toNat % 2 = 1 ∧ 3 ≤ ((xState 3).rd .x 1).toNat ∧ ((xState 3).rd .x 1).toNat < 2 ^ 62)
      ∧ ¬(3 ≤ ((xState 1).rd .x 1).toNat) ∧ ¬(((xState 4).rd .x 1).toNat % 2 = 1)
      ∧ (q.used = 0 ∧ geometryOk (0x1000 % 2 ^ 21) q.size = true) ∧ geometryOk 8 q.size = false
      ∧ geometryOk q.base 4096 = true ∧ geometryOk q.base 8192 = false ∧ ({ q with used := 1 }).used ≠ 0
      ∧ (0 < two.size ∧ (0 + two.size - two.head) % two.size ≤ written two)
      ∧ written two < (1 + two.size - two.head) % two.size ∧ ({} : MsgQueue).size = 0
      ∧ ((f 0).i16.toNat = 0 ∧ (1 : Word).toNat = (if stateA.bun.pre.modeS then 1 else 0) + (if stateA.bun.pre.hen then 4 else 0)
          + (if stateA.bun.pre.intrap then 8 else 0) + 16 * (stateA.bun.pre.bank false).loops.length)
      ∧ (∀ g, g < 64 → (0x80 : Word).getLsbD g = (decide (g < 8) && ({ coreA 0 with gated := 0x80 }).gated.getLsbD g)) := by decide +kernel

theorem witness_ScratchpadPowerAndAtomics :
    let f := { fld .aga .two 23 1 2 with t := 4, i16 := 0 }
    let s := modState 0x1FFFC0
    let ea := (opA f s).toNat
    let far := modState 0x200000
    let odd := modState 0x1FFFC1
    let busy := { coreA 0 with chase := [⟨0, 0, 0, 8, true⟩] }
    (2 ^ 21 ≤ (opA f far).toNat ∧ (opA f odd).toNat < 2 ^ 21 ∧ (opA f odd).toNat % tBytes f.t.toNat ≠ 0)
      ∧ (∀ w, busy.chaseBlocks 0 8 w = true) ∧ (∀ w, s.bun.cur.chaseBlocks ea (ea + 64) w = false)
      ∧ (∀ r, s.bun.cur.badWord ea (ea + 64) r = none)
      ∧ guardOf f s = true ∧ Memory.wf s.bun.cur.sp = true ∧ f.d.toNat < 24
      ∧ (ea < 2 ^ 21 ∧ ea % 64 = 0 ∧ ea % tBytes f.t.toNat = 0)
      ∧ s.bun.cur.meetsPacked ea (ea + 64) = false ∧ s.bun.cur.chaseBlocks ea (ea + 64) true = false
      ∧ (s.bun.cur.asleep ea (ea + 64)).2 = false ∧ s.bun.cur.badWord ea (ea + 64) true = none
      ∧ s.bun.cur.badWord ea (ea + 64) false = none
      ∧ f.i16.getLsbD 0 = false ∧ ({ f with i16 := 1 }).i16.getLsbD 0 = true
      ∧ (xState 0xFF).bun.cur.gated.getLsbD 7 = false
      ∧ (∃ g, g < 8 ∧ ((xState 0xFF).rd .x 1).getLsbD g = true ∧
          ({ coreA 0 with chase := [⟨0, 0, 0, 8, true⟩] }).groupBusy g = true)
      ∧ (∀ g, g < 8 → (xState 0x80).bun.cur.groupBusy g = false) := by decide +kernel

/-- A load accepted and not yet performed. -/
def accessA : GAcc := ⟨5, 5, false, .aga, 0x40, 0x03, { fld .aga .two 5 3 0 with t := 4 }, 0x100, 0x100, 0, 0, 0, 0⟩

/-- A shape of one dimension: one element. -/
def shapeA : List Byte := natToBytes 8 1 ++ natToBytes 8 0 ++ natToBytes 8 1 ++ List.replicate 232 0

theorem witness_TimeAndWaits :
    let s := stateA
    let scope := fun n : BitVec 3 => ({ fld .ctl .two 3 0 0 with sc := n }).sc.toNat
    let storeOnly := fun (g : GAcc) => decide (g.opc = 0x04 ∨ g.opc = 0x14)
    let cxlAt : GAcc := { accessA with opc := 0x04, pa := 2 ^ 44 }
    guardOf (fld .ctl .two 3 0 0) s = true ∧ s.bun.cur.recording = false
      ∧ (scope 0 = 0 ∧ (∀ g ∈ [{ accessA with opc := 0x14 }], g.first < 6 → storeOnly g = true))
      ∧ (scope 3 < 4 ∧ ∀ g ∈ [cxlAt], storeOnly g = true ∧ s.inCxl g.pa = true)
      ∧ (∃ g ∈ [{ cxlAt with opc := 0x12 }], g.first < 6 ∧ storeOnly g = false)
      ∧ (∃ g ∈ [cxlAt], g.first < 6 ∧ ¬(scope 4 < 4))
      ∧ ((∀ m ∈ s.bun.cur.cmds, m.eng = .mark) ∧ s.bun.cur.mats = [] ∧ s.bun.cur.keys = []) ∧ s.bun.cur.gacc = []
      ∧ (∃ g ∈ [accessA], g.first < 6 ∧ storeOnly g = false)
      ∧ ((0 : Nat) = 0 ∧ s.rd .x 0 = 0#64)
      ∧ ({ coreA 0 with mq := { (coreA 0).mq with tail := 2, used := 2 } }).hen = false
      ∧ s.bun.runs < ({ coreA 0 with runsEnded := 1 }).runsEnded
      ∧ ((xState 1000).rd .x 1 ≠ 0#64 ∧ ((xState 1000).rd .x 1).toNat ≤ (xState 1000).sys.tick.toNat)
      ∧ ¬(((xState 1001).rd .x 1).toNat ≤ (xState 1001).sys.tick.toNat)
      ∧ (({ coreA 0 with dbg := { state := 1 } }).dbg.state = 1 ∧ ({ coreA 0 with dbg := { state := 1 } }).dbg.skip = false
          ∧ ({ coreA 0 with dbg := { state := 1 } }).stopReq = false ∧ ({ coreA 0 with stopReq := true }).stopReq = true)
      ∧ s.bun.pre.dbg.state ≠ 1 := by decide +kernel

theorem witness_CompletionObjects :
    let f := { fld .ctl .two 3 1 0 with i16 := 1 }
    let g := { fld .ctl .two 3 1 0 with sc := 2 }
    let s := xState 0x2000
    guardOf f s = true ∧ s.bun.cur.recording = false ∧ s.bun.answer = none ∧ f.i16.getLsbD 0 = true ∧ g.i16.getLsbD 0 = false
      ∧ 2 ^ 21 ≤ ((xState 0x200000).rd .x 1).toNat
      ∧ (((xState 0x1FFFF9).rd .x 1).toNat < 2 ^ 21 ∧ ((xState 0x1FFFF9).rd .x 1).toNat % 8 ≠ 0)
      ∧ (s.rd .x 1).toNat % 8 = 0
      ∧ s.accept (s.rd .x 1) accLoad = .ok flatTlb 0x2000 ∧ (s.inCxl 0x2000 && (s.bun.cur.refused || s.bun.cur.refusing.isSome)) = false
      ∧ s.mayRead s.bun.cur s.bun.first 0x2000 8 = true ∧ s.drainBefore s.bun.core s.bun.hnd 0x2000 = false ∧ s.bun.xlf = [] ∧ s.homePaused 0x2000 = false
      ∧ (match s.dataRead 0x2000 8 0 true with
          | .ok (_, n) => decide (n = 0)
          | .error _ => false) = true
      ∧ s.bun.stall = false ∧ (s.bun.cur.asleep 0x2000 0x2008).2 = false ∧ s.bun.cur.meetsPacked 0x2000 0x2008 = false
      ∧ s.bun.cur.chaseBlocks 0x2000 0x2008 false = false ∧ s.bun.cur.badWord 0x2000 0x2008 false = none
      ∧ (withCore { coreA 0 with packed := [(0x1FFF00, 0x200000)] }).bun.cur.meetsPacked 0x1FFFF9 0x200001 = true := by decide +kernel

theorem witness_Barriers :
    let f := fun n : BitVec 16 => { plainFields .ctl .two with i16 := n }
    let few := withCore { coreA 0 with gang := 0x08801000 }
    guardOf (f 7) stateA = true ∧ 7 < stateA.bun.pre.gang.toNat / 2 ^ 23 % 2 ^ 4
      ∧ few.bun.pre.gang.toNat / 2 ^ 23 % 2 ^ 4 ≤ 1 ∧ 0 < few.bun.pre.gang.toNat / 2 ^ 23 % 2 ^ 4
      ∧ stateA.bun.cur.arr.getLsbD 7 = false ∧ ({ coreA 0 with arr := 0x80 }).arr.getLsbD 7 = true
      ∧ stateA.bun.cur.gacc = [] ∧ Hold.bars 7 ∉ stateA.bun.was ∧ Hold.bara 7 ∉ stateA.bun.was
      ∧ Hold.bara 7 ∈ ({ stateA.bun with was := [.bara 7] }).was
      ∧ Hold.bars 7 ∈ ({ stateA.bun with was := [.bars 7] }).was := by decide +kernel

theorem witness_DequesAndEnq :
    let f := { fld .ctl .two 3 1 2 with i16 := 15 }
    let size := stateA.bun.pre.gang.toNat / 2 ^ 11 % 2 ^ 12
    let off := fun v => withCore ((coreA 0).setReg false .x 2 v)
    let placed := fun (v : Word) => decide (((off v).rd .x 2).toNat % 128 = 0 ∧ ((off v).rd .x 2).toNat < 2 ^ 21)
    guardOf f stateA = true ∧ stateA.bun.cur.recording = false ∧ stateA.bun.cur.deque.length < 64 ∧ stateA.bun.cur.gacc = []
      ∧ 64 ≤ ({ coreA 0 with deque := List.replicate 64 1 }).deque.length
      ∧ ({ coreA 0 with deque := [1, 2] }).deque = [1] ++ [2]
      ∧ size = 2 ∧ size ≤ ((xState 2).rd .x 1).toNat ∧ ((xState 1).rd .x 1).toNat < size ∧ stateA.bun.answer = none
      ∧ (stateA.rd .x 1).toNat = stateA.bun.pre.gang.toNat % 2 ^ 11
      ∧ ((xState 1).rd .x 1).toNat ≠ (xState 1).bun.pre.gang.toNat % 2 ^ 11
      ∧ placed 0x1FFF80 = true ∧ placed 64 = false ∧ placed 0x200000 = false
      ∧ 2 ^ 13 ≤ ((xState 0x2000).rd .x 1).toNat ∧ ((xState 0x1FFF).rd .x 1).toNat < 2 ^ 13
      ∧ stateA.hasQueue stateA.bun.pre.vfOf 0 = true ∧ (stateA.queueOf 0).ctx = stateA.bun.pre.ctx
      ∧ stateA.hasQueue stateA.bun.pre.vfOf 1 = false ∧ (stateA.queueOf 0).sok = false
      ∧ ({ queueA with sok := true }).sok = true ∧ ({ coreA 0 with modeS := false }).modeS = false
      ∧ stateA.bun.cur.meetsPacked 0 128 = false ∧ (stateA.bun.cur.asleep 0 128).2 = false := by decide +kernel

/-! ### Witnesses: memory -/

theorem witness_LoadStore :
    let f := { fld .aga .two 5 1 2 with t := 4, sc := 0 }
    let three := withCore ((coreA 0).setReg false .a 2 0xC000000000000000)
    let s := modState 0x1FFFF8
    let ea := (opA f s + offM f).toNat
    guardOf f s = true ∧ Memory.wf s.bun.cur.sp = true ∧ f.a.toNat < 24
      ∧ addrUpdate (opA { f with v := true } s) (opBReg f s) ≠ none ∧ addrUpdate (opA f three) (opBReg f three) = none
      ∧ (ea < 2 ^ 21 ∧ ea % tBytes f.t.toNat = 0) ∧ ¬((opA f (modState 0x200000) + offM f).toNat < 2 ^ 21)
      ∧ ¬((opA f (modState 0x1FFFF9) + offM f).toNat % tBytes f.t.toNat = 0)
      ∧ f.d.toNat < (fileOfCode f.slot.file f.sc).size
      ∧ s.bun.cur.meetsPacked ea (ea + 8) = false ∧ s.bun.cur.chaseBlocks ea (ea + 8) true = false
      ∧ (s.bun.cur.asleep ea (ea + 8)).2 = false ∧ s.bun.pre.badWord ea (ea + 8) false = none
      ∧ s.bun.cur.badWord ea (ea + 8) true = none := by decide +kernel

theorem witness_GlobalAccesses :
    let f := { fld .aga .two 23 1 2 with t := 4 }
    let s := modState 0x100
    let near := opA f s + offM f
    let gone := withCore { coreA 0 with tlb := [] }
    let walked := { s.bun with xlf := [(0, kXLATE)] }
    guardOf f s = true ∧ f.a.toNat < 24 ∧ f.d.toNat < 24 ∧ f.v = false ∧ s.bun.mem = none
      ∧ (near.toNat < 2 ^ 56 ∧ near.toNat % tBytes f.t.toNat = 0 ∧ near.toNat % 64 = 0)
      ∧ 2 ^ 56 ≤ (opA f (modState 0x100000000000000) + offM f).toNat ∧ (opA f (modState 0x104) + offM f).toNat % 8 ≠ 0
      ∧ s.accept near accLoad = .ok flatTlb 0x100 ∧ s.accept near accStore = .ok flatTlb 0x100
      ∧ s.accept near accAtomic = .ok flatTlb 0x100
      ∧ (s.inCxl 0x100 && (s.bun.cur.refused || s.bun.cur.refusing.isSome)) = false ∧ s.bun.xlf = []
      ∧ walked.xlf.find? (fun x => x.1 == near.toNat / 4096) = some (0, kXLATE)
      ∧ s.accept 0x50000 accLoad = .fault kOWN ∧ gone.accept 0x100 accLoad = .miss
      ∧ ({ s with sys := { sysA with frames := [(0, { frameA with comp := 1 }), (4, { stfree := true })] } }).accept 0x100 accLoad
          = .expand 0 0
      ∧ ({ s with sys := { sysA with frames := [(0, { frameA with comp := 2 })] } }).accept 0x100 accLoad = .wait := by decide +kernel

/-! ### Witnesses: run transfers, engines, the matrix engine and the key port at issue -/

/-- A core that holds forme32 everywhere, v1 and v2, and x, a and e register 1 at v. -/
def engState (v : Word) : State :=
  let c := { coreRuns with formes := Vector.replicate 64 forme32, active := {} }
  withCore (((c.setReg false .a 1 v).setReg false .e 1 v).setReg false .x 1 v)

theorem witness_RunTransfers :
    let f := { fld .aga .two 4 1 0 with c := 1, sc := 5 }
    let s := engState 0x1000
    let fm := formeOf f s
    let p := spanOf fm (opA f s) (min fm.d0 65535)
    let none_ := withCore coreRuns
    let img := packRun (s.rdRun .v 1)
    let big := withCore { s.bun.pre with sp := writeBytes [] 0x1000 img }
    let flat := { coreRuns with formes := Vector.replicate 64 (BitVec.ofNat 256 (0x01 + 2 * 2 ^ 8 + 2 * 2 ^ 64 + 8 * 2 ^ 96)) }
    (guardOf f s = true ∧ f.d.toNat < 16 ∧ f.a.toNat < 24 ∧ Memory.wf s.bun.cur.sp = true
        ∧ pathFree f s.bun.cur ≤ s.bun.cur.clk ∧ isRunFile (fileOfCode f.slot.file f.sc) = true)
      ∧ (formeOf f none_).empty = true ∧ (formeOf f (withCore flat)).d0 = 0 ∧ (formeOf f (withCore flat)).empty = false ∧ fm.empty = false ∧ fm.runpk = false
      ∧ (p.ea + p.bytes ≤ 2 ^ 21 ∧ p.ea < 2 ^ 21 ∧ p.blocks = 0 ∧ p.ea % (fmtBits fm.fmt / 8) = 0)
      ∧ spClear s.bun.cur p.ea (p.ea + p.bytes) true false ∧ spReads s p.ea (p.ea + p.bytes) false
      ∧ spReads big 0x1000 (0x1000 + img.length) true
      ∧ spClear s.bun.cur 0x1000 (0x1000 + img.length) true true ∧ s.bun.since + ((8 + 511) / 512 - 1) ≤ s.bun.cur.clk
      ∧ ((opA f s).toNat < 2 ^ 21 ∧ (opA f s).toNat % 16 = 0 ∧ (opA f s).toNat + img.length ≤ 2 ^ 21)
      ∧ okOf (loadPacked (opA f big) (fun off n => readN big.bun.pre.sp ((opA f big).toNat + off) n)) = true
      ∧ s.bun.pre.meetsQueue 0x1000 (0x1000 + img.length) = false
      ∧ (s.bun.cur.marked 0x1000 (0x1000 + img.length)).isSome = true := by
  unfold spClear spReads spOpen; decide +kernel

/-- A bound galley of four rows of 64 bytes at scratchpad 0x2000. -/
def galleyA : Galley := ⟨true, 0x1000, 0x40040002000, 0, 0, BitVec.ofNat 256 (0x01 + 2 * 2 ^ 8 + 2 * 2 ^ 32 + 2 * 2 ^ 64 + 64 * 2 ^ 96)⟩

theorem witness_EngineQueues :
    let s := withCore { (engState 0x0200000000000000).bun.pre with galleys := Vector.replicate 8 galleyA }
    let c := s.bun.cur
    let f := { fld .xe .two 0 1 1 with i16 := 8, c := 1 }
    let g := c.galley f.i16.toNat
    let ahead := g.ranges (g.head + ringRows g.ring) 1
    let send := { fld .xe .two 0 2 2 with i16 := 64 }
    let few := { c with peers := [(0, { credit := some 1 })] }
    let obj := withCore ((coreA 0).setReg false .e 1 8)
    let scrub := { fld .xe .two 0 2 2 with c := 1 }
    (f.slot = .xe ∧ guardOf f s = true ∧ descriptorFits c (opC f s) false ∧ g.bound = true ∧ f.i16.toNat / 8 = 1
        ∧ 1 ≤ ringRows g.ring ∧ (∀ r ∈ ahead, c.meetsPacked r.1 r.2 = false) ∧ roomFor c .galley ahead ∧ roomFor c .galley [])
      ∧ ((withCore (coreA 0)).bun.cur.galley 0).bound = false ∧ ringRows g.ring < 5
      ∧ (guardOf send s = true ∧ (opA send s).toNat < c.gangSize ∧ (opC send s).toNat + 64 ≤ 2 ^ 21 ∧ (opC send s).toNat % 8 = 0
          ∧ (opBReg send s).toNat < 2 ^ 56 ∧ (opBReg send s).toNat % 4 = 0 ∧ c.meetsPacked 0 64 = false ∧ 2 ≤ c.credits
          ∧ 2 ≤ c.creditOf 0 ∧ (∀ d ∈ s.memberCore s.bun.core 0, s.resending s.bun.core d = false) ∧ roomFor c .message [(0, 64)])
      ∧ (!c.recording && s.bun.mem.isNone) = true ∧ few.creditOf 0 = 1 ∧ few.credits = 16
      ∧ (descriptorFits obj.bun.cur (opA f obj) false ∧ (opA f obj).getLsbD 57 = false ∧ (opA f obj).toNat < 2 ^ 58
          ∧ roomFor obj.bun.cur .coll [])
      ∧ (descriptorFits c (opC scrub s) true ∧ (opA scrub s).toNat = 0 ∧ (opBReg scrub s).toNat = 0 ∧ roomFor c .copy [(0, 0)]) := by
  unfold roomFor descriptorFits; decide +kernel

theorem witness_EngineTransfers :
    let s := engState 0x100000000001000
    let f := { fld .xe .two 0 1 2 with i16 := 0 }
    let c := s.bun.cur
    let sh := shapeOfFormes forme32 forme32
    let src : Side := sideOf forme32 (eaAddr (opA f s)) (sh.dims.map fun d => (d.1, d.2.1))
    let dst : Side := targetSide forme32 (eaAddr (opBReg f s)) (sh.dims.map fun d => (d.1, d.2.2)) none
    let slice : Forme := BitVec.ofNat 256 (0x01 + 2 * 2 ^ 8 + 2 ^ 14 + 2 * 2 ^ 32 + 2 * 2 ^ 64 + 8 * 2 ^ 96)
    let gal := withCore (((coreA 0).setReg false .e 2 0x40040002000).setReg false .e 1 0x100000000001000)
    let three := { fld .xe .three 0 1 2 with l32 := 0x1FFF00 }
    let long := s.bun.pre
    let cmd : Cmd := { s.command f .copy 0x10 with formes := [slice, slice] }
    let reads (sh : Shape) : Int × Int := sourceSpan c slice (eaAddr (opA f s)) (sh.dims.map fun d => (d.1, d.2.1))
    guardOf f s = true ∧ engChecks (opA f s) [0, 1] 0 = [] ∧ engChecks (opBReg f s) [0, 1] s.bun.pre.gangSize = []
      ∧ compChecks c (opC f s) true true = [] ∧ copyFormes forme32 forme32 1 0 = []
      ∧ shapeChecks forme32 forme32 sh (eaAddr (opA f s)) (eaAddr (opBReg f s)) false = []
      ∧ rangeChecks 1 src.least.1 src.least.2 = [] ∧ rangeChecks 0 dst.least.1 dst.least.2 = []
      ∧ packedTargets s { cmd with formes := [forme32, forme32] } (reads sh) = none
      ∧ destChecks { c with mq := s.bun.pre.mq } forme32 dst false = []
      ∧ c.queued .copy < Eng.copy.depth ∧ c.chase = []
      ∧ (three.l32.toNat % 64 = 0 ∧ three.l32.toNat + 256 ≤ 2 ^ 21
          ∧ spReads s 0x1FFF00 0x200000 false ∧ s.bun.stall = false)
      ∧ (shapeOfBlock (shapeA) false).isSome = true
      ∧ (engChecks (opA f gal) [1] 0 = [] ∧ compChecks c (opC f gal) true false = [] ∧ ringOk (opBReg f gal) = true
          ∧ rowBytes forme32.fmt forme32.d0 ≤ ringRow (opBReg f gal)) := by
  unfold spReads spOpen; decide +kernel

/-- Context 0 with a group table at 0x1C000: one group, whose one rank is member 0 of queue 0's gang 0 in this package. -/
def groupState : State :=
  { engState 0 with sys := { sysA with
      contexts := [(0, { ctxA with grpDva := 0x1C000, grpLen := 1 })],
      mem := sysA.mem ++ [(0x1C000, 1)] } }

theorem witness_EngineTransfers_coll :
    let f := { fld .xe .two 0 0 0 with i16 := 0 }
    let s := groupState
    (opA f s).toNat < 2 ^ 16 ∧ engChecks (opBReg f s) [0, 1] 0 = []
      ∧ s.groupPaused 0 0 = false ∧ s.groupOf 0 0 = .ok [⟨0, 0, 0, 0, 0⟩] ∧ s.rankCore ⟨0, 0, 0, 0, 0⟩ = some s.bun.core ∧ s.sys.pkg = 0 ∧ compChecks s.bun.cur (opC f s) true false = []
      ∧ collChecks { f with i16 := 0 } forme32 1 = [] ∧ s.bun.cur.queued .coll < Eng.coll.depth ∧ s.bun.cur.chase = [] := by decide +kernel

theorem witness_GeneratorAndFormes :
    let f := { fld .xe .two 0 1 0 with i16 := 63 }
    let s := withCore { (engState 0x1FFFE0).bun.pre with sp := writeBytes [] 0x1FFFE0 (natToBytes 32 forme32.toNat) }
    let bad := withCore { (engState 0x1FFFE0).bun.pre with sp := [(0x1FFFE0, 0xFF)] }
    let a := (opA f s).toNat % 2 ^ 56
    guardOf f s = true ∧ Memory.wf s.bun.cur.sp = true ∧ s.bun.stall = false ∧ engChecks (opA f s) [0] 0 = [] ∧ a % 32 = 0
      ∧ spReads s a (a + 32) false ∧ spReads bad a (a + 32) false ∧ spClear s.bun.cur a (a + 32) true false
      ∧ Forme.accepted (BitVec.ofNat 256 (readN s.bun.pre.sp a 32)) = true
      ∧ Forme.accepted (BitVec.ofNat 256 (readN bad.bun.pre.sp a 32)) = false := by
  unfold spClear spReads spOpen; decide +kernel

/-- A BF16 forme of 128 rows of 32 elements, and a forme of M64. -/
def formeF : Forme := BitVec.ofNat 256 (0x03 + 2 * 2 ^ 8 + 32 * 2 ^ 32 + 128 * 2 ^ 64 + 64 * 2 ^ 96)
def formeM : Forme := BitVec.ofNat 256 (0x19 + 2 * 2 ^ 8 + 8 * 2 ^ 32 + 128 * 2 ^ 64 + 64 * 2 ^ 96)

/-- A core with those formes at t0 and t1, forme32 at t2, and planes of class F32K. -/
def matCore (cls : Nat) : Core :=
  { coreA 0 with formes := ((Vector.replicate 64 forme32).set 0 formeF).set 1 formeM,
                 fActive := { cls := cls, k := 32, n := 32, modq := 0 }, fTiles := Vector.replicate 8 (0, 0) }

theorem witness_MatrixQueue :
    let f := { fld .xe .two 15 0 0 with i16 := 0 }
    let s := withCore (matCore 1)
    let c := s.bun.cur
    let k := dimOf f 0 8 (classKs 1)
    let p := patchOf formeF 0 0 32 k
    let used := withCore { matCore 1 with fTiles := Vector.replicate 8 (1, 0) }
    let df := s.formeAt ({ f with i16 := 16 }.i16.toNat / 8 % 64)
    let dp := patchOf df 0 0 128 32
    guardOf f s = true ∧ c.queued .matrix < Eng.matrix.depth ∧ c.chase = []
      ∧ ((List.range 8).filter fun k => f.i16.getLsbD k) = [] ∧ ((List.range 8).filter fun k => (0x80#16).getLsbD k) ≠ []
      ∧ engChecks (opA f s) [0] 0 = [] ∧ compChecks c (opC f s) true false = [] ∧ classOf (s.formeAt 0) = 1 ∧ k ≤ classKs 1
      ∧ coordChecks formeF 0 0 = [] ∧ p.checks c = []
      ∧ drainOk df (used.bun.cur.frontTile 0).1 (used.bun.cur.frontTile 0).2 = true ∧ coordChecks df 0 0 = []
      ∧ 32 * fmtBits df.fmt % 8 = 0 ∧ dp.checks c = []
      ∧ (f.v && c.busy 0) = false ∧ f.d.toNat < 16 ∧ s.bun.mem = none
      ∧ ({ f with v := true }.v && { c with mats := [{ cmd := s.command f .matrix 0x03, tiles := [0] }] }.busy 0) = true := by decide +kernel

theorem witness_MatrixStreams :
    let f := { fld .xe .two 0 0 0 with i16 := 0 }
    let g := { f with i16 := 8 }
    let s := withCore (matCore 1)
    let m := withCore (matCore 5)
    let wrong := withCore (matCore 2)
    let c := s.bun.cur
    let patch := patchOf formeF 0 0 128 c.fActive.k
    let gal := withCore { matCore 1 with galleys := Vector.replicate 8 { galleyA with ring := 0x8000040002000, forme := formeF } }
    guardOf f s = true ∧ f.i16.getLsbD 10 = false ∧ classOf (s.formeAt 0) = 1 ∧ s.bun.cur.fActive.cls = 1
      ∧ classOf (m.formeAt 1) = 5 ∧ m.bun.cur.fActive.cls = 5 ∧ formeM.modq = m.bun.cur.fActive.modq
      ∧ mmTileBad f 1 0 (c.frontTile 0) = false ∧ mmTileBad g 3 0 (c.frontTile 0) = false
      ∧ compChecks c (opC f s) true false = [] ∧ engChecks (opA f s) [0] 0 = [] ∧ coordChecks formeF 0 0 = []
      ∧ patch.checks c = [] ∧ c.queued .matrix < Eng.matrix.depth ∧ c.chase = [] ∧ wrong.bun.cur.fActive.cls ≠ 1
      ∧ ((gal.bun.cur.galley 0).bound = true ∧ 0 + 128 ≤ ringRows (gal.bun.cur.galley 0).ring
          ∧ ({ f with i16 := 0x400 }).i16.getLsbD 10 = true ∧ (gal.bun.cur.galley 0).forme.mxb = false
          ∧ ringChecks gal.bun.cur ((gal.bun.cur.galley 0).ranges 0 128) = []) := by decide +kernel

/-! ### Witnesses: the key port and the events of a core -/

/-- A command, with no completion object; its words are those of a length 2 instruction. -/
def cmdA (e : Eng) (opc : Nat) (block : List Byte) : Cmd :=
  { id := 7, eng := e, opc := opc, f := fld .xe .two 0 1 0, hnd := false, hdr := 0x40, ea := 0, eb := 0, ec := 0x200000000000000,
    block := block }

/-- That command handed off to the Amindaer. -/
def jobA (opc : Nat) (block : List Byte) : KeyJob :=
  { core := 0, cmd := cmdA .key opc block, launch := 1, vf := 0, ctx := 0, gang := 2 }

/-- stateA with jobs, and with a binding. -/
def keyState (js : List KeyJob) (v : Vf) : State := { stateA with sys := { sysA with jobs := js, vfs := [(0, v)] } }

theorem witness_KeyPort :
    let f := fld .xe .two 0 1 1
    let s := withCore ((coreA 0).setReg false .e 1 0x200000000000000)
    let g := fld .xe .two 0 2 1
    let zero := readBytes s.bun.pre.sp 0 64
    let close := natToBytes 64 (2 ^ 74)
    guardOf g s = true ∧ s.bun.stall = false ∧ s.bun.pre.modeS = true ∧ ({ coreA 0 with modeS := false }).modeS = false
      ∧ engChecks (opA g s) [0] 0 = [] ∧ compChecks s.bun.cur 0 false false = [] ∧ (opA g s).toNat % 64 = 0
      ∧ spReads s 0 64 false ∧ kbBad 0 zero = false ∧ kbBad 1 zero = false ∧ kbBad 2 zero = false
      ∧ kbBad 3 zero = false ∧ kbBad 4 zero = false ∧ fbBad s.sys.pkg close = false ∧ kbStat zero % 16 = 0 ∧ kbStat close % 16 = 0
      ∧ s.bun.cur.queued .key < Eng.key.depth ∧ s.bun.cur.chase = [] ∧ f.slot = .xe := by
  unfold spReads spOpen; decide +kernel

theorem witness_KeyPort_events :
    let c := { coreA 0 with keys := [cmdA .key 0x20 []] }
    let s := withCore c
    let stat := natToBytes 64 0x10100
    let j := jobA 0x23 stat
    let done := keyState [{ jobA 0x21 stat with result := some (0, 1, 2) }] vfA
    let quar := keyState [jobA 0x21 []] { vfA with bind := .quarantined }
    let keys := keyState [jobA 0x23 (natToBytes 64 0)] { vfA with old := true, cur := 1 }
    let rot := keyState [jobA 0x20 (natToBytes 64 (0x20000 * 2 ^ 64 + 0x10000 * 2 ^ 128))] { vfA with old := true, cur := 1 }
    c.keys = cmdA .key 0x20 [] :: [] ∧ (s.gangAt 0).isSome = true ∧ s.enginesHeld 0 = false ∧ s.sys.slotOpen ≠ some 2 ∧ c.gacc = []
      ∧ s.rotating c.vfOf = false ∧ (s.vf 0).bind ≠ .quarantined ∧ (cmdA .key 0x21 []).opc ≠ 0x20
      ∧ (done.sys.jobs[0]?).isSome = true ∧ (jobA 0x21 []).verdict = none ∧ (jobA 0x21 []).sealing = none ∧ kbStat j.cmd.block ≠ 0 ∧ compNone j.cmd.ec = true ∧ done.dvaPaused 0 0x10100 = false
      ∧ (match ({ done with sys := { done.sys with jobs := [] } }).gWrite .package 0 0x10100 (natToBytes 16 0x2101) accStore false
            false with
          | (.ok _, _) => true
          | _ => false) = true
      ∧ (quar.vf 0).bind = .quarantined ∧ kbStat (jobA 0x21 []).cmd.block = 0
      ∧ ((jobA 0x23 []).cmd.f.i16.toNat % 4 ≠ 2 ∧ keys.rotating 0 = false ∧ (keys.vf 0).old = true
          ∧ kbGen (jobA 0x23 (natToBytes 64 0)).cmd.block + 1 = (keys.vf 0).cur)
      ∧ (∀ e ∈ ([] : List (Nat × Frame)), e.2.gen ≠ 0)
      ∧ (rot.sys.slotOpen = none ∧ 0 < kbLen (jobA 0x20 (natToBytes 64 (0x20000 * 2 ^ 64 + 0x10000 * 2 ^ 128))).cmd.block / 65536
          ∧ (match rot.walkPage 0 0x20000 with
            | .ok e => rot.owns 0 (e.phys 0x20000) && decide ((rot.frame (e.phys 0x20000 / 65536)).gen ≠ 1)
                && decide ((rot.frame (e.phys 0x20000 / 65536)).comp = 0)
                && !(rot.nameBad (e.phys 0x20000 / 65536))
            | .error _ => false) = true)
      ∧ ((keyState [jobA 0x21 []] vfA).vf 0).bind = .bound ∧ (keyState [jobA 0x21 []] vfA).sealWaits 0 (jobA 0x21 []) = false := by
  decide +kernel

/-- stateA with one bundle of core 0 held. -/
def heldState (h : Hold) (answer : Option (Word × Bool)) : State :=
  { stateA with held := [{ core := 0, hnd := false, hdr := 0x40, pre := coreA 0, hold := h, answer := answer }] }

theorem witness_WaitsEnd :
    let c := coreA 0
    let m := { c with mq := { c.mq with tail := 2, used := 2 } }
    (∃ h ∈ (heldState (.waitx false 0 0 0 false) (some (1, true))).held, h.core = 0 ∧ h.answer ≠ none)
      ∧ (∃ h ∈ (heldState (.waitev 1 0) none).held, h.hold = .waitev 1 0) ∧ (m.mq.hasMessage = true ∧ m.hen = false)
      ∧ ((2 : Nat) / 2 % 2 = 1 ∧ 0 < ({ c with runsEnded := 1 }).runsEnded)
      ∧ ((1000#64) ≠ 0#64 ∧ (1000#64).toNat ≤ stateA.sys.tick.toNat ∧ c.mq.hasMessage = false)
      ∧ (c.pend = [] ∧ c.mats = [] ∧ c.gacc = [] ∧ c.cmds = [] ∧ c.keys = [] ∧ (∀ m ∈ [cmdA .mark 0x23 []], m.eng = .mark))
      ∧ (∃ h ∈ (heldState (.release 1) none).held, h.hold = .release 1)
      ∧ (∀ g ∈ [{ accessA with opc := 0x04 }], g.first < 9 → g.opc = 0x04 ∨ g.opc = 0x14)
      ∧ (∃ h ∈ (heldState (.drain 4) none).held, h.core = 0 ∧ h.hold = .drain 4) ∧ (∃ h ∈ (heldState .halt none).held, h.hold = .halt)
      ∧ (∃ h ∈ (heldState .tfence none).held, h.hold = .tfence) ∧ c.placed ≠ none ∧ stateA.held = []
      ∧ (∃ h ∈ (heldState (.steal 1) (some (0, false))).held, h.core = 0 ∧ h.answer ≠ none) := by decide +kernel

theorem witness_ResultsLand :
    let p : Pend := ⟨3, false, .sb, 0x40, 0x0C, some (.y, 3), some 40, .word 5, 2⟩
    let q : Pend := ⟨4, false, .sa, 0x40, 0x0C, some (.y, 3), some 40, .word 6, 0⟩
    let f := fld .va .two 4 1 2
    let g := { f with i16 := 0x8000, c := 1, v := true }
    let s := withCore coreRuns
    (guardOf f stateA = true ∧ passes stateA.bun)
      ∧ (match exec (.vadd f) s with
          | .next t => decide (t.bun.raised = [] ∧ t.bun.stall = false ∧ t.bun.hold = none ∧ f.d.toNat + 1 < 32)
          | _ => false) = true
      ∧ ((formeOf f s).empty = true ∧ s.bun.cur.busy (mmTile f) = false ∧ (s.rdRun .v 1).runs ≤ 128)
      ∧ (f.i16.getLsbD 15 = false ∧ g.i16.getLsbD 15 = true ∧ (runA g s).len = (runC g s).len
          ∧ ∀ e ∈ (runA g s).slugs ++ (runC g s).slugs, 0 < e.2)
      ∧ (isRunFile (fileOfCode .a 5) = true ∧ s.bun.coal = false ∧ s.bun.since ≤ s.bun.cur.clk ∧ s.bun.cur.clk < s.bun.since + 4 + (0 + 15) / 16)
      ∧ (0 : Nat) < 2048 ∧ stateA.clockHeld 0 = false ∧ (withCore { coreA 0 with dbg := { state := 2 } }).clockHeld 0 = true ∧ stateA.sys.asks = [] ∧ (p.due = some 40 ∧ 40 ≤ (coreA 0).clk) ∧ p.names false .y 3 = true
      ∧ q.names false .y 3 = true ∧ p.dst = some (.y, 3) ∧ 3 < RFile.size .y ∧ discards .y 3 = false := by
  unfold passes; decide +kernel

theorem witness_ClocksAndHandlerRuns :
    let code : TlbEntry := ⟨0, 0, 2 ^ 30, 0, false, true, false, 0⟩
    let c := { coreA 0 with tlb := [code], waking := [(7, 40)], rng := { words := List.replicate 60 1, ready := 40 } }
    let s := withCore c
    let m := { coreA 0 with hen := true, mq := { (coreA 0).mq with tail := 2, used := 2 } }
    let h := withCore m
    let held (k : Option Core) : Held := { core := 0, hnd := false, hdr := 0x40, pre := m, hold := .waitev 1 0, mem := k }
    (held none).hold.boundary = true ∧ (held none).mem = none ∧ (held (some m)).mem ≠ none ∧ c.refusing = none
      ∧ (m.asleep 0 16).2 = false ∧ m.badWord 0 16 false = none
      ∧ c.placed ≠ none ∧ s.clockHeld 0 = false ∧ c.refused = false ∧ code ∈ c.tlb ∧ c.run = none ∧ c.mainLive = true ∧ c.lineWords c.main.pc = none ∧ c.main.pc.toNat < 2 ^ 56
      ∧ s.tlbFind 0 0 0 = some code ∧ code.x = true ∧ s.gate 0 (code.phys 0) = .go ∧ s.homePaused 0 = false
      ∧ (match s.dataRead 0 64 0 false with
          | .ok (_, n) => decide (n = 0)
          | .error _ => false) = true
      ∧ ((7, 40) ∈ c.waking ∧ 40 ≤ c.clk) ∧ c.rng.words.length ≤ 60 ∧ c.rng.ready ≤ c.clk
      ∧ (h.clockHeld 0 = false ∧ h.aborting 0 = false ∧ m.quiet = false ∧ m.hen = true ∧ m.parked = false ∧ m.stopped = none
          ∧ m.mq.hasMessage = true ∧ m.owes = false ∧ h.held = []) := by decide +kernel

/-- stateA with a request of core 0, and a core whose launch is of context 0. -/
def askState (w : Ask) : State := { stateA with sys := { sysA with asks := [⟨0, false, 3, w⟩] } }

theorem witness_Replies :
    let s := askState (.dqcnt 1)
    let other := { askState (.resumeg 9) with sys := { (askState (.resumeg 9)).sys with gangs := [{ gangA with parked := true }] } }
    let c := s.context 0
    let v : State := { askState .notified with sys := { (askState .notified).sys with faults :=
      [⟨0, 2, none, some (0, 3), 0, 1, 999, 0, 0⟩] } }
    (s.coreOf 0).recording = false
      ∧ (askState (.sysc 0 7)).sys.asks.head?.map AskReq.what = some (.sysc 0 7)
      ∧ (askState (.sysc 3 7)).sys.asks.head?.map AskReq.what = some (.sysc 3 7) ∧ s.held = []
      ∧ s.memberCore 0 1 = some 1 ∧ s.pathOpen 0 1 = true
      ∧ ((askState (.resumeg 1)).tokenGang 0 1).map Gang.parked = some false
      ∧ (other.tokenGang 0 1).map Gang.parked = some true ∧ other.recordPending gangA.launch gangA.gidx = false
      ∧ (askState (.resumeg 9)).tokenGang 0 9 = none ∧ s.sys.saved = []
      ∧ (s.gangAt 0).isSome = true ∧ (s.launchOf 1).map Launch.aborting = some false ∧ s.sys.faults = []
      ∧ ringFull c.fqLen c.fqHead c.fqTail = false
      ∧ (999 : Nat) < v.sys.tick.toNat ∧ v.dvaPaused 0 (c.fqDva.toNat + 64 * c.fqTail) = false
      ∧ ((askState .notified).sys.asks.head?.map AskReq.what = some .notified ∧ (askState .notified).sys.faults = []
          ∧ s.aborting 0 = false)
      ∧ (match v.gWrite .package 0 (c.fqDva.toNat + 64 * c.fqTail) (natToBytes 64 2) accStore false false with
          | (.ok _, _) => true
          | _ => false) = true := by decide +kernel

theorem witness_GangEvents :
    let arrived (k : Nat) : Core := { coreA k with arr := 0x80 }
    let s : State := { stateA with cores := [(0, arrived 0), (1, arrived 1)] }
    let gone : State := { stateA with cores := [(0, { coreA 0 with departed := true }), (1, { coreA 1 with departed := true })] }
    gangA ∈ stateA.sys.gangs ∧ s.gangOf 2 = some gangA ∧ gangA.cores = [0, 1]
      ∧ (∀ k ∈ [0, 1], (s.coreOf k).arr.getLsbD 7 = true) ∧ s.gangPaused gangA = false ∧ s.stoppedInWait gangA = false ∧ gangA.cores.Nodup
      ∧ (∀ k ∈ gangA.cores, s.islandHeld k = false) ∧ (s.launchOf gangA.launch).isSome = true ∧ s.aborting 0 = false
      ∧ ({ gangA with scrub := true }).scrub = true
      ∧ gone.aborting 0 = false ∧ gone.memberDone 0 = true ∧ gone.memberDone 1 = true := by decide +kernel

theorem witness_DequePortAndEnq :
    let q : DqReq := ⟨1, 0, false, 999, 39, 0⟩
    let r : DqReq := ⟨1, 0, false, 1000, 39, 0⟩
    let two := [(0, coreA 0), (1, { coreA 1 with deque := [9] })]
    let s : State := { heldState (.steal 1) none with sys := { sysA with dqReqs := [q] }, cores := two }
    let e := heldState (.enq 0 0) none
    let z := s.queueOf 0
    (r.tick = s.sys.tick ∧ r.clk < (s.coreOf 1).clk) ∧ q ∈ s.sys.dqReqs ∧ q.tick.toNat < s.sys.tick.toNat ∧ s.pathOpen 0 1 = true ∧ s.islandHeld 1 = false ∧ e.held.length = 1
      ∧ z.takes = true ∧ ({ z with state := .disabled }).takes = false
      ∧ e.rangePaused z.ctx (z.ring.toNat + 128 * z.tail) 128 = false
      ∧ okOf (e.gWrite (.core 0) z.ctx (z.ring.toNat + 128 * z.tail) (readBytes [] 0 128) accStore false false).1 = true
      ∧ okOf (({ e with sys := { e.sys with frames := [(0, frameA)] } }).gWrite (.core 0) z.ctx (z.ring.toNat + 128 * z.tail)
          (readBytes [] 0 128) accStore false false).1 = false ∧ z.nrec ≠ 1 := by decide +kernel

/-- stateA with an entry of core 0 on its way to core 1. -/
def msgA : Msg := { src := 0, dst := 1, handler := 0x80, kind := 0, payload := List.replicate 64 1, seq := 0 }
def msgState (m : Msg) (c : Core) : State :=
  { stateA with cores := [(0, coreA 0), (1, c)], sys := { sysA with msgs := [m] } }

theorem witness_Messages :
    let s := msgState msgA (coreA 1)
    let full := msgState msgA { coreA 1 with mq := { (coreA 1).mq with used := 15 } }
    let c := s.coreOf 1
    let bs := entryImage msgA 0
    let a := { coreA 0 with mq := { (coreA 0).mq with used := 2, arriving := [(14, bs, false)] } }
    let again := msgState { msgA with refused := true } (coreA 1)
    s.sys.msgs.find? (fun x => x.src == 0 && x.dst == 1 && !x.refused) = some msgA ∧ c.placed ≠ none ∧ s.pathOpen 0 1 = true
      ∧ s.islandHeld 1 = false ∧ s.islandHeld 0 = false ∧ c.recording = false ∧ (c.peer 0).refusing = none ∧ (msgA.payload.length + 63) / 64 + 1 = 2
      ∧ c.mq.size - c.mq.used = 16 ∧ (full.coreOf 1).mq.size - (full.coreOf 1).mq.used = 1
      ∧ (let p : PeerState := { refusing := some 3 }; p.refusing ≠ none ∧ p.refusing ≠ some msgA.seq)
      ∧ ¬(entrySlots 1024 ≤ ({ (coreA 1).mq with size := 16 }).size)
      ∧ (Memory.wf a.sp = true ∧ a.gated = 0#8 ∧ a.waking = [] ∧ 14 + bs.length / 64 ≤ a.mq.size ∧ bs.length % 64 = 0)
      ∧ again.sys.msgs.find? (fun x => x.src == 0 && x.dst == 1 && x.refused) = some { msgA with refused := true }
      ∧ entrySlots 64 ≤ (again.coreOf 0).creditOf 1 ∧ again.enginesHeld 0 = false ∧ again.resending 0 1 = true
      ∧ (again.coreOf 1).placed = (again.coreOf 0).placed ∧ again.sys.acks = [] := by decide +kernel

/-! ### Witnesses: queues, launches, gangs and pre-emption -/

theorem witness_QueueTables :
    let s := stateA
    let q := s.queueOf 0
    let with_ (q : Queue) : State := { stateA with sys := { sysA with queues := [(0, q)] } }
    s.queueAt 0 0 = some 0 ∧ s.running 0 = true ∧ q.state ≠ .disabled ∧ q.state ≠ .error
      ∧ (15 < q.nrec ∧ 15 < 2 ^ 16 ∧ (15 + q.nrec - q.tail) % q.nrec ≤ q.nrec - 1 - (q.tail + q.nrec - q.head) % q.nrec)
      ∧ q.launch = none ∧ q.nrec ≤ 16 ∧ 2 ^ 16 ≤ (65536#64).toNat
      ∧ q.nrec - 1 - (({ q with tail := 15 } : Queue).tail + q.nrec - q.head) % q.nrec < (0 + q.nrec - 15) % q.nrec
      ∧ ((with_ { queueA with state := .disabled }).queueOf 0).state = .disabled
      ∧ ((with_ { queueA with launch := some 1 }).queueOf 0).launch = some 1
      ∧ (256 ≤ ((with_ { queueA with span := 256, state := .ready }).queueOf 0).span)
      ∧ (s.context 0).vf = some 0 ∧ s.sys.faults = [] := by decide +kernel

/-- A READY queue of one record r, and what reading it gives. -/
def recState (r : Nat) : State :=
  { stateA with sys := { sysA with queues := [(0, { queueA with state := .ready, tail := 1 })], mem := writeN sysA.mem 0x1A000 128 r } }

def reads (s : State) (p : Nat → Bool → Bool) : Bool := match s.readRecord (s.queueOf 0) with
  | (.ok (r, sup), _) => p r sup
  | (.error _, _) => false

theorem witness_RecordsServed :
    let good := fun (r typ : Nat) => (recState r).served 0 && !((recState r).dvaPaused 0 ((recState r).queueOf 0).headAt)
      && reads (recState r) (fun n sup => n == r && recordError n false sup == none && n % 2 ^ 8 == typ)
    let signal := 0x103 + 0x1E000 * 2 ^ 64 + 2 ^ 128
    let wait := 0x102 + 0x1E000 * 2 ^ 64 + 5 * 2 ^ 128
    let launch := 0x101 + 2 ^ 256 + 2 ^ 288
    let dep := launch + 0x1E000 * 2 ^ 576
    let done := { queueA with state := .waiting, wait := some (0, 0, false), met := true }
    good 0x104 4 = true ∧ good signal 3 = true ∧ good wait 2 = true ∧ good launch 1 = true ∧ good dep 1 = true
      ∧ reads (recState 0x204) (fun n sup => recordError n false sup == some 2) = true
      ∧ (recState signal).dvaPaused 0 0x1E000 = false
      ∧ okOf ((recState signal).gAdd (compositor 0) 0 0x1E000 1 accStore false false).1 = true
      ∧ okOf ((recState wait).gRead none 0 0x1E000 8 accLoad false).1 = true
      ∧ (launch / 2 ^ 576 % 2 ^ 56 = 0 ∧ launch / 2 ^ 288 % 2 ^ 32 ≠ 0 ∧ launch / 2 ^ 192 % 2 ^ 56 = 0)
      ∧ (dep / 2 ^ 576 % 2 ^ 56 ≠ 0 ∧ ((recState dep).queueOf 0).isDep = false ∧ ((recState launch).queueOf 0).launch = none)
      ∧ (done.state = .waiting ∧ done.met = true ∧ done.isDep = false ∧ ({ done with isDep := true }).isDep = true) := by
  decide +kernel

/-- Function 0 with one bed and no gang, and a LAUNCH of queue 0 that is placing. -/
def placeState (l : Launch) : State :=
  let q := { queueA with state := .placing, tail := 1, launch := some 1 }
  { stateA with cores := [], sys := { sysA with launches := [l], gangs := [], queues := [(0, q)] } }

theorem witness_LaunchesAndGangs :
    let l := { launchA with nextGang := 0, gsize := 16 }
    let s := placeState l
    let big := placeState { l with gsize := 17 }
    let live := (s.ctxsOf 0).filter fun c => (s.queuesOf c).any fun e => e.2.eligible
    let u := s.grant (s.ctxsOf 0) live (s.rounds live)
    let order := (roundOrder (s.vf 0).lastCtx live).filter fun c => 0 < (u.context c).balance && !(u.sys.saved.any fun g => g.ctx == c)
    let ended := { launchA with ended := 1 }
    let d := { ended with done := 0x1E000#64 }
    let fault : FirstFault := ⟨0x21, 0, 0, 0, 0, 0, 0, 0, 0, 0⟩
    let w := big.grant (big.ctxsOf 0) live (big.rounds live)
    ((s.vf 0).bind = .bound ∧ live.any s.headsPaused = false ∧ (s.vf 0).tdisp = .run ∧ (s.vf 0).ladder = .run ∧ s.sys.bedNow = [(0, 0)])
      ∧ s.nextSaved 0 = none ∧ order.findSome? (u.nextPlace 0) = some (l, some (List.range 16)) ∧ (List.range 16).Nodup
      ∧ [0].findSome? (w.nextPlace 0) = some ({ l with gsize := 17 }, none)
      ∧ (ended.aborting = false ∧ ended.nextGang = ended.gcount ∧ ended.ended = ended.nextGang ∧ ended.done = 0#64
          ∧ (stateA.queueOf 0).launch ≠ some 1 ∧ stateA.rangePaused 0 0x1E000 16 = false)
      ∧ (match stateA.gWrite (compositor 0) 0 (d.done.toNat + 8) (natToBytes 8 d.status) accStore false false with
          | (.ok _, x) => okOf (x.gAdd (compositor 0) 0 d.done.toNat d.inc accStore false false).1
          | _ => false) = true
      ∧ (({ launchA with aborting := true, fault := some fault }).aborting = true ∧ stateA.quietened [0, 1] = true
          ∧ stateA.rangePaused 0 (stateA.context 0).dumpDva.toNat (stateA.dumpSize launchA [0, 1]) = false) := by decide +kernel

/-- Function 0 and function 1 share bed 0; function 1 has a READY queue, and a long slot is open. -/
def sharedState (v : Vf) : State :=
  let one : Context := { ctxA with vf := some 1 }
  let other := { queueA with ctx := 1, state := .ready, tail := 1 }
  let y := { sysA with slotOpen := some 1, tick := 3904 * 512, beds := [(0, 0), (0, 1)], vfs := [(0, v), (1, vfA)] }
  { stateA with sys := { y with contexts := [(0, ctxA), (1, one)], doorbells := [(0, 0), (512, 1)], queues := [(0, queueA), (1, other)] } }

theorem witness_Preemption :
    let s := sharedState vfA
    let hard := sharedState { vfA with ladder := .hard }
    let c := { coreA 0 with stopped := some .yielded, stopReq := true }
    let st : State := { withCore c with sys := { sysA with gangs := [{ gangA with stopping := true }] } }
    let none_ : Gang := { gangA with cores := [], stopping := true }
    let sv : State := { stateA with sys := { sysA with gangs := [none_] } }
    (s.sys.slotOpen = some 1 ∧ (s.vf 0).ladder = .run ∧ (s.vf 0).sliceStart + (s.vf 0).sliceLen ≤ s.sys.tick.toNat / 3904
        ∧ s.sys.bedNow = [(0, 0)] ∧ s.contested 0 = true ∧ (s.vf 0).g1 ≠ 0)
      ∧ ((sharedState { vfA with g1 := 0 }).vf 0).g1 = 0
      ∧ ({ s with sys := { s.sys with beds := [(0, 0)] } }).contested 0 = false
      ∧ (((sharedState { vfA with ladder := .soft }).vf 0).ladder = .soft ∧ (0 : Nat) + 16 ≤ s.sys.tick.toNat / 3904)
      ∧ ((hard.vf 0).ladder = .hard ∧ (0 : Nat) + 256 ≤ s.sys.tick.toNat / 3904)
      ∧ (({ hard with sys := { hard.sys with gangs := [{ gangA with stopping := true }] } }).stoppingOf 0) = [{ gangA with stopping := true }]
      ∧ (hard.coreOf 0).quiet = false
      ∧ (s.context 0).vf = some 0 ∧ (s.sys.tick.toNat % 3904 = 0 ∧ (slotOf (s.sys.tick.toNat / 3904)).isSome = true)
      ∧ ({ gangA with stopping := true } ∈ ({ sysA with gangs := [{ gangA with stopping := true }] }).gangs ∧ s.launchOf 1 = some launchA)
      ∧ (c.spBad = [] ∧ c.soft = [] ∧ s.islandHeld 0 = false)
      ∧ (∃ g ∈ ({ hard with sys := { hard.sys with gangs := [{ gangA with stopping := true }] } }).stoppingOf 0, ∃ k ∈ g.cores,
          (hard.coreOf k).quiet = false)
      ∧ (st.toSave { gangA with stopping := true } = true ∧ st.atStop 0 = true ∧ c.quiet = false ∧ c.run = none ∧ c.pend = []
          ∧ c.gacc = [] ∧ c.mats = [] ∧ st.commandsStand 0 = true ∧ c.mq.arriving = [] ∧ st.sys.asks = [])
      ∧ (sv.gangOf 2 = some none_ ∧ sv.toSave none_ = true ∧ launchA.aborting = false ∧ (sv.areaFor 0 0).isSome = true
          ∧ sv.rangePaused 0 (sv.recordAt 0 0) 0 = false ∧ sv.sys.acks = [] ∧ sv.sys.dqReqs = [] ∧ (sv.putRecords 0 [] (sv.recordAt 0 0) 0).1 = (0, none))
      ∧ (0 ∈ ({ sysA with zeroing := [0] }).zeroing ∧ ({} : Core).placed = none) := by decide +kernel

theorem witness_MemoryEvents :
    let w : Walk := { cluster := 0, ctx := 0, page := 0, cores := [0] }
    let s : State := { withCore { coreA 0 with gacc := [accessA] } with sys := { sysA with walks := [w] } }
    let fs : List (Nat × Frame) := [(0, frameA), (5, { frameA with comp := 2, packed := [(3, 9)] }), (6, {})]
    let e : Expansion := { frame := 5, ctx := 0, into := 6 }
    let ex : State := { stateA with sys := { sysA with frames := fs, expansions := [e] } }
    let bad : State := { ex with sys := { ex.sys with tagBad := [5 * 1024] } }
    let own : GAcc := { accessA with id := 4, opc := 0x04, c := 9 }
    (2 ^ 44 - 1 < 2 ^ 44 ∧ ((s.walksOf 0).take 64).find? (fun w => w.ctx == 0 && w.page == 0) = some w
        ∧ s.walkPaused 0 0 = false ∧ s.tableTouch 0 0 = none ∧ (∀ x ∈ s.cores, w.joined x.1 = true → x.2.refusing = none) ∧ w.fetches = [])
      ∧ okOf (s.walkPage 0 0) = true ∧ s.islandHeld 0 = false ∧ (∀ a ∈ s.tableEntries 0 0, s.inCxl a = false)
      ∧ (s.sys.slotOpen = none ∧ (coreA 0).refusing = none ∧ s.sys.tick.toNat < 1000 + 100000
          ∧ 0 + 100000 ≤ ({ sysA with tick := 100000 }).tick.toNat)
      ∧ (s.sys.walks.Nodup ∧ s.walksCxl w = false ∧ (s.coreOf 0).cmds = [])
      ∧ (match s.walkPage 0 (2 ^ 40) with
          | .ok _ => false
          | .error k => k == kXLATE) = true
      ∧ (ex.sys.expansions.find? (fun e => e.frame == 5) = some e ∧ ex.homePaused (5 * 65536) = false
          ∧ ex.packFault 5 0 = none ∧ (∀ l ∈ (ex.frame 5).packLines 5, ex.lineLost l = false) ∧ Memory.wf ex.sys.mem = true)
      ∧ ex.frameTreeBad 6 = false ∧ bad.packFault 5 0 = some kINTEG
      ∧ ((s.coreOf 0).gacc.find? (fun g => g.id == 5) = some accessA ∧ s.mayPerform 0 (s.coreOf 0) accessA = true
          ∧ (s.coreOf 0).recording = false ∧ (s.coreOf 0).placed ≠ none ∧ s.sys.slotOpen ≠ some 2)
      ∧ ((withCore { coreA 0 with gacc := [own, accessA] }).mayPerform 0 { coreA 0 with gacc := [own, accessA] } accessA = true)
      ∧ (match s.homeRead accessA with
          | .ok (_, n) => n == 0
          | .error _ => false) = true
      ∧ (match ({ s with sys := { s.sys with tagBad := [4] } }).homeRead accessA with
          | .ok _ => false
          | .error k => k == kINTEG) = true
      ∧ (inMap 0 = true ∧ s.homePaused 0 = false
          ∧ (({ sysA with frames := [(0, { frameA with scrub := true })] }).frames.headD (0, {})).2.scrub = true
          ∧ (s.frame 3).scrub = false ∧ s.sys.boot.linked = true ∧ 3 ∉ s.sys.clean ∧ s.sys.zl = []) := by decide +kernel

/-! ### Witnesses: the engines at work -/

/-- A COPY of four bytes within core 0's scratchpad, a galley fetch, a message to member 1 and an OBJADD. -/
def copyA : Cmd :=
  { id := 5, eng := .copy, opc := 0x10, f := fld .xe .two 0 1 2, hnd := false, hdr := 0x40, ea := 0x1000, eb := 0x2000,
    ec := 0x200000000000000, formes := [forme32, forme32] }
def fetchA : Cmd := { copyA with eng := .galley, opc := 0x12, gal := galleyA, f := { copyA.f with i16 := 8 } }
def messageA : Cmd := { copyA with eng := .message, opc := 0x13, ea := 1, ec := 0x1000, f := { copyA.f with i16 := 64 } }
def objaddA : Cmd := { copyA with eng := .coll, opc := 0x16, ea := 0x1000, eb := 3 }

/-- That command in the queue, between two slots of the calendar. -/
def engine (m : Cmd) : State := { withCore { coreA 0 with cmds := [m] } with sys := { sysA with tick := 31632 } }

/-- A COLL of one rank whose buffer is in scratchpad, and that rank. -/
def collA : Cmd := { copyA with eng := .coll, opc := 0x17, ea := 0, eb := 0x1000, formes := [forme32], started := true }
def rankA : CollRank :=
  { core := 0, cmd := 5, ctx := 0, handle := 0, seq := 0, rank := 0, kind := 0, op := 0, forme := forme32, q := 3, count := 2,
    image := [1, 2], n := 1 }

theorem witness_EngineEvents :
    let starts (m : Cmd) : Bool :=
      (engine m).chunkReady 0 m && (((engine m).coreOf 0).rouseAll (((engine m).coreOf 0).touches m)).1
        && ((engine m).cmdMiss 0 0 5 accERead m.chunkReads).isNone
        && ((engine m).coreOf 0).refusing.isNone
    let reads (m : Cmd) : Bool := match (engine m).readChunk 0 m with
      | (.ok x, _) => x.eng == m.eng && x.opc == m.opc && eaSpace x.eb == eaSpace m.eb
      | _ => false
    let under (m : Cmd) (bs : List Byte) : State := engine { m with chunk := some bs, started := true }
    let u := under copyA (List.replicate 16 7)
    let sp := copyA.chunkSpan 0
    let done := { copyA with progress := 1 }
    let told (m : Cmd) (d : Word) (inc : Nat) : Bool := match (engine m).countObj 0 0 true d inc with
      | (.done, v) => v.rankAt 0 5 == none && (engine m).rankAt 0 5 == none && (engine m).objMiss 0 m d == none
      | _ => false
    let s : State := { engine collA with sys := { sysA with tick := 31632, colls := [rankA], collQueues := [⟨0, 0, 1, 0⟩] } }
    let busy : State := { s with sys := { s.sys with colls := [{ rankA with busy := true }] } }
    let far := { collA with eb := 0x100000000001000 }
    let late : State := { s with sys := { s.sys with tick := 3900 } }
    let fan : CollRank := { rankA with far := [(7, 0)] }
    let in_ : CollRank := { rankA with peer := true, vf := 0, inbox := [[1]] }
    let other (r : CollRank) (t : Word) : State := { s with sys := { s.sys with tick := t, colls := [r], fabric := [⟨9, 0, 7, true, [], [], [], [], []⟩] } }
    ((engine copyA).coreOf 0).cmdOf 5 = some copyA ∧ starts copyA = true ∧ reads copyA = true
      ∧ (starts fetchA = true ∧ reads fetchA = true)
      ∧ (starts messageA = true ∧ (engine messageA).memberCore 0 1 = some 1
          ∧ ((engine messageA).coreOf 0).spError 0x1000 0x1040 = false)
      ∧ (u.enginesHeld 0 = false ∧ copyA.toPacked = false ∧ copyA.copyReading = false ∧ copyA.parked = false
          ∧ u.cmdMiss 0 0 5 accEWrite copyA.chunkWrites = none
          ∧ okOf (u.scatter 0 0 true 0 copyA.pieces.1 (copyA.targets sp.1 sp.2) (List.replicate 16 7)).1 = true)
      ∧ 2 ≤ ringRow fetchA.gal.ring
      ∧ ((engine done).performed 0 done = true ∧ done.object = 0x200000000000000#64) ∧ told done done.object 1 = true
      ∧ told objaddA objaddA.ea 3 = true
      ∧ ((engine objaddA).objWaits 0 5 = false ∧ (engine objaddA).aborting 0 = false)
      ∧ (s.busyRank 0 = none ∧ s.firstRank 0 = none ∧ (s.arbitrate 0).map Prod.fst = some rankA ∧ s.disagree rankA = false ∧ rankA.steps = false
          ∧ s.admits (s.entryReach rankA collA) rankA.entry.2.1 = true ∧ ((coreA 0).rouse 0x1000 0x1008).1 = true)
      ∧ (fan.steps = true ∧ ((other fan 31632).arbitrate 0).map Prod.fst = some fan ∧ (other fan 31632).admits { peer := true } fan.size = true
          ∧ (other fan (3904 * 65536 - 100)).admits { peer := true } fan.size = false ∧ (other fan 31632).sys.slotOpen ≠ some 2)
      ∧ ((other { fan with busy := true } 31632).busyRank 0 = some { fan with busy := true } ∧ fan.peer = false
          ∧ ((other fan 31632).sessionWith ((other fan 31632).rankVf fan) 7).isSome = true)
      ∧ (in_.steps = true ∧ (other { in_ with busy := true } 31632).busyRank 0 = some { in_ with busy := true } ∧ in_.peer = true)
      ∧ (late.admits (late.entryReach rankA far) rankA.entry.2.1 = false ∧ rankA.first = false)
      ∧ (busy.rangePaused 0 (eaAddr far.eb + rankA.entry.1) rankA.entry.2.1 = false
          ∧ busy.cmdMiss 0 0 5 accEWrite (pagesOf (eaAddr far.eb + rankA.entry.1) rankA.entry.2.1) = none)
      ∧ (busy.busyRank 0 = some { rankA with busy := true } ∧ busy.enginesHeld 0 = false
          ∧ okOf (s.engWrite 0 0 true 0 (0x1000 + rankA.entry.1) (rankA.entryBytes (collRanks s.sys.colls rankA)).1).1 = true) := by
  decide +kernel

/-- A core with one matrix operation of an opcode on tile 0. -/
def matA (opc : Nat) (started : Bool) : MatOp :=
  { cmd := { copyA with eng := .matrix, opc := opc, formes := [formeF] }, tiles := [0], started := started, begun := 0 }
def matState (opc : Nat) (started : Bool) : State :=
  withCore { coreA 0 with clk := 100000, mats := [matA opc started], active := { cls := 1, k := 32, n := 32 } }

theorem witness_MatrixEngine :
    let starts (opc : Nat) : Bool :=
      let s := matState opc false
      let c := s.coreOf 0
      let o := matA opc false
      c.mats.find? (fun o => !o.started) == some o && startsAfter c.clk [] o && !o.cmd.parked && !c.engineWaits 5 && s.forked c 5
        && (c.rouseAll (o.reads c)).1 && (c.softRead (o.reads c)).isNone
    let finishes (opc : Nat) : Bool :=
      let s := matState opc true
      let c := s.coreOf 0
      let o := matA opc true
      c.mats.find? (fun o => o.cmd.id == 5) == some o && decide (o.due c ≤ c.clk) && (c.rouseAll (o.writes c)).1 && (c.softMerge (o.writes c)).isNone
    let counts (opc : Nat) : Bool :=
      let s := matState opc true
      let c := s.coreOf 0
      let o := matA opc true
      (s.objMiss 0 o.cmd o.cmd.ec).isNone && match (s.setCore 0 ((c.effect o).1.landFlags o.cmd (c.effect o).2)).countObj 0 0 true o.cmd.ec 1 with
      | (.done, _) => true
      | _ => false
    (matState 1 false).enginesHeld 0 = false ∧ (∀ k ∈ [0x01, 0x02, 0x03, 0x04, 0x05, 0x06], starts k = true)
      ∧ (∀ k ∈ [0x01, 0x03, 0x05, 0x06], finishes k = true) ∧ (∀ k ∈ [0x01, 0x05], counts k = true) := by decide +kernel

/-! ### Witnesses: the calendar, the debugger, the host, tenants, sessions and ports -/

theorem witness_Calendar :
    let at_ (t : Nat) : Sys := { sysA with tick := BitVec.ofNat 64 t }
    let isl (i : Island) (n : Nat) : Island := (({ sysA with islands := Vector.replicate 16 i }).islands.toList.getD n {})
    let mine : Mrovr := { count := 4, streak := 3, mce := true, hit := true }
    ((3903 : Nat) < 3904 ∧ (6 : Nat) < 7 % 65536 ∧ 7 % 64 ≠ 0 ∧ (6 : Nat) < 64 % 65536 ∧ 64 % 64 = 0 ∧ (65536 : Nat) % 65536 = 0)
      ∧ (slotAt (at_ 24575).tick.toNat = some (2, 1) ∧ slotAt (at_ (3904 * 64 + 1407)).tick.toNat = some (1, 1)
          ∧ slotAt (at_ (3904 * 7)).tick.toNat = some (0, 352) ∧ sysA.boot.timed = true ∧ sysA.slotOpen = none
          ∧ (∀ e ∈ sysA.contexts, e.2.dlOwed = []))
      ∧ ((isl { tripped := true, cooled := false } 15).tripped = true ∧ (isl { tripped := true, cooled := false } 15).cooled = false)
      ∧ ((isl { next := some 20 } 15).tripped = false ∧ (isl { next := some 20 } 15).next = some 20)
      ∧ ((isl { tripped := true } 15).tripped = true ∧ (isl { tripped := true } 15).cooled = true
          ∧ (isl { tripped := true } 15).next = none)
      ∧ (({ at_ 24576 with slotOpen := some 2 }).slotOpen = some 2 ∧ slotAt (at_ 24576).tick.toNat = none)
      ∧ ([(43, mine)][0]? = some (43, mine) ∧ mine.hit = true ∧ ({ mine with hit := false }).hit = false
          ∧ ({ mine with streak := 2 }).streak ≠ 3) ∧ (0x800000000#64).getLsbD 35 = true := by decide +kernel

theorem witness_DebugMailbox :
    let halted := { coreA 0 with dbg := { state := 2, step := some (1, 40) } }
    let running := { coreA 0 with main := { (coreA 0).main with pc := 0x80 },
                                  dbg := { state := 1, breaks := [0, 0x80, 0, 0], step := some (65535, 0) }, clk := 65536 }
    let s := withCore halted
    (s.gangAt 0 = some gangA ∧ s.launchOf 1 = some launchA ∧ s.running 0 = true)
      ∧ s.inWindow 0 0 = true ∧ s.inWindow 1 0 = false ∧ ({ s with sys := { s.sys with slotOpen := some 2 } }).rangePaused 0 0x20000 1 = true
      ∧ s.rangePaused 0 0x20000 (recordBytes + halted.pendingList.length) = false ∧ s.rangePaused 0 0x20000 recordBytes = false
      ∧ ((coreA 0).dbg.state = 0 ∧ halted.dbg.state = 2 ∧ running.dbg.state = 1 ∧ 0 ∈ gangA.cores ∧ 2 ∉ gangA.cores)
      ∧ ((0xFFFF#64).toNat % 2 ^ 16 ≠ 0 ∧ (0xFFFE#64).getLsbD 0 = false ∧ (0xFFFF#64).getLsbD 0 = true)
      ∧ (running.dbg.skip = false ∧ 0x80#64 ∈ running.dbg.breaks ∧ (running.bank running.run.isSome).pc = 0x80#64
          ∧ (withCore running).held = [] ∧ 0 + 65536 ≤ running.clk ∧ running.stopReq = false)
      ∧ ((∀ h ∈ (heldState (.waitev 1 0) none).held, h.hold.boundary = true)
          ∧ ∃ h ∈ (heldState (.untilClk 90) none).held, h.core = 0 ∧ h.hold.boundary = false) := by decide +kernel

theorem witness_HostInterface :
    let s := stateA
    let out : State := { s with sys := { s.sys with launches := [], gangs := [] } }
    let spare : State := { s with sys := { s.sys with frames := s.sys.frames ++ [(4, {})] } }
    let lone : State := { s with sys := { s.sys with frames := [(0, frameA), (9, frameA)] } }
    let far : State := { s with sys := { s.sys with vfs := [(0, { vfA with tdisp := .locked })] } }
    (s.sys.esp = [] ∧ (0x8000000000000000#64).toNat / 2 ^ 63 = 1 ∧ (s.context 0).vf = some 0 ∧ out.inFlight 0 = false ∧ s.inFlight 0 = true ∧ anytime 0x00 = false)
      ∧ ((1#64).getLsbD 0 = true ∧ (2#64).getLsbD 0 = false ∧ (s.vf 0).tdisp = .run)
      ∧ ((s.vf 0).bind ≠ .quarantined ∧ s.dvaPaused 0 0x3FFFFFF8 = false
          ∧ okOf (s.gRead none 0 0x3FF8 8 accLoad true).1 = true
          ∧ okOf (s.gWrite .host 0 0x1FFF8 (List.replicate 8 1) accStore false false).1 = true)
      ∧ (far.vf 0).tdisp ≠ .run
      ∧ (inMap (4 * 65536) = true ∧ (spare.frame 4).valid = false ∧ (spare.frame 4).rsvd = false ∧ (spare.frame 4).stfree = false
          ∧ (spare.frame 4).lent = false ∧ 4 ∈ spare.sys.clean ∧ (spare.framesOf 0).length < (spare.vf 0).frameQuota)
      ∧ ((lone.frame 9).owner = 0 ∧ (lone.frame 9).valid = true ∧ (lone.frame 9).rsvd = false ∧ (lone.frame 9).comp = 0
          ∧ (lone.frame 9).stfree = false ∧ (lone.frame 9).lent = false ∧ (lone.frame 9).loc = none ∧ isCxlFrame 9 = false
          ∧ lone.frameTouched 9 = false ∧ lone.integBad (65536 * 9) 65536 = false ∧ lone.eccLines (65536 * 9) 65536 = 0 ∧ (7 : Nat) < 8) := by decide +kernel

theorem witness_Binding :
    let one : List Byte := [1, 1] ++ List.replicate 830 0
    let session : SpdmSession := { id := 3, requester := partyOf one 0, established := true }
    let v : Vf := { tdisp := .locked, spdmStep := 3, sessions := [session], bind := .recorded, record := one, nparty := 1 }
    let two : Vf := { v with nparty := 2, record := [1, 2] ++ List.replicate 830 0 }
    let full : Vf := { v with sessions := List.replicate 16 session }
    one.length = 832 ∧ blockBits one 0 8 = 1 ∧ blockBits one 8 5 = 1 ∧ blockBits one 13 499 = 0
      ∧ ({} : Vf).tdisp = .unlocked ∧ ({ v with tdisp := .run }).tdisp = .run ∧ v.tdisp = .locked ∧ ({} : Vf).bind = .unbound
      ∧ ({} : Vf).unbinding = false
      ∧ (session.id = 3 ∧ session.established = true ∧ session.requester = partyOf v.record 0 ∧ session.requester = partyOf two.record 0)
      ∧ (v.shares ++ [(0, List.replicate 48 9)]).length = v.nparty ∧ (two.shares ++ [(0, List.replicate 48 9)]).length < two.nparty
      ∧ full.sessions.length = 16 ∧ v.sessions.length < 16 ∧ ({} : Vf).spdmStep < 3 ∧ (1 ≤ (1 : Nat) ∧ (7 : Nat) ≤ 7)
      ∧ (vfA.tdisp = .run ∧ vfA.bind ≠ .unbound) ∧ (∃ e ∈ v.sessions, e.id = 3 ∧ (e.established = true ∨ true = false)) := by
  decide +kernel

/-- Whether a requester proves itself is one of two cases, and FINISH has an outcome in each. -/
theorem witness_Binding_finish (p : Prop) : ∃ ok : Bool, ok = true ↔ p := by
  by_cases h : p
  · exact ⟨true, by simp [h]⟩
  · exact ⟨false, by simp [h]⟩

/-- A FABKEY that waits, for a peer of a higher and of a lower number; its handshake on either side. -/
def fabA (peer : Nat) : KeyJob :=
  { core := 0, cmd := { copyA with eng := .key, opc := 0x24, block := natToBytes 256 (peer * 2 ^ 64) }, launch := 1, vf := 0, ctx := 0,
    gang := 2 }
def shakeA (initiator : Bool) (step : Nat) : Handshake :=
  { core := 0, cmd := 5, vf := 0, peer := 7, initiator := initiator, step := step, transcript := [], nonce := [], point := [] }
def fabState (j : KeyJob) (hs : List Handshake) : State :=
  { stateA with sys := { sysA with jobs := [j], shakes := hs, pkg := 5, tick := 0x40000000 } }
def linkA : FabSession := { num := 9, vf := 0, peer := 7, initiator := true, kI2R := [], kR2I := [], ks := [] }

theorem witness_Sessions :
    let s (hs : List Handshake) : State := fabState (fabA 7) hs
    let full : State := { s [] with sys := { (s []).sys with fabric := List.replicate 64 linkA } }
    ((s []).fabJob 0).isSome = true ∧ (s []).fabJob 0 = some (fabA 7) ∧ fbPeer (fabA 7).cmd.block = 7 ∧ (s []).shakeOf (fabA 7) = none
      ∧ (fabA 7).since.toNat + 2 ^ 30 ≤ (s []).sys.tick.toNat
      ∧ (∃ p ∈ [((7 : Nat), (5 : Nat))], p.1 = fbPeer (fabA 7).cmd.block)
      ∧ (let u := { (s []).sys with tick := 0x3FFFFFFF }
         ¬((fabA 7).since.toNat + 2 ^ 30 ≤ u.tick.toNat) ∧ u.noPath = [] ∧ (∀ h ∈ u.shakes, h.initiator = false))
      ∧ (({ (s []).sys with fabric := [linkA], noPath := [(7, 0)] }).noPath.any fun p => p.1 == linkA.peer && p.2 + 2 ^ 30 ≤ 0x40000000) = true
      ∧ (({ (s []).sys with fabric := [linkA], noPath := [(7, 1)] }).noPath.any fun p => p.1 == linkA.peer && p.2 + 2 ^ 30 ≤ 0x40000000) = false
      ∧ (64 : Nat) ≤ ({ pkg := 7, openSessions := 64, opened := 0 } : PeerRequest).openSessions
      ∧ ({ pkg := 7, openSessions := 63, opened := 0 } : PeerRequest).openSessions < 64
      ∧ 64 ≤ full.openCount 0 ∧ (s []).openCount 0 < 64 ∧ (s []).sys.pkg < 7 ∧ ¬((s []).sys.pkg < 3)
      ∧ (∀ p ∈ [(false, 0), (true, 1), (false, 2), (true, 3)],
          (s [shakeA p.1 p.2]).shakeOf (fabA 7) = some (shakeA p.1 p.2)) := by decide +kernel

/-- A session that closes: no COLL needs it, and one of core 0 does, whose group has a rank of package 0. -/
theorem witness_Sessions_closed :
    let coll : Cmd := { copyA with eng := .coll, opc := 0x17, ea := 0, eb := 0x1000, formes := [forme32] }
    let s : State := { groupState with
      cores := [(0, { coreA 0 with cmds := [coll] })], sys := { groupState.sys with pkg := 1, fabric := [] } }
    (stateA.coreOf 0).cmds = [] ∧ s.cutOff 0 coll = true ∧ s.gangAt 0 = some gangA ∧ gangA.launch = launchA.id := by decide +kernel

/-- A packet whose tag is the right one, the next by its counter; and one that skips. -/
theorem witness_Sessions_packet :
    let s : State := { stateA with sys := { sysA with tick := 31632, fabric := [linkA] } }
    let tag := sized 16 (Config.gcmTag linkA.recvKey (fabNonce 0 1) [] (bodyBytes (.reply [1])))
    let pkt : FabricPacket := ⟨0, 3, 1, tag, .reply [1]⟩
    s.sys.fabric.find? (fun e => e.num == 9) = some linkA ∧ s.sys.flits.contains (7, pkt.port, pkt.seq) = false ∧ s.sys.slotOpen ≠ some 2
      ∧ pkt.counter = mget 0 linkA.rx pkt.port + 1
      ∧ pkt.tag = sized 16 (Config.gcmTag linkA.recvKey (fabNonce pkt.port pkt.counter) [] (bodyBytes pkt.body))
      ∧ mget 0 linkA.rx pkt.port < ({ pkt with counter := 2 }).counter
      ∧ ({ pkt with counter := 0 }).counter ≤ mget 0 linkA.rx pkt.port
      ∧ ({ sysA with flits := [(7, 0, 3)] }).flits.contains (linkA.peer, pkt.port, pkt.seq) = true := by
  refine ⟨?_, ?_, ?_, ?_, rfl, ?_, ?_, ?_⟩ <;> decide +kernel

theorem witness_PortsAndManagement :
    let a : EspSa := { spi := 4, ctx := 0, egress := false, ring := 0x20000, buffers := 2, next := 1 }
    let s : State := { stateA with sys := { sysA with esp := [a, { a with egress := true }], boot := .training, tick := 24576 } }
    let iv := List.replicate 8 5#8
    let p : EspPacket := ⟨0, 1, iv, a.tag (s.espKey a) 1 iv (List.replicate 8 1), List.replicate 8 1⟩
    let at_ (b : Boot) : Sys := { sysA with boot := b }
    s.sys.esp.find? (fun a => a.spi == 4 && !a.egress) = some a
      ∧ s.sys.esp.find? (fun a => a.spi == 4 && a.egress) = some { a with egress := true }
      ∧ s.dvaPaused 0 (0x20000 + 4096) = false ∧ s.closedCtx 0 = false ∧ a.seq < p.seq
      ∧ p.tag = a.tag (s.espKey a) p.seq p.iv p.payload ∧ (s.context 0).vf = some 0
      ∧ okOf (s.gWrite .host 0 (0x20000 + 4096) (p.payload.take 4096) accStore false false).1 = true
      ∧ ({ sysA with cxl := Vector.replicate 4 .training }).cxl.toList.getD 3 .down = .training
      ∧ ({ sysA with cxl := Vector.replicate 4 .active }).cxl.toList.getD 3 .down = .active
      ∧ s.sys.boot = .training ∧ s.sys.trainAt + 24576 ≤ s.sys.tick.toNat
      ∧ (∀ b : Boot, (at_ b).boot = b) ∧ { a with seq := 1, window := [1] }.fresh p.seq = false ∧ p.vf < 64
      ∧ s.sys.esp.find? (fun a => a.spi == 5 && !a.egress) = none := by
  refine ⟨?_, ?_, ?_, ?_, ?_, rfl, ?_, ?_, ?_, ?_, ?_, ?_, fun b => rfl, ?_, ?_, ?_⟩ <;> decide +kernel

theorem witness_PortsAndManagement_egress :
    let s : State := { stateA with sys := { sysA with tick := 31632 } }
    okOf (s.gRead none 0 0x21000 4096 accLoad false).1 = true := by decide +kernel

/-! ### Witnesses: encodings, steps and bundles -/

/-- ADD x3, x1, x2 of one word (Table 1-5), and a line that holds it alone at its start. -/
def addA : Fields := { plainFields .sa .one with d := 3, a := 1, b := 2 }
def lineA : List (BitVec 32) := [0xB4000002#32, 0x0208C080#32] ++ List.replicate 14 0xB4000000#32

/-- Core 0 at 0x40 with that line, x1 = 2 and x2 = 3. -/
def runCore : Core :=
  let c := ((coreA 0).setReg false .x 1 2).setReg false .x 2 3
  { c with icache := [⟨0x40, lineA⟩], main := { c.main with pc := 0x40 } }
def runState : State := withCore runCore

theorem witness_DecodeEncode :
    (Instr.add addA).wf = true ∧ (Instr.add addA).slotPart = some (1, addA)
      ∧ decodeSlot .sa [0x0208C080#32, 0xB4000000#32] = (.ok (.add addA), some [0xB4000000#32]) := by decide +kernel

theorem witness_StepRuns :
    let s : State := { runState with agenda := [.turn 0] }
    let w := { s with agenda := [] }
    let b : Bundle := ⟨2, [(.sa, .add addA)]⟩
    issuing w 0 false b ∧ sourcesFull (atIssue w 0 false b) b ∧ issuing runState.elapse 0 false b
      ∧ sourcesFull (atIssue runState.elapse 0 false b) b ∧ runState.agenda = [] ∧ runState.focus < 2048 := by
  refine ⟨⟨?_, ?_, ?_, ?_, ?_, ?_⟩, ?_, ⟨?_, ?_, ?_, ?_, ?_, ?_⟩, ?_, rfl, by decide⟩
  all_goals first
    | decide +kernel
    | exact ⟨lineA, by decide +kernel, by decide +kernel⟩
    | (intro e he
       obtain rfl : e = (.sa, .add addA) := List.mem_singleton.mp he
       exact ⟨1, addA, rfl, .inr (by decide +kernel)⟩)

theorem witness_StepRuns_others :
    Instr.reset.slotPart = none ∧ (Instr.add addA).slotPart ≠ none ∧ (2048 : Nat) ≤ ({ stateA with focus := 2048 }).focus
      ∧ ({ stateA with focus := 2048 }).agenda = [] ∧ mayCome .measured (.gangPlace 0) = false ∧ mayCome sysA.boot (.gangPlace 0) = true := by decide +kernel

/-- R14, R17: one clk of core 0 issues ADD, and the next lands 2 + 3 in x3. -/
theorem test_step_add :
    (match step runState with
      | .next t => (match step { t with agenda := [.turn 0] } with
        | .next u => ((t.coreOf 0).main.pc == 0x48, (u.coreOf 0).reg false .x 3)
        | _ => (false, 0))
      | _ => (false, 0)) = (true, 5) := by decide +kernel

/-- A bundle of core 0 whose x1 waits for a result, with its wait bit clear and set. -/
def waitState (wa : Bool) : State × Fields :=
  let p : Pend := ⟨9, false, .sb, 0, 0x0C, some (.x, 1), none, .word 0, 0⟩
  (withCore { coreA 0 with pend := [p] }, { addA with wa := wa })

theorem witness_EmptySources :
    (∀ wa : Bool, passes (waitState wa).1.bun ∧ (waitState wa).1.bun.was = [] ∧ (waitState wa).1.bun.mem = none ∧ guardOf (waitState wa).2 (waitState wa).1 = true
        ∧ (sourcesOf 1 (waitState wa).2).map (fun r => (r.file, r.reg, r.wait)) = [(.x, 1, wa), (.x, 2, false)]
        ∧ (waitState wa).1.bun.pre.isEmpty false .x 1 = true ∧ (waitState wa).1.bun.pre.isEmpty false .x 2 = false)
      ∧ (coreA 0).trapvec ≠ 0#64 ∧ (coreA 0).intrap = false ∧ (waitState true).1.bun.hnd = false
      ∧ (waitState true).1.bun.wake = [] := by
  refine ⟨fun wa => ?_, by decide⟩
  cases wa <;> exact ⟨⟨rfl, rfl, rfl⟩, rfl, rfl, by decide +kernel, by decide +kernel, by decide +kernel, by decide +kernel⟩

/-- CSRWR of MQBASE from an empty x1 in mode U: PRIV comes before EMPTY. -/
theorem witness_EmptySources_early :
    let p : Pend := ⟨9, false, .sb, 0, 0x0C, some (.x, 1), none, .word 0, 0⟩
    let s := withCore { coreA 0 with pend := [p], modeS := false }
    let f := { plainFields .ctl .two with a := 1, wa := true, i16 := 0x020 }
    let u : State := { s with bun := { s.bun with raised := [⟨0x03, .ctl, 0, 0, 0⟩] } }
    (Instr.csrwr f).slotPart = some (0x17, f) ∧ s.valueJudged 0x17 f = false ∧ guardOf f s = true
      ∧ (sourcesOf 0x17 f).map (fun r => (r.file, r.reg, r.wait)) = [(.x, 1, true)]
      ∧ s.gangAt 0 = some gangA ∧ s.launchOf 1 = some launchA ∧ launchA.fault = none
      ∧ (match exec (.csrwr f) u with
          | .next v => v.bun.raised == u.bun.raised ++ [⟨0x21, .ctl, 0, 0, 0⟩]
          | _ => false) = true ∧ s.valueJudged 0x20 f = true := by decide +kernel

/-- Whether the bundle at 0x40 leaves the range of a loop entry, and whether that has a pass to come. -/
def loopEnd (e : LoopEntry) : Bool × Bool :=
  let after := stateA.bun.hdr + BitVec.ofNat 64 (4 * stateA.bun.words)
  (decide (e.start.toNat ≤ stateA.bun.hdr.toNat ∧ stateA.bun.hdr.toNat < e.stopAt.toNat ∧ e.stopAt.toNat ≤ after.toNat),
    decide (e.e.toNat + 2 < e.lim.toNat + e.stages))

theorem witness_BundleEnds_loops :
    let last : LoopEntry := { start := 0x40, stopAt := 0x48, n := 4, lim := 4, e := 3 }
    let ls (s : State) : List LoopEntry := (s.bun.cur.bank s.bun.hnd).loops
    (ls (loopState [entryA]) = [entryA] ∧ loopEnd entryA = (false, true))
      ∧ loopEnd { last with e := 2 } = (true, true) ∧ loopEnd { last with staged := true, stages := 2 } = (true, true)
      ∧ (loopEnd last = (true, false) ∧ last.stop = false)
      ∧ (let cut := { last with stop := true, lim := 2, e := 1 }
         loopEnd cut = (true, false) ∧ cut.stop = true ∧ cut.lim.toNat < cut.n.toNat)
      ∧ ({ coreA 0 with stopReq := true }).stopReq = true
      ∧ (let c := { coreA 0 with intrap := true, traprec := 0x10000 }
         c.intrap = true ∧ [last].length ≤ c.traprec.toNat / 2 ^ 16 % 8 ∧ 0 < [last].length) := by decide +kernel

theorem witness_BundleEnds :
    let b := stateA.bun
    (b.raised = [] ∧ b.brk = none ∧ b.wake = []) ∧ ({ b with stall := true }).stall = true
      ∧ ({ b with hold := some (.bars 7) }).hold = some (.bars 7) ∧ (Hold.bars 7).isWait = true ∧ (stateA.coreOf 0).stopReq = false
      ∧ (b.hnd = false ∧ b.mem = none ∧ ({ coreA 0 with stopReq := true }).stopReq = true)
      ∧ (b.logs = 0 ∧ b.post = [] ∧ b.cur.dbg.step = none ∧ (b.cur.bank b.hnd).loops = [])
      ∧ b.target = none ∧ ({ b with target := some 0x80 }).target = some 0x80 := by decide +kernel

/-- A bundle of core 0 that raises a kind in SA. -/
def raiseState (k : Nat) (c : Core) : State :=
  let s := withCore c
  { s with bun := { s.bun with raised := [{ kind := k, slot := .sa }] } }

theorem witness_TrapEntry :
    (∀ k ∈ [0x01, 0x04, 0x10, 0x12, 0x20, 0x25], (raiseState k (coreA 0)).bun.reports = some k)
      ∧ (raiseState 4 (coreA 0)).bun.hnd = false ∧ (coreA 0).trapvec ≠ 0#64 ∧ (coreA 0).intrap = false
      ∧ ({ coreA 0 with intrap := true }).intrap = true ∧ ({ coreA 0 with trapvec := 0 }).trapvec = 0#64
      ∧ (raiseState 4 (coreA 0)).gangAt 0 = some gangA ∧ (raiseState 4 (coreA 0)).launchOf 1 = some launchA
      ∧ launchA.fault = none
      ∧ ((Hold.translate 0 0).outranks 0x04 = true ∧ (Hold.translate 0 0).isWait = false ∧ (Hold.untilClk 9).outranks 0x04 = false)
      ∧ (∀ k ∈ [0x26, 0x27, 0x28], (raiseState k (coreA 0)).bun.reports = none)
      ∧ ((raiseState 0x26 (coreA 0)).bun.stall = false ∧ (raiseState 0x26 (coreA 0)).bun.hold = none
          ∧ (raiseState 0x26 (coreA 0)).bun.logs = 0 ∧ (raiseState 0x26 (coreA 0)).bun.post = []) := by decide +kernel

/-- R60, R324: an OVF trap enters the handler with the header in TRAPPC and the kind, the slot and the depth in TRAPREC. -/
theorem test_trap_enters :
    let c := (raiseState 0x01 (coreA 0)).finish.coreOf 0
    (c.trappc, c.traprec, c.intrap, c.main.pc) = (0x40, 0x201, true, 0x1000) := by decide +kernel

theorem witness_CanonicalKept : Canonical runState ∧ (match step runState with
    | .next _ => true
    | _ => false) = true :=
  ⟨⟨by decide, by
    intro e h
    simp only [runState, withCore, stateA, List.mem_cons, List.not_mem_nil, or_false] at h
    rcases h with rfl | rfl <;> decide +kernel⟩, by decide +kernel⟩


end Sys2Proof.Tests
end

section
/-! PROOFS. The encodings: a slot instruction and its words determine one another (R20, R21, R32, Tables 2-1 and 2-2). -/

namespace Sys2Proof.Proofs
open Sys2Proof

/-! ### The words of Table 2-1, bit by bit -/

/-- Bit i of word 0, field by field from the length code on. -/
theorem packWord0_getLsbD (opc : Nat) (f : Fields) {i : Nat} (h : i < 32) : (packWord0 opc f).getLsbD i =
    bif i < 2 then f.len.code.getLsbD i else bif i < 6 then f.g.getLsbD (i - 2) else bif i < 7 then f.gn
    else bif i < 14 then (BitVec.ofNat 7 opc).getLsbD (i - 7) else bif i < 19 then f.d.getLsbD (i - 14)
    else bif i < 24 then f.a.getLsbD (i - 19) else bif i < 29 then f.b.getLsbD (i - 24) else bif i < 30 then f.wa
    else bif i < 31 then f.wb else f.v := by
  unfold packWord0
  simp only [BitVec.getLsbD_append, BitVec.getLsbD_ofBool]
  interval_cases i <;> rfl

/-- Bit i of word 1, field by field from C on. -/
theorem packWord1_getLsbD (f : Fields) {i : Nat} (h : i < 32) : (packWord1 f).getLsbD i =
    bif i < 5 then f.c.getLsbD i else bif i < 6 then f.wc else bif i < 10 then f.t.getLsbD (i - 6)
    else bif i < 13 then f.rm.getLsbD (i - 10) else bif i < 16 then f.sc.getLsbD (i - 13) else f.i16.getLsbD (i - 16) := by
  unfold packWord1
  simp only [BitVec.getLsbD_append, BitVec.getLsbD_ofBool]
  interval_cases i <;> rfl

/-- A field of a word is a bit string of it. -/
theorem extract_eq {n : Nat} (w : IWord) (at_ : Nat) (x : BitVec n) (h : ∀ i, i < n → w.getLsbD (at_ + i) = x.getLsbD i) :
    w.extractLsb' at_ n = x :=
  BitVec.eq_of_getLsbD_eq fun i hi => by rw [BitVec.getLsbD_extractLsb', h i hi, decide_eq_true hi, Bool.true_and]

theorem opcOf_packWord0 {opc : Nat} (f : Fields) (h : opc < 128) : opcOf (packWord0 opc f) = opc := by
  have e : (packWord0 opc f).extractLsb' 7 7 = BitVec.ofNat 7 opc :=
    extract_eq _ _ _ fun i hi => by rw [packWord0_getLsbD _ _ (by omega)]; interval_cases i <;> rfl
  rw [opcOf, e, BitVec.toNat_ofNat, Nat.mod_eq_of_lt h]

/-- The length code stands in the two low bits of word 0 (R21). -/
theorem lenOf_eq_some (w : IWord) (l : Len) : lenOf w = some l ↔ w.extractLsb' 0 2 = l.code := by
  have h : (w.extractLsb' 0 2).toNat = w.toNat % 4 := by simp
  have h4 : w.toNat % 4 < 4 := Nat.mod_lt _ (by decide)
  rw [← BitVec.toNat_inj, h, lenOf]
  generalize w.toNat % 4 = n at h4
  interval_cases n <;> cases l <;> decide

theorem lenOf_packWord0 (opc : Nat) (f : Fields) : lenOf (packWord0 opc f) = some f.len :=
  (lenOf_eq_some _ _).mpr <| extract_eq _ _ _ fun i hi => by
    rw [packWord0_getLsbD _ _ (by omega)]; interval_cases i <;> rfl

/-- Unpacking reads each field back from its place. -/
theorem unpack_pack (opc : Nat) (f : Fields) :
    unpack f.slot f.len (packWord0 opc f) (packWord1 f) f.l32 = f := by
  have e0 {n : Nat} (at_ : Nat) (x : BitVec n) := extract_eq (packWord0 opc f) at_ x
  have e1 {n : Nat} (at_ : Nat) (x : BitVec n) := extract_eq (packWord1 f) at_ x
  unfold unpack
  congr 1
  case e_g | e_d | e_a | e_b =>
    refine e0 _ _ fun i hi => ?_
    rw [packWord0_getLsbD _ _ (by omega)]
    interval_cases i <;> rfl
  case e_gn | e_wa | e_wb | e_v => exact packWord0_getLsbD opc f (by decide)
  case e_wc => exact packWord1_getLsbD f (by decide)
  all_goals
    refine e1 _ _ fun i hi => ?_
    rw [packWord1_getLsbD _ (by omega)]
    interval_cases i <;> rfl

/-- Packing writes each field of word 0 back to its place. -/
theorem packWord0_unpack (k : Slot) (l : Len) (w0 w1 w2 : IWord) (h : lenOf w0 = some l) :
    packWord0 (opcOf w0) (unpack k l w0 w1 w2) = w0 := by
  have hl := (lenOf_eq_some w0 l).mp h
  refine BitVec.eq_of_getLsbD_eq fun i hi => ?_
  rw [packWord0_getLsbD _ _ hi]
  simp only [unpack, opcOf, ← hl, BitVec.ofNat_toNat, BitVec.getLsbD_extractLsb', BitVec.setWidth_eq]
  interval_cases i <;> rfl

/-- Packing writes each field of word 1 back to its place. -/
theorem packWord1_unpack (k : Slot) (l : Len) (w0 w1 w2 : IWord) : packWord1 (unpack k l w0 w1 w2) = w1 := by
  refine BitVec.eq_of_getLsbD_eq fun i hi => ?_
  rw [packWord1_getLsbD _ hi]
  simp only [unpack, BitVec.getLsbD_extractLsb']
  interval_cases i <;> rfl

/-! ### A slot instruction and its words -/

/-- The opcode of a slot instruction fits OPC. -/
theorem opc_lt_of_slotPart {i : Instr} {opc : Nat} {f : Fields} (h : i.slotPart = some (opc, f)) : opc < 128 := by
  cases i <;> cases h <;> decide

theorem packWord1_absent {f : Fields} (h : absentOk f = true) (hl : f.len = .one) : packWord1 f = 0 := by
  simp only [absentOk, hl, Bool.and_eq_true, beq_iff_eq, Bool.not_eq_true'] at h
  obtain ⟨⟨⟨⟨⟨⟨hc, hwc⟩, ht⟩, hrm⟩, hsc⟩, hi⟩, -⟩ := h
  simp only [packWord1, hc, hwc, ht, hrm, hsc, hi]
  rfl

theorem l32_absent {f : Fields} (h : absentOk f = true) (hl : f.len ≠ .three) : f.l32 = 0 := by
  unfold absentOk at h
  split at h
  · simp only [Bool.and_eq_true, beq_iff_eq] at h; exact h.2
  · exact beq_iff_eq.mp h
  · contradiction

/-- Words whose opcode and fields a well-formed instruction has decode to it. -/
theorem decodeWords_of_wf {i : Instr} {opc : Nat} {f : Fields} {l : Len} {w0 w1 w2 : IWord} (hw : slotWf i opc f = true)
    (ho : opcOf w0 = opc) (hf : unpack f.slot l w0 w1 w2 = f) : decodeWords f.slot l w0 w1 w2 = .ok i := by
  simp only [slotWf, Bool.and_eq_true, beq_iff_eq] at hw
  obtain ⟨⟨hc, hr⟩, -⟩ := hw
  simp only [decodeWords, ho, hf, hr, hc]

theorem decodeSlot_encode {i : Instr} {opc : Nat} {f : Fields} (rest : List IWord) (hp : i.slotPart = some (opc, f))
    (hw : slotWf i opc f = true) : decodeSlot f.slot (encode i ++ rest) = (.ok i, some rest) := by
  have ha : absentOk f = true := by simp only [slotWf, Bool.and_eq_true] at hw; exact hw.2
  have hd := decodeWords_of_wf hw (opcOf_packWord0 f (opc_lt_of_slotPart hp)) (unpack_pack opc f)
  have hl := lenOf_packWord0 opc f
  simp only [encode, hp]
  cases h : f.len with
  | one =>
    rw [packWord1_absent ha h, l32_absent ha (by simp [h]), h] at hd
    simp only [List.cons_append, List.nil_append, decodeSlot, hl, h, hd]
  | two =>
    rw [l32_absent ha (by simp [h]), h] at hd
    simp only [List.cons_append, List.nil_append, decodeSlot, hl, h, hd]
  | three =>
    rw [h] at hd
    simp only [List.cons_append, List.nil_append, decodeSlot, hl, h, hd]

/-- What decodes is the opcode map's answer for the opcode and fields of its words, which pass the checks. -/
theorem decodeWords_ok {k : Slot} {l : Len} {w0 w1 w2 : IWord} {i : Instr} (h : decodeWords k l w0 w1 w2 = .ok i) :
    let f := unpack k l w0 w1 w2
    slotReason (opcOf w0) f = none ∧ ctorOf k.cls (opcOf w0) f = some i := by
  unfold decodeWords at h
  dsimp only at h ⊢
  split at h
  · cases h
  · split at h
    · rename_i _ hr _ _ hc; cases h; exact ⟨hr, hc⟩
    · cases h

/-- Words that decode are the encoding of a well-formed instruction of their slot, where the absent words read as zero. -/
theorem encode_of_decodeWords {k : Slot} {l : Len} {w0 w1 w2 : IWord} {i : Instr} (hl : lenOf w0 = some l)
    (ha : absentOk (unpack k l w0 w1 w2) = true) (h : decodeWords k l w0 w1 w2 = .ok i) :
    encode i = [w0, w1, w2].take l.words ∧ i.wf = true ∧ ∃ opc f, i.slotPart = some (opc, f) ∧ f.slot = k := by
  obtain ⟨hr, hc⟩ := decodeWords_ok h
  have hp := slotPart_of_ctorOf _ _ _ _ hc
  refine ⟨?_, ?_, _, _, hp, rfl⟩
  · simp only [encode, hp, packWord0_unpack k l w0 w1 w2 hl, packWord1_unpack]
    cases l <;> rfl
  · have hc' : ctorOf (unpack k l w0 w1 w2).slot.cls (opcOf w0) (unpack k l w0 w1 w2) = some i := hc
    simp [Instr.wf, hp, slotWf, hc', hr, ha]

theorem encode_of_decodeSlot {k : Slot} {ws rest : List IWord} {i : Instr} (h : decodeSlot k ws = (.ok i, some rest)) :
    ws = encode i ++ rest ∧ i.wf = true ∧ ∃ opc f, i.slotPart = some (opc, f) ∧ f.slot = k := by
  have read {l : Len} {w0 w1 w2 : IWord} {ws r : List IWord} (hl : lenOf w0 = some l)
      (ha : absentOk (unpack k l w0 w1 w2) = true) (hw : ws = [w0, w1, w2].take l.words ++ r)
      (h : (decodeWords k l w0 w1 w2, some r) = (.ok i, some rest)) :
      ws = encode i ++ rest ∧ i.wf = true ∧ ∃ opc f, i.slotPart = some (opc, f) ∧ f.slot = k := by
    simp only [Prod.mk.injEq, Option.some.injEq] at h
    obtain ⟨hd, rfl⟩ := h
    obtain ⟨he, hr⟩ := encode_of_decodeWords hl ha hd
    exact ⟨he ▸ hw, hr⟩
  cases ws with
  | nil => cases h
  | cons w0 r0 =>
    cases hl : lenOf w0 with
    | none => simp [decodeSlot, hl] at h
    | some l =>
      simp only [decodeSlot, hl] at h
      cases l with
      | one => exact read hl rfl rfl h
      | two =>
        match r0, h with
        | [], h => cases h
        | w1 :: r1, h => exact read hl rfl rfl h
      | three =>
        match r0, h with
        | [], h => cases h
        | [_], h => cases h
        | w1 :: w2 :: r2, h => exact read hl rfl rfl h

/-- Settles O53: each field has its own place in the words, and the opcode map answers with the constructor that has the
opcode and the fields read. -/
theorem decodeEncode : Obligations.DecodeEncode := by
  refine ⟨fun i opc f rest hw hp => decodeSlot_encode rest hp ?_, fun k ws rest i h => encode_of_decodeSlot h⟩
  simpa only [Instr.wf, hp] using hw

end Sys2Proof.Proofs
end

section
/-! PROOFS. The frame of a slot instruction (R17, R26): it changes the bundle in flight alone, and of the bundle only what
its slots may change. Each operation on the bundle is shown to keep the frame once, and each instruction is put together
from them. -/

namespace Sys2Proof.Proofs

open Sys2Proof Sys2Proof.Machine Sys2Proof.Safety

/-! ### What stays as it was -/

/-- What no slot changes of the core that its bundle leaves: whose it is, its mode and its clock. -/
def keptCore (c : Core) := (c.modeS, c.gang, c.launch, c.argp, c.ctx, c.placed, c.clk, c.departed)

/-- What no slot changes of its bundle. -/
def keptBun (b : Bun) :=
  ((b.core, b.hnd, b.hdr, b.words, b.pre, b.was, b.answer, b.xlf),
   (b.landed, b.since, b.tick, b.mem, b.sent, b.first, b.runs), keptCore b.cur)

/-- One state comes from another by what slots may do: within the bundle, with what it has raised and posted only added to. -/
structure SlotStep (s t : State) : Prop where
  outside : t = { s with bun := t.bun }
  kept : keptBun t.bun = keptBun s.bun
  coal : s.bun.coal = true → t.bun.coal = true
  raised : s.bun.raised <+: t.bun.raised
  post : s.bun.post <+: t.bun.post

namespace SlotStep

variable {s t : State}

@[simp] theorem refl (s : State) : SlotStep s s := ⟨rfl, rfl, id, List.prefix_refl _, List.prefix_refl _⟩

theorem trans {u : State} (h : SlotStep s t) (h' : SlotStep t u) : SlotStep s u where
  outside := by rw [h'.outside, h.outside]
  kept := h'.kept.trans h.kept
  coal := h'.coal ∘ h.coal
  raised := h.raised.trans h'.raised
  post := h.post.trans h'.post

/-! ### The operations on a bundle -/

/-- A change of the bundle that leaves raises, posts and the `.c` mark as they were. -/
theorem onBun (h : SlotStep s t) {b : Bun} (hk : keptBun b = keptBun t.bun) (hc : t.bun.coal = true → b.coal = true)
    (hr : b.raised = t.bun.raised) (hp : b.post = t.bun.post) : SlotStep s { t with bun := b } :=
  h.trans ⟨rfl, hk, hc, hr ▸ List.prefix_refl _, hp ▸ List.prefix_refl _⟩

theorem onCur (h : SlotStep s t) {g : Core → Core} (hg : ∀ c, keptCore (g c) = keptCore c) : SlotStep s (t.onCur g) :=
  h.onBun (by simp only [keptBun, hg]) id rfl rfl

@[simp] theorem raise (h : SlotStep s t) (f : Fields) (k : Nat) (a : Word) (r x : Nat) : SlotStep s (t.raise f k a r x) :=
  h.trans ⟨rfl, rfl, id, List.prefix_append _ _, List.prefix_refl _⟩

@[simp] theorem posts (h : SlotStep s t) (p : Post) : SlotStep s (t.post p) :=
  h.trans ⟨rfl, rfl, id, List.prefix_refl _, List.prefix_append _ _⟩

@[simp] theorem stalls (h : SlotStep s t) : SlotStep s t.stalls := h.onBun rfl id rfl rfl
@[simp] theorem holds (h : SlotStep s t) (x : Hold) : SlotStep s (t.holds x) := h.onBun rfl id rfl rfl
@[simp] theorem goes (h : SlotStep s t) (a : Word) : SlotStep s (t.goes a) := h.onBun rfl id rfl rfl

@[simp] theorem coalesces (h : SlotStep s t) (n : Nat) : SlotStep s (t.coalesces n) := by
  unfold State.coalesces
  split
  · exact h
  · exact h.onBun rfl (fun _ => rfl) rfl rfl

@[simp] theorem branch {p : Prop} {_ : Decidable p} {a b : State} (ha : SlotStep s a) (hb : SlotStep s b) :
    SlotStep s (if p then a else b) := by split <;> assumption

theorem foldl {α : Type} {g : State → α → State} (hg : ∀ t a, SlotStep s t → SlotStep s (g t a)) (l : List α)
    (h : SlotStep s t) : SlotStep s (l.foldl g t) := by
  induction l generalizing t with
  | nil => exact h
  | cons a l ih => exact ih (hg t a h)

end SlotStep

/-! ### The operations on a core -/

theorem keptCore_setBank (c : Core) (hnd : Bool) (b : Bank) : keptCore (c.setBank hnd b) = keptCore c := by
  cases hnd <;> rfl

theorem keptCore_writeVal (c : Core) (hnd : Bool) (file : RFile) (n : Nat) (v : RegVal) :
    keptCore (c.writeVal hnd file n v) = keptCore c := by
  rw [(Laws.writeVal_frame c hnd file n v).1]; rfl

theorem keptCore_produce (c : Core) (hnd : Bool) (k : Slot) (hdr : Word) (opc : Nat) (file : RFile) (n : Nat)
    (lat : Option Nat) (v : RegVal) (fl : FlagSet) :
    keptCore (c.produce hnd k hdr opc file n lat v fl) = keptCore c := by
  unfold Core.produce
  dsimp only
  split
  · split <;> rfl
  · split
    · split
      · exact keptCore_writeVal { c with nextId := c.nextId + 1 } hnd file n v
      · exact keptCore_writeVal { c with nextId := c.nextId + 1 } hnd file n v
    · rfl

theorem keptCore_stick (c : Core) (fl : List (Slot × FlagSet × Word)) : keptCore (c.stick fl) = keptCore c := by
  unfold Core.stick
  dsimp only
  split
  · rfl
  · split <;> rfl

theorem keptCore_foldl {α : Type} {g : Core → α → Core} (hg : ∀ c a, keptCore (g c a) = keptCore c) (l : List α) (c : Core) :
    keptCore (l.foldl g c) = keptCore c := by
  induction l generalizing c with
  | nil => rfl
  | cons a l ih => exact (ih _).trans (hg c a)

theorem keptCore_claim (c : Core) (cmd : Nat) (reads writes : List (Nat × Nat)) :
    keptCore (c.claim cmd reads writes) = keptCore c := by
  have add (w : Bool) (c : Core) (r : Nat × Nat) : keptCore (if r.1 < r.2 then
      { c with nextId := c.nextId + 1, chase := c.chase ++ [⟨c.nextId, cmd, r.1, r.2, w⟩] } else c) = keptCore c := by
    split <;> rfl
  exact (keptCore_foldl (add true) writes _).trans (keptCore_foldl (add false) reads c)

namespace SlotStep

variable {s t : State}

@[simp] theorem result (h : SlotStep s t) (f : Fields) (opc : Nat) (file : RFile) (n : Nat) (lat : Option Nat) (v : RegVal)
    (fl : FlagSet) : SlotStep s (t.result f opc file n lat v fl) := h.onCur fun _ => keptCore_produce ..

@[simp] theorem setP (h : SlotStep s t) (n : Nat) (v : Bool) : SlotStep s (t.setP n v) :=
  h.onCur fun _ => keptCore_setBank ..

@[simp] theorem flagsIn (h : SlotStep s t) (f : Fields) (opc lat : Nat) (fl : FlagSet) : SlotStep s (t.flagsIn f opc lat fl) :=
  h.branch (h.onCur fun _ => rfl)

@[simp] theorem writeD (h : SlotStep s t) (f : Fields) (opc lat : Nat) (v : Word) (fl : FlagSet) :
    SlotStep s (writeD f opc lat v fl t) := h.result ..

@[simp] theorem writeX (h : SlotStep s t) (f : Fields) (opc lat : Nat) (v : Word) : SlotStep s (writeX f opc lat v t) := h.result ..

@[simp] theorem uses (h : SlotStep s t) (lo hi lat : Nat) : SlotStep s (t.uses lo hi lat) := h.onCur fun _ => rfl

@[simp] theorem asks (h : SlotStep s t) (f : Fields) (opc : Nat) (file : RFile) (w : Ask) : SlotStep s (t.asks f opc file w) :=
  (h.result ..).posts _

@[simp] theorem update (h : SlotStep s t) (f : Fields) (opc reg : Nat) (m : Word) : SlotStep s (t.update f opc reg m) := by
  unfold State.update
  split
  · exact h.result ..
  · exact h.raise ..

@[simp] theorem postModify (h : SlotStep s t) (f : Fields) (opc : Nat) : SlotStep s (t.postModify f opc) :=
  (h.update ..).branch h

/-! ### Scratchpad -/

@[simp] theorem packedCheck (h : SlotStep s t) (f : Fields) (lo hi : Nat) : SlotStep s (t.packedCheck f lo hi) :=
  (h.raise ..).branch h

@[simp] theorem spChecks (h : SlotStep s t) (f : Fields) (lo hi : Nat) (write packedOk reads before : Bool) :
    SlotStep s (t.spChecks f lo hi write packedOk reads before) := by
  have hu : SlotStep s (if packedOk then t else t.packedCheck f lo hi) := h.branch (h.packedCheck ..)
  unfold State.spChecks
  dsimp only
  split
  · exact hu.stalls.onBun rfl id rfl rfl
  · split
    · exact hu.raise ..
    · exact hu

@[simp] theorem spAccess (h : SlotStep s t) (f : Fields) (ea : Word) (n : Nat) (write reads before : Bool) :
    SlotStep s (t.spAccess f ea n write reads before).2 := by
  unfold State.spAccess
  split
  · exact h.raise ..
  · split
    · exact (h.packedCheck ..).raise ..
    · exact h.spChecks ..

@[simp] theorem spStore (h : SlotStep s t) (f : Fields) (a : Nat) (bs : List Byte) : SlotStep s (t.spStore f a bs) := by
  unfold State.spStore
  refine onCur (branch ?_ h) fun _ => rfl
  split
  · exact h.posts _
  · exact h

@[simp] theorem spAtomic (h : SlotStep s t) (f : Fields) (opc n : Nat) (op : Nat → Nat × Option (Word × FlagSet)) (reads : Bool) :
    SlotStep s (t.spAtomic f opc n op reads) := by
  have ha := h.spAccess f (opA f t + offMA f) n true reads false
  unfold State.spAtomic
  generalize t.spAccess f (opA f t + offMA f) n true reads = r at ha
  obtain ⟨_ | a, u⟩ := r
  · exact ha
  · dsimp only
    split
    · exact ((ha.uses ..).spStore ..).writeD ..
    · exact (ha.uses ..).spStore ..

/-! ### Global memory -/

@[simp] theorem lookedUp (h : SlotStep s t) (e : TlbEntry) : SlotStep s (t.lookedUp e) :=
  (h.branch (h.posts _)).onCur fun _ => rfl

@[simp] theorem access (h : SlotStep s t) (f : Fields) (ea : Word) (acc : Nat) : SlotStep s (t.access f ea acc).2 := by
  unfold State.access
  split
  · exact h.raise ..
  · split
    · split
      · exact h.raise ..
      · split
        · exact h.holds _
        · exact h.lookedUp _
    · exact h.raise ..
    all_goals exact h.holds _

@[simp] theorem gIssue (h : SlotStep s t) (f : Fields) (opc : Nat) (ea b c : Word) (pa : Nat) (e : TlbEntry) (dest : Bool) :
    SlotStep s (t.gIssue f opc ea b c pa e dest) :=
  by
    unfold State.gIssue
    dsimp only
    refine onCur (branch (h.result ..) (h.onCur fun _ => ?_)) fun _ => ?_ <;> rfl

@[simp] theorem gAccess (h : SlotStep s t) (f : Fields) (opc n acc : Nat) (ea b c : Word) (dest : Bool) :
    SlotStep s (t.gAccess f opc n acc ea b c dest) := by
  have ha := h.access f ea acc
  unfold State.gAccess
  refine h.branch ((h.raise ..).branch ((ha.raise ..).branch ?_))
  generalize t.access f ea acc = r at ha
  obtain ⟨_ | ⟨e, pa⟩, u⟩ := r
  · exact ha
  · exact ha.gIssue ..

/-! ### Objects and logged operations -/

@[simp] theorem object (h : SlotStep s t) (f : Fields) (ea : Word) : SlotStep s (t.object f ea).2 := by
  have ha := h.access f ea accLoad
  unfold State.object
  split
  · split
    · exact h.raise ..
    · split
      · exact (h.packedCheck ..).raise ..
      · dsimp only
        split <;> exact h.spChecks ..
  · split
    · exact h.raise ..
    · split
      · exact ha.raise ..
      · generalize t.access f ea accLoad = r at ha
        obtain ⟨_ | ⟨e, pa⟩, u⟩ := r
        · exact ha
        · dsimp only
          split
          · exact ha
          · split
            · exact SlotStep.raise ha ..
            · exact ha

@[simp] theorem countSubst (h : SlotStep s t) (n : Nat) : SlotStep s (t.countSubst n) := h.branch (h.posts _)

@[simp] theorem seenAt (h : SlotStep s t) (sp : Bool) (pa : Nat) : SlotStep s (t.seenAt sp pa) := h.branch (h.posts _)

@[simp] theorem acquireEntries (h : SlotStep s t) (c : Core) : SlotStep s (t.acquireEntries c) := by
  unfold State.acquireEntries
  dsimp only
  split
  · exact h
  · exact h.posts _

@[simp] theorem logOp (h : SlotStep s t) (ev : Nat) (vals : List Word) : SlotStep s (t.logOp ev vals).2 := by
  have live {u : State} (hu : SlotStep s u) : SlotStep s (vals.foldl (fun s v => s.post (.log ev v)) u) :=
    foldl (fun _ _ h => h.posts _) _ hu
  unfold State.logOp
  dsimp only
  split
  · exact h
  · split
    · exact h.holds _
    · split
      · split
        · exact h.holds _
        · exact foldl (fun _ _ h => h.posts _) _ h
        · exact live (h.posts _)
        · exact h.holds _
      · exact live h

@[simp] theorem readLogged (h : SlotStep s t) (f : Fields) (opc : Nat) (v : Word) : SlotStep s (readLogged f opc v t) :=
  (h.logOp ..).writeX ..

@[simp] theorem dequeResult (h : SlotStep s t) (f : Fields) (opc : Nat) (ok : Bool) (v : Word) :
    SlotStep s (t.dequeResult f opc ok v) :=
  ((h.logOp ..).writeX ..).setP ..

/-! ### The run units -/

@[simp] theorem heldFor (h : SlotStep s t) (n : Nat) {body : State → State} (hb : SlotStep s (body t)) :
    SlotStep s (t.heldFor n body) := (h.holds _).branch hb

@[simp] theorem onUnit (h : SlotStep s t) (f : Fields) {body : State → State} (hb : SlotStep s (body t)) :
    SlotStep s (onUnit f t body) := h.stalls.branch hb

@[simp] theorem runTrap (h : SlotStep s t) (f : Fields) (e : RunErr) : SlotStep s (t.runTrap f e) := by
  cases e with
  | lenmis a => exact h.raise ..
  | runovf a n => unfold State.runTrap; refine heldFor (h.coalesces n) n ?_; exact raise (h.coalesces n) ..
  | unalign a => exact h.raise ..

theorem occupy (h : SlotStep s t) (f : Fields) (since n : Nat) : SlotStep s (t.onCur fun c => c.occupy f since n) :=
  h.onCur fun c => by unfold Core.occupy; split <;> rfl

@[simp] theorem runResult (h : SlotStep s t) (f : Fields) (opc base div : Nat) (r : Except RunErr RunRes) :
    SlotStep s (runResult f opc base div r t) := by
  cases r with
  | error e => exact h.runTrap f e
  | ok r => unfold Machine.runResult; refine heldFor (h.coalesces _) _ ?_; exact ((h.coalesces _).result ..).occupy ..

@[simp] theorem runOp (h : SlotStep s t) (f : Fields) (opc : Nat) (r : State → Except RunErr RunRes) :
    SlotStep s (runOp f opc r t) := h.onUnit f (h.runResult ..)

@[simp] theorem runScalar (h : SlotStep s t) (f : Fields) (opc tag p : Nat) (v : Word) (fl : FlagSet) :
    SlotStep s (runScalar f opc tag p v fl t) := (h.result ..).occupy ..

@[simp] theorem runReduce (h : SlotStep s t) (f : Fields) (opc : Nat) (op : RunRed) : SlotStep s (runReduce f opc op t) := by
  refine h.onUnit f ?_
  split
  · exact h.runTrap ..
  · exact h.runScalar ..

@[simp] theorem runDraw (h : SlotStep s t) (f : Fields) (opc : Nat) (draws : Bool)
    (r : List (BitVec 32) → Except RunErr RunRes) : SlotStep s (runDraw f opc draws r t) :=
  h.onUnit f (branch (h.stalls.branch (runResult (h.onCur fun _ => by rfl) ..)) (h.runResult ..))

/-! ### The run transfers -/

@[simp] theorem onPath (h : SlotStep s t) (f : Fields) {body : State → State} (hb : SlotStep s (body t)) :
    SlotStep s (onPath f t body) := h.stalls.branch hb

@[simp] theorem transfer (h : SlotStep s t) (f : Fields) (p b : Nat) {body : State → State} (hb : SlotStep s (body t)) :
    SlotStep s (t.transfer f p b body) :=
  h.heldFor _ <| hb.onCur fun c => by unfold Core.occupyPath; split <;> rfl

@[simp] theorem usesSpan (h : SlotStep s t) (p : Span) (lat : Nat) : SlotStep s (t.usesSpan p lat) :=
  branch (h.uses ..) ((h.uses ..).uses ..)

@[simp] theorem spanChecks (h : SlotStep s t) (f : Fields) (fm : Forme) (p : Span) (write : Bool) :
    SlotStep s (t.spanChecks f fm p write).2 := by
  unfold State.spanChecks
  dsimp only
  split
  · exact h.raise ..
  · split
    · exact h.raise ..
    · split
      · exact ((h.packedCheck ..).packedCheck ..).raise ..
      · exact branch (h.spChecks ..) ((h.spChecks ..).spChecks ..)

@[simp] theorem onForme (h : SlotStep s t) (f : Fields) {body : Forme → State → State} (hb : ∀ fm, SlotStep s (body fm t)) :
    SlotStep s (onForme f t body) := by
  unfold Machine.onForme
  dsimp only
  split
  · exact (branch (h.raise ..) (h.packedCheck ..)).raise ..
  · exact hb _

@[simp] theorem advance (h : SlotStep s t) (f : Fields) (opc : Nat) (fm : Forme) (c : Nat) :
    SlotStep s (t.advance f opc fm c) := (h.result ..).branch h

@[simp] theorem advancePacked (h : SlotStep s t) (f : Fields) (opc : Nat) (r : RunReg) :
    SlotStep s (t.advancePacked f opc r) := (h.result ..).branch h

/-! ### The engines at issue -/

@[simp] theorem checked (h : SlotStep s t) (f : Fields) (cs : List Check) {body : State → State} (hb : SlotStep s (body t)) :
    SlotStep s (t.checked f cs body) := by
  unfold State.checked
  split
  · exact hb
  · exact foldl (fun _ _ h => h.raise ..) _ h

@[simp] theorem onSuper (h : SlotStep s t) (f : Fields) {body : State → State} (hb : SlotStep s (body t)) :
    SlotStep s (onSuper f t body) := hb.branch (h.raise ..)

theorem fork (h : SlotStep s t) (m : Cmd) (reads writes : List (Nat × Nat)) {enter : Core → Core}
    (he : ∀ c, keptCore (enter c) = keptCore c) : SlotStep s (t.fork m reads writes enter) :=
  h.stalls.branch <| h.onCur fun c => (he _).trans <| keptCore_claim { c with nextId := c.nextId + 1 } ..

@[simp] theorem forkCmd (h : SlotStep s t) (m : Cmd) (reads writes : List (Nat × Nat)) : SlotStep s (t.forkCmd m reads writes) :=
  h.fork _ _ _ fun _ => rfl

theorem forkMat (h : SlotStep s t) (o : MatOp) (reads writes : List (Nat × Nat)) {front : Core → Core}
    (hf : ∀ c, keptCore (front c) = keptCore c) : SlotStep s (t.forkMat o reads writes front) :=
  h.fork _ _ _ fun c => hf { c with mats := c.mats ++ [o] }

@[simp] theorem keyCommand (h : SlotStep s t) (f : Fields) (opc : Nat) (bad : List Byte → Bool) :
    SlotStep s (keyCommand f opc bad t) := by
  have hc := h.spChecks f (eaAddr (opA f t)) (eaAddr (opA f t) + 64) false false true true
  refine h.onSuper f (h.checked f _ (branch hc (checked hc f _ (fork hc _ _ _ fun _ => ?_))))
  rfl

theorem onTid (h : SlotStep s t) (f : Fields) (write : Bool) {body : Nat → State → State}
    (hb : ∀ a u, SlotStep s u → SlotStep s (body a u)) : SlotStep s (onTid f t write body) := by
  unfold Machine.onTid
  refine h.checked f _ ?_
  exact branch (h.spChecks ..) (hb _ _ (h.spChecks ..))

@[simp] theorem sendMsg (h : SlotStep s t) (f : Fields) (opc : Nat) : SlotStep s (sendMsg f opc t) :=
  by unfold Machine.sendMsg; exact (h.forkCmd ..).onCur fun _ => rfl

theorem keptCore_markRows {c d : Core} {rows : List (Int × Int)} (h : markRows c rows = some d) : keptCore d = keptCore c := by
  refine List.foldlRecOn rows _ (motive := fun a => ∀ d, a = some d → keptCore d = keptCore c) (b := some c)
    (fun d hd => by cases hd; rfl) (fun a ha r _ d hd => ?_) d h
  cases a with
  | none => cases hd
  | some k =>
    obtain ⟨t, -, rfl⟩ := Option.map_eq_some_iff.mp hd
    exact ha k rfl

theorem keptCore_markTarget (fd : Forme) (d : Side) (known : Bool) (c : Core) : keptCore (markTarget fd d known c) = keptCore c := by
  unfold markTarget
  split
  · rfl
  · split
    · cases h : markRows c d.rows with
      | none => rfl
      | some m => exact keptCore_markRows h
    · rfl

@[simp] theorem copyWith (h : SlotStep s t) (f : Fields) (block : List Byte) (sh : Shape) (pre : List Check) :
    SlotStep s (copyWith f block sh pre t) := by
  unfold Machine.copyWith
  refine h.checked f _ ?_
  refine h.fork _ _ _ fun c => ?_
  split
  · exact keptCore_markTarget ..
  · rfl

@[simp] theorem streamInto (h : SlotStep s t) (f : Fields) (opc : Nat) (modular : Bool) : SlotStep s (streamInto f opc modular t) := by
  unfold Machine.streamInto
  refine h.checked f _ ?_
  exact h.forkMat _ _ _ fun _ => rfl

/-! ### CTL -/

@[simp] theorem goesReg (h : SlotStep s t) (f : Fields) (a : Word) : SlotStep s (t.goesReg f a) := (h.goes _).branch (h.raise ..)

@[simp] theorem openLoops (h : SlotStep s t) (f : Fields) (staged : Bool) : SlotStep s (openLoops f staged t) :=
  by
    unfold Machine.openLoops
    refine branch (h.raise ..) (branch (onBun (h.goes _) rfl id rfl rfl) ?_)
    exact (h.onCur fun _ => keptCore_setBank ..).onBun rfl id rfl rfl

@[simp] theorem breakLoop (h : SlotStep s t) (f : Fields) : SlotStep s (breakLoop f t) := by
  unfold Machine.breakLoop
  dsimp only
  split
  · split
    · exact h.raise ..
    · split
      · exact h.onCur fun _ => keptCore_setBank ..
      · exact (h.onCur fun _ => keptCore_setBank ..).goes _
  · exact h.raise ..

@[simp] theorem predOp (h : SlotStep s t) (f : Fields) (op : Bool → Bool → Bool) : SlotStep s (predOp f op t) := h.setP ..

@[simp] theorem writeCsr (h : SlotStep s t) (f : Fields) (n : Nat) (v : Word) : SlotStep s (writeCsr f n v t) := by
  unfold Machine.writeCsr
  split
  case h_7 => exact h.posts _
  case h_8 => refine branch (h.onCur fun _ => ?_) (h.flagsIn ..); rfl
  all_goals exact h.onCur fun _ => rfl

@[simp] theorem onTag (h : SlotStep s t) (f : Fields) {body : State → State} (hb : SlotStep s (body t)) :
    SlotStep s (onTag f t body) := (h.raise ..).branch hb

@[simp] theorem onMember (h : SlotStep s t) (f : Fields) {body : Nat → State → State} (hb : ∀ m, SlotStep s (body m t)) :
    SlotStep s (onMember f t body) := (h.raise ..).branch (hb _)

theorem divide (h : SlotStep s t) (f : Fields) (opc : Nat) (op : Word → Word → Word × FlagSet) :
    SlotStep s (divide f opc op t) := by
  unfold Machine.divide
  exact branch h.stalls ((h.writeD ..).onCur fun _ => rfl)

end SlotStep

/-! ### The instructions -/

/-- What every slot instruction is: a change of state within the frame, under its guard. -/
def IsFramed (i : Instr) (f : Fields) : Prop :=
  ∀ s : State, ∃ t : State, exec i s = .next (if guardOf f s then t else s) ∧ SlotStep s t

open SlotStep

theorem isFramed_eret (f : Fields) : IsFramed (.eret f) f := fun s =>
  ⟨_, rfl, branch ((refl s).raise ..) ((goes ((refl s).onCur fun _ => by rfl) _).onBun rfl id rfl rfl)⟩

theorem isFramed_csrrd (f : Fields) : IsFramed (.csrrd f) f := fun s => by
  refine ⟨_, rfl, ?_⟩
  have ha : SlotStep s (if f.i16.toNat = 0x023 then s.acquireEntries s.bun.pre else s) := branch ((refl s).acquireEntries _) (refl s)
  exact branch (branch ((ha.logOp ..).holds _) ((ha.logOp ..).writeX ..)) (ha.writeX ..)

theorem isFramed_waitx (f : Fields) : IsFramed (.waitx f) f := fun s => by
  refine ⟨_, rfl, branch (((refl s).seenAt ..).posts _) ?_⟩
  have ho := (refl s).object f (opXA f s)
  dsimp only
  generalize s.object f (opXA f s) = r at ho
  obtain ⟨⟨v, pa, n⟩ | pa, u⟩ := r
  · exact branch (((ho.countSubst n).seenAt ..).posts _) (ho.holds _)
  · exact branch ho (ho.holds _)

theorem isFramed_testx (f : Fields) : IsFramed (.testx f) f := fun s => by
  refine ⟨_, rfl, ?_⟩
  have ho := (refl s).object f (opXA f s)
  dsimp only
  generalize s.object f (opXA f s) = r at ho
  obtain ⟨⟨v, pa, n⟩ | pa, u⟩ := r
  · have hl := ((ho.countSubst n).seenAt (f.i16.getLsbD 0) pa).logOp evPred [b2w (objTest f.v v (opXB f u))]
    exact branch (hl.holds _) (setP (branch (hl.posts _) hl) ..)
  · exact branch ho (ho.holds _)

theorem isFramed_bara (f : Fields) : IsFramed (.bara f) f := fun s =>
  ⟨_, rfl, (refl s).onTag _ <| branch ((refl s).holds _) <| branch ((refl s).holds _) <|
    onCur (branch ((refl s).posts _) (refl s)) fun _ => by rfl⟩

theorem isFramed_bars (f : Fields) : IsFramed (.bars f) f := fun s =>
  ⟨_, rfl, (refl s).onTag _ <| branch ((refl s).holds _) <| branch ((refl s).posts _) <| branch ((refl s).holds _) ((refl s).holds _)⟩

theorem isFramed_dqpush (f : Fields) : IsFramed (.dqpush f) f := fun s =>
  ⟨_, rfl, branch (refl s).stalls (setP (logOp (branch ((refl s).onCur fun _ => by rfl) (refl s)) ..) ..)⟩

theorem isFramed_dqpop (f : Fields) : IsFramed (.dqpop f) f := fun s => by
  refine ⟨_, rfl, ?_⟩
  dsimp only
  split
  · exact dequeResult (posts ((refl s).onCur fun _ => by rfl) _) ..
  · exact (refl s).dequeResult ..

theorem isFramed_dqsteal (f : Fields) : IsFramed (.dqsteal f) f := fun s => by
  refine ⟨_, rfl, (refl s).onMember _ fun m => ?_⟩
  split
  · exact dequeResult (branch ((refl s).posts _) (refl s)) ..
  · exact (refl s).holds _

theorem isFramed_enq (f : Fields) : IsFramed (.enq f) f := fun s => by
  refine ⟨_, rfl, ?_⟩
  dsimp only
  generalize (decide ((opXB f s).toNat % 128 ≠ 0) || decide (2 ^ 21 ≤ (opXB f s).toNat)) = bad
  generalize hb : (if bad = true then s.raise f kPROT (opXB f s) else s) = u
  have hu : SlotStep s u := hb ▸ branch ((refl s).raise ..) (refl s)
  refine branch (hu.raise ..) (branch (hu.raise ..) (branch (hu.raise ..) (branch hu ?_)))
  split
  · exact (hu.logOp ..).setP ..
  · have hs := hu.spChecks f (opXB f s).toNat ((opXB f s).toNat + 128) false false true true
    exact branch hs (branch (hs.holds _) (hs.holds _))

theorem isFramed_waitev (f : Fields) : IsFramed (.waitev f) f := fun s => by
  refine ⟨_, rfl, ?_⟩
  have answer (k : Nat) := (refl s).logOp evWaitev [BitVec.ofNat 64 k]
  dsimp only
  split
  case h_5 | h_6 => exact (refl s).holds _
  all_goals exact branch ((answer _).holds _) (writeX (branch ((answer _).acquireEntries _) (answer _)) ..)

theorem isFramed_ld (f : Fields) : IsFramed (.ld f) f := fun s => by
  refine ⟨_, rfl, ?_⟩
  dsimp only
  generalize hr : State.spAccess (s.postModify f 0x01) _ _ _ _ _ _ = r
  have ha : SlotStep s r.2 := hr ▸ ((refl s).postModify ..).spAccess ..
  obtain ⟨_ | a, u⟩ := r
  · exact ha
  · exact (ha.uses ..).result ..

theorem isFramed_st (f : Fields) : IsFramed (.st f) f := fun s => by
  refine ⟨_, rfl, ?_⟩
  dsimp only
  generalize hr : State.spAccess (s.postModify f 0x02) _ _ _ _ _ _ = r
  have ha : SlotStep s r.2 := hr ▸ ((refl s).postModify ..).spAccess ..
  obtain ⟨_ | a, u⟩ := r
  · exact ha
  · exact ha.spStore ..

theorem isFramed_fxrd (f : Fields) : IsFramed (.fxrd f) f := fun s => by
  refine ⟨_, rfl, branch ((refl s).spAtomic ..) ?_⟩
  generalize hr : State.spAccess s _ _ _ _ _ _ = r
  have ha : SlotStep s r.2 := hr ▸ (refl s).spAccess ..
  obtain ⟨_ | a, u⟩ := r
  · exact ha
  · exact (ha.uses ..).writeD ..

theorem isFramed_ldv (f : Fields) : IsFramed (.ldv f) f := fun s => by
  refine ⟨_, rfl, (refl s).onPath _ ((refl s).onForme _ fun fm => ?_)⟩
  dsimp only
  generalize spanOf fm (opA f s) _ = p
  have hc := (refl s).spanChecks f fm p false
  generalize s.spanChecks f fm p false = r at hc
  obtain ⟨_ | _, u⟩ := r
  · exact hc
  · exact hc.transfer _ _ _ (((hc.usesSpan ..).result ..).advance ..)

theorem isFramed_stv (f : Fields) : IsFramed (.stv f) f := fun s => by
  refine ⟨_, rfl, (refl s).onPath _ ((refl s).onForme _ fun fm => ?_)⟩
  dsimp only
  generalize spanOf fm (opA f s) _ = p
  have hc := (refl s).spanChecks f fm p true
  generalize s.spanChecks f fm p true = r at hc
  obtain ⟨_ | _, u⟩ := r
  · exact hc
  · refine hc.transfer _ _ _ ?_
    exact advance (flagsIn (usesSpan (branch (hc.spStore ..) ((hc.spStore ..).spStore ..)) ..) ..) ..

theorem isFramed_ldvp (f : Fields) : IsFramed (.ldvp f) f := fun s => by
  refine ⟨_, rfl, (refl s).onPath _ (branch ((refl s).raise ..) (branch ((refl s).raise ..) (branch ((refl s).spChecks ..)
    (branch ((refl s).raise ..) ?_))))⟩
  dsimp only
  split
  · exact ((refl s).spChecks ..).runTrap ..
  · exact ((refl s).spChecks ..).transfer _ _ _ (((((refl s).spChecks ..).uses ..).result ..).advancePacked ..)

theorem isFramed_stvp (f : Fields) : IsFramed (.stvp f) f := fun s => by
  refine ⟨_, rfl, (refl s).onPath _ (branch ((refl s).raise ..) (branch ((refl s).raise ..) ?_))⟩
  split
  · exact (refl s).raise ..
  · refine branch ((refl s).raise ..) (((refl s).spChecks ..).transfer _ _ _ (advancePacked (onCur (spStore
      (((refl s).spChecks ..).uses ..) ..) fun _ => ?_) ..))
    rfl

theorem isFramed_vget (f : Fields) : IsFramed (.vget f) f := fun s =>
  ⟨_, rfl, (refl s).onUnit _ (branch ((refl s).runTrap ..) ((refl s).runScalar ..))⟩

theorem isFramed_xmovRun (f : Fields) : IsFramed (.xmovRun f) f := fun s =>
  ⟨_, rfl, (refl s).onUnit _ (branch ((refl s).runResult ..) (((refl s).result ..).occupy ..))⟩

theorem isFramed_vqnt (f : Fields) : IsFramed (.vqnt f) f := fun s =>
  ⟨_, rfl, branch ((refl s).raise ..) ((refl s).runDraw ..)⟩

theorem isFramed_vbfly (f : Fields) : IsFramed (.vbfly f) f := fun s => by
  refine ⟨_, rfl, (refl s).onUnit _ ?_⟩
  split
  · exact (refl s).runTrap ..
  · refine heldFor ((refl s).coalesces _) _ ?_
    exact ((((refl s).coalesces _).result ..).result ..).occupy ..

theorem isFramed_mload (f : Fields) : IsFramed (.mload f) f := fun s =>
  ⟨_, rfl, (refl s).checked _ _ ((refl s).forkMat _ _ _ fun _ => by rfl)⟩

theorem isFramed_mdrain (f : Fields) : IsFramed (.mdrain f) f := fun s =>
  ⟨_, rfl, (refl s).checked _ _ ((refl s).forkMat _ _ _ fun c => by split <;> rfl)⟩

theorem isFramed_mzero (f : Fields) : IsFramed (.mzero f) f := fun s =>
  ⟨_, rfl, branch (refl s) ((refl s).forkMat _ _ _ fun c => keptCore_foldl (fun _ _ => by rfl) _ c)⟩

theorem isFramed_mstat (f : Fields) : IsFramed (.mstat f) f := fun s =>
  ⟨_, rfl, branch (branch (refl s) (((refl s).result ..).onCur fun _ => by rfl)) ((refl s).writeD ..)⟩

theorem isFramed_copy (f : Fields) : IsFramed (.copy f) f := fun s => by
  refine ⟨_, rfl, ?_⟩
  dsimp only
  split
  · refine branch ((refl s).checked _ _ (refl s)) ?_
    have hc := (refl s).spChecks f f.l32.toNat (f.l32.toNat + 256) false false true true
    refine branch (hc.checked _ _ hc) ?_
    split
    · exact hc.checked _ _ hc
    · exact hc.copyWith ..
  · exact (refl s).copyWith ..

theorem isFramed_galset (f : Fields) : IsFramed (.galset f) f := fun s =>
  ⟨_, rfl, (refl s).checked _ _ (((refl s).forkCmd ..).onCur fun _ => by rfl)⟩

theorem isFramed_galadv (f : Fields) : IsFramed (.galadv f) f := fun s =>
  ⟨_, rfl, branch ((refl s).raise ..) ((refl s).checked _ _ (((refl s).forkCmd ..).onCur fun _ => by rfl))⟩

theorem isFramed_galrel (f : Fields) : IsFramed (.galrel f) f := fun s =>
  ⟨_, rfl, (refl s).checked _ _ ((refl s).forkCmd ..)⟩

theorem isFramed_smsg (f : Fields) : IsFramed (.smsg f) f := fun s =>
  ⟨_, rfl, (refl s).checked _ _ (branch ((refl s).sendMsg ..) (refl s).stalls)⟩

theorem isFramed_smsgt (f : Fields) : IsFramed (.smsgt f) f := fun s => by
  refine ⟨_, rfl, (refl s).checked _ _ ?_⟩
  have hl (b : Bool) (n : Nat) (v : Bool) := ((refl s).logOp evPred [b2w b]).setP n v
  exact branch (hl ..) (branch ((hl ..).sendMsg ..) (hl ..).stalls)

theorem isFramed_objadd (f : Fields) : IsFramed (.objadd f) f := fun s =>
  ⟨_, rfl, (refl s).checked _ _ ((refl s).forkCmd ..)⟩

theorem isFramed_coll (f : Fields) : IsFramed (.coll f) f := fun s =>
  ⟨_, rfl, branch (refl s).stalls ((refl s).checked _ _ ((refl s).forkCmd ..))⟩

theorem isFramed_tidwr (f : Fields) : IsFramed (.tidwr f) f := fun s =>
  ⟨_, rfl, (refl s).onTid _ _ fun _ _ h => branch (h.onCur fun _ => by rfl) (h.raise ..)⟩

theorem isFramed_tidrd (f : Fields) : IsFramed (.tidrd f) f := fun s =>
  ⟨_, rfl, (refl s).onTid _ _ fun _ _ h => h.spStore ..⟩

theorem isFramed_scrubSp (f : Fields) : IsFramed (.scrubSp f) f := fun s =>
  ⟨_, rfl, (refl s).checked _ _ (((refl s).forkCmd ..).onCur fun _ => by rfl)⟩

theorem isFramed_scrubGangsp (f : Fields) : IsFramed (.scrubGangsp f) f := fun s =>
  ⟨_, rfl, (refl s).checked _ _ (((refl s).onCur fun _ => by rfl).posts _)⟩

open SlotStep in
theorem isFramed_of_slotPart {i : Instr} {opc : Nat} {f : Fields} (h : i.slotPart = some (opc, f)) : IsFramed i f := by
  cases i <;> cases h
  case add | addImm | sub | subImm | and | andImm | or | orImm | xor | xorImm | andn | andnImm | shl | shlImm | shr |
      shrImm | sar | sarImm | rol | rolImm | min | minImm | max | maxImm | minn | minnImm | maxn | maxnImm | add32 |
      add32Imm | sub32 | sub32Imm | sel | clz | ctz | popc | brev | bswap | sext | sextImm | zext | zextImm | bfx |
      bfi | lit | lith | mul | mulImm | mulh | mulhImm | mulhn | mulhnImm | madd | mulmod | addmod | submod | fadd |
      faddImm | fsub | fsubImm | fmul | fmulImm | ffma | fmin | fminImm | fmax | fmaxImm | fcvti | fcvtf | fclass |
      aadd | aaddImm | amov | mset | elit => exact fun s => ⟨_, rfl, (refl s).writeD ..⟩
  case cmpeq | cmpeqImm | cmpne | cmpneImm | cmplt | cmpltImm | cmple | cmpleImm | cmpltn | cmpltnImm | cmplen |
      cmplenImm | tstbit | tstbitImm | pset | pand | por | pxor | pandn =>
    exact fun s => ⟨_, rfl, (refl s).setP ..⟩
  case div | divImm | divn | divnImm | rem | remImm | remn | remnImm =>
    exact fun s => ⟨_, rfl, (refl s).divide ..⟩
  case fcmpeq | fcmpeqImm | fcmplt | fcmpltImm | fcmple | fcmpleImm =>
    exact fun s => ⟨_, rfl, ((refl s).setP ..).flagsIn ..⟩
  case xmovScalar | xmovXe => exact fun s => ⟨_, rfl, branch ((refl s).writeD ..) ((refl s).writeD ..)⟩
  case vadd | vaddImm | vsub | vsubImm | vmul | vmulImm | vfma | vmin | vminImm | vmax | vmaxImm | vabs | vneg | vand
      | vandImm | vor | vorImm | vxor | vxorImm | vshl | vshlImm | vshr | vshrImm | vsar | vsarImm | vcmpeq |
      vcmpeqImm | vcmpne | vcmpneImm | vcmplt | vcmpltImm | vcmple | vcmpleImm | vsel | vcoal | vsplat | viota |
      vslice | vcat | vsetl | vput | vmodadd | vmodsub | vmodmul | vbscale =>
    exact fun s => ⟨_, rfl, (refl s).runOp ..⟩
  case vredsum | vredmax | vredmin | vcount | vfirst => exact fun s => ⟨_, rfl, (refl s).runReduce ..⟩
  case vexp2 | vlog2 | vrcp | vrsq | vsqrt | vtanh | vsigm =>
    exact fun s => ⟨_, rfl, (refl s).onUnit _ ((refl s).runResult ..)⟩
  case vlen | vruns => exact fun s => ⟨_, rfl, (refl s).onUnit _ ((refl s).runScalar ..)⟩
  case vcvt => exact fun s => ⟨_, rfl, (refl s).runDraw ..⟩
  case nop => exact fun s => ⟨_, rfl, refl s⟩
  case br => exact fun s => ⟨_, rfl, (refl s).goes _⟩
  case brx => exact fun s => ⟨_, rfl, (refl s).goesReg ..⟩
  case call => exact fun s => ⟨_, rfl, ((refl s).goes _).writeX ..⟩
  case callx => exact fun s => ⟨_, rfl, ((refl s).goesReg ..).writeX ..⟩
  case loop | loops => exact fun s => ⟨_, rfl, (refl s).openLoops ..⟩
  case lbrk => exact fun s => ⟨_, rfl, (refl s).breakLoop _⟩
  case lidx | ptox | flagrd => exact fun s => ⟨_, rfl, (refl s).writeX ..⟩
  case xtop => exact fun s => ⟨_, rfl, foldl (fun _ _ h => (h.setP ..).branch h) _ (refl s)⟩
  case tfence => exact fun s => ⟨_, rfl, branch ((refl s).holds _) (branch (refl s) ((refl s).raise ..))⟩
  case trap => exact fun s => ⟨_, rfl, (refl s).raise ..⟩
  case sysc | kstat => exact fun s => ⟨_, rfl, (refl s).asks ..⟩
  case flagclr => exact fun s => ⟨_, rfl, (refl s).onCur fun _ => keptCore_stick ..⟩
  case csrwr => exact fun s => ⟨_, rfl, ((refl s).writeCsr ..).branch ((refl s).raise ..)⟩
  case drain => exact fun s => ⟨_, rfl, ((refl s).posts _).branch ((refl s).holds _)⟩
  case barw => exact fun s => ⟨_, rfl, (refl s).onTag _ (((refl s).holds _).branch ((refl s).posts _))⟩
  case dqcnt =>
    exact fun s => ⟨_, rfl, (refl s).onMember _ fun _ => ((refl s).readLogged ..).branch ((refl s).asks ..)⟩
  case slotq | tick => exact fun s => ⟨_, rfl, (refl s).readLogged ..⟩
  case yield | hndret => exact fun s => ⟨_, rfl, (refl s).onBun rfl id rfl rfl⟩
  case halt => exact fun s => ⟨_, rfl, branch ((refl s).onBun rfl id rfl rfl) ((refl s).holds _)⟩
  case hnden => exact fun s => ⟨_, rfl, (refl s).onCur fun _ => by rfl⟩
  case spwake | prefg => exact fun s => ⟨_, rfl, (refl s).posts _⟩
  case spgate => exact fun s => ⟨_, rfl, (refl s).stalls.branch ((refl s).posts _)⟩
  case dbgbrk => exact fun s => ⟨_, rfl, branch ((refl s).onBun rfl id rfl rfl) (refl s)⟩
  case resumeg => exact fun s => ⟨_, rfl, ((refl s).raise ..).branch (((refl s).raise ..).branch ((refl s).asks ..))⟩
  case amod => exact fun s => ⟨_, rfl, (refl s).update ..⟩
  case atom | acas | fxadd | fxclr => exact fun s => ⟨_, rfl, (refl s).spAtomic ..⟩
  case ldg | stg => exact fun s => ⟨_, rfl, ((refl s).postModify ..).gAccess ..⟩
  case atomg | acasg | fxaddg | fxrdg => exact fun s => ⟨_, rfl, (refl s).gAccess ..⟩
  case mmul | mmod => exact fun s => ⟨_, rfl, (refl s).streamInto ..⟩
  case krot | keySeal | keyUnseal | scrubPages | scrubKeys | fabkey =>
    exact fun s => ⟨_, rfl, (refl s).keyCommand ..⟩
  case rngcfg => exact fun s => ⟨_, rfl, (refl s).onCur fun _ => by rfl⟩
  case mswap => exact fun s => ⟨_, rfl, (refl s).forkMat _ _ _ fun _ => by rfl⟩
  case eret => exact isFramed_eret _
  case csrrd => exact isFramed_csrrd _
  case waitx => exact isFramed_waitx _
  case testx => exact isFramed_testx _
  case bara => exact isFramed_bara _
  case bars => exact isFramed_bars _
  case dqpush => exact isFramed_dqpush _
  case dqpop => exact isFramed_dqpop _
  case dqsteal => exact isFramed_dqsteal _
  case enq => exact isFramed_enq _
  case waitev => exact isFramed_waitev _
  case ld => exact isFramed_ld _
  case st => exact isFramed_st _
  case fxrd => exact isFramed_fxrd _
  case ldv => exact isFramed_ldv _
  case stv => exact isFramed_stv _
  case ldvp => exact isFramed_ldvp _
  case stvp => exact isFramed_stvp _
  case vget => exact isFramed_vget _
  case xmovRun => exact isFramed_xmovRun _
  case vqnt => exact isFramed_vqnt _
  case vbfly => exact isFramed_vbfly _
  case mload => exact isFramed_mload _
  case mdrain => exact isFramed_mdrain _
  case mzero => exact isFramed_mzero _
  case mstat => exact isFramed_mstat _
  case copy => exact isFramed_copy _
  case galset => exact isFramed_galset _
  case galadv => exact isFramed_galadv _
  case galrel => exact isFramed_galrel _
  case smsg => exact isFramed_smsg _
  case smsgt => exact isFramed_smsgt _
  case objadd => exact isFramed_objadd _
  case coll => exact isFramed_coll _
  case tidwr => exact isFramed_tidwr _
  case tidrd => exact isFramed_tidrd _
  case scrubSp => exact isFramed_scrubSp _
  case scrubGangsp => exact isFramed_scrubGangsp _

/-- The next state of a slot instruction, guard true or false, is a slot's step from the one before. -/
theorem exec_of_slotPart {i : Instr} {opc : Nat} {f : Fields} (h : i.slotPart = some (opc, f)) (s : State) :
    ∃ t, exec i s = .next t ∧ SlotStep s t := by
  obtain ⟨t, ht, hs⟩ := isFramed_of_slotPart h s
  exact ⟨_, ht, hs.branch (.refl s)⟩

/-- Settles O1: each instruction keeps the frame, put together from the operations that it uses. -/
theorem slotFrame : Obligations.SlotFrame := by
  refine ⟨fun i opc f s h hg => ?_, fun i opc f s h => ?_⟩
  · obtain ⟨t, ht, -⟩ := isFramed_of_slotPart h s
    simpa [hg] using ht
  · obtain ⟨u, hu, hs⟩ := exec_of_slotPart h s
    obtain ⟨more, hm⟩ := hs.raised
    obtain ⟨posts, hp⟩ := hs.post
    have hk := hs.kept
    simp only [keptBun, keptCore, Prod.mk.injEq] at hk
    obtain ⟨⟨hcore, hhnd, hhdr, hwords, hpre, hwas, hanswer, hxlf⟩,
      ⟨hlanded, hsince, htick, hmem, hsent, hfirst, hruns⟩, hmode, hgang, hlaunch, hargp, hctx, hplaced, hclk, hdep⟩ := hk
    exact ⟨u.bun, hs.outside ▸ hu, hcore, hhnd, hhdr, hwords, hpre, hwas, hanswer, hxlf, hlanded, hsince, htick, hmem, hsent,
      hfirst, hruns, hs.coal, ⟨more, hm.symm⟩, ⟨posts, hp.symm⟩, hmode, hgang, hlaunch, hargp, hctx, hplaced, hclk, hdep⟩
end Sys2Proof.Proofs
end

section
/-! PROOFS. No instruction and no event stops the machine. -/

namespace Sys2Proof.Proofs

open Sys2Proof Sys2Proof.Machine Sys2Proof.Safety

/-- The outcome is a next state. -/
def Answers (o : Host.Outcome State Fault Refusal) : Prop := ∃ t, o = .next t

namespace Answers

theorem next (t : State) : Answers (.next t) := ⟨t, rfl⟩

theorem branch {p : Prop} {_ : Decidable p} {a b : Host.Outcome State Fault Refusal} (ha : Answers a) (hb : Answers b) :
    Answers (if p then a else b) := by split <;> assumption

/-- A choice between two next states. -/
theorem either {p : Prop} {_ : Decidable p} (a b : State) : Answers (if p then .next a else .next b) := (next a).branch (next b)

/-- An event: those whose meaning is `.next` of a state, those that choose between two or three, and those that hand their
meaning to a shared operation. -/
theorem event {i : Instr} (h : i.slotPart = none) (s : State) : Answers (exec i s) := by
  cases i <;> cases h
  case emptyBundle | handlerRunStart | mqEntryArrival | mqEntryWritten | mqAckReceive | mqResend | mqProbe |
      barrierRelease | gangEnd | dequePortRequest | dqstealAnswer | waitxSatisfied | waitevWake | waitevDeadline |
      tfenceDrained | drainDone | haltCommandsDone | enqAnswer | syscEcho | syscNotify | syscClock | gangResume |
      doorbellWrite | queueDescriptorWrite | queueEnable | queueDisable | launchRecord | waitRecord | signalRecord |
      nopRecord | waitRetire | dependenceMet | gangPlace | launchComplete | queueAging | walkComplete | expansionComplete |
      globalAccessPerform | launchAbort | chunkStart | chunkComplete | commandComplete | galleyRowLand | objaddPerform |
      collEntry | matrixOpStart | matrixOpFinish | keyHandoff | keyCommandComplete | backgroundScrubComplete | slotOpen |
      slotClose | mrovrMceClear | sliceEnd | ladderG1Expiry | coreStop | gangSave | ladderG2Expiry | coreZeroingComplete |
      migrationStop | dbgArm | dbgDisarm | dbgHalt | dbgBreak | dbgStep | dbgRun | dbgRead | dbgWrite | dbgStepTimeout |
      contextEntryWrite | hostBar2Access | getVersion | stopInterfaceRequest | getDeviceInterfaceState | nypoeloMsg1 |
      nypoeloMsg2 | nypoeloMsg3 | nypoeloMsg4 | nypoeloAbort | fabkeyTimeout | sessionPathTimeout | fabricPacketReceive |
      espIngress | espEgress | reset | managementSet | syscOtherService | logRingHeadWrite | fabkeyPeerRequest |
      peerSessionClose =>
    exact next _
  case lockInterfaceRequest | startInterfaceRequest | getDeviceInterfaceReport | cxlLinkActive | cxlLinkError |
      bringupSlotEnd | timebaseSync | firmwareUpdate | dirtyLogHeadWrite | bundleStallRelease | faultQueueHeadWrite |
      resultLand | thermalTrip | spGroupWakeDone | dbgBreakpointHit | dirtyLogArmWrite | logovfClear | invalidationCommand |
      bar2ApertureWrite | record | getrec | endSession =>
    exact either ..
  case getCapabilities | negotiateAlgorithms | getDigests | getCertificate | challenge | getMeasurements | keyExchange |
      keyUpdate | heartbeat | frameAssign | framePlaceNear | tenantUnbind =>
    exact either ..
  case finish | frameCompress | frameDonate => exact branch (next _) (either ..)
  case share => exact branch (next _) (branch (next _) (either ..))
  case fetchMissFill => exact branch (next _) (branch (next _) (either ..))
  case cxlbusyTimeout core =>
    refine branch (next _) ?_
    cases (s.coreOf core).refusing with
    | none => exact next _
    | some t => exact either ..
  case rngBlock core =>
    refine branch (next _) ?_
    cases (s.coreOf core).rng.block (s.coreOf core).clk with
    | none => exact next _
    | some r => exact next _

end Answers

/-- Settles O2: a slot instruction by its frame, an event by its meaning. -/
theorem nothingStops : Obligations.NothingStops := by
  intro i s
  cases h : i.slotPart with
  | some p =>
    obtain ⟨t, ht, -⟩ := exec_of_slotPart (opc := p.1) (f := p.2) h s
    exact ⟨t, ht⟩
  | none => exact Answers.event h s

end Sys2Proof.Proofs
end

section
/-! PROOFS. A step runs what it decodes: a bundle whose slots find their sources full is the meanings of its instructions, in
slot order. -/

namespace Sys2Proof.Proofs

open Sys2Proof Sys2Proof.Machine Sys2Proof.Safety

/-! ### The slots in order -/

/-- One slot of a bundle finds its sources full. -/
def SlotFull (s : State) (e : Slot × Instr) : Prop :=
  ∃ opc f, e.2.slotPart = some (opc, f) ∧
    (guardOf f s = false ∨ ∀ r ∈ sourcesOf opc f, s.bun.pre.isEmpty s.bun.hnd r.file r.reg = false)

namespace SlotStep

variable {s t : State}

theorem pre_eq (h : SlotStep s t) : t.bun.pre = s.bun.pre := congrArg (·.1.2.2.2.2.1) h.kept
theorem hnd_eq (h : SlotStep s t) : t.bun.hnd = s.bun.hnd := congrArg (·.1.2.1) h.kept
theorem mem_eq (h : SlotStep s t) : t.bun.mem = s.bun.mem := congrArg (·.2.1.2.2.2.1) h.kept

/-- Guards and sources are read from the core as the bundle found it, which no slot changes. -/
theorem slotFull (h : SlotStep s t) {e : Slot × Instr} (he : SlotFull s e) : SlotFull t e := by
  simpa only [SlotFull, guardOf, h.pre_eq, h.hnd_eq] using he

end SlotStep

theorem inOrder_append {is : List Instr} {s t : State} (h : inOrder is s = .next t) (js : List Instr) :
    inOrder (is ++ js) s = inOrder js t := by
  induction is generalizing s with
  | nil => cases h; rfl
  | cons i is ih =>
    simp only [inOrder, List.cons_append] at h ⊢
    split at h
    · exact ih h
    · cases h
    · cases h

/-- Slots whose sources are full run one after the other. -/
theorem runSlots_full (slots : List (Slot × Instr)) (s : State) (h : ∀ e ∈ slots, SlotFull s e) :
    ∃ t, runSlots slots s = .next t ∧ inOrder (slots.map Prod.snd) s = .next t ∧ SlotStep s t := by
  induction slots generalizing s with
  | nil => exact ⟨s, rfl, rfl, .refl s⟩
  | cons e rest ih =>
    obtain ⟨opc, f, hp, hf⟩ := h e List.mem_cons_self
    obtain ⟨t, ht, hs⟩ := exec_of_slotPart hp s
    obtain ⟨u, hr, ho, hu⟩ := ih t fun e' he' => hs.slotFull (h e' (List.mem_cons_of_mem _ he'))
    have hgo : (guardOf f s && emptySources s.bun.pre s.bun.hnd opc f) = false := by
      rcases hf with hf | hf
      · simp [hf]
      · simpa [emptySources, emptyRefs] using fun _ => hf
    refine ⟨u, ?_, ?_, hs.trans hu⟩
    · simp [runSlots, hp, hgo, ht, hr]
    · simp [inOrder, ht, ho]

/-! ### The order of a decoded bundle -/

theorem decodeSlots_slots (ks : List Slot) (ws : List IWord) : ((decodeSlots ks ws).1.map Prod.fst).Sublist ks := by
  induction ks generalizing ws with
  | nil => simp [decodeSlots]
  | cons k ks ih =>
    unfold decodeSlots
    split
    · simp [Function.comp_def]
    · simp
    · simpa using ih _

/-- What `filterMap` keeps of keyed entries stays in their order when it leaves the keys as they are. -/
theorem filterMap_keys_sublist {α β γ : Type} {g : α × β → Option (α × γ)} (hg : ∀ e r, g e = some r → r.1 = e.1)
    (l : List (α × β)) : ((l.filterMap g).map Prod.fst).Sublist (l.map Prod.fst) := by
  induction l with
  | nil => simp
  | cons e l ih =>
    cases h : g e with
    | none => simpa [h] using ih.trans (List.sublist_cons_self ..)
    | some r => simpa [h, hg e r h] using ih

/-- The slots of a legal bundle stand in ascending order. -/
theorem decodeBundle_slots {hnd : Bool} {ws : List IWord} {b : Bundle} (h : decodeBundle hnd ws = .ok b) :
    (b.slots.map Prod.fst).Sublist allSlots := by
  unfold decodeBundle at h
  split at h
  · cases h
  · split at h
    · cases h
    · dsimp only at h
      split at h
      · cases h
        refine (filterMap_keys_sublist (fun e r hr => ?_) _).trans ((decodeSlots_slots _ _).trans List.filter_sublist)
        split at hr
        · cases hr; rfl
        · cases hr
      · cases h

/-- Slots in ascending order are those of CTL and then the others. -/
theorem ctl_append_others {slots : List (Slot × Instr)} (h : (slots.map Prod.fst).Sublist allSlots) :
    (slots.filter fun e => e.1 = .ctl) ++ (slots.filter fun e => e.1 ≠ .ctl) = slots := by
  have apart {l : List (Slot × Instr)} (hl : (l.map Prod.fst).Sublist [.sa, .sb, .aga, .agb, .va, .vb, .xe]) :
      (l.filter fun e => e.1 = .ctl) = [] ∧ (l.filter fun e => e.1 ≠ .ctl) = l := by
    have hne (e) (he : e ∈ l) : e.1 ≠ .ctl := fun hk => by
      have hm : e.1 ∈ [Slot.sa, .sb, .aga, .agb, .va, .vb, .xe] := hl.subset (List.mem_map_of_mem he)
      simp [hk] at hm
    exact ⟨List.filter_eq_nil_iff.2 (by simpa using hne), List.filter_eq_self.2 (by simpa using hne)⟩
  rcases List.sublist_cons_iff.1 h with h | ⟨ks, hks, h⟩
  · obtain ⟨hc, ho⟩ := apart h
    rw [hc, ho, List.nil_append]
  · obtain ⟨e, l, rfl, he, rfl⟩ := List.map_eq_cons_iff.1 hks
    obtain ⟨hc, ho⟩ := apart h
    rw [List.filter_cons_of_pos (by simp [he]), List.filter_cons_of_neg (by simp [he]), hc, ho, List.cons_append,
      List.nil_append]

/-! ### A bundle whose sources are full -/

/-- The bundle is the meanings of its instructions in slot order; none of it has been done ahead of a handler run. -/
theorem runBundle_full {slots : List (Slot × Instr)} {s : State} (ho : (slots.map Prod.fst).Sublist allSlots)
    (hm : s.bun.mem = none) (h : ∀ e ∈ slots, SlotFull s e) : runBundle slots s = inOrder (slots.map Prod.snd) s := by
  obtain ⟨t, ht, hti, hst⟩ := runSlots_full (slots.filter fun e => e.1 = .ctl) s fun e he => h e (List.mem_of_mem_filter he)
  obtain ⟨u, hu, hui, htu⟩ := runSlots_full (slots.filter fun e => e.1 ≠ .ctl) t
    fun e he => hst.slotFull (h e (List.mem_of_mem_filter he))
  have hmt : t.bun.mem = none := hst.mem_eq.trans hm
  have hmu : u.bun.mem = none := htu.mem_eq.trans hmt
  have hrew : t.rewind = t := by simp [State.rewind, hmt]
  have hres : t.restore u = u := by simp [State.restore, hmu]
  calc runBundle slots s = .next u := by simp only [runBundle, ht, hrew, hu, hres]
    _ = inOrder (slots.map Prod.snd) s := by
      rw [← ctl_append_others ho, List.map_append, inOrder_append hti, hui]

theorem checkSources_full {s : State} {e : Slot × Instr} (h : SlotFull s e) : checkSources s e = s := by
  obtain ⟨opc, f, hp, hf⟩ := h
  rcases hf with hf | hf
  · simp [checkSources, hp, hf]
  · have hrefs : emptyRefs s.bun.pre s.bun.hnd opc f = [] := List.filter_eq_nil_iff.2 (by simpa using hf)
    simp [checkSources, hp, hrefs]

theorem foldl_checkSources_full {s : State} {slots : List (Slot × Instr)} (h : ∀ e ∈ slots, SlotFull s e) :
    slots.foldl checkSources s = s := by
  induction slots with
  | nil => rfl
  | cons e rest ih =>
    rw [List.foldl_cons, checkSources_full (h e List.mem_cons_self)]
    exact ih fun e' he' => h e' (List.mem_cons_of_mem _ he')

theorem issue_full {slots : List (Slot × Instr)} {s : State} (ho : (slots.map Prod.fst).Sublist allSlots)
    (hm : s.bun.mem = none) (hw : s.bun.was = []) (hst : s.bun.stall = false) (h : ∀ e ∈ slots, SlotFull s e) :
    s.issue slots = thenDo (inOrder (slots.map Prod.snd) s) State.finish := by
  have hrun : (if slots.isEmpty then exec .emptyBundle s else runBundle slots s) = inOrder (slots.map Prod.snd) s := by
    cases slots with
    | nil => rfl
    | cons e l => exact runBundle_full ho hm h
  unfold State.issue
  simp only [hw, List.isEmpty_nil, if_true, foldl_checkSources_full h, hst, Bool.false_and, hrun]
  rfl

/-! ### The turn of a core -/

theorem sequence_issuing {s : State} {k : Nat} {hnd : Bool} {b : Bundle} (h : issuing s k hnd b) :
    (readied s k).sequence k hnd = (atIssue s k hnd b).issue b.slots := by
  obtain ⟨-, -, -, hheld, hbrk, ws, hws, hb⟩ := h
  have hnone : ((readied s k).held.find? fun h => h.core == k && h.hnd == hnd) = none := by
    simpa [List.find?_eq_none] using hheld
  simp only [State.sequence, hnone, hbrk, hws, hb, Bool.false_eq_true, if_false]
  rfl

theorem turn_issuing {s : State} {k : Nat} {hnd : Bool} {b : Bundle} (h : issuing s k hnd b)
    (hf : sourcesFull (atIssue s k hnd b) b) :
    s.turn k = thenDo (inOrder (b.slots.map Prod.snd) (atIssue s k hnd b)) fun t => t.finish.forget k := by
  have hseq := sequence_issuing h
  obtain ⟨hclk, hdbg, hwho, -, -, ws, -, hb⟩ := h
  rw [issue_full (decodeBundle_slots hb) rfl rfl rfl hf] at hseq
  have hturn : s.turn k = thenDo ((readied s k).sequence k hnd) fun t => t.forget k := by
    unfold State.turn
    simp only [hclk, Bool.false_eq_true, if_false]
    change (match (readied s k).dbgTurn k with | some t => _ | none => _) = _
    rw [hdbg]
    change (match (readied s k).who k with | .none => _ | .start => _ | w => _) = _
    rw [hwho]
    cases hnd <;> rfl
  rw [hturn, hseq]
  cases inOrder (b.slots.map Prod.snd) (atIssue s k hnd b) <;> rfl

/-! ### A step -/

theorem step_turn {s : State} {k : Nat} {rest : List Move} (ha : s.agenda = .turn k :: rest) (hk : k < 2048) :
    step s = watched (State.turn { s with agenda := rest } k) := by
  simp only [step, State.move, ha, Nat.not_le.2 hk, if_false]

theorem step_idle {s : State} (ha : s.agenda = []) (hk : s.focus < 2048) :
    step s = watched (thenDo (s.elapse.turn s.focus) fun t => if t.progressed then t else t.background s.focus) := by
  simp only [step, State.move, ha, State.idleMove, Nat.not_le.2 hk, if_false]
  cases s.elapse.turn s.focus <;> rfl

theorem watched_thenDo (o : Host.Outcome State Fault Refusal) (g : State → State) :
    watched (thenDo o g) =
      thenDo o fun t => (g t).keepCalendar.flushFaults.payQuarantines.ladders.unbinds.watch := by
  cases o <;> rfl

theorem thenDo_thenDo (o : Host.Outcome State Fault Refusal) (g g' : State → State) :
    thenDo (thenDo o g) g' = thenDo o (g' ∘ g) := by
  cases o <;> rfl

/-- Settles O55: the move that comes next is unfolded once, and a bundle whose sources are full goes by `turn_issuing`. -/
theorem stepRuns : Obligations.StepRuns := by
  refine ⟨fun s k rest hnd b ha hk hi hf => ?_, fun s hnd b ha hk hi hf => ?_, fun s i rest ha hi hc => ?_,
    fun s i rest ha hi => ?_, fun s k rest ha hk => ?_, fun s ha hk => ?_⟩
  · rw [step_turn ha hk, turn_issuing hi hf, watched_thenDo]
  · rw [step_idle ha hk, turn_issuing hi hf, thenDo_thenDo, watched_thenDo]
    rfl
  · simp only [step, State.move, ha, hi, hc, if_true]
    rfl
  · cases hp : i.slotPart with
    | some p =>
      simp only [step, State.move, ha, hp]
      rfl
    | none =>
      have hc : mayCome s.sys.boot i = false := hi.resolve_left (absurd hp)
      simp only [step, State.move, ha, hp, hc, Bool.false_eq_true, if_false]
      rfl
  · simp only [step, State.move, ha, hk, if_true]
  · simp only [step, State.move, ha, State.idleMove, hk, if_true]
    rfl

end Sys2Proof.Proofs
end

section
/-! PROOFS. What the ends of a bundle leave as it was: the landing of results, the end of a launch, and the hold of a bundle;
and the branches of `State.finish`, one equation each. -/

namespace Sys2Proof.Proofs

open Sys2Proof Sys2Proof.Machine Sys2Proof.Safety

/-! ### Results landing -/

/-- One core comes from another by landing results: registers, results in flight and flags alone have changed. -/
def LandsTo (c d : Core) : Prop :=
  d = { c with main := d.main, hnd := d.hnd, v := d.v, w := d.w, pend := d.pend, flags := d.flags, firstev := d.firstev,
               firstpc := d.firstpc }

theorem LandsTo.refl (c : Core) : LandsTo c c := rfl

theorem LandsTo.trans {c d e : Core} (h : LandsTo c d) (h' : LandsTo d e) : LandsTo c e := by
  unfold LandsTo at *
  rw [h', h]

theorem landsTo_writeVal (c : Core) (hnd : Bool) (file : RFile) (n : Nat) (v : RegVal) :
    LandsTo c (c.writeVal hnd file n v) := by
  unfold LandsTo
  rw [(Laws.writeVal_frame c hnd file n v).1]

theorem landsTo_stick (c : Core) (fl : List (Slot × FlagSet × Word)) : LandsTo c (c.stick fl) := by
  unfold Core.stick
  dsimp only
  split
  · exact .refl c
  · split <;> rfl

theorem landsTo_landGo (clk : Nat) (ps : List Pend) (held : List (Bool × RFile × Nat)) (c : Core) (kept : List Pend)
    (fl : List (Slot × FlagSet × Word)) : LandsTo c (landGo clk ps held c kept fl).1 := by
  induction ps generalizing held c kept fl with
  | nil => rfl
  | cons p ps ih =>
    unfold landGo
    dsimp only
    split
    · refine LandsTo.trans ?_ (ih ..)
      split
      · exact landsTo_writeVal ..
      · exact .refl c
    · exact ih ..

theorem landsTo_land (c : Core) : LandsTo c c.land.1 := (landsTo_landGo ..).trans (landsTo_stick ..)

/-! ### Launches and gangs by number -/

theorem find?_map_key {α : Type} {key : α → Nat} {g : α → α} (hg : ∀ x, key (g x) = key x) (l : List α) (id : Nat) :
    (l.map g).find? (fun x => key x == id) = (l.find? fun x => key x == id).map g := by
  rw [List.find?_map]
  simp [hg]

theorem launchOf_id {s : State} {id : Nat} {l : Launch} (h : s.launchOf id = some l) : l.id = id := by
  simpa using List.find?_some h

theorem gangOf_id {s : State} {id : Nat} {g : Gang} (h : s.gangOf id = some g) : g.id = id := by
  simpa using List.find?_some h

theorem gangAt_gangOf {s : State} {k : Nat} {g : Gang} (h : s.gangAt k = some g) : s.gangOf g.id = some g := by
  unfold State.gangAt at h
  split at h
  · cases h
  · rwa [gangOf_id h]

theorem gangOf_onGang {s : State} {id : Nat} {g : Gang} {f : Gang → Gang} (hf : ∀ x, (f x).id = x.id)
    (h : s.gangOf id = some g) : (s.onGang id f).gangOf id = some (f g) := by
  have hk (x : Gang) : (if x.id = id then f x else x).id = x.id := by split <;> simp [hf]
  show ((s.sys.gangs.map _).find? _) = _
  rw [find?_map_key hk]
  simp only [State.gangOf] at h
  simp [h, gangOf_id h]

/-! ### The end of a launch (R329 to R331) -/

theorem condemn_id (l : Launch) (f : FirstFault) : (l.condemn f).id = l.id := rfl

/-- A launch that has ended by a fault stays as it is under another of the same core in the same tick. -/
theorem condemn_again {l : Launch} {f f' : FirstFault} (h : l.fault = some f) (ha : l.aborting = true)
    (hd : l.dropped = true) (ht : f'.tick = f.tick) (hc : f'.core = f.core) : l.condemn f' = l := by
  have hb : f'.before f = false := by simp [FirstFault.before, ht, hc, BitVec.ult]
  cases l
  cases h
  cases ha
  cases hd
  simp [Launch.condemn, hb]

@[simp] theorem quarantineCtx_cores (s : State) (ctx : Nat) (f : FirstFault) : (s.quarantineCtx ctx f).cores = s.cores := by
  unfold State.quarantineCtx
  split <;> rfl

@[simp] theorem quarantineCtx_held (s : State) (ctx : Nat) (f : FirstFault) : (s.quarantineCtx ctx f).held = s.held := by
  unfold State.quarantineCtx
  split <;> rfl

@[simp] theorem fatal_cores (s : State) (k kind form : Nat) (baddr : Word) (slots : Nat) (addr : Word) (ill : BitVec 128) :
    (s.fatal k kind form baddr slots addr ill).cores = s.cores := by
  unfold State.fatal
  dsimp only
  split <;> split <;> simp [State.condemn]

theorem launchOf_condemn {s : State} {id : Nat} {l : Launch} (h : s.launchOf id = some l) (f : FirstFault) :
    (s.condemn id f).launchOf id = some (l.condemn f) := by
  have hk (x : Launch) : (if x.id = id then x.condemn f else x).id = x.id := by split <;> rfl
  show ((s.sys.launches.map _).find? _) = _
  rw [find?_map_key hk]
  simp only [State.launchOf] at h
  simp [h, launchOf_id h]

/-- Quarantine leaves a launch that the same fault has ended already as it is. -/
theorem launchOf_quarantineCtx {s : State} {id : Nat} {l : Launch} {f : FirstFault} (h : s.launchOf id = some l)
    (hf : l.fault = some f) (ha : l.aborting = true) (hd : l.dropped = true) (ctx : Nat) :
    (s.quarantineCtx ctx f).launchOf id = some l := by
  unfold State.quarantineCtx
  split
  · exact h
  · rename_i vf _
    have hc : l.condemn { f with kind := kINTEG } = l := condemn_again hf ha hd rfl rfl
    have hk (x : Launch) : (if x.vf = vf then x.condemn { f with kind := kINTEG } else x).id = x.id := by split <;> rfl
    show ((s.sys.launches.map _).find? _) = _
    rw [find?_map_key hk]
    simp only [State.launchOf] at h
    rw [h]
    simp [hc]

/-- A fatal fault of a core ends the launch that holds it, and is its first fault. -/
theorem launchOf_fatal {s : State} {k : Nat} {g : Gang} {l : Launch} (hg : s.gangAt k = some g)
    (hl : s.launchOf g.launch = some l) (hf : l.fault = none) (kind form : Nat) (baddr : Word) (slots : Nat) (addr : Word)
    (ill : BitVec 128) :
    ∃ l' x, (s.fatal k kind form baddr slots addr ill).launchOf g.launch = some l' ∧ l'.aborting = true
      ∧ l'.dropped = true ∧ l'.fault = some x ∧ x.kind = kind ∧ x.form = form := by
  have hc := launchOf_condemn hl (s.faultOf k kind form baddr slots addr ill)
  have hfault : (l.condemn (s.faultOf k kind form baddr slots addr ill)).fault = some (s.faultOf k kind form baddr slots addr ill) := by
    simp [Launch.condemn, hf]
  refine ⟨_, _, ?_, rfl, rfl, hfault, rfl, rfl⟩
  simp only [State.fatal, hg]
  split
  · exact launchOf_quarantineCtx hc hfault rfl rfl _
  · exact hc

/-! ### The branches of `finish` -/

theorem finish_stalled {s : State} (h : s.bun.stalled = true) :
    s.finish = s.onCore s.bun.core fun c => s.bun.wake.foldl Core.wakeGroup c := by
  simp only [State.finish, h, if_true]

theorem finish_stops {s : State} {k : Nat} (hs : s.bun.stalled = false) (hk : s.bun.stops = some k) :
    s.finish = s.stopBundle k := by
  simp only [State.finish, hs, hk, Bool.false_eq_true, if_false]

theorem finish_holds {s : State} {h : Hold} (hs : s.bun.stalled = false) (hk : s.bun.stops = none) (hb : s.bun.brk = none)
    (hh : s.bun.hold = some h) : s.finish = s.holdBundle h := by
  simp only [State.finish, hs, hk, hb, hh, Bool.false_eq_true, if_false]

theorem finish_commits {s : State} (hs : s.bun.stalled = false) (hk : s.bun.stops = none) (hb : s.bun.brk = none)
    (hh : s.bun.hold = none) (hl : s.bun.logs = 0) : s.finish = s.commitBundle := by
  simp only [State.finish, hs, hk, hb, hh, hl, Bool.false_eq_true, if_false]
  rfl

/-- A stall that no EMPTY trap comes before is a stall. -/
theorem stalled_eq_false {b : Bun} (h : b.stall = false ∨ ∃ r ∈ b.raised, r.kind = kEMPTY) : b.stalled = false := by
  rcases h with h | ⟨r, hr, hk⟩
  · simp [Bun.stalled, h]
  · simp only [Bun.stalled, Bool.and_eq_false_imp, Bool.not_eq_false']
    exact fun _ => List.any_eq_true.2 ⟨r, hr, by simp [hk]⟩

theorem stops_eq_some {b : Bun} {k : Nat} (h : b.reports = some k) (hh : ∀ x, b.hold = some x → x.outranks k = false) :
    b.stops = some k := by
  have : (b.hold.any fun x => x.outranks k) = false := by
    cases hb : b.hold with
    | none => rfl
    | some x => simpa using hh x hb
  simp [Bun.stops, h, this]

theorem stops_eq_none_of_reports {b : Bun} (h : b.reports = none) : b.stops = none := by simp [Bun.stops, h]

theorem stops_eq_none_of_outranks {b : Bun} {k : Nat} {x : Hold} (h : b.reports = some k) (hx : b.hold = some x)
    (ho : x.outranks k = true) : b.stops = none := by
  simp [Bun.stops, h, hx, ho]

theorem reports_eq_none_of_nil {b : Bun} (h : b.raised = []) : b.reports = none := by
  simp [Bun.reports, h, List.find?_eq_none]

end Sys2Proof.Proofs
end

section
/-! PROOFS. How a bundle ends that raises (R18, R60, R324 to R330). -/

namespace Sys2Proof.Proofs

open Sys2Proof Sys2Proof.Machine Sys2Proof.Safety

/-! ### What a bundle reports -/

/-- The first of an ordered list of kinds that a bundle raises, by the kinds before it. -/
theorem find?_kind_iff {l before after : List Nat} {k : Nat} (hl : l.Nodup) (h : l = before ++ k :: after) (rs : List Raise) :
    (l.find? fun k => rs.any fun r => r.kind == k) = some k ↔ (∃ r ∈ rs, r.kind = k) ∧ ∀ r ∈ rs, r.kind ∉ before := by
  subst h
  have hk : k ∉ before := fun hm => (List.nodup_append.1 hl).2.2 k hm k List.mem_cons_self rfl
  constructor
  · intro hf
    refine ⟨by simpa using List.find?_some hf, fun r hr hm => ?_⟩
    cases hb : before.find? fun k => rs.any fun r => r.kind == k with
    | none => exact List.find?_eq_none.1 hb _ hm (List.any_eq_true.2 ⟨r, hr, by simp⟩)
    | some j =>
      rw [List.find?_append, hb] at hf
      cases hf
      exact hk (List.mem_of_find?_eq_some hb)
  · rintro ⟨⟨r, hr, rfl⟩, hn⟩
    have hb : (before.find? fun k => rs.any fun r => r.kind == k) = none := by
      simp only [List.find?_eq_none, List.any_eq_true, beq_iff_eq, not_exists, not_and]
      rintro j hj q hq rfl
      exact hn q hq hj
    have hr' : (rs.any fun q => q.kind == r.kind) = true := List.any_eq_true.2 ⟨r, hr, by simp⟩
    simp [List.find?_append, hb, hr']

theorem kindOrder_nodup : kindOrder.Nodup := by decide
theorem lateKinds_nodup : lateKinds.Nodup := by decide

/-- What is reported has been raised, and is among the precise kinds. -/
theorem reports_mem {b : Bun} {k : Nat} (h : b.reports = some k) : k ∈ kindOrder ∧ ∃ r ∈ b.raised, r.kind = k :=
  ⟨List.mem_of_find?_eq_some h, by simpa using List.find?_some h⟩

/-! ### The slots that raised a kind -/

theorem slot_mem_allSlots (j : Slot) : j ∈ allSlots := by cases j <;> decide

theorem allSlots_ascending : allSlots.Pairwise fun i j => i.num < j.num := by decide

/-- A set of slots by its eight members. -/
def slotSet (c x y a b v w e : Bool) : Slot → Bool
  | .ctl => c | .sa => x | .sb => y | .aga => a | .agb => b | .va => v | .vb => w | .xe => e

theorem slotSet_self (p : Slot → Bool) :
    slotSet (p .ctl) (p .sa) (p .sb) (p .aga) (p .agb) (p .va) (p .vb) (p .xe) = p := by
  funext j
  cases j <;> rfl

/-- The mask of a set of slots. -/
def slotMask (p : Slot → Bool) : Nat := ((allSlots.filter p).map fun j => 2 ^ j.num).sum

theorem slotMask_slotSet : ∀ c x y a b v w e : Bool, slotMask (slotSet c x y a b v w e) < 256
    ∧ ∀ j ∈ allSlots, (slotMask (slotSet c x y a b v w e)).testBit j.num = slotSet c x y a b v w e j := by
  decide

theorem slotMask_lt (p : Slot → Bool) : slotMask p < 256 := by
  have := (slotMask_slotSet (p .ctl) (p .sa) (p .sb) (p .aga) (p .agb) (p .va) (p .vb) (p .xe)).1
  rwa [slotSet_self] at this

theorem slotMask_testBit (p : Slot → Bool) (j : Slot) : (slotMask p).testBit j.num = p j := by
  have := (slotMask_slotSet (p .ctl) (p .sa) (p .sb) (p .aga) (p .agb) (p .va) (p .vb) (p .xe)).2 j (slot_mem_allSlots j)
  rwa [slotSet_self] at this

theorem raisedMask_eq (rs : List Raise) (k : Nat) :
    raisedMask rs k = slotMask fun j => rs.any fun r => r.kind == k && r.slot == j := rfl

/-- The raise that a bundle reports for a kind: one of the lowest slot that raised it. -/
theorem raisedFirst_lowest {rs : List Raise} {k : Nat} (h : ∃ r ∈ rs, r.kind = k) :
    raisedFirst rs k ∈ rs ∧ (raisedFirst rs k).kind = k
      ∧ ∀ q ∈ rs, q.kind = k → (raisedFirst rs k).slot.num ≤ q.slot.num := by
  have hit {q : Raise} (hq : q ∈ rs) (hk : q.kind = k) : (rs.find? fun r => r.kind == k && r.slot == q.slot) ≠ none := by
    simpa [List.find?_eq_none] using ⟨q, hq, hk, rfl⟩
  obtain ⟨r, hr, hk⟩ := h
  cases hf : allSlots.findSome? fun j => rs.find? fun r => r.kind == k && r.slot == j with
  | none => exact absurd (List.findSome?_eq_none_iff.1 hf r.slot (slot_mem_allSlots _)) (hit hr hk)
  | some x =>
    obtain ⟨l₁, j, l₂, hl, hx, hn⟩ := List.findSome?_eq_some_iff.1 hf
    have hx' : x.kind = k ∧ x.slot = j := by simpa using List.find?_some hx
    have he : raisedFirst rs k = x := by simp [raisedFirst, hf]
    rw [he]
    refine ⟨List.mem_of_find?_eq_some hx, hx'.1, fun q hq hqk => ?_⟩
    rw [hx'.2]
    have hp := allSlots_ascending
    have hm := slot_mem_allSlots q.slot
    rw [hl] at hp hm
    rcases List.mem_append.1 hm with hm | hm
    · exact absurd (hn _ hm) (hit hq hqk)
    · rcases List.mem_cons.1 hm with hm | hm
      · rw [hm]
      · exact Nat.le_of_lt ((List.pairwise_cons.1 (List.pairwise_append.1 hp).2.1).1 _ hm)

/-! ### The commit -/

/-- What a bundle of the main sequencer, and HNDRET, leave of the core that a bundle has advanced to. -/
def returning (b : Bun) (c : Core) : Core :=
  let c := if b.hnd then c else { c with owes := false }
  if b.hndret then c.endRun else c

/-- What HALT leaves of it. -/
def departing (b : Bun) (c : Core) : Core :=
  if b.halts then { c with departed := true, main := { c.main with loops := [] } } else c

/-- What a stop request leaves of it; `cut` says that the end event of a loop stops it. -/
def stopping (b : Bun) (c : Core) (cut : Bool) : Core :=
  if cut then { c with stopped := some .loopCut }
  else if b.yields && !b.hnd && c.stopReq then { c with stopped := some .yielded } else c

/-- What the commit makes of the core that a bundle has advanced to. -/
def leaving (b : Bun) (c : Core) (cut : Bool) : Core := stopping b (departing b (returning b c)) cut

/-- The core that a bundle commits, before the debugger counts the step. -/
def committing (b : Bun) : Core := leaving b b.advance.1 b.advance.2

/-- A bundle that posts nothing outside its core and raises no trap of its own commit. -/
theorem commitBundle_quiet {s : State} (hp : s.bun.post = [])
    (hr : ∀ r ∈ s.bun.raised, r.kind ≠ kTRAPI ∧ r.kind ≠ kARITH) :
    s.commitBundle =
      ((s.dropHeld s.bun.core s.bun.hnd).setCore s.bun.core (committing s.bun).stepped).lateFault s.bun := by
  have hn : (s.bun.raised.find? fun r => r.kind == kTRAPI || r.kind == kARITH) = none := by
    simpa [List.find?_eq_none] using hr
  simp only [State.commitBundle, hp, List.foldl_nil, State.trapAfter, hn]
  rfl

/-- What of a core no end of a bundle changes. -/
def scopeOfEnd (c : Core) := (c.sp, c.placed, c.dbg.step)

theorem scopeOfEnd_bubble (c : Core) : scopeOfEnd c.bubble = scopeOfEnd c := by
  rw [Core.bubble, landsTo_land { c with clk := c.clk + 1 }]
  rfl

theorem scopeOfEnd_endRun (c : Core) : scopeOfEnd c.endRun = scopeOfEnd c := by
  unfold Core.endRun
  split <;> rfl

theorem scopeOfEnd_setBank (c : Core) (hnd : Bool) (b : Bank) : scopeOfEnd (c.setBank hnd b) = scopeOfEnd c := by
  cases hnd <;> rfl

theorem scopeOfEnd_advance (b : Bun) : scopeOfEnd b.advance.1 = scopeOfEnd b.cur := by
  unfold Bun.advance
  dsimp only
  split <;> simp only [scopeOfEnd_bubble, scopeOfEnd_setBank]

theorem scopeOfEnd_returning (b : Bun) (c : Core) : scopeOfEnd (returning b c) = scopeOfEnd c := by
  have h : scopeOfEnd (if b.hnd then c else { c with owes := false }) = scopeOfEnd c := by split <;> rfl
  unfold returning
  dsimp only
  split
  · exact (scopeOfEnd_endRun _).trans h
  · exact h

theorem scopeOfEnd_departing (b : Bun) (c : Core) : scopeOfEnd (departing b c) = scopeOfEnd c := by
  unfold departing
  split <;> rfl

theorem scopeOfEnd_stopping (b : Bun) (c : Core) (cut : Bool) : scopeOfEnd (stopping b c cut) = scopeOfEnd c := by
  unfold stopping
  split
  · rfl
  · split <;> rfl

theorem scopeOfEnd_leaving (b : Bun) (c : Core) (cut : Bool) : scopeOfEnd (leaving b c cut) = scopeOfEnd c := by
  rw [leaving, scopeOfEnd_stopping, scopeOfEnd_departing, scopeOfEnd_returning]

theorem scopeOfEnd_committing (b : Bun) : scopeOfEnd (committing b) = scopeOfEnd b.cur :=
  (scopeOfEnd_leaving ..).trans (scopeOfEnd_advance b)

theorem stepped_sp (c : Core) : c.stepped.sp = c.sp ∧ c.stepped.placed = c.placed := by
  unfold Core.stepped
  split
  · split
    · split <;> exact ⟨rfl, rfl⟩
    · exact ⟨rfl, rfl⟩
  · exact ⟨rfl, rfl⟩

/-! ### Parking a gang -/

theorem coreOf_foldl_onCore {g : Core → Core} (hg : ∀ c, g (g c) = g c) (ks : List Nat) (s : State) (j : Nat) :
    (ks.foldl (fun s k => s.onCore k g) s).coreOf j = if j ∈ ks then g (s.coreOf j) else s.coreOf j := by
  induction ks generalizing s with
  | nil => simp
  | cons k ks ih =>
    rw [List.foldl_cons, ih, Laws.coreOf_onCore]
    by_cases hk : k = j
    · subst hk
      simp [hg]
    · simp [hk, Ne.symm hk]

theorem foldl_onCore_sys (g : Core → Core) (ks : List Nat) (s : State) :
    (ks.foldl (fun s k => s.onCore k g) s).sys = s.sys := by
  induction ks generalizing s with
  | nil => rfl
  | cons k ks ih => rw [List.foldl_cons, ih, Laws.onCore_sys]

/-- A core whose gang is parked. -/
def parkCore (c : Core) : Core := { c with parked := true }

/-- A core that a fault of its handler (`own`) holds. -/
def parkHandler (own : Bool) (c : Core) : Core := { c with hndParked := c.hndParked || own }

theorem park_eq {s : State} {k : Nat} {g : Gang} {l : Launch} (hg : s.gangAt k = some g)
    (hl : s.launchOf g.launch = some l) (hnd engine : Bool) (kind acc : Nat) (dva baddr : Word) (slots : Nat) :
    ∃ r, s.park k hnd engine kind acc dva baddr slots =
      ((g.cores.foldl (fun s k => s.onCore k parkCore) (s.onGang g.id fun x => { x with parked := true })).onCore k
        (parkHandler (hnd && !engine))).addFault r := by
  simp only [State.park, hg, hl]
  exact ⟨_, rfl⟩

theorem addFault_coreOf (s : State) (r : FaultRec) (j : Nat) : (s.addFault r).coreOf j = s.coreOf j := rfl
theorem addFault_gangOf (s : State) (r : FaultRec) (id : Nat) : (s.addFault r).gangOf id = s.gangOf id := rfl

/-- Every member of a parked gang is parked; the faulting core's handler is too when the fault is its own. -/
theorem coreOf_park {s : State} {k : Nat} {g : Gang} {l : Launch} (hg : s.gangAt k = some g)
    (hl : s.launchOf g.launch = some l) (hnd engine : Bool) (kind acc : Nat) (dva baddr : Word) (slots j : Nat) :
    (s.park k hnd engine kind acc dva baddr slots).coreOf j =
      let c := if j ∈ g.cores then parkCore (s.coreOf j) else s.coreOf j
      if k = j then parkHandler (hnd && !engine) c else c := by
  obtain ⟨r, hr⟩ := park_eq hg hl hnd engine kind acc dva baddr slots
  rw [hr, addFault_coreOf, Laws.coreOf_onCore]
  simp only [coreOf_foldl_onCore (g := parkCore) (fun _ => rfl), Laws.onGang_coreOf]
  by_cases hk : k = j
  · subst hk; rfl
  · simp [hk]

theorem gangOf_park {s : State} {k : Nat} {g : Gang} {l : Launch} (hg : s.gangAt k = some g)
    (hl : s.launchOf g.launch = some l) (hnd engine : Bool) (kind acc : Nat) (dva baddr : Word) (slots : Nat) :
    (s.park k hnd engine kind acc dva baddr slots).gangOf g.id = some { g with parked := true } := by
  obtain ⟨r, hr⟩ := park_eq hg hl hnd engine kind acc dva baddr slots
  rw [hr, addFault_gangOf, State.gangOf, Laws.onCore_sys, foldl_onCore_sys]
  exact gangOf_onGang (f := fun x => { x with parked := true }) (fun _ => rfl) (gangAt_gangOf hg)

/-! ### A bundle that commits nothing -/

theorem stopBundle_program {s : State} {k : Nat} (hk : k ≤ kUNALIGN) :
    s.stopBundle k = (s.dropHeld s.bun.core s.bun.hnd).program s.bun.core s.bun.hnd k (raisedMask s.bun.raised k)
      (raisedFirst s.bun.raised k).addr s.bun.hdr s.bun.hdr ((s.coreOf s.bun.core).bank s.bun.hnd).loops.length := by
  simp only [State.stopBundle, hk, if_true]
  rfl

theorem stopBundle_park {s : State} {k : Nat} (hk : ¬k ≤ kUNALIGN) (hr : recoverable k = true) :
    s.stopBundle k = (s.dropHeld s.bun.core s.bun.hnd).park s.bun.core s.bun.hnd false k (raisedFirst s.bun.raised k).acc
      (raisedFirst s.bun.raised k).addr s.bun.hdr (raisedMask s.bun.raised k) := by
  simp only [State.stopBundle, hk, hr, if_true, if_false]

theorem stopBundle_fatal {s : State} {k : Nat} (hk : ¬k ≤ kUNALIGN) (hr : recoverable k = false) :
    ∃ addr ill, s.stopBundle k = (s.dropHeld s.bun.core s.bun.hnd).fatal s.bun.core k 0 s.bun.hdr
      (raisedMask s.bun.raised k) addr ill := by
  simp only [State.stopBundle, hk, hr, Bool.false_eq_true, if_false]
  exact ⟨_, _, rfl⟩

/-- The entry of the trap handler. -/
theorem stopBundle_handler {s : State} {k : Nat} (hk : k ≤ kUNALIGN) (hh : s.bun.hnd = false)
    (hv : (s.coreOf s.bun.core).trapvec ≠ 0#64) (hi : (s.coreOf s.bun.core).intrap = false) :
    s.stopBundle k = (s.dropHeld s.bun.core false).setCore s.bun.core
      ((s.coreOf s.bun.core).takeTrap k (raisedMask s.bun.raised k) (raisedFirst s.bun.raised k).addr s.bun.hdr
        (s.coreOf s.bun.core).main.loops.length).bubble.bubble := by
  have ht : ((s.dropHeld s.bun.core false).coreOf s.bun.core).traps false = true := by
    show (s.coreOf s.bun.core).traps false = true
    simp [Core.traps, hv, hi]
  rw [stopBundle_program hk, hh]
  simp only [State.program, ht, if_true]
  rfl

/-- With no handler to take it, the launch ends. -/
theorem stopBundle_noHandler {s : State} {k : Nat} (hk : k ≤ kUNALIGN)
    (h : ¬(s.bun.hnd = false ∧ (s.coreOf s.bun.core).trapvec ≠ 0#64 ∧ (s.coreOf s.bun.core).intrap = false)) :
    s.stopBundle k = (s.dropHeld s.bun.core s.bun.hnd).fatal s.bun.core k
      (if s.bun.hnd = false ∧ (s.coreOf s.bun.core).intrap = true then 2 else 1) s.bun.hdr (raisedMask s.bun.raised k)
      (raisedFirst s.bun.raised k).addr 0 := by
  have ht : ((s.dropHeld s.bun.core s.bun.hnd).coreOf s.bun.core).traps s.bun.hnd = false := by
    show (s.coreOf s.bun.core).traps s.bun.hnd = false
    cases hb : s.bun.hnd
    · simpa [Core.traps, hb, ← Bool.not_eq_false] using h
    · rfl
  rw [stopBundle_program hk]
  simp only [State.program, ht, Bool.false_eq_true, if_false]
  congr 1
  show (if (!s.bun.hnd && (s.coreOf s.bun.core).intrap) = true then 2 else 1) = _
  simp only [Bool.and_eq_true, Bool.not_eq_true']

/-! ### The statement -/

theorem finish_stopBundle {s : State} {k : Nat} (hr : s.bun.reports = some k)
    (hs : s.bun.stall = false ∨ ∃ r ∈ s.bun.raised, r.kind = kEMPTY)
    (hh : ∀ h, s.bun.hold = some h → h.outranks k = false) : s.finish = s.stopBundle k :=
  finish_stops (stalled_eq_false hs) (stops_eq_some hr hh)

theorem dropHeld_coreOf (s : State) (k : Nat) (hnd : Bool) (j : Nat) : (s.dropHeld k hnd).coreOf j = s.coreOf j := rfl

theorem coreOf_fatal (s : State) (k kind form : Nat) (baddr : Word) (slots : Nat) (addr : Word) (ill : BitVec 128) (j : Nat) :
    (s.fatal k kind form baddr slots addr ill).coreOf j = s.coreOf j := by
  simp only [State.coreOf, fatal_cores]

/-- A fault that ends the launch changes no core; the launch ends with its kind and form. -/
theorem fatal_ends {s : State} {k : Nat} {g : Gang} {l : Launch} (hg : s.gangAt k = some g)
    (hl : s.launchOf g.launch = some l) (hf : l.fault = none) (hnd : Bool) (kind form : Nat) (baddr : Word) (slots : Nat)
    (addr : Word) (ill : BitVec 128) :
    let t := (s.dropHeld k hnd).fatal k kind form baddr slots addr ill
    (∀ j, t.coreOf j = s.coreOf j) ∧ ∃ l' x, t.launchOf g.launch = some l' ∧ l'.aborting = true ∧ l'.dropped = true
      ∧ l'.fault = some x ∧ x.kind = kind ∧ x.form = form :=
  ⟨fun j => by rw [coreOf_fatal, dropHeld_coreOf], launchOf_fatal (s := s.dropHeld k hnd) (g := g) (l := l) hg hl hf ..⟩

/-- A late kind ends the launch of the core that the bundle has committed. -/
theorem lateFault_committed {s : State} {k : Nat} {c : Core} (hc : c.placed = (s.coreOf s.bun.core).placed)
    (hk : (lateKinds.find? fun k => s.bun.raised.any fun r => r.kind == k) = some k) {g : Gang} {l : Launch}
    (hg : s.gangAt s.bun.core = some g) (hl : s.launchOf g.launch = some l) (hf : l.fault = none) :
    let t := ((s.dropHeld s.bun.core s.bun.hnd).setCore s.bun.core c).lateFault s.bun
    t.coreOf s.bun.core = c ∧ ∃ l' x, t.launchOf g.launch = some l' ∧ l'.aborting = true ∧ l'.dropped = true
      ∧ l'.fault = some x ∧ x.kind = k := by
  have hg' : ((s.dropHeld s.bun.core s.bun.hnd).setCore s.bun.core c).gangAt s.bun.core = some g := by
    simp only [State.gangAt, Laws.coreOf_setCore, if_true, hc]
    exact hg
  simp only [State.lateFault, hk]
  refine ⟨by simp [coreOf_fatal], ?_⟩
  obtain ⟨l', x, ht, ha, hd, hx, hkind, -⟩ := launchOf_fatal hg' hl hf k 0 s.bun.hdr (raisedMask s.bun.raised k)
    (raisedFirst s.bun.raised k).addr 0
  exact ⟨l', x, ht, ha, hd, hx, hkind⟩

/-- Settles O58: each kind by the branch of `finish` and of `stopBundle` that takes it. -/
theorem trapEntry : Obligations.TrapEntry := by
  refine ⟨fun b before k after h => find?_kind_iff kindOrder_nodup h b.raised,
    fun s k => ⟨?waits, ?late, fun hst => ⟨?handler, ?noHandler, ?parks, ?fatal⟩⟩⟩
  case waits =>
    intro h hs hr hh ho hw hb
    rw [finish_holds (by simp [Bun.stalled, hs]) (stops_eq_none_of_outranks hr hh ho) hb hh]
    simp only [State.holdBundle, hw, Bool.false_and, Bool.false_eq_true, if_false]
    exact ⟨_, List.mem_append_right _ (List.mem_singleton_self _), rfl, rfl, rfl, rfl⟩
  case late =>
    intro before after hl hk hn ⟨hr, hs, hh, hb, hlog, hp, hpl, hq⟩ g l hg hla hlf
    rw [finish_commits (by simp [Bun.stalled, hs]) (stops_eq_none_of_reports hr) hb hh hlog, commitBundle_quiet hp hq]
    obtain ⟨hsp, hplaced, -⟩ : (committing s.bun).sp = _ ∧ (committing s.bun).placed = _ ∧ _ :=
      by simpa only [scopeOfEnd, Prod.mk.injEq] using scopeOfEnd_committing s.bun
    obtain ⟨hc, hend⟩ := lateFault_committed (c := (committing s.bun).stepped)
      (by rw [(stepped_sp _).2, hplaced, hpl]) ((find?_kind_iff lateKinds_nodup hl _).2 ⟨hk, hn⟩) hg hla hlf
    exact ⟨by rw [hc, (stepped_sp _).1, hsp], hend⟩
  all_goals
    obtain ⟨hr, hs, hh⟩ := hst
    rw [finish_stopBundle hr hs hh]
    obtain ⟨-, hraised⟩ := reports_mem hr
  case handler =>
    rintro hk ⟨hhnd, hv, hi⟩
    obtain ⟨hmem, hkind, hlow⟩ := raisedFirst_lowest hraised
    rw [stopBundle_handler hk hhnd hv hi]
    refine ⟨raisedMask s.bun.raised k, raisedFirst s.bun.raised k, ⟨slotMask_lt _, fun j => slotMask_testBit _ j⟩, hmem, hkind,
      hlow, fun j hj => ?_, _, rfl, ?_⟩
    · simp [Ne.symm hj, dropHeld_coreOf]
    · simp only [Laws.coreOf_setCore, if_true, dropHeld_coreOf]
      rfl
  case noHandler =>
    intro hk hn g l hg hl hf
    rw [stopBundle_noHandler hk hn]
    exact fatal_ends hg hl hf ..
  case parks =>
    intro hk g l hg hl
    have hpark : ¬k ≤ kUNALIGN ∧ recoverable k = true := by rcases hk with rfl | rfl | rfl <;> decide
    rw [stopBundle_park hpark.1 hpark.2]
    have hcore (j : Nat) := coreOf_park (s := s.dropHeld s.bun.core s.bun.hnd) (g := g) (l := l) hg hl s.bun.hnd false k
      (raisedFirst s.bun.raised k).acc (raisedFirst s.bun.raised k).addr s.bun.hdr (raisedMask s.bun.raised k) j
    refine ⟨⟨_, gangOf_park (s := s.dropHeld s.bun.core s.bun.hnd) (g := g) (l := l) hg hl .., rfl⟩, fun j hj => ?_, fun j hj hb => ?_⟩
    · rw [hcore]
      by_cases hb : s.bun.core = j
      · simp [hb, hj, parkHandler, parkCore, dropHeld_coreOf]
      · simp [hb, Ne.symm hb, hj, parkCore, dropHeld_coreOf]
    · rw [hcore]
      simp [Ne.symm hb, hj, dropHeld_coreOf]
  case fatal =>
    intro hk _ g l hg hl hlf
    have hkind : ¬k ≤ kUNALIGN ∧ recoverable k = false := by
      simp only [kUNALIGN, recoverable, kXLATE, kPOOLEMPTY, kCXLBUSY, Bool.or_eq_false_iff, beq_eq_false_iff_ne]
      omega
    obtain ⟨addr, ill, hf⟩ := stopBundle_fatal (s := s) hkind.1 hkind.2
    rw [hf]
    exact fatal_ends hg hl hlf ..

end Sys2Proof.Proofs
end

section
/-! PROOFS. How a bundle ends that raises nothing: it commits, with the end events of its loops, or stalls, or is held. -/

namespace Sys2Proof.Proofs

open Sys2Proof Sys2Proof.Machine Sys2Proof.Safety

/-! ### The stage predicates (R51) -/

theorem setPred_preds (k : Bank) {n : Nat} (hn : n ≠ 0) (h16 : n < 16) (v : Bool) (j : Nat) :
    (k.setPred n v).preds.getLsbD j = if j = n then v else k.preds.getLsbD j := by
  have h : ¬(n = 0 ∨ 16 ≤ n) := by omega
  have hb : (1#16 <<< n).getLsbD j = decide (j = n) := by
    rw [BitVec.getLsbD_shiftLeft, BitVec.getLsbD_one, Bool.eq_iff_iff]
    simp only [Bool.and_eq_true, decide_eq_true_eq, Bool.not_eq_true', decide_eq_false_iff_not]
    omega
  have hlt : k.preds.getLsbD j = true → j < 16 := BitVec.lt_of_getLsbD
  cases v
  · simp only [Bank.setPred, h, if_false, Bool.false_eq_true, BitVec.getLsbD_and, BitVec.getLsbD_not, hb]
    by_cases hj : j = n
    · simp [hj]
    · simpa [hj] using hlt
  · simp only [Bank.setPred, h, if_false, if_true, BitVec.getLsbD_or, hb]
    by_cases hj : j = n
    · simp [hj]
    · simp [hj]

theorem setPred_frame (k : Bank) (n : Nat) (v : Bool) : k.setPred n v = { k with preds := (k.setPred n v).preds } := by
  unfold Bank.setPred
  split <;> rfl

/-- Predicates written from p10 on. -/
theorem foldl_setPred (on : Nat → Bool) (k : Bank) (m : Nat) (hm : m ≤ 6) :
    let b := (List.range m).foldl (fun b s => b.setPred (10 + s) (on s)) k
    b = { k with preds := b.preds } ∧ ∀ n, b.preds.getLsbD n = if 10 ≤ n ∧ n < 10 + m then on (n - 10) else k.preds.getLsbD n := by
  induction m with
  | zero => exact ⟨rfl, fun n => by rw [if_neg (by omega)]; rfl⟩
  | succ m ih =>
    obtain ⟨hf, hp⟩ := ih (by omega)
    simp only [List.range_succ, List.foldl_append, List.foldl_cons, List.foldl_nil]
    refine ⟨?_, fun n => ?_⟩
    · generalize (List.range m).foldl (fun b s => b.setPred (10 + s) (on s)) k = b at hf
      rw [setPred_frame]
      rw [hf]
    · rw [setPred_preds _ (by omega) (by omega), hp]
      by_cases hn : n = 10 + m
      · subst hn; simp
      · have : (10 ≤ n ∧ n < 10 + (m + 1)) ↔ (10 ≤ n ∧ n < 10 + m) := by omega
        simp only [hn, if_false, this]

theorem setStages_spec (k : Bank) (e : LoopEntry) : k.setStages e = { k with preds := (k.setStages e).preds }
    ∧ ∀ n, (k.setStages e).preds.getLsbD n =
      if 10 ≤ n ∧ n < 16 then decide (n - 10 < e.stages ∧ n - 10 ≤ e.e.toNat ∧ e.e.toNat - (n - 10) < e.lim.toNat)
      else k.preds.getLsbD n := by
  obtain ⟨hf, hp⟩ := foldl_setPred (fun s => s < e.stages && s ≤ e.e.toNat && e.e.toNat - s < e.lim.toNat) k 6 (by omega)
  refine ⟨hf, fun n => (hp n).trans ?_⟩
  simp only [Bool.decide_and, Bool.and_assoc]

theorem clearStages_spec (k : Bank) : k.clearStages = { k with preds := k.clearStages.preds }
    ∧ ∀ n, k.clearStages.preds.getLsbD n = if 10 ≤ n ∧ n < 16 then false else k.preds.getLsbD n :=
  foldl_setPred (fun _ => false) k 6 (by omega)

/-! ### The end events of loops (R50) -/

theorem clearStages_loops (k : Bank) (x : List LoopEntry) :
    ({ k with loops := x } : Bank).clearStages = { k.clearStages with loops := x } := rfl

/-- The end events are those of the entries given: the stack in the bank is not read. -/
theorem loopEnds_loops (hdr next : Word) (stop : Bool) (n : Nat) (ls : List LoopEntry) (k : Bank) (x : List LoopEntry) :
    loopEnds hdr next stop n ls { k with loops := x } = loopEnds hdr next stop n ls k := by
  induction n generalizing ls k with
  | zero => rfl
  | succ n ih =>
    cases ls with
    | nil => rfl
    | cons e ls =>
      simp only [loopEnds]
      split
      · rfl
      · split
        · rfl
        · split
          · rfl
          · split
            · rw [clearStages_loops, ih]
            · exact ih ls k

theorem fires_iff (e : LoopEntry) (hdr next : Word) :
    e.fires hdr next = true ↔ e.start.toNat ≤ hdr.toNat ∧ hdr.toNat < e.stopAt.toNat ∧ e.stopAt.toNat ≤ next.toNat := by
  simp [LoopEntry.fires, BitVec.ule, BitVec.ult, and_assoc]

section
variable {e : LoopEntry} {hdr next : Word} {stop : Bool} (n : Nat) (ls : List LoopEntry) (k : Bank)

/-- An entry whose range the bundle does not leave keeps its place, and those behind it theirs. -/
theorem loopEnds_stays (h : ¬e.fires hdr next = true) :
    loopEnds hdr next stop (n + 1) (e :: ls) k = { bank := { k with loops := e :: ls } } := by
  simp [loopEnds, h]

/-- An entry with a pass to come turns back to its START. -/
theorem loopEnds_turns (h : e.fires hdr next = true)
    (hp : (e.cut stop).e.toNat + 2 < (e.cut stop).lim.toNat + (e.cut stop).stages) :
    let d := { e.cut stop with e := (e.cut stop).e + 1 }
    loopEnds hdr next stop (n + 1) (e :: ls) k =
      { bank := ({ k with loops := d :: ls } : Bank).passStages d, pc := some d.start } := by
  have hp' : (e.cut stop).e.toNat + 1 < (e.cut stop).lim.toNat + (e.cut stop).stages - 1 := by omega
  simp [loopEnds, h, hp']

/-- An entry that a stop request has cut short of N stops the core. -/
theorem loopEnds_stops (h : e.fires hdr next = true)
    (hp : ¬(e.cut stop).e.toNat + 2 < (e.cut stop).lim.toNat + (e.cut stop).stages)
    (hs : (e.cut stop).stop = true) (hl : (e.cut stop).lim.toNat < (e.cut stop).n.toNat) :
    loopEnds hdr next stop (n + 1) (e :: ls) k =
      { bank := { k with loops := e.cut stop :: ls }, pc := some (e.cut stop).start, stops := true } := by
  have hp' : ¬(e.cut stop).e.toNat + 1 < (e.cut stop).lim.toNat + (e.cut stop).stages - 1 := by omega
  simp [loopEnds, h, hp', hs, hl, BitVec.ult]

/-- Another is popped, and the end event of the next entry comes about. -/
theorem loopEnds_pops (h : e.fires hdr next = true)
    (hp : ¬(e.cut stop).e.toNat + 2 < (e.cut stop).lim.toNat + (e.cut stop).stages)
    (hs : ¬((e.cut stop).stop = true ∧ (e.cut stop).lim.toNat < (e.cut stop).n.toNat)) :
    loopEnds hdr next stop (n + 1) (e :: ls) k =
      loopEnds hdr next stop n ls (if (e.cut stop).staged then k.clearStages else k) := by
  have hp' : ¬(e.cut stop).e.toNat + 1 < (e.cut stop).lim.toNat + (e.cut stop).stages - 1 := by omega
  have hs' : ((e.cut stop).stop && (e.cut stop).lim.ult (e.cut stop).n) = false := by
    simpa [BitVec.ult] using hs
  simp [loopEnds, h, hp', hs']

end

theorem cut_start (e : LoopEntry) (stop : Bool) : (e.cut stop).start = e.start := by
  unfold LoopEntry.cut
  split <;> rfl

theorem cut_staged (e : LoopEntry) (stop : Bool) : (e.cut stop).staged = e.staged := by
  unfold LoopEntry.cut
  split <;> rfl

/-! ### The next address -/

/-- The bank of a bundle's sequencer as its slots leave it, with the stages of its innermost entry. -/
def closing (b : Bun) : Bank :=
  let k := if b.clears then (b.cur.bank b.hnd).clearStages else b.cur.bank b.hnd
  if b.stages then (match k.loops with
    | e :: _ => k.passStages e
    | [] => k) else k

theorem setBank_setBank (c : Core) (hnd : Bool) (k k' : Bank) : (c.setBank hnd k).setBank hnd k' = c.setBank hnd k' := by
  cases hnd <;> rfl

theorem advance_target {b : Bun} {a : Word} (h : b.target = some a) :
    b.advance = ((b.cur.setBank b.hnd { closing b with pc := a }).bubble.bubble, false) := by
  simp only [Bun.advance, h, setBank_setBank]
  rfl

/-- The end events of a bundle's loops in reach. -/
def ending (b : Bun) : LoopEnd :=
  loopEnds b.hdr b.next (b.cur.stopReq && !b.hnd) ((closing b).loops.length - b.cur.frozen b.hnd) (closing b).loops (closing b)

theorem advance_ending {b : Bun} (h : b.target = none) :
    b.advance = (b.cur.setBank b.hnd { (ending b).bank with pc := (ending b).pc.getD b.next }, (ending b).stops) := by
  have he : (b.cur.setBank b.hnd (closing b)).endLoops b.hnd b.hdr b.next
      ((b.cur.setBank b.hnd (closing b)).stopReq && !b.hnd) = ending b := by
    have hs : (b.cur.setBank b.hnd (closing b)).stopReq = b.cur.stopReq := by cases b.hnd <;> rfl
    have hf : (b.cur.setBank b.hnd (closing b)).frozen b.hnd = b.cur.frozen b.hnd := by cases b.hnd <;> rfl
    simp only [Core.endLoops, Laws.bank_setBank, hs, hf, if_true]
    rfl
  simp only [Bun.advance, h]
  rw [← he, setBank_setBank]
  rfl

/-! ### Holds -/

@[simp] theorem joinPage_cores (s : State) (cl ctx dva : Nat) (j : Walk → Walk) : (s.joinPage cl ctx dva j).cores = s.cores := by
  unfold State.joinPage
  dsimp only
  split <;> rfl

@[simp] theorem joinPage_held (s : State) (cl ctx dva : Nat) (j : Walk → Walk) : (s.joinPage cl ctx dva j).held = s.held := by
  unfold State.joinPage
  dsimp only
  split <;> rfl

theorem startExpansion_frame (s : State) (ctx k : Nat) (core : Option Nat) (dva subst : Nat) :
    (s.startExpansion ctx k core dva subst).cores = s.cores ∧ (s.startExpansion ctx k core dva subst).held = s.held := by
  unfold State.startExpansion
  split <;> exact ⟨rfl, rfl⟩

theorem logFails_frame (s : State) (core kind dva : Nat) :
    (s.logFails core kind dva).cores = s.cores ∧ (s.logFails core kind dva).held = s.held := by
  unfold State.logFails State.accessFault
  dsimp only
  split <;> split <;> simp [State.condemn]

/-- Starting a hold leaves the bundles held as they are, and every core but for the arrival bit of a BARS. -/
theorem startHold_frame (s : State) (b : Bun) (h : Hold) :
    (s.startHold b h).held = s.held ∧ ((∀ g, h ≠ .bars g) → (s.startHold b h).cores = s.cores) := by
  cases h with
  | bars t =>
    refine ⟨?_, fun hn => absurd rfl (hn t)⟩
    simp only [State.startHold]
    split <;> rfl
  | steal m =>
    simp only [State.startHold]
    split
    · exact ⟨rfl, fun _ => rfl⟩
    · split <;> exact ⟨rfl, fun _ => rfl⟩
  | translate ea acc => exact ⟨joinPage_held .., fun _ => joinPage_cores ..⟩
  | expand k start ea subst =>
    cases start with
    | false => exact ⟨rfl, fun _ => rfl⟩
    | true =>
      obtain ⟨hc, hh⟩ := startExpansion_frame s (s.coreOf b.core).ctx k (some b.core) ea.toNat subst
      exact ⟨hh, fun _ => hc⟩
  | logFault k a =>
    obtain ⟨hc, hh⟩ := logFails_frame s b.core k a
    exact ⟨hh, fun _ => hc⟩
  | tfence | drain | release | bara | barw | waitx | testx | enq | waitev | halt | untilClk | log =>
    exact ⟨rfl, fun _ => rfl⟩

theorem startHold_bars {s : State} {b : Bun} (hw : b.was = []) (g : Nat) :
    s.startHold b (.bars g) = s.onCore b.core fun c => { c with arr := c.arr ||| (1#8 <<< g) } := by
  simp [State.startHold, hw]

/-- A wait under a pending stop request of the main sequencer, none of its bundle done ahead: there the core stops. -/
def stopsAt (s : State) (h : Hold) : Prop :=
  h.isWait = true ∧ s.bun.hnd = false ∧ s.bun.mem = none ∧ (s.coreOf s.bun.core).stopReq = true

theorem stopsAt_iff (s : State) (h : Hold) :
    (h.isWait && !s.bun.hnd && s.bun.mem.isNone && ((s.dropHeld s.bun.core s.bun.hnd).coreOf s.bun.core).stopReq) = true
      ↔ stopsAt s h := by
  simp [stopsAt, dropHeld_coreOf, and_assoc]

theorem holdBundle_stops {s : State} {h : Hold} (hs : stopsAt s h) :
    s.holdBundle h = (s.dropHeld s.bun.core s.bun.hnd).onCore s.bun.core fun c => { c with stopped := some .waiting } := by
  simp only [State.holdBundle, (stopsAt_iff s h).2 hs, if_true]

/-- The bundle in flight as it is kept for a hold. -/
def keeps (b : Bun) (h : Hold) : Held :=
  ⟨b.core, b.hnd, b.hdr, b.pre, h, b.was, b.since, b.tick, b.first, b.mem, b.sent, b.coal, b.runs, b.answer, b.xlf⟩

theorem holdBundle_keeps {s : State} {h : Hold} (hs : ¬stopsAt s h) :
    s.holdBundle h = { (s.dropHeld s.bun.core s.bun.hnd).startHold s.bun h with
      held := ((s.dropHeld s.bun.core s.bun.hnd).startHold s.bun h).held ++ [keeps s.bun h] } := by
  simp only [State.holdBundle, mt (stopsAt_iff s h).1 hs]
  rfl

/-! ### A bundle that commits -/

theorem lateFault_nil {s : State} {b : Bun} (h : b.raised = []) : s.lateFault b = s := by
  have : (lateKinds.find? fun k => b.raised.any fun r => r.kind == k) = none := by simp [h, List.find?_eq_none]
  simp only [State.lateFault, this]

/-- A bundle that raises nothing and has nothing to do outside its core commits as a whole. -/
theorem finish_passes {s : State} (hp : passes s.bun) (hb : s.bun.brk = none) (hl : s.bun.logs = 0) (ho : s.bun.post = []) :
    s.finish = (s.dropHeld s.bun.core s.bun.hnd).setCore s.bun.core (committing s.bun).stepped := by
  obtain ⟨hr, hs, hh⟩ := hp
  rw [finish_commits (by simp [Bun.stalled, hs]) (stops_eq_none_of_reports (reports_eq_none_of_nil hr)) hb hh hl,
    commitBundle_quiet ho (by simp [hr]), lateFault_nil hr]

theorem stepped_of_free {c : Core} (h : c.dbg.step = none) : c.stepped = { c with dbg := { c.dbg with skip := false } } := by
  simp only [Core.stepped, h]

theorem committing_stepped {b : Bun} (h : b.cur.dbg.step = none) :
    (committing b).stepped = { committing b with dbg := { (committing b).dbg with skip := false } } := by
  refine stepped_of_free ?_
  have := scopeOfEnd_committing b
  simp only [scopeOfEnd, Prod.mk.injEq] at this
  rw [this.2.2, h]

/-- The core that a commit leaves where no step is counted. -/
def finished (b : Bun) (c : Core) (cut : Bool) : Core :=
  { leaving b c cut with dbg := { (leaving b c cut).dbg with skip := false } }

theorem coreOf_finish_passes {s : State} (hp : passes s.bun) (hb : s.bun.brk = none) (hl : s.bun.logs = 0)
    (ho : s.bun.post = []) (hd : s.bun.cur.dbg.step = none) {c : Core} {cut : Bool} (ha : s.bun.advance = (c, cut)) :
    s.finish.coreOf s.bun.core = finished s.bun c cut := by
  rw [finish_passes hp hb hl ho, committing_stepped hd, Laws.coreOf_setCore, if_pos rfl, committing, ha]
  rfl

/-! ### The ends of loops at a commit -/

theorem ending_of_frozen {b : Bun} (h : (closing b).loops.length ≤ b.cur.frozen b.hnd) : ending b = { bank := closing b } := by
  rw [ending, Nat.sub_eq_zero_of_le h]
  rfl

theorem ending_cons {b : Bun} {e : LoopEntry} {ls : List LoopEntry} (hl : (closing b).loops = e :: ls)
    (h : b.cur.frozen b.hnd < (closing b).loops.length) :
    ending b = loopEnds b.hdr b.next (b.cur.stopReq && !b.hnd) (ls.length - b.cur.frozen b.hnd + 1) (e :: ls) (closing b) := by
  have hn : (closing b).loops.length - b.cur.frozen b.hnd = ls.length - b.cur.frozen b.hnd + 1 := by
    rw [hl] at h ⊢
    simp only [List.length_cons] at h ⊢
    omega
  rw [ending, hn, hl]

/-- A bundle ends as the one that leaves another core behind with the same next core. -/
theorem finish_same_advance {s : State} (hp : passes s.bun) (hb : s.bun.brk = none) (hl : s.bun.logs = 0)
    (ho : s.bun.post = []) {c : Core}
    (ha : ({ s.bun with cur := c, clears := false, stages := false } : Bun).advance = s.bun.advance) :
    s.finish =
      { State.finish { s with bun := { s.bun with cur := c, clears := false, stages := false } } with bun := s.bun } := by
  rw [finish_passes hp hb hl ho,
    finish_passes (s := { s with bun := { s.bun with cur := c, clears := false, stages := false } }) hp hb hl ho,
    committing, committing, ha]
  rfl

/-- The bank behind a popped entry, its stages cleared. -/
def popped (k : Bank) (e : LoopEntry) (ls : List LoopEntry) : Bank :=
  if e.staged then ({ k with loops := ls } : Bank).clearStages else { k with loops := ls }

theorem popped_loops (k : Bank) (e : LoopEntry) (ls : List LoopEntry) :
    (popped k e ls).loops = ls ∧ popped k e ls = { (if e.staged then k.clearStages else k) with loops := ls } := by
  unfold popped
  split
  · rw [clearStages_loops]
    exact ⟨rfl, rfl⟩
  · exact ⟨rfl, rfl⟩

/-- The end events behind a pop are those of the bundle whose core has the entry popped. -/
theorem advance_popped {b : Bun} {e : LoopEntry} {ls : List LoopEntry} (ht : b.target = none)
    (hl : (closing b).loops = e :: ls) (h : b.cur.frozen b.hnd < (closing b).loops.length)
    (hf : e.fires b.hdr b.next = true)
    (hp : let d := e.cut (b.cur.stopReq && !b.hnd); ¬d.e.toNat + 2 < d.lim.toNat + d.stages)
    (hs : let d := e.cut (b.cur.stopReq && !b.hnd); ¬(d.stop = true ∧ d.lim.toNat < d.n.toNat)) :
    ({ b with cur := b.cur.setBank b.hnd (popped (closing b) e ls), clears := false, stages := false } : Bun).advance =
      b.advance := by
  obtain ⟨hloops, hpop⟩ := popped_loops (closing b) e ls
  have hc : closing { b with cur := b.cur.setBank b.hnd (popped (closing b) e ls), clears := false, stages := false } =
      popped (closing b) e ls := by
    show (b.cur.setBank b.hnd (popped (closing b) e ls)).bank b.hnd = _
    rw [Laws.bank_setBank, if_pos rfl]
  have hend : ending { b with cur := b.cur.setBank b.hnd (popped (closing b) e ls), clears := false, stages := false } =
      ending b := by
    have hfr : (b.cur.setBank b.hnd (popped (closing b) e ls)).frozen b.hnd = b.cur.frozen b.hnd := by cases b.hnd <;> rfl
    have hst : (b.cur.setBank b.hnd (popped (closing b) e ls)).stopReq = b.cur.stopReq := by cases b.hnd <;> rfl
    rw [ending_cons hl h, loopEnds_pops _ _ _ hf hp hs, cut_staged]
    simp only [ending, hc, hfr, hst, hloops]
    rw [hpop, loopEnds_loops]
    rfl
  rw [advance_ending ht, advance_ending (b := { b with cur := _, clears := false, stages := false }) ht, hend, setBank_setBank]
  rfl

/-! ### The statement -/

theorem stopping_eq (b : Bun) (c : Core) (cut : Bool) :
    stopping b c cut = if cut then { c with stopped := some .loopCut }
      else if b.yields = true ∧ b.hnd = false ∧ c.stopReq = true then { c with stopped := some .yielded } else c := by
  simp only [stopping, Bool.and_eq_true, Bool.not_eq_true', and_assoc]

theorem frozen_eq (c : Core) (hnd : Bool) :
    c.frozen hnd = if hnd = false ∧ c.intrap = true then c.traprec.toNat / 2 ^ 16 % 8 else 0 := by
  simp only [Core.frozen, Bool.and_eq_true, Bool.not_eq_true']

theorem cut_eq (e : LoopEntry) (c : Core) (hnd : Bool) :
    e.cut (c.stopReq && !hnd) = if hnd = false ∧ c.stopReq = true ∧ e.stop = false then
      { e with stop := true, lim := if e.n.toNat ≤ e.e.toNat + 1 then e.n else e.e + 1 } else e := by
  have h : (c.stopReq && !hnd && !e.stop) = true ↔ hnd = false ∧ c.stopReq = true ∧ e.stop = false := by
    simp only [Bool.and_eq_true, Bool.not_eq_true']
    tauto
  simp only [LoopEntry.cut, h]
  rfl

theorem finish_stall_frame {s : State} (hr : s.bun.raised = []) (hw : s.bun.wake = []) (hs : s.bun.stall = true) :
    s.finish.held = s.held ∧ ∀ j, s.finish.coreOf j = s.coreOf j := by
  rw [finish_stalled (by simp [Bun.stalled, hr, hs]), hw]
  refine ⟨rfl, fun j => ?_⟩
  rw [Laws.coreOf_onCore]
  split
  · next h => rw [h]; rfl
  · rfl

theorem finish_hold {s : State} {h : Hold} (hr : s.bun.raised = []) (hb : s.bun.brk = none) (hs : s.bun.stall = false)
    (hh : s.bun.hold = some h) : s.finish = s.holdBundle h :=
  finish_holds (by simp [Bun.stalled, hs]) (stops_eq_none_of_reports (reports_eq_none_of_nil hr)) hb hh

theorem coreOf_of_cores {s t : State} (h : t.cores = s.cores) (j : Nat) : t.coreOf j = s.coreOf j := by
  simp only [State.coreOf, h]

theorem holdBundle_keeps_frame {s : State} {h : Hold} (hs : ¬stopsAt s h) :
    (s.holdBundle h).held = (s.dropHeld s.bun.core s.bun.hnd).held ++ [keeps s.bun h]
      ∧ ((∀ g, h ≠ .bars g) → ∀ j, (s.holdBundle h).coreOf j = s.coreOf j)
      ∧ ∀ g, h = .bars g → s.bun.was = [] → (s.holdBundle h).coreOf s.bun.core =
          { s.coreOf s.bun.core with arr := (s.coreOf s.bun.core).arr ||| (1#8 <<< g) } := by
  obtain ⟨hheld, hcores⟩ := startHold_frame (s.dropHeld s.bun.core s.bun.hnd) s.bun h
  rw [holdBundle_keeps hs]
  refine ⟨congrArg (· ++ _) hheld, fun hg j => coreOf_of_cores (t := State.mk ..) (hcores hg) j, ?_⟩
  rintro g rfl hwas
  show ((s.dropHeld s.bun.core s.bun.hnd).startHold s.bun (.bars g)).coreOf s.bun.core = _
  rw [startHold_bars hwas, Laws.coreOf_onCore, if_pos rfl]
  rfl

theorem holdBundle_stops_frame {s : State} {h : Hold} (hs : stopsAt s h) :
    (s.holdBundle h).held = (s.dropHeld s.bun.core s.bun.hnd).held
      ∧ (s.holdBundle h).coreOf s.bun.core = { s.coreOf s.bun.core with stopped := some .waiting }
      ∧ ∀ j, j ≠ s.bun.core → (s.holdBundle h).coreOf j = s.coreOf j := by
  rw [holdBundle_stops hs]
  refine ⟨rfl, ?_, fun j hj => ?_⟩
  · rw [Laws.coreOf_onCore, if_pos rfl]
    rfl
  · rw [Laws.coreOf_onCore, if_neg (Ne.symm hj)]
    rfl

theorem finish_passes_frame {s : State} (hp : passes s.bun) (hb : s.bun.brk = none) (hl : s.bun.logs = 0)
    (ho : s.bun.post = []) : s.finish.held = (s.dropHeld s.bun.core s.bun.hnd).held
      ∧ ∀ j, j ≠ s.bun.core → s.finish.coreOf j = s.coreOf j := by
  rw [finish_passes hp hb hl ho]
  refine ⟨rfl, fun j hj => ?_⟩
  rw [Laws.coreOf_setCore, if_neg (Ne.symm hj)]
  rfl

/-- Settles O57. -/
theorem bundleEnds : Obligations.BundleEnds := by
  refine ⟨fun k e n => ⟨(setStages_spec k e).2 n, (clearStages_spec k).2 n, (setStages_spec k e).1, (clearStages_spec k).1⟩,
    fun s hr hb hw => ?_⟩
  intro b t other staged ended fin k0 k1 k after at_ frozen leaves
  refine ⟨finish_stall_frame hr hw, fun h hs hh hq => ?_, fun h hs hh hq hm hme hreq => ?_, fun hp hl ho hd => ?_⟩
  · have hns : ¬stopsAt s h := fun ⟨hi, hhnd, hm, hreq⟩ => Bool.false_ne_true ((hq hi hhnd hm).symm.trans hreq)
    have := holdBundle_keeps_frame hns
    rwa [← finish_hold hr hb hs hh] at this
  · have := holdBundle_stops_frame (s := s) (h := h) ⟨hq, hm, hme, hreq⟩
    rwa [← finish_hold hr hb hs hh] at this
  obtain ⟨hheld, hothers⟩ := finish_passes_frame hp hb hl ho
  have hcore {c : Core} {cut : Bool} := coreOf_finish_passes (c := c) (cut := cut) hp hb hl ho hd
  have hended (c : Core) : c.endRun = ended c := by
    show _ = match c.run with | none => c | some r => _
    unfold Core.endRun
    cases c.run <;> rfl
  have hfin (c : Core) (cut : Bool) : finished s.bun c cut = fin c cut := by
    simp only [finished, leaving, stopping_eq, returning, departing, hended]
    rfl
  have hfrozen : s.bun.cur.frozen s.bun.hnd = frozen := frozen_eq ..
  refine ⟨hheld, hothers, fun a ht => (hcore (advance_target ht)).trans (hfin ..), fun ht hlen => ?_, fun e ls ht hls hlen => ?_⟩
  · rw [hcore (advance_ending ht), hfin, ending_of_frozen (b := s.bun) (hlen.trans_eq hfrozen.symm)]
    rfl
  intro cuts d pop u
  have hd : e.cut (s.bun.cur.stopReq && !s.bun.hnd) = d := cut_eq ..
  have hleaves : e.fires s.bun.hdr s.bun.next = true ↔ leaves e := fires_iff ..
  have hstart : d.start = e.start := hd ▸ cut_start ..
  clear_value d
  subst hd
  have hend := ending_cons (b := s.bun) hls (hfrozen.trans_lt hlen)
  refine ⟨fun hn => ?_, fun hf hp' => ?_, fun hf hp' hs hlim => ?_, fun hf hp' hs => ?_⟩
  · rw [hcore (advance_ending ht), hfin, hend, loopEnds_stays _ _ _ (mt hleaves.1 hn), ← hls]
    rfl
  · rw [hcore (advance_ending ht), hfin, hend, loopEnds_turns _ _ _ (hleaves.2 hf) hp']
    rw [← hstart]
    rfl
  · rw [hcore (advance_ending ht), hfin, hend, loopEnds_stops _ _ _ (hleaves.2 hf) hp' hs hlim, ← hstart]
    rfl
  · exact finish_same_advance hp hb hl ho (advance_popped ht hls (hfrozen.trans_lt hlen) (hleaves.2 hf) hp' hs)

end Sys2Proof.Proofs
end

section
/-! PROOFS. A bundle of one instruction that finds a source empty stalls or traps (R16, R18, R324). -/

namespace Sys2Proof.Proofs

open Sys2Proof Sys2Proof.Machine Sys2Proof.Safety

/-! ### The sources of one slot -/

/-- A slot none of whose empty sources has its wait bit set stalls the bundle. -/
theorem checkSources_stalls {s : State} {k : Slot} {i : Instr} {opc : Nat} {f : Fields} (hp : i.slotPart = some (opc, f))
    (hg : guardOf f s = true) (hr : emptyRefs s.bun.pre s.bun.hnd opc f ≠ [])
    (hw : ∀ r ∈ emptyRefs s.bun.pre s.bun.hnd opc f, r.wait = false) : checkSources s (k, i) = s.stalls := by
  obtain ⟨r, hmem⟩ := List.exists_mem_of_ne_nil _ hr
  have hfind : ((emptyRefs s.bun.pre s.bun.hnd opc f).find? fun r => r.wait) = none := by
    simpa [List.find?_eq_none] using hw
  have hany : ((emptyRefs s.bun.pre s.bun.hnd opc f).any fun r => !r.wait) = true :=
    List.any_eq_true.2 ⟨r, hmem, by simp [hw r hmem]⟩
  simp [checkSources, hp, hg, hfind, hany]

/-- One with its wait bit set raises EMPTY with the first such source; another beside it stalls the bundle too. -/
theorem checkSources_raises {s : State} {k : Slot} {i : Instr} {opc : Nat} {f : Fields} (hp : i.slotPart = some (opc, f))
    (hg : guardOf f s = true) (hraised : s.bun.raised = []) (hst : s.bun.stall = false) {r : SrcRef} {before after : List SrcRef}
    (hr : emptyRefs s.bun.pre s.bun.hnd opc f = before ++ r :: after) (hw : r.wait = true)
    (hb : ∀ q ∈ before, q.wait = false) :
    checkSources s (k, i) = { s with bun := { s.bun with
      raised := [⟨kEMPTY, f.slot, BitVec.ofNat 64 (f.slot.num + r.field * 8 + r.reg * 2 ^ 8), 0, 0⟩],
      stall := (emptyRefs s.bun.pre s.bun.hnd opc f).any fun q => !q.wait } } := by
  have hfind : ((emptyRefs s.bun.pre s.bun.hnd opc f).find? fun r => r.wait) = some r :=
    List.find?_eq_some_iff_append.2 ⟨hw, before, after, hr, by simpa using hb⟩
  simp only [checkSources, hp, hg, hfind]
  cases hany : (emptyRefs s.bun.pre s.bun.hnd opc f).any fun q => !q.wait
  · simp [State.raise, hraised, hst]
  · simp [State.raise, State.stalls, hraised]

/-! ### A bundle of one slot -/

/-- A bundle of one slot, none of it done ahead of a handler run, is that slot, whether it stands in CTL or not. -/
theorem runBundle_one {e : Slot × Instr} {u t : State} (hu : u.bun.mem = none) (ht : t.bun.mem = none)
    (h : runSlots [e] u = .next t) : runBundle [e] u = .next t := by
  have hrew : t.rewind = t := by simp [State.rewind, ht]
  have hrew' : u.rewind = u := by simp [State.rewind, hu]
  have hres (s : State) : s.restore t = t := by simp [State.restore, ht]
  by_cases hk : e.1 = .ctl
  · simp only [runBundle, List.filter_cons, hk, List.filter_nil, decide_true, if_true, h, hrew, ne_eq, not_true_eq_false,
      decide_false, Bool.false_eq_true, if_false, runSlots, hres]
  · simp only [runBundle, List.filter_cons, hk, List.filter_nil, decide_false, Bool.false_eq_true, if_false, runSlots, hrew',
      ne_eq, not_false_eq_true, decide_true, if_true, h, hres]

/-- The bundle of one slot whose empty source has its wait bit set: it ends as its raises say. -/
theorem issue_raises {s u w : State} {i : Instr} {f : Fields} (hwas : s.bun.was = [])
    (hu : checkSources s (f.slot, i) = u) (hm : u.bun.mem = none) (hwm : w.bun.mem = none) (hr : u.bun.raised ≠ [])
    (hw : runSlots [(f.slot, i)] u = .next w) : s.issue [(f.slot, i)] = .next w.finish := by
  have hne : u.bun.raised.isEmpty = false := by simpa using hr
  simp only [State.issue, hwas, List.isEmpty_nil, if_true, List.foldl_cons, List.foldl_nil, hu, hne, Bool.and_false,
    Bool.false_eq_true, if_false, List.isEmpty_cons, runBundle_one hm hwm hw]

/-- With a source empty, a slot leaves the kinds that come before EMPTY, unless they are judged by the value it lacks. -/
theorem runSlots_empty {u v : State} {i : Instr} {opc : Nat} {f : Fields} (hp : i.slotPart = some (opc, f))
    (hg : guardOf f u = true) (hr : emptyRefs u.bun.pre u.bun.hnd opc f ≠ []) (hv : exec i u = .next v) :
    runSlots [(f.slot, i)] u = .next (if u.valueJudged opc f then u else u.onlyEarly v) := by
  have he : emptySources u.bun.pre u.bun.hnd opc f = true := by simpa [emptySources] using hr
  simp only [runSlots, hp, hg, he, Bool.and_self, if_true, hv]
  split <;> rfl

/-! ### What it reports -/

/-- Kinds that come before EMPTY (R18). -/
def isEarly (r : Raise) : Bool := r.kind == kILLB || r.kind == kPRIV

theorem isEarly_iff (r : Raise) : isEarly r = true ↔ r.kind = kILLB ∨ r.kind = kPRIV := by simp [isEarly]

theorem onlyEarly_raised {u v : State} {more : List Raise} (h : v.bun.raised = u.bun.raised ++ more) :
    (u.onlyEarly v).bun.raised = u.bun.raised ++ more.filter isEarly := by
  show u.bun.raised ++ (v.bun.raised.drop u.bun.raised.length).filter isEarly = _
  rw [h, List.drop_left]

theorem onlyEarly_of_none {u v : State} (h : ∀ r ∈ v.bun.raised, ¬isEarly r = true) : u.onlyEarly v = u := by
  have hf : (v.bun.raised.drop u.bun.raised.length).filter isEarly = [] :=
    List.filter_eq_nil_iff.2 fun r hr => h r (List.mem_of_mem_drop hr)
  show { u with bun := { u.bun with raised := u.bun.raised ++ (v.bun.raised.drop u.bun.raised.length).filter isEarly } } = u
  rw [hf, List.append_nil]

theorem reports_early {b : Bun} (h : ∃ r ∈ b.raised, isEarly r = true) :
    ∃ k, b.reports = some k ∧ (k = kILLB ∨ k = kPRIV) := by
  obtain ⟨r, hr, he⟩ := h
  have hk := (isEarly_iff r).1 he
  by_cases hill : ∃ q ∈ b.raised, q.kind = kILLB
  · exact ⟨_, (find?_kind_iff kindOrder_nodup (before := []) rfl _).2 ⟨hill, fun _ _ => List.not_mem_nil⟩, .inl rfl⟩
  · refine ⟨_, (find?_kind_iff kindOrder_nodup (before := [kILLB]) rfl _).2
      ⟨⟨r, hr, hk.resolve_left fun h => hill ⟨r, hr, h⟩⟩, fun q hq hm => hill ⟨q, hq, List.mem_singleton.1 hm⟩⟩, .inr rfl⟩

theorem reports_empty {b : Bun} {r : Raise} (h : b.raised = [r]) (hk : r.kind = kEMPTY) : b.reports = some kEMPTY := by
  refine (find?_kind_iff kindOrder_nodup (before := [kILLB, kPRIV]) rfl _).2 ⟨⟨r, by simp [h], hk⟩, fun q hq => ?_⟩
  rw [h, List.mem_singleton] at hq
  rw [hq, hk]
  decide

theorem raisedMask_one (k : Nat) (j : Slot) (addr : Word) (a b : Nat) : raisedMask [⟨k, j, addr, a, b⟩] k = 2 ^ j.num := by
  simp only [raisedMask, List.any_cons, List.any_nil, BEq.rfl, Bool.true_and, Bool.or_false]
  cases j <;> rfl

theorem raisedFirst_one (r : Raise) : raisedFirst [r] r.kind = r := by
  simpa using (raisedFirst_lowest (rs := [r]) ⟨r, List.mem_singleton_self r, rfl⟩).1

/-! ### The statement

In a namespace of its own: the theorem would hide the function `Machine.emptySources` from later proofs. -/

namespace Sources

/-- Settles O56: the stall is a branch of `finish`; behind a trap's wait bit the slot either raises a kind that comes first,
which ends the launch, or leaves EMPTY alone, which enters the handler. -/
theorem emptySources : Obligations.EmptySources := by
  intro s i opc f hp ⟨hraised, hst, hh⟩ hwas hm hg refs c hr
  refine ⟨fun hw hwake => ?_, ?_⟩
  · refine ⟨s.stalls.finish, ?_, finish_stall_frame (s := s.stalls) hraised hwake rfl⟩
    have hc : checkSources s (f.slot, i) = s.stalls := checkSources_stalls hp hg hr hw
    simp [State.issue, hwas, hc, State.stalls, hraised]
  intro r before after hrefs hwait hb at_ u early
  have hu : checkSources s (f.slot, i) = u := checkSources_raises hp hg hraised hst hrefs hwait hb
  have hempty (w : State) (hw : ∃ more, w.bun.raised = u.bun.raised ++ more) : ∃ r ∈ w.bun.raised, r.kind = kEMPTY := by
    obtain ⟨more, hw⟩ := hw
    exact ⟨⟨kEMPTY, f.slot, at_, 0, 0⟩, by rw [hw]; exact List.mem_append_left _ (List.mem_singleton_self _), rfl⟩
  have hrun {v : State} (hv : exec i u = .next v) := runSlots_empty (u := u) hp hg hr hv
  have hholds (w : State) (hw : w.bun.hold = s.bun.hold) (k : Nat) : ∀ h, w.bun.hold = some h → h.outranks k = false :=
    fun h hx => by rw [hw, hh] at hx; cases hx
  refine ⟨fun g l hj hgang hl hf v hv ⟨more, hmore, q, hq, hearly⟩ => ?_, fun hn hhnd hvec hint => ?_⟩
  · have hw := onlyEarly_raised hmore
    have hmem : q ∈ (u.onlyEarly v).bun.raised :=
      hw ▸ List.mem_append_right _ (List.mem_filter.2 ⟨hq, (isEarly_iff q).2 hearly⟩)
    obtain ⟨k, hk, hkind⟩ := reports_early ⟨q, hmem, (isEarly_iff q).2 hearly⟩
    have hrun := (hrun hv).trans (congrArg _ (if_neg (by rw [show u.valueJudged opc f = false from hj]; decide)))
    have hfatal : ¬k ≤ kUNALIGN ∧ recoverable k = false := by rcases hkind with rfl | rfl <;> decide
    obtain ⟨addr, ill, hstop⟩ := stopBundle_fatal (s := u.onlyEarly v) hfatal.1 hfatal.2
    obtain ⟨-, l', x, ht, ha, -, hx, hxk, -⟩ := fatal_ends (s := u.onlyEarly v) (g := g) (l := l) hgang hl hf
      (u.onlyEarly v).bun.hnd k 0 (u.onlyEarly v).bun.hdr (raisedMask (u.onlyEarly v).bun.raised k) addr ill
    refine ⟨(u.onlyEarly v).finish, l', x, issue_raises hwas hu hm hm (List.cons_ne_nil _ _) hrun, ?_, ha, hx, hxk ▸ hkind⟩
    rw [finish_stopBundle hk (.inr (hempty _ ⟨_, hw⟩)) (hholds _ rfl k), hstop]
    exact ht
  · obtain ⟨v, hv, hstep⟩ := exec_of_slotPart hp u
    have hkeep : (if u.valueJudged opc f then u else u.onlyEarly v) = u := by
      split
      · rfl
      · next hj => exact onlyEarly_of_none fun q hq he => hn.resolve_left hj v hv q hq ((isEarly_iff q).1 he)
    have hrun := (hrun hv).trans (congrArg _ hkeep)
    have hk : u.bun.reports = some kEMPTY := reports_empty rfl rfl
    have hstop : u.finish = _ := (finish_stopBundle hk (.inr (hempty u ⟨[], (List.append_nil _).symm⟩)) (hholds _ rfl _)).trans
      (stopBundle_handler (by decide) hhnd hvec hint)
    have hmask : raisedMask u.bun.raised kEMPTY = 2 ^ f.slot.num := raisedMask_one ..
    have hfirst : raisedFirst u.bun.raised kEMPTY = ⟨kEMPTY, f.slot, at_, 0, 0⟩ := raisedFirst_one ⟨kEMPTY, f.slot, at_, 0, 0⟩
    refine ⟨u.finish, issue_raises hwas hu hm hm (List.cons_ne_nil _ _) hrun, fun k hk => ?_, _, rfl, ?_⟩
    · rw [hstop, Laws.coreOf_setCore, if_neg (Ne.symm hk)]
      rfl
    · rw [hstop, Laws.coreOf_setCore, if_pos rfl, hmask, hfirst]
      rfl

end Sources

end Sys2Proof.Proofs
end

section
/-! PROOFS. Clocks of a core, a fetch's fill, and the start of a handler run. -/

namespace Sys2Proof.Proofs

open Sys2Proof Sys2Proof.Machine Sys2Proof.Safety

/-! ### Maps and states -/

theorem mput_mput {α : Type} (m : List (Nat × α)) (k : Nat) (v w : α) : mput (mput m k v) k w = mput m k w := by
  induction m with
  | nil => simp [mput]
  | cons e r ih =>
    obtain ⟨j, u⟩ := e
    by_cases h : k < j
    · simp [mput, h]
    · by_cases hk : k = j
      · simp [mput, hk]
      · simp [mput, h, hk, ih]

theorem setCore_setCore (s : State) (k : Nat) (c d : Core) : (s.setCore k c).setCore k d = s.setCore k d := by
  simp only [State.setCore, mput_mput]

theorem setCore_onCore (s : State) (k : Nat) (c : Core) (g : Core → Core) : (s.setCore k c).onCore k g = s.setCore k (g c) := by
  rw [State.onCore, Laws.coreOf_setCore, if_pos rfl, setCore_setCore]

/-! ### The fill of a fetch (R23, R209 to R211) -/

/-- The state with other tables of translations: those of a core and the shared ones. -/
def withTlbs (s : State) (k : Nat) (tl : List TlbEntry) (tb : List (Nat × List TlbEntry)) : State :=
  { s.setCore k { s.coreOf k with tlb := tl } with sys := { s.sys with tlbs := tb } }

/-- A lookup that finds a translation changes the tables of translations alone; one that the core's own holds is not shared
anew. -/
theorem tlbHit_eq (s : State) (k : Nat) (e : TlbEntry) (hi : s.islandHeld k = false) :
    ∃ tl tb, s.tlbHit k e = withTlbs s k tl tb ∧ (e ∈ (s.coreOf k).tlb → tb = s.sys.tlbs) := by
  by_cases he : e ∈ (s.coreOf k).tlb
  · refine ⟨tlbPut 64 e (s.coreOf k).tlb, s.sys.tlbs, ?_, fun _ => rfl⟩
    simp [State.tlbHit, State.tlbFill, hi, he]
    rfl
  · refine ⟨tlbPut 64 e (s.coreOf k).tlb, mput s.sys.tlbs (k / 256) (tlbPut 16384 e (s.sharedTlb (k / 256))), ?_,
      fun h => absurd h he⟩
    simp [State.tlbHit, State.tlbFill, hi, he]
    rfl

theorem coreOf_withTlbs (s : State) (k : Nat) (tl : List TlbEntry) (tb : List (Nat × List TlbEntry)) :
    (withTlbs s k tl tb).coreOf k = { s.coreOf k with tlb := tl } := by
  show (s.setCore k _).coreOf k = _
  rw [Laws.coreOf_setCore, if_pos rfl]

theorem withTlbs_onCore (s : State) (k : Nat) (tl : List TlbEntry) (tb : List (Nat × List TlbEntry)) (g : Core → Core) :
    (withTlbs s k tl tb).onCore k g =
      { s.setCore k (g { s.coreOf k with tlb := tl }) with sys := { s.sys with tlbs := tb } } := by
  show ({ (s.setCore k { s.coreOf k with tlb := tl }).onCore k g with sys := _ } : State) = _
  rw [setCore_onCore]
  rfl

/-- A fetch whose translation is found and whose home answers reaches its line, and changes the tables alone. -/
theorem reach_fetch {s : State} {k ctx a : Nat} {e : TlbEntry} (ha : a < 2 ^ 56) (hi : s.islandHeld k = false)
    (hr : (s.coreOf k).refused = false) (hf : s.tlbFind k ctx a = some e) (hx : e.x = true)
    (hg : s.gate ctx (e.phys a) = .go) :
    s.reach (some k) ctx a accFetch false true = (.ok (e, e.phys a), s.tlbHit k e) := by
  obtain ⟨tl, tb, ht, -⟩ := tlbHit_eq s k e hi
  have hgate : (s.tlbHit k e).gate ctx (e.phys a) = .go := by rw [ht]; exact hg
  have hperm : (s.tlbHit k e).permFault e ctx accFetch false true = false := by
    simp [State.permFault, accWrites, accFetch, hx]
  have href : (s.tlbHit k e).refuses (some k) (e.phys a) = false := by
    simp [State.refuses, ht, coreOf_withTlbs, hr]
  simp only [State.reach, Nat.not_le.2 ha, if_false, State.xlateNow, hf, hperm, Bool.false_eq_true, hgate, href]

theorem fillLine_eq {s : State} {k : Nat} {hnd : Bool} {pc : Word} {e : TlbEntry} {bs : List Byte} {n : Nat}
    (ha : pc.toNat < 2 ^ 56) (hi : s.islandHeld k = false) (hr : (s.coreOf k).refused = false)
    (hrf : (s.coreOf k).refusing = none) (hf : s.tlbFind k (s.coreOf k).ctx (pc.toNat / 64 * 64) = some e) (hx : e.x = true)
    (hg : s.gate (s.coreOf k).ctx (e.phys (pc.toNat / 64 * 64)) = .go)
    (hp : s.homePaused (e.phys (pc.toNat / 64 * 64)) = false)
    (hd : s.dataRead (e.phys (pc.toNat / 64 * 64)) 64 0 false = .ok (bs, n)) :
    s.fillLine k hnd pc = (s.tlbHit k e).onCore k fun c => c.cacheLine (pc.toNat / 64 * 64) (wordsOf bs) := by
  have hline : pc.toNat / 64 * 64 < 2 ^ 56 := by omega
  have hmiss : (s.firstMiss k (s.coreOf k).ctx [pc.toNat / 64 * 64]) = none := by
    simp [State.firstMiss, hf]
  obtain ⟨tl, tb, ht, -⟩ := tlbHit_eq s k e hi
  have hpause : (s.tlbHit k e).homePaused (e.phys (pc.toNat / 64 * 64)) = false := by rw [ht]; exact hp
  have hoff : (s.tlbHit k e).heldOff k (s.coreOf k).ctx [pc.toNat / 64 * 64] = false := by
    simp [State.heldOff, ht, coreOf_withTlbs, hrf]
  have hread : (s.tlbHit k e).dataRead (e.phys (pc.toNat / 64 * 64)) 64 0 false = .ok (bs, n) := by rw [ht]; exact hd
  unfold State.fillLine
  simp only [hmiss, Option.isSome_none, Bool.false_eq_true, if_false, reach_fetch hline hi hr hf hx hg, hpause, hoff,
    Bool.or_false, hread]

/-- A line that has entered the cache is found there. -/
theorem cacheLine_lineWords (c : Core) (pc : Word) (ws : List IWord) :
    (c.cacheLine (pc.toNat / 64 * 64) ws).lineWords pc = some (ws.drop (pc.toNat % 64 / 4)) := by
  have ha : (BitVec.ofNat 64 (pc.toNat / 64 * 64)).toNat = pc.toNat / 64 * 64 := by
    rw [BitVec.toNat_ofNat]
    have := pc.isLt
    omega
  simp [Core.lineWords, Core.cacheLine, ha]

/-! ### The start of a handler run (R174) -/

theorem heldMain_all {s : State} {k : Nat} {p : Held → Bool} (h : ∀ x ∈ s.held, x.core = k → x.hnd = false → p x = true) :
    (s.heldMain k).all p = true := by
  unfold State.heldMain
  cases hf : s.held.find? fun h => h.core == k && !h.hnd with
  | none => rfl
  | some x =>
    have hx := List.find?_some hf
    simp only [Bool.and_eq_true, beq_iff_eq, Bool.not_eq_true'] at hx
    exact h x (List.mem_of_find?_eq_some hf) hx.1 hx.2

/-- The main bundle of a core that is held at issue, where there is one. -/
theorem heldMain_some {s : State} {k : Nat} (h : ∃ x ∈ s.held, x.core = k ∧ x.hnd = false) :
    ∃ x ∈ s.held, s.heldMain k = some x ∧ x.core = k ∧ x.hnd = false := by
  obtain ⟨y, hy, hk, hh⟩ := h
  cases hf : s.held.find? fun h => h.core == k && !h.hnd with
  | none => exact absurd (List.find?_eq_none.1 hf y hy) (by simp [hk, hh])
  | some x =>
    have hx := List.find?_some hf
    simp only [Bool.and_eq_true, beq_iff_eq, Bool.not_eq_true'] at hx
    exact ⟨x, List.mem_of_find?_eq_some hf, hf, hx.1, hx.2⟩

/-- A result without the register that it was on its way to. -/
def cutDst (hnd : Bool) (file : RFile) (n : Nat) (p : Pend) : Pend := if p.names hnd file n then { p with dst := none } else p

theorem cancel_pend (c : Core) (hnd : Bool) (file : RFile) (n : Nat) :
    (c.cancel hnd file n).pend = c.pend.map (cutDst hnd file n) := rfl

theorem cutDst_names_same (hnd : Bool) (file : RFile) (n : Nat) (p : Pend) : (cutDst hnd file n p).names hnd file n = false := by
  unfold cutDst
  split
  · simp [Pend.names]
  · next h => exact Bool.eq_false_iff.2 h

theorem not_names_of_names {p : Pend} {hnd : Bool} {file : RFile} {n : Nat} {hnd' : Bool} {file' : RFile} {n' : Nat}
    (h : sameReg hnd file n hnd' file' n' = false) (hp : p.names hnd file n = true) : p.names hnd' file' n' = false := by
  rw [← Bool.not_eq_true]
  intro hp'
  simp only [Pend.names, Bool.and_eq_true, Bool.or_eq_true, beq_iff_eq] at hp hp'
  have he : (file, n) = (file', n') := Option.some.inj (hp.1.symm.trans hp'.1)
  obtain ⟨rfl, rfl⟩ := Prod.mk.inj he
  rcases hp.2 with hr | hr <;> rcases hp'.2 with hr' | hr' <;> simp_all [sameReg]

theorem cutDst_names_other {hnd : Bool} {file : RFile} {n : Nat} {hnd' : Bool} {file' : RFile} {n' : Nat}
    (h : sameReg hnd file n hnd' file' n' = false) (p : Pend) :
    (cutDst hnd file n p).names hnd' file' n' = p.names hnd' file' n' := by
  unfold cutDst
  split
  · next hp =>
    rw [not_names_of_names h hp]
    simp [Pend.names]
  · rfl

theorem cancel_isEmpty (c : Core) (hnd : Bool) (file : RFile) (n : Nat) : (c.cancel hnd file n).isEmpty hnd file n = false := by
  simp [Core.isEmpty, cancel_pend, cutDst_names_same]

/-- Cancelling what is on its way to a register leaves what is on its way to another. -/
theorem cancel_filter {hnd : Bool} {file : RFile} {n : Nat} {hnd' : Bool} {file' : RFile} {n' : Nat}
    (h : sameReg hnd file n hnd' file' n' = false) (c : Core) :
    ((c.cancel hnd file n).pend.filter fun p => p.names hnd' file' n') = c.pend.filter fun p => p.names hnd' file' n' := by
  rw [cancel_pend, List.filter_map]
  have hid : ∀ p ∈ c.pend.filter fun p => p.names hnd' file' n', cutDst hnd file n p = p := fun p hp => by
    have hn : ¬p.names hnd file n = true := fun hs => by simp [not_names_of_names h hs] at hp
    simp [cutDst, hn]
  simp only [Function.comp_def, cutDst_names_other h]
  exact (List.map_congr_left hid).trans (List.map_id _)

theorem cancel_owedFlags (c : Core) (hnd : Bool) (file : RFile) (n : Nat) (k : Slot) :
    owedFlags (c.cancel hnd file n) k = owedFlags c k := by
  have hc (p : Pend) : (cutDst hnd file n p).slot = p.slot ∧ (cutDst hnd file n p).flags = p.flags := by
    unfold cutDst
    split <;> exact ⟨rfl, rfl⟩
  simp only [owedFlags, cancel_pend, List.filter_map, List.foldl_map, Function.comp_def, hc]

/-- The handler's bank at the start of a run. -/
def runBank (c : Core) : Bank :=
  let off := c.mq.base + 64 * c.mq.head
  ({ c.hnd with pc := BitVec.ofNat 64 (readN c.sp off 8 % 2 ^ 56), loops := [] } : Bank).setReg .a 0 (BitVec.ofNat 64 off)

/-- The core at the start of a run, before the acquire of the message's entry. -/
def runCore (c : Core) : Core :=
  let off := c.mq.base + 64 * c.mq.head
  { c.cancel true .a 0 with
    hnd := runBank c
    run := some ⟨c.mq.head, c.entryLen off, 0⟩ }

theorem runCore_stale (c : Core) : (runCore c).stale = c.stale := by simp only [runCore, Core.cancel]

/-- Nothing is on its way to the handler's a0. -/
theorem runCore_isEmpty (c : Core) (st : List Stale) : Core.isEmpty { runCore c with stale := st } true .a 0 = false := by
  have hp : ({ runCore c with stale := st } : Core).pend = (c.cancel true .a 0).pend := rfl
  rw [Core.isEmpty, hp]
  exact cancel_isEmpty c true .a 0

theorem runCore_owedFlags (c : Core) (st : List Stale) (k : Slot) :
    owedFlags { runCore c with stale := st } k = owedFlags c k := by
  have hp : ({ runCore c with stale := st } : Core).pend = (c.cancel true .a 0).pend := rfl
  rw [← cancel_owedFlags c true .a 0 k, owedFlags, hp]
  rfl

theorem startRun_eq {s : State} {k : Nat} (hs : ((s.coreOf k).runStarts && s.atBoundary k) = true)
    (hz : let off := (s.coreOf k).mq.base + 64 * (s.coreOf k).mq.head; ((s.coreOf k).asleep off (off + 16)).2 = false)
    (hb : let off := (s.coreOf k).mq.base + 64 * (s.coreOf k).mq.head; (s.coreOf k).badWord off (off + 16) false = none) :
    ∃ scope, s.startRun k = some ((s.setCore k (runCore (s.coreOf k))).acquired k scope) := by
  unfold State.startRun
  dsimp only at hz hb ⊢
  rw [if_neg (by simp [hs]), if_neg (by simp [hz]), hb]
  exact ⟨_, rfl⟩

/-- An acquire of a core drops what it may no longer read, and changes nothing else. -/
theorem acquired_setCore (s : State) (k : Nat) (c : Core) (scope : Nat) :
    ∃ st, (s.setCore k c).acquired k scope = s.setCore k { c with stale := st } ∧ st.Sublist c.stale := by
  unfold State.acquired
  split
  · exact ⟨c.stale, rfl, List.Sublist.refl _⟩
  · dsimp only
    rw [setCore_onCore]
    exact ⟨_, rfl, List.filter_sublist⟩

theorem reg_setReg_a0 (b : Bank) (v : Word) (file : RFile) (n : Nat) :
    (b.setReg .a 0 v).reg file n = if file = .a ∧ n = 0 then v else b.reg file n := by
  have hc : (RFile.a = file ∧ 0 = n ∧ discards .a 0 = false) ↔ (file = .a ∧ n = 0) :=
    ⟨fun h => ⟨h.1.symm, h.2.1.symm⟩, fun h => ⟨h.1.symm, h.2.symm, by decide⟩⟩
  rw [Laws.Bank_reg_setReg _ .a 0 _ file n (by decide) (by decide) rfl]
  simp only [hc]

theorem runBank_reg (c : Core) (file : RFile) (n : Nat) : (runBank c).reg file n =
    if file = .a ∧ n = 0 then BitVec.ofNat 64 (c.mq.base + 64 * c.mq.head) else c.hnd.reg file n := by
  simp only [runBank, reg_setReg_a0]
  rfl

/-- The registers at the start of a run are those before, but a0 of the handler's bank. -/
theorem regVal_runCore (c : Core) (st : List Stale) (hnd : Bool) (file : RFile) (n : Nat) :
    regVal { runCore c with stale := st } hnd file n =
      if hnd = true ∧ file = .a ∧ n = 0 then .word (BitVec.ofNat 64 (c.mq.base + 64 * c.mq.head)) else regVal c hnd file n := by
  have hreg : Core.reg { runCore c with stale := st } hnd file n =
      if hnd = true ∧ file = .a ∧ n = 0 then BitVec.ofNat 64 (c.mq.base + 64 * c.mq.head) else c.reg hnd file n := by
    cases hnd with
    | false => rfl
    | true =>
      show (runBank c).reg file n = _
      rw [runBank_reg]
      simp only [true_and]
      rfl
  cases hf : isRunFile file with
  | true =>
    have ha : ¬(hnd = true ∧ file = .a ∧ n = 0) := by rintro ⟨-, rfl, -⟩; cases hf
    have hrun : Core.runReg { runCore c with stale := st } file n = c.runReg file n := by
      simp only [Core.runReg, runCore, Core.cancel]
    rw [if_neg ha, regVal, regVal, if_pos hf, if_pos hf, hrun]
  | false =>
    have hf' : ¬isRunFile file = true := Bool.eq_false_iff.1 hf
    rw [regVal, regVal, if_neg hf', if_neg hf', hreg]
    by_cases h : hnd = true ∧ file = .a ∧ n = 0
    · rw [if_pos h, if_pos h]
    · rw [if_neg h, if_neg h]

theorem settled_eq_regVal (c : Core) (hnd : Bool) (file : RFile) (n : Nat) :
    settled c hnd file n = match (c.pend.filter fun p => p.names hnd file n).getLast? with
      | some p => p.val
      | none => regVal c hnd file n := rfl

theorem settled_runCore {c : Core} {hnd : Bool} {file : RFile} {n : Nat} (h : sameReg true .a 0 hnd file n = false)
    (st : List Stale) : settled { runCore c with stale := st } hnd file n = settled c hnd file n := by
  have hn : ¬(hnd = true ∧ file = .a ∧ n = 0) := by rintro ⟨rfl, rfl, rfl⟩; cases h
  have hp : (({ runCore c with stale := st } : Core).pend.filter fun p => p.names hnd file n) =
      c.pend.filter fun p => p.names hnd file n := cancel_filter h c
  rw [settled_eq_regVal, settled_eq_regVal, hp, regVal_runCore, if_neg hn]

/-- The low bits of eight bytes are those of the first two. -/
theorem readN_low (m : List Host.Cell) (a : Nat) : readN m a 8 % 2 ^ 10 = readN m a 2 % 2 ^ 10 := by
  simp only [readN]
  omega

/-! ### The statement -/

theorem islandHeld_of_clockHeld {s : State} {k : Nat} (h : s.clockHeld k = false) : s.islandHeld k = false :=
  (Bool.or_eq_false_iff.1 h).1

theorem exec_fetchMissFill {s : State} {k : Nat} (hk : k < 2048) (hpl : (s.coreOf k).placed ≠ none)
    (hclk : s.clockHeld k = false) (hrun : (s.coreOf k).run = none) (hlive : (s.coreOf k).mainLive = true)
    (hline : (s.coreOf k).lineWords (s.coreOf k).main.pc = none) :
    exec (.fetchMissFill k (s.coreOf k).main.pc) s = .next (s.fillLine k false (s.coreOf k).main.pc) := by
  have hstop : ¬(2048 ≤ k ∨ (s.coreOf k).placed.isNone = true ∨ s.clockHeld k = true) := by
    simp [hclk, Nat.not_le.2 hk, hpl]
  show execFetchMissFill _ _ _ = _
  simp only [execFetchMissFill, if_neg hstop, hrun, Option.isSome_none, Bool.false_and, Bool.false_eq_true, if_false, hlive,
    hline, Option.isNone_none, Bool.and_true, BEq.rfl, if_true]

theorem who_start {s : State} {k : Nat} (hab : s.aborting k = false) (hpl : (s.coreOf k).placed ≠ none)
    (hq : (s.coreOf k).quiet = false) (hrun : (s.coreOf k).run = none)
    (hs : ((s.coreOf k).runStarts && s.atBoundary k) = true) : s.who k = .start := by
  simp [State.who, hab, hpl, hq, hrun, hs]

/-- Settles O35. -/
theorem clocksAndHandlerRuns : Obligations.ClocksAndHandlerRuns := by
  refine ⟨fun core g s hk => ⟨rfl, ?fetch, ?wakes, ?random⟩, fun core s => ?run⟩
  case fetch =>
    intro e bs hpl hclk hr hrun hlive hline hpc hf hx hg hp hrf hd
    have hfill := fillLine_eq (hnd := false) hpc (islandHeld_of_clockHeld hclk) hr hrf hf hx hg hp hd
    obtain ⟨tl, tb, ht, htb⟩ := tlbHit_eq s core e (islandHeld_of_clockHeld hclk)
    rw [ht, withTlbs_onCore] at hfill
    refine ⟨_, (exec_fetchMissFill hk hpl hclk hrun hlive hline).trans (congrArg _ hfill), rfl, fun he => ?_, ?_, tl, _, rfl⟩
    · obtain rfl := htb he
      rfl
    · show ((s.setCore core _).coreOf core).lineWords _ = _
      rw [Laws.coreOf_setCore, if_pos rfl]
      exact cacheLine_lineWords ..
  case wakes =>
    intro n hn hle
    have hany : ((s.coreOf core).waking.any fun w => w.1 == g && w.2 ≤ (s.coreOf core).clk) = true :=
      List.any_eq_true.2 ⟨(g, n), hn, by simp [hle]⟩
    show execSpGroupWakeDone core g s = _
    simp only [execSpGroupWakeDone, hany, if_true]
  case random =>
    intro hpl hclk hlen hready
    have hstop : ¬((s.coreOf core).placed.isNone = true ∨ s.clockHeld core = true) := by simp [hclk, hpl]
    have hdue : ¬(60 < (s.coreOf core).rng.words.length ∨ (s.coreOf core).clk < (s.coreOf core).rng.ready) := by omega
    show execRngBlock core s = _
    simp only [execRngBlock, if_neg hstop, Rng.block, if_neg hdue]
  case run =>
    intro c off handler bytes hk hclk hab hpl hq hrun hhen hpark hstop hmsg howes hbound
    have hstarts : (c.runStarts && s.atBoundary core) = true := by
      have hb : s.atBoundary core = true := heldMain_all hbound
      have ho : (c.owes && c.mainLive) = false := by simpa using howes
      simp only [Core.runStarts, hb, hhen, hrun, hpark, hstop, hmsg, ho, Option.isSome_iff_ne_none.2 hpl, Option.isNone_none,
        Bool.not_false, Bool.and_self]
    have hwho := who_start hab hpl hq hrun hstarts
    have hgo : (decide (2048 ≤ core) || s.clockHeld core || s.who core != .start) = false := by
      simp [hclk, hwho, Nat.not_le.2 hk]
    refine ⟨fun hheld => ?_, fun hheld hz hb => ?_⟩
    · obtain ⟨x, hx, hxk, hxh, hall⟩ := hheld
      obtain ⟨y, hy, hmain, hyk, hyh⟩ := heldMain_some ⟨x, hx, hxk, hxh⟩
      have hnone : (s.heldMain core).all (fun h => h.mem.isSome) = false := by
        rw [hmain, Option.all_some, hall y hy hyk hyh]
        rfl
      show execHandlerRunStart core s = _
      simp only [execHandlerRunStart, tryHandlerRunStart, hgo, hnone, Bool.false_eq_true, if_false]
      rfl
    · have hsome : (s.heldMain core).all (fun h => h.mem.isSome) = true :=
        heldMain_all fun h hm hk hh => Option.isSome_iff_ne_none.2 (hheld h hm hk hh)
      obtain ⟨scope, hrun'⟩ := startRun_eq hstarts hz hb
      obtain ⟨st, hst, hsub⟩ := acquired_setCore s core (runCore c) scope
      have hexec : happens (.handlerRunStart core) s (s.setCore core { runCore c with stale := st }) := by
        show execHandlerRunStart core s = _
        simp only [execHandlerRunStart, tryHandlerRunStart, hgo, hsome, Bool.false_eq_true, if_false, if_true, hrun',
          Option.getD_some]
        exact congrArg _ hst
      have hframe := Laws.Bank_setReg_frame
        ({ c.hnd with pc := BitVec.ofNat 64 (readN c.sp off 8 % 2 ^ 56), loops := [] } : Bank) .a 0 (BitVec.ofNat 64 off)
      obtain ⟨hpc, hpreds, hloops⟩ := hframe
      refine ⟨{ runCore c with stale := st }, hexec, ?_, runCore_isEmpty c st, fun h file n hsr => settled_runCore hsr st,
        runCore_owedFlags c st, runCore_stale c ▸ hsub, hpc, hloops, hpreds, fun file n => ?_⟩
      · have hlen : c.entryLen off = (bytes + 63) / 64 + 1 := by
          show (readN c.sp (off + 8) 2 % 2 ^ 10 + 63) / 64 + 1 = (readN c.sp (off + 8) 8 % 2 ^ 10 + 63) / 64 + 1
          rw [readN_low]
        rw [← hlen]
        simp only [runCore, Core.cancel]
        rfl
      · rw [regVal_runCore]
        simp only [true_and]
        rfl

end Sys2Proof.Proofs
end

section
/-! PROOFS. What an access of the device itself leaves as it was: storage, tables, contexts and what cores have cached may
change; launches, gangs, queues, keys and jobs do not. -/

namespace Sys2Proof.Proofs

open Sys2Proof Sys2Proof.Machine Sys2Proof.Safety

/-! ### The part of the machine that no access touches -/

/-- The state without its cores, its storage and the tables in front of it. -/
def untouched (s : State) : State :=
  { s with cores := [], free := 0,
           sys := { s.sys with mem := [], zl := [], eccBad := [], tagBad := [], frames := [], ctrs := [], metaDirty := [],
                               expansions := [], tlbs := [], contexts := [], owedQuar := [] } }

/-- One state comes from another by accesses. -/
def Accessed (s t : State) : Prop := untouched t = untouched s

namespace Accessed

variable {s t u : State}

theorem refl (s : State) : Accessed s s := rfl
theorem trans (h : Accessed s t) (h' : Accessed t u) : Accessed s u := Eq.trans h' h

theorem jobs (h : Accessed s t) : t.sys.jobs = s.sys.jobs := congrArg (·.sys.jobs) h
theorem seqTable (h : Accessed s t) : t.sys.seqTable = s.sys.seqTable := congrArg (·.sys.seqTable) h
theorem floor (h : Accessed s t) : t.sys.floor = s.sys.floor := congrArg (·.sys.floor) h
theorem launches (h : Accessed s t) : t.sys.launches = s.sys.launches := congrArg (·.sys.launches) h
theorem gangs (h : Accessed s t) : t.sys.gangs = s.sys.gangs := congrArg (·.sys.gangs) h
theorem queues (h : Accessed s t) : t.sys.queues = s.sys.queues := congrArg (·.sys.queues) h
theorem vfs (h : Accessed s t) : t.sys.vfs = s.sys.vfs := congrArg (·.sys.vfs) h

end Accessed

/-! ### Storage -/

theorem accessed_touchBlock (s : State) (g : Nat) : Accessed s (s.touchBlock g) := by
  unfold State.touchBlock
  dsimp only
  split <;> rfl

theorem accessed_bumpLine (s : State) (st : Nat) : Accessed s (s.bumpLine st) := by
  unfold State.bumpLine
  exact .trans (by rfl) (accessed_touchBlock ..)

theorem accessed_writeLine (s : State) (st : Nat) (bs : List Byte) : Accessed s (s.writeLine st bs) :=
  (accessed_bumpLine s st).trans rfl

theorem accessed_physWriteGo (s : State) (n pa : Nat) (bs : List Byte) : Accessed s (s.physWriteGo n pa bs) := by
  induction n generalizing s pa bs with
  | zero => exact .refl s
  | succ n ih =>
    cases bs with
    | nil => exact .refl s
    | cons b bs => exact (accessed_writeLine ..).trans (ih ..)

theorem accessed_storeFrom (s : State) (o : Observer) (pa : Nat) (bs : List Byte) : Accessed s (s.storeFrom o pa bs) :=
  (accessed_physWriteGo s _ pa bs).trans rfl

theorem accessed_foldl {α : Type} {g : State → α → State} (hg : ∀ s a, Accessed s (g s a)) (s : State) (l : List α) :
    Accessed s (l.foldl g s) := by
  induction l generalizing s with
  | nil => exact .refl s
  | cons a l ih => exact (hg s a).trans (ih _)

theorem accessed_fillFrame (s : State) (st : Nat) (page : List Host.Cell) : Accessed s (s.fillFrame st page) := by
  unfold State.fillFrame
  exact accessed_foldl (fun _ _ => accessed_writeLine ..) s _

/-! ### Expansions -/

theorem accessed_startExpansion (s : State) (ctx k : Nat) (core : Option Nat) (dva subst : Nat) :
    Accessed s (s.startExpansion ctx k core dva subst) := by
  unfold State.startExpansion
  split <;> rfl

theorem accessed_unpacked (s : State) (e : Expansion) : Accessed s (s.unpacked e).2 := by
  unfold State.unpacked
  dsimp only
  split <;> rfl

theorem accessed_setFrame (s : State) (k : Nat) (g : Frame → Frame) : Accessed s (s.setFrame k g) := rfl

theorem accessed_expansions (s : State) (es : List Expansion) :
    Accessed s { s with sys := { s.sys with expansions := es } } := rfl

theorem accessed_giveUp (s : State) (e : Expansion) : Accessed s (s.giveUp e) :=
  (accessed_setFrame ..).trans ((accessed_setFrame ..).trans (accessed_expansions ..))

theorem accessed_expandNow (s : State) (e : Expansion) : Accessed s (s.expandNow e).2 := by
  unfold State.expandNow
  split
  · exact accessed_giveUp ..
  · have hf : Accessed s ((s.unpacked e).2.fillFrame e.into (s.unpacked e).1) :=
      (accessed_unpacked s e).trans (accessed_fillFrame ..)
    dsimp only
    generalize (s.unpacked e).2.fillFrame e.into (s.unpacked e).1 = u at hf
    split
    · exact hf.trans ((accessed_setFrame ..).trans (accessed_expansions ..))
    · exact hf.trans ((accessed_setFrame ..).trans ((accessed_expansions ..).trans (accessed_setFrame ..)))

theorem accessed_expanded (s : State) (k : Nat) : Accessed s (s.expanded k).2 := by
  unfold State.expanded
  split
  · rfl
  · exact accessed_expandNow ..

theorem accessed_openTables (s : State) (ctx dva n : Nat) : Accessed s (s.openTables ctx dva n) := by
  induction n generalizing s with
  | zero => exact .refl s
  | succ n ih =>
    unfold State.openTables
    split
    · rfl
    · rename_i k packed _
      have hx : Accessed s ((if packed then s.startExpansion ctx k else s).expanded k).2 := by
        split
        · exact (accessed_startExpansion ..).trans (accessed_expanded ..)
        · exact accessed_expanded ..
      generalize (if packed then s.startExpansion ctx k else s).expanded k = r at hx
      obtain ⟨r1, t⟩ := r
      cases r1 with
      | error x => exact hx
      | ok _ => exact hx.trans (ih t)

/-! ### Translation -/

theorem accessed_tlbFill (s : State) (core : Nat) (walked : Bool) (e : TlbEntry) : Accessed s (s.tlbFill core walked e) := by
  unfold State.tlbFill
  dsimp only
  split <;> split <;> rfl

theorem accessed_xlateNow (s : State) (core : Option Nat) (ctx dva : Nat) : Accessed s (s.xlateNow core ctx dva).2 := by
  have ht := accessed_openTables s ctx dva 24
  unfold State.xlateNow
  cases core with
  | none => exact ht
  | some k =>
    dsimp only
    split
    · exact accessed_tlbFill ..
    · split
      · exact ht.trans (accessed_tlbFill ..)
      · exact ht

theorem accessed_reach (s : State) (core : Option Nat) (ctx dva acc : Nat) (user inside : Bool) :
    Accessed s (s.reach core ctx dva acc user inside).2 := by
  unfold State.reach
  split
  · rfl
  · have hx := accessed_xlateNow s core ctx dva
    generalize s.xlateNow core ctx dva = r at hx
    obtain ⟨r1, t⟩ := r
    cases r1 with
    | error k => exact hx
    | ok e =>
      have ready (r : Except Nat Unit × State) (hr : Accessed s r.2) :
          Accessed s (match r with
            | (.error x, s) => ((.error x, s) : Except Nat (TlbEntry × Nat) × State)
            | (.ok _, s) => (.ok (e, e.phys dva), s)).2 := by
        obtain ⟨r1, t⟩ := r
        cases r1 <;> exact hr
      dsimp only
      split
      · exact hx
      · split
        · exact hx
        · split <;> exact hx
        · exact ready _ (hx.trans (accessed_expanded ..))
        · exact ready _ (hx.trans ((accessed_startExpansion ..).trans (accessed_expanded ..)))

/-! ### Reads and writes of a context's space -/

theorem accessed_appendDirty (s : State) (ctx page : Nat) : Accessed s (s.appendDirty ctx page) := by
  have lost {t : State} (ht : Accessed s t) (x : Nat) : Accessed s
      (if x = kINTEG then
        { t.dirtyLost ctx page with sys := { (t.dirtyLost ctx page).sys with
            owedQuar := ctx :: (t.dirtyLost ctx page).sys.owedQuar } }
       else t.dirtyLost ctx page) := by
    split <;> exact ht.trans rfl
  unfold State.appendDirty
  dsimp only
  split
  · rfl
  · split
    · rfl
    · have hx := accessed_reach s none ctx ((s.context ctx).dlBase.toNat + 8 * (s.context ctx).dlTail) accStore false false
      generalize s.reach none ctx ((s.context ctx).dlBase.toNat + 8 * (s.context ctx).dlTail) accStore false false = r at hx
      obtain ⟨r1, t⟩ := r
      cases r1 with
      | error x => exact lost hx x
      | ok p =>
        dsimp only
        split
        · exact lost hx _
        · exact (hx.trans (accessed_storeFrom ..)).trans rfl

theorem accessed_dirty (s : State) (ctx dva : Nat) : Accessed s (s.dirty ctx dva) := by
  unfold State.dirty
  dsimp only
  split
  · rfl
  · split
    · rfl
    · exact accessed_appendDirty ..

theorem accessed_gReadGo (s : State) (core : Option Nat) (ctx acc : Nat) (user inside sub : Bool) (k dva n : Nat)
    (out : List Byte) (bad : Nat) : Accessed s (s.gReadGo core ctx acc user inside sub k dva n out bad).2 := by
  induction k generalizing s dva n out bad with
  | zero => exact .refl s
  | succ k ih =>
    unfold State.gReadGo
    split
    · rfl
    · have hx := accessed_reach s core ctx dva acc user inside
      dsimp only
      generalize s.reach core ctx dva acc user inside = r at hx
      obtain ⟨r1, t⟩ := r
      cases r1 with
      | error x => exact hx
      | ok p =>
        dsimp only
        split
        · exact hx
        · exact hx.trans (ih ..)

theorem accessed_gRead (s : State) (core : Option Nat) (ctx dva n acc : Nat) (sub user inside : Bool) :
    Accessed s (s.gRead core ctx dva n acc sub user inside).2 := by
  have hx := accessed_gReadGo s core ctx acc user inside sub (n / 64 + 2) dva n [] 0
  unfold State.gRead
  generalize s.gReadGo core ctx acc user inside sub (n / 64 + 2) dva n [] 0 = r at hx
  obtain ⟨r1, t⟩ := r
  cases r1 with
  | error x => exact hx
  | ok p =>
    dsimp only
    split
    · exact hx
    · exact hx.trans rfl

theorem accessed_gWriteGo (s : State) (o : Observer) (ctx acc : Nat) (user inside : Bool) (k dva : Nat) (bs : List Byte) :
    Accessed s (s.gWriteGo o ctx acc user inside k dva bs).2 := by
  induction k generalizing s dva bs with
  | zero => exact .refl s
  | succ k ih =>
    unfold State.gWriteGo
    split
    · rfl
    · have hx := accessed_reach s o.tables ctx dva acc user inside
      dsimp only
      generalize s.reach o.tables ctx dva acc user inside = r at hx
      obtain ⟨r1, t⟩ := r
      cases r1 with
      | error x => exact hx
      | ok p =>
        dsimp only
        split
        · exact hx
        · exact hx.trans ((accessed_dirty ..).trans ((accessed_storeFrom ..).trans (ih ..)))

theorem accessed_gWrite (s : State) (o : Observer) (ctx dva : Nat) (bs : List Byte) (acc : Nat) (user inside : Bool) :
    Accessed s (s.gWrite o ctx dva bs acc user inside).2 := accessed_gWriteGo ..

theorem accessed_gAdd (s : State) (o : Observer) (ctx dva : Nat) (inc : Word) (acc : Nat) (user inside : Bool) :
    Accessed s (s.gAdd o ctx dva inc acc user inside).2 := by
  have hx := accessed_gRead s o.tables ctx dva 8 acc false user inside
  unfold State.gAdd
  generalize s.gRead o.tables ctx dva 8 acc false user inside = r at hx
  obtain ⟨r1, t⟩ := r
  cases r1 with
  | error x => exact hx
  | ok p => exact hx.trans (accessed_gWrite ..)

theorem accessed_of_gWrite {s t : State} {o : Observer} {ctx dva : Nat} {bs : List Byte} {acc : Nat} {user inside : Bool}
    {r : Except Nat Unit} (h : s.gWrite o ctx dva bs acc user inside = (r, t)) : Accessed s t := by
  simpa [h] using accessed_gWrite s o ctx dva bs acc user inside

theorem accessed_of_gAdd {s t : State} {o : Observer} {ctx dva : Nat} {inc : Word} {acc : Nat} {user inside : Bool}
    {r : Except Nat Unit} (h : s.gAdd o ctx dva inc acc user inside = (r, t)) : Accessed s t := by
  simpa [h] using accessed_gAdd s o ctx dva inc acc user inside

end Sys2Proof.Proofs
end

section
/-! PROOFS. Key commands at issue, and what becomes of one behind the key port (R354 to R376). Settles KeyPort. -/

namespace Sys2Proof.Proofs

open Sys2Proof Sys2Proof.Machine Sys2Proof.Safety

/-! ### Issue (R27, R368, R369) -/

theorem spChecks_of_spReads {s : State} {lo hi : Nat} (h : spReads s lo hi false) (f : Fields) :
    s.spChecks f lo hi false (before := true) = s := by
  obtain ⟨⟨hp, hc, ha⟩, hb⟩ := h
  have hp : s.bun.cur.meetsPacked lo hi = false := by simpa using hp
  have hk : s.packedCheck f lo hi = s := by simp [State.packedCheck, hp]
  simp [State.spChecks, hk, Core.spBlocks, hc, ha, hb]

theorem fork_of_roomFor {s : State} {m : Cmd} {reads writes : List (Nat × Nat)}
    (h : roomFor s.bun.cur m.eng (reads ++ writes)) (enter : Core → Core) :
    s.fork m reads writes enter
      = s.onCur fun c => enter ({ c with nextId := c.nextId + 1 }.claim m.id reads writes) := by
  obtain ⟨hq, hr⟩ := h
  unfold State.fork
  exact if_neg (by omega)

/-- The command that a key command of a block issues. -/
def keyCmd (f : Fields) (opc : Nat) (s : State) (b : List Byte) : Cmd := { s.command f .key opc with block := b }

theorem command_ea (s : State) (f : Fields) (e : Eng) (opc : Nat) : (s.command f e opc).ea = opA f s := rfl
theorem command_ec (s : State) (f : Fields) (e : Eng) (opc : Nat) : (s.command f e opc).ec = opC f s := rfl

theorem keyCommand_user {s : State} (h : s.bun.pre.modeS = false) (f : Fields) (opc : Nat) (bad : List Byte → Bool) :
    keyCommand f opc bad s = s.raise f kPRIV := by
  simp [keyCommand, onSuper, h]

/-- A key command that passes its checks joins the key port's queue. -/
theorem keyCommand_forks {f : Fields} {opc : Nat} {bad : List Byte → Bool} {s : State} (hst : s.bun.stall = false)
    (hm : s.bun.pre.modeS = true) (he : engChecks (opA f s) [0] 0 = [])
    (hc : compChecks s.bun.cur (opC f s) false false = []) (ha : eaAddr (opA f s) % 64 = 0)
    (hr : spReads s (eaAddr (opA f s)) (eaAddr (opA f s) + 64) false)
    (hb : bad (readBytes s.bun.pre.sp (eaAddr (opA f s)) 64) = false)
    (hs : kbStat (readBytes s.bun.pre.sp (eaAddr (opA f s)) 64) % 16 = 0)
    (hroom : roomFor s.bun.cur .key [(eaAddr (opA f s), eaAddr (opA f s) + 64)]) :
    keyCommand f opc bad s = s.onCur fun c =>
      let m := keyCmd f opc s (readBytes s.bun.pre.sp (eaAddr (opA f s)) 64)
      let d := { c with nextId := c.nextId + 1 }.claim m.id [(eaAddr m.ea, eaAddr m.ea + 64)] []
      { d with keys := d.keys ++ [m] } := by
  have hsp := spChecks_of_spReads hr f
  have hx : s.checked f [] = fun body => body s := rfl
  simp only [keyCommand, onSuper, hm, if_true, command_ea, command_ec, he, hc, ha, chk, hsp, hst, hb, hs, ne_eq,
    not_true_eq_false, decide_false, Bool.false_eq_true, if_false, List.append_nil, hx]
  exact fork_of_roomFor hroom _

/-- What `Obligations.KeyPort` says of one key instruction as it issues. -/
theorem keyCommand_issues {i : Instr} {f : Fields} {s : State} {opc : Nat} {bad : List Byte → Bool}
    (hi : exec i s = .next (keyCommand f opc bad s)) (hst : s.bun.stall = false) :
    (s.bun.pre.modeS = false →
        becomes i s fun x => { x with raised := x.raised ++ [⟨kPRIV, f.slot, 0, 0, 0⟩] })
      ∧ (s.bun.pre.modeS = true → engChecks (opA f s) [0] 0 = [] →
          compChecks s.bun.cur (opC f s) false false = [] → eaAddr (opA f s) % 64 = 0 →
          spReads s (eaAddr (opA f s)) (eaAddr (opA f s) + 64) false →
          bad (readBytes s.bun.pre.sp (eaAddr (opA f s)) 64) = false →
          kbStat (readBytes s.bun.pre.sp (eaAddr (opA f s)) 64) % 16 = 0 →
          roomFor s.bun.cur .key [(eaAddr (opA f s), eaAddr (opA f s) + 64)] →
          ∃ t m, exec i s = .next t ∧ onlyCur s t ∧ enginesOnly s.bun.cur t.bun.cur
            ∧ t.bun.cur.keys = s.bun.cur.keys ++ [m] ∧ isCommand m s f .key opc
            ∧ m.block = readBytes s.bun.pre.sp (eaAddr (opA f s)) 64
            ∧ claimed s.bun.cur t.bun.cur m.id [(eaAddr (opA f s), eaAddr (opA f s) + 64)] []) := by
  constructor
  · intro hm
    exact hi.trans (congrArg _ (keyCommand_user hm f opc bad))
  · intro hm he hc ha hr hb hs hroom
    refine ⟨_, keyCmd f opc s (readBytes s.bun.pre.sp (eaAddr (opA f s)) 64),
      hi.trans (congrArg _ (keyCommand_forks hst hm he hc ha hr hb hs hroom)), rfl, ?_⟩
    have hlt : eaAddr (opA f s) < eaAddr (opA f s) + 64 := by omega
    have hclaim (c : Core) (cmd : Nat) : c.claim cmd [(eaAddr (opA f s), eaAddr (opA f s) + 64)] []
        = { c with nextId := c.nextId + 1,
                   chase := c.chase ++ [⟨c.nextId, cmd, eaAddr (opA f s), eaAddr (opA f s) + 64, false⟩] } := by
      simp [Core.claim, hlt]
    dsimp only [State.onCur, keyCmd, command_ea]
    rw [hclaim]
    refine ⟨rfl, rfl, ⟨rfl, rfl, rfl, rfl, rfl, rfl, rfl, rfl, rfl, rfl, rfl, rfl, rfl⟩, rfl, _, rfl, ?_⟩
    simp [hlt]

/-! ### The sequence table (R373) -/

theorem lowestEntry_isSome {l : List (List Byte × Nat)} (h : l ≠ []) : ∃ x, lowestEntry l = some x := by
  cases l with
  | nil => exact absurd rfl h
  | cons e es =>
    unfold lowestEntry
    split
    · exact ⟨_, rfl⟩
    · split <;> exact ⟨_, rfl⟩

/-- An entry put behind a table without its TID is the one that a lookup finds. -/
theorem find?_append_new {l : List (List Byte × Nat)} {tid : List Byte} (h : ∀ e ∈ l, e.1 ≠ tid) (v : Nat) :
    (l ++ [(tid, v)]).find? (fun e => e.1 == tid) = some (tid, v) := by
  have hn : l.find? (fun e => e.1 == tid) = none := List.find?_eq_none.mpr (by simpa using h)
  simp [hn]

/-- LAST of a TID is what it was last set to. -/
theorem lastOf_setLast (y : Sys) (tid : List Byte) (v : Nat) : (y.setLast tid v).lastOf tid = v := by
  unfold Sys.setLast
  split
  next h =>
    obtain ⟨e, he⟩ := Option.isSome_iff_exists.mp (List.find?_isSome.mpr (List.any_eq_true.mp h))
    have hk : e.1 = tid := by simpa using List.find?_some he
    have hp : ((fun e : List Byte × Nat => e.1 == tid) ∘ fun e => if e.1 = tid then (tid, v) else e)
        = fun e => e.1 == tid := by
      funext x
      by_cases hx : x.1 = tid <;> simp [hx]
    dsimp only [Sys.lastOf]
    rw [List.find?_map, hp, he]
    simp [hk]
  next h =>
    have hnew : ∀ e ∈ y.seqTable, e.1 ≠ tid := fun e he hk => h (List.any_eq_true.mpr ⟨e, he, by simpa using hk⟩)
    split
    · simp [Sys.lastOf, find?_append_new hnew]
    next hfull =>
      obtain ⟨x, hx⟩ := lowestEntry_isSome (l := y.seqTable) (by rintro h0; simp [h0] at hfull)
      have hrest : ∀ e ∈ y.seqTable.erase x, e.1 ≠ tid := fun e he => hnew e (List.mem_of_mem_erase he)
      simp [Sys.lastOf, hx, find?_append_new hrest]

theorem lastOf_accessed {s t : State} (h : Accessed s t) : t.sys.lastOf = s.sys.lastOf := by
  funext tid
  simp [Sys.lastOf, h.seqTable, h.floor]

theorem lastOf_ownAccessFault (s : State) (ctx kind : Nat) : (s.ownAccessFault ctx kind).sys.lastOf = s.sys.lastOf := by
  unfold State.ownAccessFault State.quarantineCtx
  split
  · split <;> rfl
  · rfl

theorem lastOf_jobRange (s : State) (j : KeyJob) (kind count : Nat) :
    (s.jobRange j kind count).2.sys.lastOf = s.sys.lastOf := by
  unfold State.jobRange
  split
  · exact lastOf_ownAccessFault ..
  · rfl

theorem lastOf_jobFault (s : State) (j : KeyJob) (kind dva : Nat) :
    (s.jobFault j kind dva).sys.lastOf = s.sys.lastOf := lastOf_ownAccessFault s j.ctx kind

/-! ### The end of a command (R369) -/

/-- A command's object counted, or the fault that it meets. -/
theorem lastOf_countObject (s : State) (j : KeyJob) :
    (if compNone j.cmd.ec then s
      else match s.gAdd .package j.ctx (compAddr j.cmd.ec) (BitVec.ofNat 64 (compInc j.cmd.ec)) accStore false false with
        | (.error k, s) => s.jobFault j k (compAddr j.cmd.ec)
        | (.ok _, s) => s).sys.lastOf = s.sys.lastOf := by
  split
  · rfl
  · have hx := lastOf_accessed (accessed_gAdd s .package j.ctx (compAddr j.cmd.ec)
      (BitVec.ofNat 64 (compInc j.cmd.ec)) accStore false false)
    generalize s.gAdd .package j.ctx (compAddr j.cmd.ec) (BitVec.ofNat 64 (compInc j.cmd.ec)) accStore false false = r at hx
    obtain ⟨r1, t⟩ := r
    cases r1 with
    | error k => exact (lastOf_jobFault ..).trans hx
    | ok _ => exact hx

theorem lastOf_finishJob (s : State) (j : KeyJob) (r : Nat × Nat × Nat) :
    (s.finishJob j r).sys.lastOf = s.sys.lastOf := by
  unfold State.finishJob
  dsimp only
  split
  · exact lastOf_countObject ..
  · have hx := lastOf_accessed (accessed_gWrite { s with sys := { s.sys with jobs := s.sys.jobs.erase j } } .package j.ctx
      (kbStat j.cmd.block) (statusRecord j.cmd r) accStore false false)
    generalize State.gWrite { s with sys := { s.sys with jobs := s.sys.jobs.erase j } } .package j.ctx
      (kbStat j.cmd.block) (statusRecord j.cmd r) accStore false false = w at hx
    obtain ⟨w1, t⟩ := w
    cases w1 with
    | error k => exact (lastOf_jobFault ..).trans hx
    | ok _ => exact (lastOf_countObject ..).trans hx

/-- A command that writes no status and counts no object leaves, and nothing else changes. -/
theorem finishJob_quiet {j : KeyJob} (hs : kbStat j.cmd.block = 0) (hc : compNone j.cmd.ec = true) (s : State)
    (r : Nat × Nat × Nat) : s.finishJob j r = { s with sys := { s.sys with jobs := s.sys.jobs.erase j } } := by
  simp [State.finishJob, hs, hc]

theorem jobWaits_quiet {j : KeyJob} (hs : kbStat j.cmd.block = 0) (hc : compNone j.cmd.ec = true) (s : State) :
    s.jobWaits j = false := by
  simp [State.jobWaits, hs, hc]

@[simp] theorem vf_setJob (s : State) (key : Nat) (j : KeyJob) (k : Nat) : (s.setJob key j).vf k = s.vf k := rfl

theorem vf_accessed {s t : State} (h : Accessed s t) (k : Nat) : t.vf k = s.vf k := by
  simp [State.vf, h.vfs]

theorem setJob_self {s : State} {key : Nat} {j : KeyJob} (h : s.sys.jobs[key]? = some j) : s.setJob key j = s := by
  obtain ⟨hk, rfl⟩ := List.getElem?_eq_some_iff.mp h
  simp [State.setJob]

/-! ### The parts of a command -/

/-- Where no responder's session waits for it, the event is the command's next part. -/
theorem keyComplete_happens {key : Nat} {s t : State} {j : KeyJob} (hj : s.sys.jobs[key]? = some j)
    (hf : j.cmd.opc ≠ 0x24 ∨ j.result.isNone = false ∨ (s.vf j.vf).bind = .quarantined)
    (ht : tryKeyCommandComplete key s = some t) : happens (.keyCommandComplete key) s t := by
  have hn : s.fabJob key = none := by
    unfold State.fabJob
    rw [hj]
    refine if_neg ?_
    rintro ⟨ho, -, hr, hb⟩
    obtain h | h | h := hf
    · exact h ho
    · simp [h] at hr
    · simp [h] at hb
  have hr : s.respond key = s := by simp [State.respond, hn]
  show Host.Outcome.next ((tryKeyCommandComplete key (s.respond key)).getD (s.respond key)) = _
  rw [hr, ht]
  rfl

section
variable {key : Nat} {s s' : State} {j j' : KeyJob}

/-- A part that leaves the result open. -/
theorem tryKeyCommandComplete_part (hj : s.sys.jobs[key]? = some j) (hw : s.work key j = some (j', s'))
    (hr : j'.result = none) : tryKeyCommandComplete key s = some (s'.setJob key j') := by
  simp [tryKeyCommandComplete, hj, hw, hr]

/-- A part with the command's result, whose last writes wait for nothing. -/
theorem tryKeyCommandComplete_last {r : Nat × Nat × Nat} (hj : s.sys.jobs[key]? = some j)
    (hw : s.work key j = some (j', s')) (hr : j'.result = some r) (hn : s'.jobWaits j' = false) :
    tryKeyCommandComplete key s = some ((s'.setJob key j').finishJob j' r) := by
  simp [tryKeyCommandComplete, hj, hw, hr, hn]

/-- The same of a command that writes no status and counts no object. -/
theorem tryKeyCommandComplete_quiet {r : Nat × Nat × Nat} (hj : s.sys.jobs[key]? = some j)
    (hw : s.work key j = some (j', s')) (hr : j'.result = some r) (hs : kbStat j'.cmd.block = 0)
    (hc : compNone j'.cmd.ec = true) :
    tryKeyCommandComplete key s
      = some { s' with sys := { s'.sys with jobs := (s'.sys.jobs.set key j').erase j' } } := by
  rw [tryKeyCommandComplete_last hj hw hr (jobWaits_quiet hs hc s'), finishJob_quiet hs hc]
  rfl

/-- A part of a command whose result was open leaves LAST as the part itself does. -/
theorem tryKeyCommandComplete_lastOf (hj : s.sys.jobs[key]? = some j) (hw : s.work key j = some (j', s'))
    (hr : j.result = none) : ∃ t, tryKeyCommandComplete key s = some t ∧ t.sys.lastOf = s'.sys.lastOf := by
  cases h : j'.result with
  | none => exact ⟨_, tryKeyCommandComplete_part hj hw h, rfl⟩
  | some r =>
    cases hn : s'.jobWaits j' with
    | false => exact ⟨_, tryKeyCommandComplete_last hj hw h hn, lastOf_finishJob ..⟩
    | true => exact ⟨s'.setJob key j', by simp [tryKeyCommandComplete, hj, hw, h, hn, hr], rfl⟩

/-! ### SEAL (R372, R373) -/

theorem snd_ite {α β : Type} (c : Prop) [Decidable c] (x y : α) (t : β) : (if c then (x, t) else (y, t)).2 = t := by
  split <;> rfl

theorem lastOf_sealStart (s : State) (j : KeyJob) :
    (s.sealStart j).2.sys.lastOf (s.vf j.vf).tid = s.sys.lastOf (s.vf j.vf).tid + 1 := by
  have hset : (s.sealStart j).2.sys.lastOf
      = (s.sys.setLast (s.vf j.vf).tid (s.sys.lastOf (s.vf j.vf).tid + 1)).lastOf := by
    unfold State.sealStart
    dsimp only
    generalize hq : ({ s with sys := s.sys.setLast (s.vf j.vf).tid (s.sys.lastOf (s.vf j.vf).tid + 1) } : State) = u
    have hu : s.sys.setLast (s.vf j.vf).tid (s.sys.lastOf (s.vf j.vf).tid + 1) = u.sys := congrArg State.sys hq
    rw [hu]
    split
    · rfl
    · have hx := lastOf_accessed (accessed_gRead u none j.ctx (kbList j.cmd.block) (16 * kbNlist j.cmd.block) accERead false
        false false)
      generalize u.gRead none j.ctx (kbList j.cmd.block) (16 * kbNlist j.cmd.block) accERead false = r at hx
      obtain ⟨r1, t⟩ := r
      cases r1 with
      | error k => exact (lastOf_jobRange ..).trans hx
      | ok bs =>
        dsimp only
        split
        · exact hx
        · rw [snd_ite]
          exact hx
  rw [hset, lastOf_setLast]

theorem work_seal (hr : j.result = none) (hv : j.verdict = none) (hw : j.sealing = none)
    (hb : (s.vf j.vf).bind = .bound) (ho : j.cmd.opc = 0x21) (hwait : s.sealWaits key j = false)
    (hslot : s.sys.slotOpen = none) : s.work key j = some (s.sealStart j) := by
  simp [State.work, hr, hv, hb, ho, hwait, hslot, State.seal, hw]

/-! ### A tenant in quarantine (R369), and SCRUB KEYS (R375) -/

theorem work_quarantined (hr : j.result = none) (hv : j.verdict = none) (hb : (s.vf j.vf).bind = .quarantined) :
    s.work key j = some ({ j with result := some (0x0B, 0, 0) }, s) := by
  simp [State.work, hr, hv, hb, codeQuar]

theorem scrubKeys_destroys (hrot : s.rotating j.vf = false) (hold : (s.vf j.vf).old = true)
    (hgen : kbGen j.cmd.block + 1 = (s.vf j.vf).cur)
    (hheld : ¬∃ e ∈ s.sys.frames, e.2.valid = true ∧ e.2.owner = j.vf ∧ e.2.rsvd = false
      ∧ e.2.gen = kbGen j.cmd.block % 2) :
    s.scrubKeys j = ((codeDone, 0, kbGen j.cmd.block), s.onVf j.vf fun v => { v with old := false }) := by
  have hnone : s.sys.frames.filter (fun e : Nat × Frame =>
      e.2.valid && e.2.owner == j.vf && !e.2.rsvd && e.2.gen == kbGen j.cmd.block % 2) = [] := by
    refine List.filter_eq_nil_iff.mpr fun e he hm => hheld ⟨e, he, ?_⟩
    simpa [and_assoc] using hm
  have hne : kbGen j.cmd.block ≠ (s.vf j.vf).cur := by omega
  simp [State.scrubKeys, hrot, hne, hold, hgen, hnone]

theorem work_scrubKeys (hr : j.result = none) (hv : j.verdict = none) (hb : (s.vf j.vf).bind ≠ .quarantined)
    (ho : j.cmd.opc = 0x23) (hk : j.cmd.f.i16.toNat % 4 ≠ 2) :
    s.work key j = some ({ j with result := some (s.scrubKeys j).1 }, (s.scrubKeys j).2) := by
  simp [State.work, hr, hv, hb, ho, Cmd.scrubKind, hk]

/-! ### KROT (R370, R371) -/

theorem touchBlock_ctr (s : State) (g h : Nat) : (s.touchBlock g).ctr h = s.ctr h := by
  unfold State.touchBlock
  dsimp only
  split <;> rfl

theorem ctr_renewGroup (s : State) (g h : Nat) :
    (s.renewGroup g).ctr h = if g = h then { major := (s.ctr h).major + 1, minors := [] } else s.ctr h := by
  unfold State.renewGroup
  rw [touchBlock_ctr]
  refine (Laws.mget_mput _ _ _ _ _).trans ?_
  by_cases hg : g = h
  · simp [hg]
  · simp [hg, State.ctr]

theorem ctr_foldl_renewGroup {l : List Nat} (hl : l.Nodup) (s : State) (h : Nat) :
    (l.foldl State.renewGroup s).ctr h
      = if h ∈ l then { major := (s.ctr h).major + 1, minors := [] } else s.ctr h := by
  induction l generalizing s with
  | nil => simp
  | cons g l ih =>
    obtain ⟨hg, hl⟩ := List.nodup_cons.mp hl
    rw [List.foldl_cons, ih hl, ctr_renewGroup]
    by_cases hgh : g = h
    · subst hgh
      simp [hg]
    · simp [hgh, Ne.symm hgh]

theorem accessed_renewGroup (s : State) (g : Nat) : Accessed s (s.renewGroup g) :=
  .trans (by rfl) (accessed_touchBlock ..)

theorem accessed_zeroLines (s : State) (k : Nat) : Accessed s (s.zeroLines k) := rfl

theorem ctr_zeroLines (s : State) (k g : Nat) : (s.zeroLines k).ctr g = s.ctr g := rfl

theorem ctr_setFrame (s : State) (k : Nat) (x : Frame → Frame) (g : Nat) : (s.setFrame k x).ctr g = s.ctr g := rfl

theorem groups_nodup (k : Nat) : ((List.range 16).map fun i => 16 * k + i).Nodup :=
  List.nodup_range.map fun a b h => by simpa using h

theorem mem_groups {k g : Nat} (h : g / 16 = k) : g ∈ (List.range 16).map fun i => 16 * k + i :=
  List.mem_map.mpr ⟨g % 16, List.mem_range.mpr (Nat.mod_lt _ (by decide)), by omega⟩

/-- What re-encrypting a frame that is not compressed leaves (R370). -/
theorem rotateFrame_spec {k : Nat} (hc : (s.frame k).comp = 0) (gen : Nat) :
    Accessed s (s.rotateFrame k gen) ∧ ((s.rotateFrame k gen).frame k).gen = gen % 2
      ∧ ∀ g, g / 16 = (s.frame k).loc.getD k →
          (s.rotateFrame k gen).ctr g = { major := (s.ctr g).major + 1, minors := [] } := by
  have hr : s.rotateFrame k gen = (((List.range 16).map fun i => 16 * (s.frame k).loc.getD k + i).foldl State.renewGroup
      (s.zeroLines ((s.frame k).loc.getD k))).setFrame k fun x => { x with gen := gen % 2 } := by
    simp [State.rotateFrame, hc, groupsOfName]
  rw [hr]
  refine ⟨?_, by simp, fun g hg => ?_⟩
  · exact (accessed_zeroLines ..).trans ((accessed_foldl accessed_renewGroup _ _).trans (accessed_setFrame ..))
  · rw [ctr_setFrame, ctr_foldl_renewGroup (groups_nodup _), if_pos (mem_groups hg), ctr_zeroLines]

theorem work_krotPage {e : TlbEntry} (hr : j.result = none) (hv : j.verdict = none)
    (hb : (s.vf j.vf).bind ≠ .quarantined) (ho : j.cmd.opc = 0x20) (hbusy : j.busy = false)
    (hslot : s.sys.slotOpen = none) (hp : j.page < kbLen j.cmd.block / 65536)
    (hw : s.walkPage j.ctx (kbBase j.cmd.block + 65536 * j.page) = .ok e)
    (hown : s.owns j.vf (e.phys (kbBase j.cmd.block + 65536 * j.page)) = true)
    (hgen : (s.frame (e.phys (kbBase j.cmd.block + 65536 * j.page) / 65536)).gen ≠ (s.vf j.vf).cur % 2)
    (hbad : s.nameBad (e.phys (kbBase j.cmd.block + 65536 * j.page) / 65536) = false) :
    s.work key j = some ({ j with page := j.page + 1, count := j.count + 1 },
      (s.rotateFrame (e.phys (kbBase j.cmd.block + 65536 * j.page) / 65536) (s.vf j.vf).cur).onVf j.vf
        fun v => { v with rotated := v.rotated + 1 }) := by
  have hn : ¬ kbLen j.cmd.block / 65536 ≤ j.page := by omega
  have hk : s.krotPage j = ({ j with page := j.page + 1, count := j.count + 1 },
      (s.rotateFrame (e.phys (kbBase j.cmd.block + 65536 * j.page) / 65536) (s.vf j.vf).cur).onVf j.vf
        fun v => { v with rotated := v.rotated + 1 }) := by
    simp only [State.krotPage, frameBytes]
    rw [if_neg hn, hw]
    simp [hown, hgen, hbad]
  simp [State.work, hr, hv, hb, ho, hbusy, hslot, hk]

/-- A page of a rotation leaves its frame in the current generation, its groups' counters started anew. -/
theorem krotPage_happens {k : Nat} (hj : s.sys.jobs[key]? = some j) (hr : j.result = none) (ho : j.cmd.opc = 0x20)
    (hcomp : (s.frame k).comp = 0)
    (hw : s.work key j = some ({ j with page := j.page + 1, count := j.count + 1 },
      (s.rotateFrame k (s.vf j.vf).cur).onVf j.vf fun v => { v with rotated := v.rotated + 1 })) :
    ∃ t, happens (.keyCommandComplete key) s t ∧ (t.frame k).gen = (s.vf j.vf).cur % 2
      ∧ (t.vf j.vf).rotated = (s.vf j.vf).rotated + 1
      ∧ t.sys.jobs[key]? = some { j with page := j.page + 1, count := j.count + 1 }
      ∧ ∀ g, g / 16 = (s.frame k).loc.getD k → (t.ctr g).major = (s.ctr g).major + 1 ∧ (t.ctr g).minors = [] := by
  obtain ⟨hacc, hframe, hctr⟩ := rotateFrame_spec hcomp (s.vf j.vf).cur
  generalize s.rotateFrame k (s.vf j.vf).cur = u at hw hacc hframe hctr
  refine ⟨_, keyComplete_happens hj (.inl (by simp [ho])) (tryKeyCommandComplete_part hj hw hr), hframe, ?_, ?_,
    fun g hg => ?_⟩
  · simp [vf_accessed hacc]
  · obtain ⟨hlt, -⟩ := List.getElem?_eq_some_iff.mp hj
    exact List.getElem?_set_self (by rw [Laws.onVf_sys, hacc.jobs]; exact hlt)
  · exact ⟨congrArg CtrBlock.major (hctr g hg), congrArg CtrBlock.minors (hctr g hg)⟩

end

/-! ### Hand-off (R369) -/

/-- The job that a hand-off makes of a command. -/
def handedJob (s : State) (core : Nat) (m : Cmd) (g : Gang) : KeyJob :=
  { core := core, cmd := m, launch := g.launch, vf := (s.coreOf core).vfOf, ctx := (s.coreOf core).ctx, gang := g.id,
    since := s.sys.tick, queue := (s.launchOf g.launch).map fun l => l.queue }

/-- The state as a command has passed to the Amindaer. -/
def handedOff (s : State) (core : Nat) (m : Cmd) (rest : List Cmd) (g : Gang) : State :=
  let u := s.setCore core { (s.coreOf core).freeAll m.id with keys := rest }
  { u with sys := { u.sys with jobs := u.sys.jobs ++ [handedJob s core m g] } }

theorem coreOf_handedOff (s : State) (core : Nat) (m : Cmd) (rest : List Cmd) (g : Gang) :
    (handedOff s core m rest g).coreOf core = { (s.coreOf core).freeAll m.id with keys := rest } :=
  (Laws.coreOf_setCore ..).trans (if_pos rfl)

@[simp] theorem vf_handedOff (s : State) (core : Nat) (m : Cmd) (rest : List Cmd) (g : Gang) (k : Nat) :
    (handedOff s core m rest g).vf k = s.vf k := rfl

theorem forked_of_later {c : Core} {id : Nat} (h : ∀ x ∈ c.gacc, id < x.id) (s : State) : s.forked c id = true := by
  refine List.all_eq_true.mpr fun x hx => ?_
  simp [h x hx]

/-- A hand-off, of a command that is no KROT or finds no rotation of its tenant running. -/
theorem keyHandoff_happens {s : State} {core : Nat} {m : Cmd} {rest : List Cmd} {g : Gang}
    (hk : (s.coreOf core).keys = m :: rest) (hg : s.gangAt core = some g) (hh : s.enginesHeld core = false)
    (hs : s.sys.slotOpen ≠ some 2) (hacc : ∀ x ∈ (s.coreOf core).gacc, m.id < x.id)
    (hrot : (m.opc == 0x20 && s.rotating (s.coreOf core).vfOf) = false) :
    happens (.keyHandoff core) s
      (if m.opc == 0x20 && (s.vf (s.coreOf core).vfOf).bind != .quarantined then
        (handedOff s core m rest g).onVf (s.coreOf core).vfOf Vf.rotate
      else handedOff s core m rest g) := by
  have hgate : (s.enginesHeld core || !(s.forked (s.coreOf core) m.id) || s.sys.slotOpen == some 2) = false := by
    simp [hh, forked_of_later hacc, hs]
  show Host.Outcome.next ((tryKeyHandoff core s).getD s) = _
  unfold tryKeyHandoff
  dsimp only
  rw [hk, hg]
  dsimp only
  rw [hgate, hrot]
  simp only [Bool.false_eq_true, if_false, Option.getD_some, Bool.not_false, Bool.and_true]
  rfl

/-- Settles O32: each clause is the issue, the hand-off or one part of a command, put together from its own lemma. -/
theorem keyPort : Obligations.KeyPort := by
  unfold Obligations.KeyPort
  refine ⟨fun f s _ hgd hst => ?_, fun core key s => ⟨fun m rest g hk hg hh hs hacc => ⟨fun ho => ?_, fun ho hrot hb => ?_⟩,
    fun j hj => ⟨fun r u hr hstat hcomp hwait hwr => ?_, fun hr hv ho hb hq => ?_,
      fun hr hv hb ho hkind hq hrot hold hgen hheld => ?_,
      fun e hr hv hb ho hbusy hslot hp hw hown hgen hcomp hbad => ?_,
      fun hr hv hsl hb ho hwait hslot => ?_⟩⟩⟩
  · exact ⟨keyCommand_issues (Laws.onGuard_true hgd _) hst, keyCommand_issues (Laws.onGuard_true hgd _) hst,
      keyCommand_issues (Laws.onGuard_true hgd _) hst, keyCommand_issues (Laws.onGuard_true hgd _) hst,
      keyCommand_issues (Laws.onGuard_true hgd _) hst, keyCommand_issues (Laws.onGuard_true hgd _) hst⟩
  · have hn : (m.opc == 0x20) = false := by simpa using ho
    have hx := keyHandoff_happens hk hg hh hs hacc (by simp [hn])
    rwa [if_neg (by simp [hn])] at hx
  · have hx := keyHandoff_happens hk hg hh hs hacc (by simp [hrot])
    rw [if_pos (by simp [ho, hb])] at hx
    refine ⟨_, hx, coreOf_handedOff s core m rest g, ?_, ?_, List.length_append, rfl⟩ <;>
      (rw [Laws.vf_onVf, if_pos rfl]; rfl)
  · have hw : s.work key j = some (j, s) := by simp [State.work, hr]
    have hn : s.jobWaits j = false := by simp [State.jobWaits, hwait, hcomp]
    refine keyComplete_happens hj (.inr (.inl (by simp [hr]))) ?_
    rw [tryKeyCommandComplete_last hj hw hr hn, setJob_self hj]
    have hwr : State.gWrite { s with sys := { s.sys with jobs := s.sys.jobs.erase j } } .package j.ctx
        (kbStat j.cmd.block) (statusRecord j.cmd r) accStore false false = (.ok (), u) := hwr
    simp [State.finishJob, hstat, hwr, hcomp]
  · obtain ⟨hs0, hc0⟩ := hq
    refine keyComplete_happens hj (.inl ho) ?_
    exact tryKeyCommandComplete_quiet hj (work_quarantined hr hv hb) rfl hs0 hc0
  · obtain ⟨hs0, hc0⟩ := hq
    have hw := work_scrubKeys (key := key) hr hv hb ho hkind
    rw [scrubKeys_destroys hrot hold hgen hheld] at hw
    refine ⟨_, keyComplete_happens hj (.inl (by simp [ho])) (tryKeyCommandComplete_quiet hj hw rfl hs0 hc0),
      ?_, rfl, rfl, rfl⟩
    change (s.onVf j.vf fun v => { v with old := false }).vf j.vf = _
    rw [Laws.vf_onVf, if_pos rfl]
  · exact krotPage_happens hj hr ho hcomp (work_krotPage hr hv hb ho hbusy hslot hp hw hown hgen hbad)
  · obtain ⟨t, ht, hlast⟩ := tryKeyCommandComplete_lastOf hj (work_seal hr hv hsl hb ho hwait hslot) hr
    exact ⟨t, keyComplete_happens hj (.inl (by simp [ho])) ht, (congrFun hlast _).trans (lastOf_sealStart s j)⟩

end Sys2Proof.Proofs
end

section
/-! PROOFS. Gangs placed, and the ends of launches (R12, R168, R170, R194 to R196, R329 to R331). Settles LaunchesAndGangs. -/

namespace Sys2Proof.Proofs

open Sys2Proof Sys2Proof.Machine Sys2Proof.Safety

/-! ### A change of cores one after another -/

theorem coreOf_foldl_onCore_of_not_mem {k : Nat} (g : Nat → Core → Core) {l : List (Nat × Nat)}
    (hk : k ∉ l.map Prod.fst) (s : State) :
    (l.foldl (fun s p => s.onCore p.1 (g p.2)) s).coreOf k = s.coreOf k := by
  induction l generalizing s with
  | nil => rfl
  | cons p l ih =>
    obtain ⟨hp, hl⟩ := not_or.mp (mt List.mem_cons.mpr hk)
    rw [List.foldl_cons, ih hl, Laws.coreOf_onCore, if_neg (Ne.symm hp)]

theorem coreOf_foldl_onCore_of_mem {k m : Nat} (g : Nat → Core → Core) {l : List (Nat × Nat)}
    (hl : (l.map Prod.fst).Nodup) (hk : (k, m) ∈ l) (s : State) :
    (l.foldl (fun s p => s.onCore p.1 (g p.2)) s).coreOf k = g m (s.coreOf k) := by
  induction l generalizing s with
  | nil => cases hk
  | cons p l ih =>
    obtain ⟨hp, hl⟩ := List.nodup_cons.mp hl
    rw [List.foldl_cons]
    obtain rfl | hk := List.mem_cons.mp hk
    · rw [coreOf_foldl_onCore_of_not_mem g hp, Laws.coreOf_onCore, if_pos rfl]
    · have hne : p.1 ≠ k := fun h => hp (h ▸ List.mem_map_of_mem hk)
      rw [ih hl hk, Laws.coreOf_onCore, if_neg hne]

theorem sys_foldl {α : Type} {g : State → α → State} (hg : ∀ s a, (g s a).sys = s.sys) (l : List α) (s : State) :
    (l.foldl g s).sys = s.sys := by
  induction l generalizing s with
  | nil => rfl
  | cons a l ih => rw [List.foldl_cons, ih, hg]

/-! ### A new gang (R12, R195) -/

/-- The gang of a launch that starts on its cores. -/
def newGang (s : State) (l : Launch) (cores : List Nat) : Gang :=
  { id := s.sys.nextId, launch := l.id, gidx := l.nextGang, token := s.sys.nextToken, tags := l.tags, cores := cores }

theorem startGang_sys (s : State) (l : Launch) (cores : List Nat) :
    (s.startGang l cores).sys = { s.sys with
      launches := s.sys.launches.map fun x => if x.id = l.id then { x with nextGang := x.nextGang + 1 } else x,
      gangs := s.sys.gangs ++ [newGang s l cores], nextId := s.sys.nextId + 1, nextToken := s.sys.nextToken + 1 } := by
  unfold State.startGang
  simp only [State.onLaunch, sys_foldl (fun _ _ => Laws.onCore_sys ..)]
  rfl

/-- A core as a gang's start leaves it at its place among the members. -/
def startsAs (l : Launch) (gang clusters member : Nat) (c : Core) : Core := c.started l gang l.nextGang l.tags clusters member

theorem startGang_coreOf (s : State) (l : Launch) (cores : List Nat) (k : Nat) :
    (s.startGang l cores).coreOf k = (cores.zipIdx.foldl (fun t p =>
      t.onCore p.1 (startsAs l s.sys.nextId (clusterCount cores) p.2)) s).coreOf k := by
  rfl

theorem startGang_coreOf_other {cores : List Nat} {k : Nat} (hk : k ∉ cores) (s : State) (l : Launch) :
    (s.startGang l cores).coreOf k = s.coreOf k := by
  rw [startGang_coreOf, coreOf_foldl_onCore_of_not_mem (startsAs l s.sys.nextId (clusterCount cores))]
  simpa using hk

theorem startGang_coreOf_member {cores : List Nat} {m k : Nat} (hn : cores.Nodup) (hk : cores[m]? = some k) (s : State)
    (l : Launch) :
    (s.startGang l cores).coreOf k = startsAs l s.sys.nextId (clusterCount cores) m (s.coreOf k) := by
  rw [startGang_coreOf, coreOf_foldl_onCore_of_mem (startsAs l s.sys.nextId (clusterCount cores)) (m := m)]
  · simpa using hn
  · exact List.mk_mem_zipIdx_iff_getElem?.mpr hk

/-! ### Launches by number -/

theorem launchOf_onLaunch {s : State} {id : Nat} {l : Launch} {g : Launch → Launch} (hg : ∀ x, (g x).id = x.id)
    (h : s.launchOf id = some l) : (s.onLaunch id g).launchOf id = some (g l) := by
  have hk (x : Launch) : (if x.id = id then g x else x).id = x.id := by split <;> simp [hg]
  show ((s.sys.launches.map _).find? _) = _
  rw [find?_map_key hk]
  simp only [State.launchOf] at h
  simp [h, launchOf_id h]

/-! ### GANG_PLACE (R195 to R197) -/

/-- The state without its contexts. -/
def noContexts (s : State) : State := { s with sys := { s.sys with contexts := [] } }

theorem noContexts_onContext (s : State) (c : Nat) (g : Context → Context) :
    noContexts (s.onContext c g) = noContexts s := rfl

/-- The grants of a round change contexts alone. -/
theorem noContexts_grant (s : State) (all live : List Nat) (n : Nat) :
    noContexts (s.grant all live n) = noContexts s := by
  unfold State.grant
  split
  · rfl
  · induction all generalizing s with
    | nil => rfl
    | cons c all ih => exact (ih _).trans (noContexts_onContext ..)

theorem cores_of_noContexts {s u : State} (h : noContexts u = noContexts s) : u.cores = s.cores := by
  have hc := congrArg State.cores h
  exact hc

theorem placeNew_cores (s : State) (vf : Nat) (l : Launch) (cores : List Nat) :
    (s.placeNew vf l cores).cores = (s.startGang l cores).cores := by
  unfold State.placeNew
  dsimp only
  split <;> rfl

theorem placeNew_gangs (s : State) (vf : Nat) (l : Launch) (cores : List Nat) :
    (s.placeNew vf l cores).sys.gangs = s.sys.gangs ++ [newGang s l cores] := by
  have h := congrArg Sys.gangs (startGang_sys s l cores)
  unfold State.placeNew
  dsimp only
  split <;> exact h

theorem placeNew_mem (s : State) (vf : Nat) (l : Launch) (cores : List Nat) :
    (s.placeNew vf l cores).sys.mem = s.sys.mem := by
  have h := congrArg Sys.mem (startGang_sys s l cores)
  unfold State.placeNew
  dsimp only
  split <;> exact h

theorem placeNew_launches (s : State) (vf : Nat) (l : Launch) (cores : List Nat) :
    (s.placeNew vf l cores).sys.launches
      = (s.onLaunch l.id fun x => { x with nextGang := x.nextGang + 1 }).sys.launches := by
  have h := congrArg Sys.launches (startGang_sys s l cores)
  unfold State.placeNew
  dsimp only
  split <;> exact h

/-- What a visit that finds a launch comes to. -/
def placed (s : State) (vf : Nat) (p : Launch × Option (List Nat)) : State :=
  match p with
  | (l, some cs) => s.placeNew vf l cs
  | (l, none) => s.unplaceable l

/-- The contexts whose queues GANG_PLACE may serve, those among them that have an eligible queue, and the state as the
rounds that are due have begun. -/
def liveContexts (s : State) (vf : Nat) : List Nat :=
  (s.ctxsOf vf).filter fun c => (s.queuesOf c).any fun e => e.2.eligible

def roundsBegun (s : State) (vf : Nat) : State :=
  s.grant (s.ctxsOf vf) (liveContexts s vf) (s.rounds (liveContexts s vf))

def visitOrder (s : State) (vf : Nat) : List Nat :=
  (roundOrder (s.vf vf).lastCtx (liveContexts s vf)).filter fun c =>
    0 < ((roundsBegun s vf).context c).balance && !((roundsBegun s vf).sys.saved.any fun g => g.ctx == c)

/-- Whether a function's gangs may be placed, and none of its saved gangs comes first. -/
def mayPlace (s : State) (vf : Nat) : Prop :=
  (s.vf vf).bind = .bound ∧ (s.vf vf).tdisp = .run ∧ (∃ b ∈ s.sys.bedNow, b.2 = vf) ∧ s.nextSaved vf = none
    ∧ (liveContexts s vf).any s.headsPaused = false

theorem gangPlace_happens {s : State} {vf : Nat} {p : Launch × Option (List Nat)} (hmay : mayPlace s vf)
    (hvisit : (visitOrder s vf).findSome? ((roundsBegun s vf).nextPlace vf) = some p) :
    happens (.gangPlace vf) s (placed (roundsBegun s vf) vf p) := by
  obtain ⟨hb, ht, ⟨b, hmem, hbed⟩, hsaved, hpause⟩ := hmay
  have hheld : (s.sys.bedNow.any fun b => b.2 == vf) = true := List.any_eq_true.mpr ⟨b, hmem, by simp [hbed]⟩
  have hgate : ((s.vf vf).bind != .bound || (s.vf vf).tdisp != .run || !(s.sys.bedNow.any fun b => b.2 == vf)) = false := by
    simp [hb, ht, hheld]
  have hplace : tryGangPlace vf s = some (placed (roundsBegun s vf) vf p) := by
    unfold tryGangPlace
    dsimp only
    rw [hgate, hsaved]
    simp only [Bool.false_eq_true, if_false]
    change (if (liveContexts s vf).any s.headsPaused then none
      else match (visitOrder s vf).findSome? ((roundsBegun s vf).nextPlace vf) with
        | some (l, some cs) => _
        | some (l, none) => _
        | none => _) = _
    rw [hpause, hvisit]
    obtain ⟨l, _ | cs⟩ := p <;> rfl
  show Host.Outcome.next ((tryGangPlace vf s).getD s) = _
  rw [hplace]
  rfl

/-- A core as R12 and R195 have it at the start of a gang. -/
theorem startsAs_registers (l : Launch) (gang clusters m : Nat) (c : Core) :
    let d := startsAs l gang clusters m c
    (∀ i, d.modq.toList.getD i 3#64 = 3#64) ∧ ∀ i, i < 64 → d.formes.toList.getD i 0 = l.formes.getD i 0 := by
  refine ⟨fun i => ?_, fun i hi => ?_⟩
  · show (Vector.replicate 8 3#64).toList.getD i 3#64 = 3#64
    rw [Vector.toList_replicate, List.getD_eq_getElem?_getD, List.getElem?_replicate]
    split <;> rfl
  · show (Vector.ofFn fun i : Fin 64 => l.formes.getD i.val 0).toList.getD i 0 = _
    simp [List.getD_eq_getElem?_getD, hi]

/-- What a gang's start comes to in a state that differs from another in its contexts alone. -/
theorem gangPlace_starts {s u : State} {vf : Nat} {l : Launch} {cs : List Nat} (hu : noContexts u = noContexts s)
    (hx : happens (.gangPlace vf) s (u.placeNew vf l cs)) (hn : cs.Nodup) :
    ∃ t, happens (.gangPlace vf) s t ∧ t.sys.mem = s.sys.mem ∧ (∀ k, k ∉ cs → t.coreOf k = s.coreOf k)
      ∧ (∃ g ∈ t.sys.gangs, g.cores = cs ∧ g.gidx = l.nextGang ∧ g.launch = l.id ∧ g.id = s.sys.nextId)
      ∧ (∀ x, s.launchOf l.id = some x → t.launchOf l.id = some { x with nextGang := x.nextGang + 1 })
      ∧ ∀ m k, cs[m]? = some k →
          let c := t.coreOf k
          c.main = { pc := l.code } ∧ c.hnd = {} ∧ c.modeS = l.s ∧ c.hen = false ∧ c.intrap = false ∧ c.flags = 0#64
            ∧ c.flagen = 0#64 ∧ c.argp = l.args ∧ c.trapvec = l.trapvec ∧ c.sp = [] ∧ c.deque = [] ∧ c.arr = 0#8
            ∧ c.gang = BitVec.ofNat 64 (m + l.gsize * 2 ^ 11 + l.tags * 2 ^ 23 + clusterCount cs * 2 ^ 27 + l.nextGang * 2 ^ 32)
            ∧ c.placed = some s.sys.nextId ∧ c.used = true ∧ c.departed = false ∧ (∀ i, c.modq.toList.getD i 3#64 = 3#64)
            ∧ ∀ i, i < 64 → c.formes.toList.getD i 0 = l.formes.getD i 0 := by
  have hcores : u.cores = s.cores := cores_of_noContexts hu
  have hid : u.sys.nextId = s.sys.nextId := congrArg (·.sys.nextId) hu
  refine ⟨_, hx, ?_, fun k hk => ?_, ⟨newGang u l cs, ?_, rfl, rfl, rfl, hid⟩, fun x h => ?_, fun m k hk => ?_⟩
  · exact (placeNew_mem ..).trans (congrArg (·.sys.mem) hu)
  · rw [coreOf_of_cores (placeNew_cores ..), startGang_coreOf_other hk, coreOf_of_cores hcores]
  · rw [placeNew_gangs]
    exact List.mem_append_right _ (List.mem_singleton.mpr rfl)
  · have hl : u.launchOf l.id = some x := by
      rwa [State.launchOf, show u.sys.launches = s.sys.launches from congrArg (·.sys.launches) hu]
    rw [State.launchOf, placeNew_launches]
    exact launchOf_onLaunch (fun _ => rfl) hl
  · have hc : (u.placeNew vf l cs).coreOf k = startsAs l s.sys.nextId (clusterCount cs) m (u.coreOf k) := by
      rw [coreOf_of_cores (placeNew_cores ..), startGang_coreOf_member hn hk, hid]
    dsimp only
    rw [hc]
    exact ⟨rfl, rfl, rfl, rfl, rfl, rfl, rfl, rfl, rfl, rfl, rfl, rfl, rfl, rfl, rfl, rfl, startsAs_registers ..⟩

/-! ### The ends of launches (R194, R195) -/

theorem retireHead_launch (s : State) (k : Nat) : ((s.retireHead k).queueOf k).launch = none := by
  unfold State.retireHead
  rw [Laws.queueOf_onQueue, if_pos rfl]

theorem unplaceable_cores (s : State) (l : Launch) : (s.unplaceable l).cores = s.cores := rfl

theorem unplaceable_launch (s : State) (l : Launch) : ((s.unplaceable l).queueOf l.queue).launch = none :=
  retireHead_launch ..

theorem unplaceable_ends (s : State) (l : Launch) :
    ∀ x ∈ (s.unplaceable l).sys.launches, x.id = l.id → x.status = 3 ∧ x.dropped = true := by
  intro x hx hid
  obtain ⟨y, -, rfl⟩ := List.mem_map.mp hx
  by_cases hy : y.id = l.id
  · simp [hy]
  · simp [hy] at hid

/-- The state without a launch. -/
def withoutLaunch (id : Nat) (s : State) : State :=
  { s with sys := { s.sys with launches := s.sys.launches.filter fun x => x.id ≠ id } }

section
variable {s : State} {launch : Nat} {l : Launch}

theorem over_of_ended (ha : l.aborting = false) (hd : l.dropped = true ∨ l.nextGang = l.gcount)
    (he : l.ended = l.nextGang) : l.over = true := by
  simp [Launch.over, ha, hd, he]

theorem launchComplete_of_try {t : State} (h : tryLaunchComplete launch s = some t) :
    happens (.launchComplete launch) s t := by
  show Host.Outcome.next ((tryLaunchComplete launch s).getD s) = _
  rw [h]
  rfl

/-- A launch over that advances no object leaves; its record has left HEAD before. -/
theorem tryLaunchComplete_plain (h : s.launchOf launch = some l) (ho : l.over = true)
    (hq : (s.queueOf l.queue).launch ≠ some l.id) (hd : l.done = 0#64) :
    tryLaunchComplete launch s = some (withoutLaunch l.id s) := by
  simp [tryLaunchComplete, h, ho, hd, hq, withoutLaunch]

/-- A launch over leaves once its status is written and its object advanced. -/
theorem tryLaunchComplete_counts {x y : State} (h : s.launchOf launch = some l) (ho : l.over = true)
    (hq : (s.queueOf l.queue).launch ≠ some l.id) (hd : l.done ≠ 0#64)
    (hp : s.rangePaused l.ctx l.done.toNat 16 = false)
    (hx : s.gWrite (compositor l.queue) l.ctx (l.done.toNat + 8) (natToBytes 8 l.status) accStore false false = (.ok (), x))
    (hy : x.gAdd (compositor l.queue) l.ctx l.done.toNat l.inc accStore false false = (.ok (), y)) :
    tryLaunchComplete launch s = some (withoutLaunch l.id y) := by
  have hacc : Accessed s y := (accessed_of_gWrite hx).trans (accessed_of_gAdd hy)
  have hq' : (y.queueOf l.queue).launch ≠ some l.id := by
    rwa [State.queueOf, hacc.queues]
  simp [tryLaunchComplete, h, ho, hd, hp, hx, hy, hq', withoutLaunch]

end

/-! ### A launch ended by a fault (R329 to R331) -/

/-- Each launch is still there, with as many of its gangs placed. -/
def KeepsLaunches (s t : State) : Prop :=
  ∀ id l, s.launchOf id = some l → ∃ x, t.launchOf id = some x ∧ x.nextGang = l.nextGang

theorem KeepsLaunches.trans {s t u : State} (h : KeepsLaunches s t) (h' : KeepsLaunches t u) : KeepsLaunches s u := by
  intro id l hl
  obtain ⟨x, hx, hxl⟩ := h id l hl
  obtain ⟨y, hy, hyx⟩ := h' id x hx
  exact ⟨y, hy, hyx.trans hxl⟩

theorem keepsLaunches_of_eq {s t : State} (h : t.sys.launches = s.sys.launches) : KeepsLaunches s t := by
  intro id l hl
  exact ⟨l, by rwa [State.launchOf, h], rfl⟩

theorem keepsLaunches_ownAccessFault (s : State) (ctx kind : Nat) : KeepsLaunches s (s.ownAccessFault ctx kind) := by
  unfold State.ownAccessFault State.quarantineCtx
  split
  · split
    · exact keepsLaunches_of_eq rfl
    · next vf _ =>
      intro id l hl
      have hk (x : Launch) : (if x.vf = vf then x.condemn { s.bareFault kINTEG with kind := kINTEG } else x).id = x.id := by
        split <;> rfl
      refine ⟨if l.vf = vf then l.condemn { s.bareFault kINTEG with kind := kINTEG } else l, ?_, by split <;> rfl⟩
      show ((s.sys.launches.map _).find? _) = _
      rw [find?_map_key hk]
      exact congrArg (Option.map _) hl
  · exact keepsLaunches_of_eq rfl

/-! The kernel cannot check an unfolding of `State.putRecords` at a list of a known shape: it then evaluates the write, whose
image has more than two million bytes. So its recursion is taken apart at a list that stays a variable. -/

/-- What a recursion over a list has of the tail's value, if there is a tail. -/
def tailHas {β : Type} (P : β → Prop) : (l : List Nat) → List.below (motive := fun _ => β) l → Prop
  | [], _ => True
  | _ :: _, b => P b.1

theorem brecOn_induct {β : Type} {P : β → Prop} {F : (l : List Nat) → List.below (motive := fun _ => β) l → β}
    (hF : ∀ l b, tailHas P l b → P (F l b)) (l : List Nat) : P (List.brecOn l F) := by
  induction l with
  | nil => exact hF [] _ trivial
  | cons k l ih => exact hF (k :: l) _ ih

theorem tailHas_match {β γ : Type} {Q : γ → Prop} {P : β → Prop} {onNil : Nat → Nat → γ}
    {onCons : (k : Nat) → (ks : List Nat) → Nat → Nat → List.below (motive := fun _ => β) (k :: ks) → γ}
    (hn : ∀ dva n, Q (onNil dva n)) (hc : ∀ k ks dva n b, P b.1 → Q (onCons k ks dva n b)) (l : List Nat) (dva n : Nat)
    (b : List.below (motive := fun _ => β) l) (hb : tailHas P l b) :
    Q ((match (motive := (x : List Nat) → Nat → Nat → List.below (motive := fun _ => β) x → γ) l, dva, n with
      | [], dva, n => fun _ => onNil dva n
      | k :: ks, dva, n => fun b => onCons k ks dva n b) b) := by
  cases l with
  | nil => exact hn _ _
  | cons k l => exact hc k l dva n b hb

/-- An answer that comes with a state which accesses have made of another. -/
def AnswersAfter {α : Type} (s : State) (r : α × State) : Prop := Accessed s r.2

theorem answersAfter_putRecords (s : State) (ctx : Nat) (ks : List Nat) (dva n : Nat) :
    AnswersAfter s (s.putRecords ctx ks dva n) := by
  delta State.putRecords
  refine brecOn_induct (P := fun g : State → Nat → Nat → (Nat × Option Nat) × State =>
    ∀ s dva n, AnswersAfter s (g s dva n)) (fun ks b hb s dva n => ?_) ks s dva n
  refine tailHas_match (Q := AnswersAfter s) ?_ (fun k ks dva n b hb => ?_) ks dva n b hb
  · exact fun _ _ => Accessed.refl s
  · split
    next hw => exact accessed_of_gWrite hw
    next hw => exact (accessed_of_gWrite hw).trans (hb ..)

theorem keepsLaunches_dump (s : State) (l : Launch) (f : FirstFault) (cores : List Nat) :
    KeepsLaunches s (s.dump l f cores) := by
  unfold State.dump
  dsimp only
  split
  · exact keepsLaunches_of_eq rfl
  · have hx := accessed_gWrite s .package l.ctx (s.context l.ctx).dumpDva.toNat (dumpHeader f 0) accStore false false
    generalize s.gWrite .package l.ctx (s.context l.ctx).dumpDva.toNat (dumpHeader f 0) accStore false false = r at hx
    obtain ⟨r1, t⟩ := r
    cases r1 with
    | error x => exact (keepsLaunches_of_eq hx.launches).trans (keepsLaunches_ownAccessFault _ _ _)
    | ok _ =>
      have hp := answersAfter_putRecords t l.ctx (cores.take (((s.context l.ctx).dumpLen - 64) / recordBytes))
        ((s.context l.ctx).dumpDva.toNat + 64) 0
      dsimp only
      generalize t.putRecords l.ctx (cores.take (((s.context l.ctx).dumpLen - 64) / recordBytes))
        ((s.context l.ctx).dumpDva.toNat + 64) 0 = q at hp
      obtain ⟨⟨n, e⟩, u⟩ := q
      have hu : KeepsLaunches s u := keepsLaunches_of_eq (Accessed.trans hx hp).launches
      refine KeepsLaunches.trans ?_ (keepsLaunches_of_eq (accessed_gWrite ..).launches)
      cases e with
      | none => exact hu
      | some x => exact hu.trans (keepsLaunches_ownAccessFault _ _ _)

theorem wipe_sys (s : State) (g : Gang) : (s.wipe g).sys = s.sys := by
  unfold State.wipe
  split
  · exact sys_foldl (fun _ _ => Laws.onCore_sys ..) _ _
  · rfl

/-- A core that has left its gang, or leaves it among others, is in none. -/
theorem placed_foldl_released {k : Nat} {l : List Nat} (s : State)
    (h : k ∈ l ∨ (s.coreOf k).placed = none) :
    ((l.foldl (fun s k => s.onCore k Core.released) s).coreOf k).placed = none := by
  induction l generalizing s with
  | nil => exact h.resolve_left (List.not_mem_nil)
  | cons i l ih =>
    rw [List.foldl_cons]
    refine ih _ ?_
    rw [Laws.coreOf_onCore]
    by_cases hi : i = k
    · exact .inr (by rw [if_pos hi]; rfl)
    · rw [if_neg hi]
      exact h.imp_left fun hk => (List.mem_cons.mp hk).resolve_left (Ne.symm hi)

theorem releaseCores_placed {k : Nat} {cores : List Nat} (hk : k ∈ cores) (s : State) :
    ((s.releaseCores cores).coreOf k).placed = none := placed_foldl_released s (.inl hk)

theorem releaseCores_launches (s : State) (cores : List Nat) : (s.releaseCores cores).sys.launches = s.sys.launches := by
  have h := congrArg Sys.launches (sys_foldl (g := fun s k => s.onCore k Core.released)
    (fun _ _ => Laws.onCore_sys ..) cores s)
  exact h

/-- The state as an aborted launch's gangs are dumped and its cores have left them. -/
def gangsGone (s : State) (launch : Nat) (l : Launch) (f : FirstFault) : State :=
  ((s.gangsOf launch).foldl State.wipe (s.dump l f ((s.gangsOf launch).flatMap Gang.cores))).releaseCores
    ((s.gangsOf launch).flatMap Gang.cores)

theorem gangsGone_keeps (s : State) (launch : Nat) (l : Launch) (f : FirstFault) :
    KeepsLaunches s (gangsGone s launch l f) :=
  (keepsLaunches_dump s l f _).trans (keepsLaunches_of_eq
    ((releaseCores_launches ..).trans (congrArg Sys.launches (sys_foldl wipe_sys _ _))))

/-- What is left to do then: the launch's progress, and what waits for it. -/
def abortEnd (u : State) (launch : Nat) (l : Launch) (f : FirstFault) (cores : List Nat) : State :=
  let status := if l.status = 0 then 1 + f.kind * 2 ^ 8 + f.gidx * 2 ^ 16 else l.status
  let s := u.onLaunch launch fun x => { x with aborting := false, dropped := true, ended := x.nextGang, status := status }
  let zero := if f.kind = kPREEMPTKILL then cores.filter fun k => !(s.sys.zeroing.contains k) else []
  { s with sys := { s.sys with
    gangs := s.sys.gangs.filter fun g => g.launch ≠ launch,
    saved := s.sys.saved.filter fun g => g.launch ≠ launch,
    faults := s.sys.faults.filter fun r => r.launch ≠ launch,
    zeroing := s.sys.zeroing ++ zero } }

theorem abortEnd_cores (u : State) (launch : Nat) (l : Launch) (f : FirstFault) (cores : List Nat) :
    (abortEnd u launch l f cores).cores = u.cores := rfl

theorem abortEnd_gangs {u : State} {launch : Nat} {l : Launch} {f : FirstFault} {cores : List Nat} {g : Gang}
    (hg : g ∈ (abortEnd u launch l f cores).sys.gangs) : g.launch ≠ launch := by
  simpa using (List.mem_filter.mp hg).2

theorem abortEnd_launchOf {u : State} {launch : Nat} {x : Launch} (h : u.launchOf launch = some x) (l : Launch)
    (f : FirstFault) (cores : List Nat) :
    (abortEnd u launch l f cores).launchOf launch = some { x with
      aborting := false, dropped := true, ended := x.nextGang,
      status := if l.status = 0 then 1 + f.kind * 2 ^ 8 + f.gidx * 2 ^ 16 else l.status } :=
  launchOf_onLaunch (fun _ => rfl) h

theorem launchAbort_of_try {s t : State} {launch : Nat} (h : tryLaunchAbort launch s = some t) :
    happens (.launchAbort launch) s t := by
  show Host.Outcome.next ((tryLaunchAbort launch s).getD s) = _
  rw [h]
  rfl

/-- What the end of an aborted launch leaves of it. -/
theorem launchAbort_happens {s : State} {launch : Nat} {l : Launch} {f : FirstFault} (h : s.launchOf launch = some l)
    (hf : l.fault = some f) (ha : l.aborting = true)
    (hq : s.quietened ((s.gangsOf launch).flatMap Gang.cores) = true)
    (hp : s.rangePaused l.ctx (s.context l.ctx).dumpDva.toNat (s.dumpSize l ((s.gangsOf launch).flatMap Gang.cores)) = false) :
    ∃ t, happens (.launchAbort launch) s t ∧ (∀ g ∈ t.sys.gangs, g.launch ≠ launch)
      ∧ (∀ k ∈ (s.gangsOf launch).flatMap Gang.cores, (t.coreOf k).placed = none)
      ∧ ∃ x, t.launchOf launch = some x ∧ x.aborting = false ∧ x.dropped = true ∧ x.ended = l.nextGang
        ∧ x.status = if l.status = 0 then 1 + f.kind * 2 ^ 8 + f.gidx * 2 ^ 16 else l.status := by
  have hgate : (!l.aborting || !(s.quietened ((s.gangsOf launch).flatMap Gang.cores)) || s.rangePaused l.ctx
      (s.context l.ctx).dumpDva.toNat (s.dumpSize l ((s.gangsOf launch).flatMap Gang.cores))) = false := by
    simp [ha, hq, hp]
  have htry : tryLaunchAbort launch s
      = some (abortEnd (gangsGone s launch l f) launch l f ((s.gangsOf launch).flatMap Gang.cores)) := by
    unfold tryLaunchAbort
    rw [h]
    dsimp only
    rw [hf]
    dsimp only
    rw [hgate]
    rfl
  obtain ⟨x, hx, hxl⟩ := gangsGone_keeps s launch l f launch l h
  refine ⟨_, launchAbort_of_try htry, fun g => abortEnd_gangs, fun k hk => ?_,
    ⟨_, abortEnd_launchOf hx .., rfl, rfl, hxl, rfl⟩⟩
  rw [coreOf_of_cores (abortEnd_cores ..)]
  exact releaseCores_placed hk _

/-- Settles O42: the two ends of a visit of GANG_PLACE, the two of a launch that is over, and the end of an aborted one. -/
theorem launchesAndGangs : Obligations.LaunchesAndGangs := by
  unfold Obligations.LaunchesAndGangs
  refine fun vf launch s => ⟨fun l cs hmay hvisit hn => ?_, fun l hmay hvisit => ?_,
    fun l h ha hd he hq => ⟨fun hdone => ?_, fun hdone hp x y hx hy => ?_⟩, fun l f h hf ha hq hp => ?_⟩
  · exact gangPlace_starts (noContexts_grant ..) (gangPlace_happens hmay hvisit) hn
  · exact ⟨_, gangPlace_happens hmay hvisit, (unplaceable_cores ..).trans (cores_of_noContexts (noContexts_grant ..)),
      unplaceable_ends _ l, unplaceable_launch _ l⟩
  · exact launchComplete_of_try (tryLaunchComplete_plain h (over_of_ended ha hd he) hq hdone)
  · exact launchComplete_of_try (tryLaunchComplete_counts h (over_of_ended ha hd he) hq hdone hp hx hy)
  · exact launchAbort_happens h hf ha hq hp

end Sys2Proof.Proofs
end

section
/-! PROOFS. The state at reset, and the spec's worked encodings. -/

namespace Sys2Proof.Proofs

open Sys2Proof Sys2Proof.Machine Sys2Proof.Safety

theorem coreOf_reset (k : Nat) : State.reset.coreOf k = {} := rfl

/-- Settles O59: the reset state is the record of defaults, so that every core, context, queue and engine reads as one. -/
theorem resetState : Obligations.ResetState := by
  refine ⟨Laws.Canonical_reset, fun k => ?_, fun _ => rfl, fun _ => rfl, rfl, rfl, rfl, rfl, rfl, rfl, rfl, rfl, rfl, rfl,
    by decide⟩
  rw [coreOf_reset]
  refine ⟨rfl, rfl, rfl, rfl, rfl, rfl, rfl, rfl, rfl, rfl, rfl, rfl, rfl, rfl, rfl, rfl, rfl, rfl, rfl, rfl, rfl, rfl, rfl,
    rfl, rfl, rfl, rfl, by decide, by decide, rfl, rfl, fun b n => ⟨?_, rfl⟩⟩
  cases b <;> simp [Core.pred, Core.bank, Bank.pred]

/-! ### Worked encodings

In a namespace of its own: the theorem would hide the function `Sys2Proof.decodeWords` from later proofs. -/

namespace Encodings

/-- Settles O54: the decoder is evaluated on the words of each row of the table. -/
theorem decodeWords : Obligations.DecodeWords := by
  unfold Obligations.DecodeWords
  decide

end Encodings

end Sys2Proof.Proofs
end

section
/-! PROOFS. Transfers, loops, traps and services of CTL (R45 to R64, R72, R188). -/

namespace Sys2Proof.Proofs

open Sys2Proof Sys2Proof.Machine Sys2Proof.Safety Sys2Proof.Laws

variable {f : Fields} {s : State}

/-! ### Results and holds of CTL -/

/-- A result written by the cross path to an x register (R44). -/
theorem gives_writeX (f : Fields) (opc lat : Nat) (v : Word) (s : State) :
    gives s (writeX f opc lat v s) f.slot .x f.d.toNat (.word v) 0 :=
  result_gives s f opc .x f.d.toNat (some lat) (.word v) 0 f.d.isLt rfl

/-- An instruction that writes a value by the cross path yields it. -/
theorem yields_writeX {i : Instr} {opc lat : Nat} {v : Word} (h : exec i s = .next (writeX f opc lat v s)) :
    yields i f s .x v 0 :=
  ⟨_, h, gives_writeX f opc lat v s⟩

/-- The hold that an instruction asks for is its bundle's, unless the bundle has one already. -/
theorem waitsFor_holds {i : Instr} {h : Hold} (hi : exec i s = .next (s.holds h)) : waitsFor i s h := by
  cases hb : s.bun.hold with
  | none => exact ⟨h, by rw [becomes, hi, State.holds, hb], fun _ => rfl⟩
  | some old =>
    exact ⟨if h.replaces old then h else old, by rw [becomes, hi, State.holds, hb], fun hn => absurd (hb ▸ hn) nofun⟩

/-! ### Transfers (R45, R72) -/

theorem exec_nop (hg : guardOf f s = true) : exec (.nop f) s = .next s := congrArg _ (if_pos hg)
theorem exec_br (hg : guardOf f s = true) : exec (.br f) s = .next (s.goes (relTarget f s)) := congrArg _ (if_pos hg)
theorem exec_brx (hg : guardOf f s = true) : exec (.brx f) s = .next (s.goesReg f (opXA f s)) := congrArg _ (if_pos hg)
theorem exec_call (hg : guardOf f s = true) :
    exec (.call f) s = .next (writeX f 0x03 2 s.bun.next (s.goes (relTarget f s))) := congrArg _ (if_pos hg)
theorem exec_callx (hg : guardOf f s = true) :
    exec (.callx f) s = .next (writeX f 0x04 2 s.bun.next (s.goesReg f (opXA f s))) := congrArg _ (if_pos hg)

theorem relTarget_eq (f : Fields) (s : State) :
    relTarget f s = s.bun.hdr + 4#64 * (if f.len = .three then f.l32.signExtend 64 else f.i16.signExtend 64) := by
  cases h : f.len <;> simp [relTarget, h, immL32, immI16]

theorem targetOk_iff (t : Word) : targetOk t = true ↔ t.toNat % 4 = 0 ∧ t.toNat < 2 ^ 56 := by
  simp [targetOk]

theorem goesReg_legal {t : Word} (h : t.toNat % 4 = 0 ∧ t.toNat < 2 ^ 56) (s : State) (f : Fields) :
    s.goesReg f t = s.goes t := if_pos ((targetOk_iff t).mpr h)

theorem goesReg_illegal {t : Word} (h : ¬(t.toNat % 4 = 0 ∧ t.toNat < 2 ^ 56)) (s : State) (f : Fields) :
    s.goesReg f t = s.raise f kUNALIGN t := if_neg (mt (targetOk_iff t).mp h)

/-- Settles O15: the relative transfers by their target, those through a register by whether it is legal; the link is a result
beside the transfer. -/
theorem transfers : Obligations.Transfers := by
  intro f s hg
  refine ⟨exec_nop hg, ?br, fun h => ?brx, fun h => ?brxBad, ?call, fun h => ?callx, fun h => ?callxBad⟩
  case br => rw [exec_br hg, relTarget_eq]; rfl
  case brx => rw [exec_brx hg, opXA, goesReg_legal h]; rfl
  case brxBad => rw [exec_brx hg, opXA, goesReg_illegal h]; rfl
  case call => exact ⟨_, exec_call hg, by rw [relTarget_eq]; exact gives_writeX ..⟩
  case callx => exact ⟨_, exec_callx hg, by rw [opXA, goesReg_legal h]; exact gives_writeX ..⟩
  case callxBad => exact ⟨_, exec_callx hg, by rw [opXA, goesReg_illegal h]; exact gives_writeX ..⟩

/-! ### Loops (R48, R49, R52, R54) -/

theorem exec_loop (hg : guardOf f s = true) : exec (.loop f) s = .next (openLoops f false s) := congrArg _ (if_pos hg)
theorem exec_loops (hg : guardOf f s = true) : exec (.loops f) s = .next (openLoops f true s) := congrArg _ (if_pos hg)
theorem exec_lbrk (hg : guardOf f s = true) : exec (.lbrk f) s = .next (breakLoop f s) := congrArg _ (if_pos hg)
theorem exec_lidx (hg : guardOf f s = true) :
    exec (.lidx f) s = .next (writeX f 0x08 2
      (lidx (s.bun.pre.bank s.bun.hnd).loops (f.i16.toNat % 8) (f.i16.toNat / 8 % 8)) s) := congrArg _ (if_pos hg)

theorem loopCount_eq (f : Fields) (s : State) :
    loopCount f s = if f.len = .three then f.l32.setWidth 64 else s.rd .x f.a.toNat := by
  cases h : f.len <;> simp [loopCount, h, immZ32, opXA]

theorem loopBlocked_iff (loops : List LoopEntry) (frozen : Nat) :
    loopBlocked loops frozen = true ↔
      loops.length ≥ 6 ∨ (frozen < loops.length ∧ ∃ e, loops.head? = some e ∧ e.staged = true) := by
  cases loops with
  | nil => simp [loopBlocked]
  | cons e ls => simp [loopBlocked, and_comm]

/-- LIM under LBRK is the lesser of N and E + 1 (R52). -/
theorem limited_eq (e : LoopEntry) : limited e = BitVec.ofNat 64 (min e.n.toNat (e.e.toNat + 1)) := by
  unfold limited
  split
  case isTrue h => rw [Nat.min_eq_left h, BitVec.ofNat_toNat, BitVec.setWidth_eq]
  case isFalse h =>
    rw [Nat.min_eq_right (by omega)]
    apply BitVec.eq_of_toNat_eq
    simp

theorem openLoops_blocked {staged : Bool}
    (h : loopBlocked (s.bun.pre.bank s.bun.hnd).loops (s.bun.pre.frozen s.bun.hnd) = true) :
    openLoops f staged s = s.raise f kILLB 0 0xB := if_pos h

theorem openLoops_skips {staged : Bool}
    (h : ¬loopBlocked (s.bun.pre.bank s.bun.hnd).loops (s.bun.pre.frozen s.bun.hnd) = true) (hn : loopCount f s = 0#64) :
    openLoops f staged s = { s with bun := { s.bun with
      target := some (s.bun.hdr + BitVec.ofNat 64 (4 * (f.i16.toNat % 8192))), clears := staged } } :=
  (if_neg h).trans (if_pos hn)

/-- The entry that LOOP or LOOPS opens (R48). -/
def opened (f : Fields) (staged : Bool) (s : State) : LoopEntry :=
  openLoop s.bun.next (s.bun.hdr + BitVec.ofNat 64 (4 * (f.i16.toNat % 8192))) staged (f.i16.toNat / 8192) (loopCount f s)

theorem openLoops_opens {staged : Bool}
    (h : ¬loopBlocked (s.bun.pre.bank s.bun.hnd).loops (s.bun.pre.frozen s.bun.hnd) = true) (hn : loopCount f s ≠ 0#64) :
    openLoops f staged s = { s with bun := { s.bun with stages := staged, cur := (s.bun.cur.setBank s.bun.hnd
      { s.bun.cur.bank s.bun.hnd with loops := opened f staged s :: (s.bun.cur.bank s.bun.hnd).loops }) } } :=
  (if_neg h).trans (if_neg hn)

/-- Innermost loop out of reach: there is none, or every entry is frozen (R52, R61). -/
theorem breakLoop_outOfReach (h : (s.bun.pre.bank s.bun.hnd).loops.length ≤ s.bun.pre.frozen s.bun.hnd) :
    breakLoop f s = s.raise f kILLB 0 0xB := by
  simp only [breakLoop]
  split
  · exact if_pos h
  · rfl

section
variable {e : LoopEntry} {rest : List LoopEntry} (hl : (s.bun.pre.bank s.bun.hnd).loops = e :: rest)
  (hf : s.bun.pre.frozen s.bun.hnd < (s.bun.pre.bank s.bun.hnd).loops.length)
include hl hf

theorem breakLoop_plain (hs : e.staged = false) :
    breakLoop f s = (s.onCur fun c => c.setBank s.bun.hnd { c.bank s.bun.hnd with loops := rest }).goes e.stopAt := by
  simp only [breakLoop]
  rw [hl] at hf ⊢
  simp only [if_neg (Nat.not_le.mpr hf), hs, Bool.false_eq_true, if_false]

theorem breakLoop_staged (hs : e.staged = true) :
    breakLoop f s = s.onCur fun c =>
      c.setBank s.bun.hnd { c.bank s.bun.hnd with loops := { e with lim := limited e } :: rest } := by
  simp only [breakLoop]
  rw [hl] at hf ⊢
  simp only [if_neg (Nat.not_le.mpr hf), hs, if_true]
end

theorem lidx_stage {loops : List LoopEntry} {depth stage : Nat} {e : LoopEntry} (h : loops[depth]? = some e)
    (hs : stage < e.stages) : lidx loops depth stage = e.base + e.e - BitVec.ofNat 64 stage := by
  simp only [lidx, h, if_neg (Nat.not_le.mpr hs)]

theorem lidx_none {loops : List LoopEntry} {depth stage : Nat} (h : ∀ e, loops[depth]? = some e → e.stages ≤ stage) :
    lidx loops depth stage = BitVec.allOnes 64 := by
  unfold lidx
  split
  · rfl
  case h_2 e he => exact if_pos (h e he)

/-- What LOOP and LOOPS do, by whether the stack takes an entry and by the count (R48, R49). -/
theorem opens_cases {i : Instr} {staged : Bool} {full : Prop} {n : Word}
    (hi : exec i s = .next (openLoops f staged s))
    (hfull : loopBlocked (s.bun.pre.bank s.bun.hnd).loops (s.bun.pre.frozen s.bun.hnd) = true ↔ full)
    (hn : loopCount f s = n) :
    (full → becomes i s fun b => { b with raised := b.raised ++ [⟨kILLB, f.slot, 0, 0xB, 0⟩] })
      ∧ (¬full → n = 0#64 → becomes i s fun b => { b with
          target := some (s.bun.hdr + BitVec.ofNat 64 (4 * (f.i16.toNat % 8192))), clears := staged })
      ∧ (¬full → n ≠ 0#64 → becomes i s fun b => { b with stages := staged, cur := (b.cur.setBank b.hnd
          { b.cur.bank b.hnd with loops := opened f staged s :: (b.cur.bank b.hnd).loops }) }) := by
  subst hn
  refine ⟨fun h => ?_, fun h h0 => ?_, fun h h0 => ?_⟩
  · rw [becomes, hi, openLoops_blocked (hfull.mpr h)]; rfl
  · rw [becomes, hi, openLoops_skips (mt hfull.mp h) h0]
  · rw [becomes, hi, openLoops_opens (mt hfull.mp h) h0]

/-- Settles O16: a loop opens, is skipped or is blocked; LBRK meets no loop in reach, a plain one or a staged one; LIDX finds the
stage or does not. -/
theorem loops : Obligations.Loops := by
  refine ⟨fun f s hg => ?open_, fun f s hg => ⟨fun h => ?_, fun e rest hl hf hs => ?_, fun e rest hl hf hs => ?_,
    fun e he hs => ?_, fun h => ?_⟩⟩
  case open_ =>
    obtain ⟨hb, hz, ho⟩ := opens_cases (exec_loop hg) (loopBlocked_iff ..) (loopCount_eq ..)
    obtain ⟨hb', hz', ho'⟩ := opens_cases (exec_loops hg) (loopBlocked_iff ..) (loopCount_eq ..)
    exact ⟨⟨hb, hz, fun h h0 => ⟨_, _, ho h h0, rfl, rfl, loopCount_eq .., loopCount_eq .., rfl, rfl, rfl, rfl, rfl, rfl⟩⟩,
      hb', hz', fun h h0 => ⟨_, _, ho' h h0, rfl, rfl, loopCount_eq .., loopCount_eq .., rfl, rfl, rfl, rfl, rfl, rfl⟩⟩
  · rw [becomes, exec_lbrk hg, breakLoop_outOfReach h]; rfl
  · rw [becomes, exec_lbrk hg, breakLoop_plain hl hf hs]; rfl
  · rw [becomes, exec_lbrk hg, breakLoop_staged hl hf hs, limited_eq]; rfl
  · exact yields_writeX ((exec_lidx hg).trans (by rw [lidx_stage he hs]))
  · exact yields_writeX ((exec_lidx hg).trans (by rw [lidx_none h]))

/-! ### Traps (R59, R62, R63) -/

theorem exec_trap (hg : guardOf f s = true) : exec (.trap f) s = .next (s.raise f kTRAPI (f.i16.setWidth 64)) :=
  congrArg _ (if_pos hg)

/-- Whether a trap handler may return: it runs, and its loop stack has the depth of its entry (R62). -/
def mayLeave (c : Core) : Prop := c.intrap = true ∧ c.main.loops.length = c.traprec.toNat / 2 ^ 16 % 8

theorem eret_illegal_iff (c : Core) :
    ((!c.intrap || decide (c.main.loops.length ≠ c.frozen false)) = true) ↔ ¬mayLeave c := by
  cases h : c.intrap <;> simp [mayLeave, Core.frozen, h]

theorem exec_eret_illegal (hg : guardOf f s = true) (h : ¬mayLeave s.bun.pre) :
    exec (.eret f) s = .next (s.raise f kILLB 0 0xB) :=
  (congrArg _ (if_pos hg)).trans (congrArg _ (if_pos ((eret_illegal_iff _).mpr h)))

/-- ERET of a handler that may return leaves it for TRAPPC; the stages are those of the innermost loop (R62). -/
theorem exec_eret_returns (hg : guardOf f s = true) (h : mayLeave s.bun.pre) :
    ∃ staged, exec (.eret f) s = .next { s with bun := { s.bun with
        cur := s.bun.cur.leaveTrap, target := some s.bun.pre.trappc, stages := staged } }
      ∧ (s.bun.pre.main.loops = [] → staged = false) ∧ ∀ e r, s.bun.pre.main.loops = e :: r → staged = e.staged := by
  have hn := mt (eret_illegal_iff s.bun.pre).mp (not_not.mpr h)
  refine ⟨_, (congrArg _ (if_pos hg)).trans (congrArg _ (if_neg hn)), fun hl => ?_, fun e r hl => ?_⟩ <;> rw [hl]

theorem fenced_iff (c : Core) (hnd : Bool) (first : Nat) :
    c.fenced hnd first = true ↔ (∀ p ∈ c.pend, p.hnd = hnd → first ≤ p.id) ∧ ∀ o ∈ c.mats, first ≤ o.cmd.id := by
  simp only [Core.fenced, Bool.and_eq_true, List.all_eq_true, Bool.or_eq_true, bne_iff_ne, decide_eq_true_eq,
    ← imp_iff_not_or, ne_eq]

theorem exec_tfence_waits (hg : guardOf f s = true) (h : ¬s.bun.cur.fenced s.bun.hnd s.bun.first = true) :
    exec (.tfence f) s = .next (s.holds .tfence) :=
  (congrArg _ (if_pos hg)).trans (congrArg _ (if_pos (by simpa using h)))

theorem exec_tfence_goes (hg : guardOf f s = true) (h : s.bun.cur.fenced s.bun.hnd s.bun.first = true) :
    exec (.tfence f) s = .next (if s.bun.cur.enabledFlags = 0#64 then s else s.raise f kARITH s.bun.cur.enabledFlags) :=
  (congrArg _ (if_pos hg)).trans (congrArg _ (if_neg (by simpa using h)))

/-! ### Services (R64, R188, R376) -/

theorem exec_sysc (hg : guardOf f s = true) : exec (.sysc f) s = .next (s.asks f 0x12 .x
    (.sysc f.i16.toNat (if f.i16 = 2 then s.pointOf s.bun.core else s.rd .x f.a.toNat))) := congrArg _ (if_pos hg)
theorem exec_kstat (hg : guardOf f s = true) : exec (.kstat f) s = .next (s.asks f 0x25 .e
    (.kstat (f.i16.toNat % 4) (s.rd f.slot.file f.a.toNat))) := congrArg _ (if_pos hg)

/-- RESUMEG in mode U, with a token that is none, and with a token (R188). -/
theorem exec_resumeg_user (hg : guardOf f s = true) (hm : s.bun.pre.modeS = false) :
    exec (.resumeg f) s = .next (s.raise f kPRIV) :=
  (congrArg _ (if_pos hg)).trans (congrArg _ (if_pos (by simpa using hm)))
theorem exec_resumeg_wide (hg : guardOf f s = true) (hm : s.bun.pre.modeS = true) (hx : 2 ^ 32 ≤ (s.rd .x f.a.toNat).toNat) :
    exec (.resumeg f) s = .next (s.raise f kPROT (s.rd .x f.a.toNat)) :=
  (congrArg _ (if_pos hg)).trans (congrArg _ ((if_neg (by simpa using hm)).trans (if_pos hx)))
theorem exec_resumeg (hg : guardOf f s = true) (hm : s.bun.pre.modeS = true) (hx : (s.rd .x f.a.toNat).toNat < 2 ^ 32) :
    exec (.resumeg f) s = .next (s.asks f 0x2D .x (.resumeg (s.rd .x f.a.toNat).toNat)) :=
  (congrArg _ (if_pos hg)).trans (congrArg _ ((if_neg (by simpa using hm)).trans (if_neg (Nat.not_le.mpr hx))))

/-- A result whose clk is not fixed leaves its register empty, and adds nothing but itself to the core (R14, R19). -/
theorem produce_later (c : Core) (hnd : Bool) (k : Slot) (hdr : Word) (opc : Nat) (file : RFile) (n : Nat) (v : RegVal) :
    let d := c.produce hnd k hdr opc file n none v 0
    d = { c with pend := d.pend, nextId := d.nextId } ∧ (discards file n = false → d.isEmpty hnd file n = true) := by
  by_cases hd : discards file n = true
  · simp [Core.produce, hd]
  · simp [Core.produce, hd, Core.isEmpty, Pend.names]

/-- A request leaves its register empty until the reply, and posts itself under the number of that result (R19). -/
theorem asks_spec (s : State) (f : Fields) (opc : Nat) (file : RFile) (what : Ask) (hn : f.d.toNat < file.size)
    (hf : fits file (.word 0) = true) :
    let t := s.asks f opc file what
    t.bun.post = s.bun.post ++ [.ask s.bun.cur.nextId what]
      ∧ (discards file f.d.toNat = false → t.bun.cur.isEmpty s.bun.hnd file f.d.toNat = true)
      ∧ t = { s with bun := { s.bun with post := t.bun.post, cur :=
          { s.bun.cur with pend := t.bun.cur.pend, nextId := t.bun.cur.nextId } } }
      ∧ ∀ h file' n, sameReg s.bun.hnd file f.d.toNat h file' n = false →
          settled t.bun.cur h file' n = settled s.bun.cur h file' n := by
  obtain ⟨hcore, hempty⟩ := produce_later s.bun.cur s.bun.hnd f.slot s.bun.hdr opc file f.d.toNat (.word 0)
  obtain ⟨-, -, hset, -⟩ := result_gives s f opc file f.d.toNat none (.word 0) 0 hn hf
  refine ⟨rfl, hempty, ?_, fun h file' n hs => (hset h file' n).trans (by simp [hs])⟩
  exact congrArg (fun c => { s with bun := { s.bun with
    cur := c, post := s.bun.post ++ [Post.ask s.bun.cur.nextId what] } }) hcore

/-- Settles O17: each instruction by its equation, and the service requests by what every request does. -/
theorem trapsAndServices : Obligations.TrapsAndServices := by
  intro f s hg
  refine ⟨exec_trap hg, fun h => exec_eret_illegal hg ?_, fun hi hl => ?eret, fun h => ?_, fun h h0 => ?_, fun h h0 => ?_,
    ⟨_, exec_sysc hg, asks_spec _ _ _ _ _ f.d.isLt rfl⟩, fun hd => ⟨_, exec_kstat hg, asks_spec _ _ _ _ _ hd rfl⟩,
    exec_resumeg_user hg, exec_resumeg_wide hg, fun hm hx => ⟨_, exec_resumeg hg hm hx, asks_spec _ _ _ _ _ f.d.isLt rfl⟩⟩
  · rintro ⟨hi, hl⟩
    rcases h with h | h
    · exact Bool.false_ne_true (h.symm.trans hi)
    · exact h hl
  case eret =>
    obtain ⟨staged, ht, hnil, hcons⟩ := exec_eret_returns hg ⟨hi, hl⟩
    rw [becomes, ht]
    cases hs : s.bun.pre.main.loops with
    | nil => rw [hnil hs]; rfl
    | cons e r => rw [hcons e r hs]; rfl
  · exact waitsFor_holds (exec_tfence_waits hg (mt (fenced_iff ..).mp h))
  · exact (exec_tfence_goes hg ((fenced_iff ..).mpr h)).trans (congrArg _ (if_pos h0))
  · exact (exec_tfence_goes hg ((fenced_iff ..).mpr h)).trans (congrArg _ (if_neg h0))

end Sys2Proof.Proofs
end

section
/-! PROOFS. Compares, predicate operations, PTOX and XTOP (R55, R56, R74). -/

namespace Sys2Proof.Proofs

open Sys2Proof Sys2Proof.Machine Sys2Proof.Safety Sys2Proof.Laws

variable {f : Fields} {s : State}

/-! ### One predicate set (R55, R74) -/

/-- An instruction whose effect is one predicate. -/
theorem setsPred_setP {i : Instr} {n : Nat} {v : Bool} (hi : exec i s = .next (s.setP n v)) (hn : n < 16) :
    setsPred i s n v := ⟨_, hi, rfl, setPred_sets s.bun.cur s.bun.hnd n v hn⟩

/-- A compare or TSTBIT sets the predicate that its operation gives. -/
theorem setsPred_compare {i : Instr} {op : Word → Word → Bool} {v : Bool} (hg : guardOf f s = true)
    (hi : exec i s = onGuard f s (Machine.compare f op)) (hv : op (opA f s) (opBA f s) = v) (hd : f.d.toNat < 16) :
    setsPred i s f.d.toNat v :=
  setsPred_setP (by rw [hi, onGuard_true hg, Machine.compare, hv]) hd

/-- A predicate operation of CTL sets the predicate that its operation gives (R55). -/
theorem setsPred_predOp {i : Instr} {op : Bool → Bool → Bool} {v : Bool} (hg : guardOf f s = true)
    (hi : exec i s = onGuard f s (predOp f op)) (hv : op (s.rdPred f.a.toNat) (s.rdPred f.b.toNat) = v) (hd : f.d.toNat < 16) :
    setsPred i s f.d.toNat v :=
  setsPred_setP (by rw [hi, onGuard_true hg, predOp, hv]) hd

theorem bne_decide (a b : Word) : (a != b) = decide (a ≠ b) := by
  rw [bne, beq_eq_decide, decide_not]

/-! ### The sixteen predicates (R56) -/

theorem exec_ptox (hg : guardOf f s = true) :
    exec (.ptox f) s = .next (writeX f 0x0E 2 ((s.bun.pre.bank s.bun.hnd).predWord.setWidth 64) s) := congrArg _ (if_pos hg)

/-- p0 reads as true, among the sixteen too (R10). -/
theorem predWord_getLsbD (b : Bank) (k : Nat) : b.predWord.getLsbD k = (decide (k < 16) && b.pred k) := by
  rw [Bank.predWord, Bank.pred, BitVec.getLsbD_or, BitVec.getLsbD_one]
  by_cases hk : k < 16
  · simp [hk, Bool.or_comm]; rfl
  · simp [hk, BitVec.getLsbD_of_ge b.preds k (by omega)]; omega

theorem exec_xtop (hg : guardOf f s = true) :
    exec (.xtop f) s = .next ((List.range 16).foldl (fun s' k =>
      if k ≠ 0 ∧ (opXB f s).getLsbD k then s'.setP k ((opXA f s).getLsbD k) else s') s) := congrArg _ (if_pos hg)

/-- Predicates of a sequencer written one by one where a mask has a 1: those and no other part of the machine. -/
theorem foldl_setP (on : Nat → Prop) [DecidablePred on] (v : Nat → Bool) (hon : ∀ k, on k → k ≠ 0) (s : State) (m : Nat)
    (hm : m ≤ 16) :
    let t := (List.range m).foldl (fun s' k => if on k then s'.setP k (v k) else s') s
    onlyCur s t ∧ t.bun.hnd = s.bun.hnd
      ∧ (∀ k, k < 16 → t.bun.cur.pred s.bun.hnd k = if k < m ∧ on k then v k else s.bun.cur.pred s.bun.hnd k)
      ∧ t.bun.cur = { s.bun.cur with main := { s.bun.cur.main with preds := t.bun.cur.main.preds },
                                     hnd := { s.bun.cur.hnd with preds := t.bun.cur.hnd.preds } } := by
  induction m with
  | zero => exact ⟨rfl, rfl, fun k _ => by simp, rfl⟩
  | succ m ih =>
    obtain ⟨hcur, hhnd, hpred, hframe⟩ := ih (by omega)
    simp only [List.range_succ, List.foldl_append, List.foldl_cons, List.foldl_nil]
    generalize (List.range m).foldl (fun s' k => if on k then s'.setP k (v k) else s') s = u at hcur hhnd hpred hframe
    by_cases ho : on m
    · obtain ⟨hset, hkeep⟩ := setPred_sets u.bun.cur u.bun.hnd m (v m) (by omega)
      simp only [ho, if_true, setP_bun]
      refine ⟨onlyCur_trans hcur rfl, hhnd, fun k hk => ?_, ?_⟩
      · rw [← hhnd, hset u.bun.hnd k hk, hhnd, hpred k hk]
        by_cases hkm : k = m
        · simp [hkm, ho, hon m ho]
        · simp only [hkm, false_and, and_false, if_false, show (k < m + 1 ↔ k < m) by omega]
      · rw [hkeep]
        rw [hframe]
    · simp only [ho, if_false]
      refine ⟨hcur, hhnd, fun k hk => ?_, hframe⟩
      rw [hpred k hk]
      by_cases hkm : k = m
      · simp [hkm, ho]
      · simp only [show (k < m + 1 ↔ k < m) by omega]

/-- Settles O5: each compare and predicate operation by its value, PTOX and XTOP predicate by predicate. -/
theorem predicateResults : Obligations.PredicateResults := by
  intro f s hg
  refine ⟨setsPred_compare hg rfl rfl, setsPred_compare hg rfl rfl,
    setsPred_compare hg rfl (bne_decide ..), setsPred_compare hg rfl (bne_decide ..),
    setsPred_compare hg rfl rfl, setsPred_compare hg rfl rfl, setsPred_compare hg rfl rfl, setsPred_compare hg rfl rfl,
    setsPred_compare hg rfl rfl, setsPred_compare hg rfl rfl, setsPred_compare hg rfl rfl, setsPred_compare hg rfl rfl,
    setsPred_compare hg rfl rfl, setsPred_compare hg rfl rfl,
    setsPred_predOp hg rfl rfl, setsPred_predOp hg rfl rfl, setsPred_predOp hg rfl rfl, setsPred_predOp hg rfl rfl,
    setsPred_predOp hg rfl rfl, ⟨_, yields_writeX (exec_ptox hg), fun k hk => ?ptox⟩, _, exec_xtop hg, ?xtop⟩
  case ptox => rw [BitVec.getLsbD_setWidth, predWord_getLsbD, decide_eq_true hk, Bool.true_and]; rfl
  case xtop =>
    obtain ⟨hcur, -, hpred, hframe⟩ := foldl_setP (fun k => k ≠ 0 ∧ (opXB f s).getLsbD k = true) (opXA f s).getLsbD
      (fun k h => h.1) s 16 (Nat.le_refl _)
    exact ⟨hcur, fun k hk => (hpred k hk).trans (by simp only [hk, true_and]), hframe⟩

end Sys2Proof.Proofs
end

section
/-! PROOFS. The calendar as SLOTQ and CALNEXT report it (R68, R298). -/

namespace Sys2Proof.Proofs

open Sys2Proof Sys2Proof.Machine Sys2Proof.Safety Sys2Proof.Laws

/-! ### Slots and their classes -/

/-- The class of the only slot that a period can meet: the long one of each 65,536 periods reaches into seven of them. -/
def classIn (q : Nat) : Nat := if q % 65536 ≤ 6 then 2 else if q % 64 = 0 then 1 else 0

theorem classIn_of_slotOf {q c n : Nat} (h : slotOf q = some (c, n)) : c = classIn q := by
  simp only [slotOf] at h
  split_ifs at h with h0 h6 h64
  · cases h; simp [classIn, h0]
  · cases h; simp [classIn, h6, h64]
  · cases h; simp [classIn, h6, h64]

theorem slotOf_opens {q : Nat} (h : q % 65536 = 0 ∨ 6 < q % 65536) : ∃ n, slotOf q = some (classIn q, n) := by
  cases hs : slotOf q with
  | some e => exact ⟨e.2, by rw [← classIn_of_slotOf (c := e.1) (n := e.2) hs]⟩
  | none =>
    simp only [slotOf] at hs
    split_ifs at hs with h0 h6
    omega

/-! ### The slot at a tick -/

/-- The slot at a tick by the period that the tick lies in. -/
theorem slotAt_eq (t : Nat) : slotAt t =
    let p := t / periodTicks
    if t < (p - p % 65536) * periodTicks + 24576 then some (2, (p - p % 65536) * periodTicks + 24576 - t)
    else (slotOf p).bind fun e => if t < p * periodTicks + e.2 then some (e.1, p * periodTicks + e.2 - t) else none := by
  simp only [slotAt]
  congr 1
  cases slotOf (t / periodTicks) <;> rfl

/-- A slot is of the class of its period. -/
theorem classIn_of_slotAt {t c left : Nat} (h : slotAt t = some (c, left)) : c = classIn (t / periodTicks) := by
  rw [slotAt_eq] at h
  dsimp only at h
  split_ifs at h with hl
  · cases h
    have : t / periodTicks % 65536 ≤ 6 := by
      unfold periodTicks at *
      omega
    simp [classIn, this]
  · obtain ⟨⟨c', n⟩, hs, he⟩ := Option.bind_eq_some_iff.mp h
    split_ifs at he
    cases he
    exact classIn_of_slotOf hs

/-- A slot is open from the start of its period or before: one that is open later in a period is open now. -/
theorem slotAt_earlier {t u c left : Nat} (hp : (t + u) / periodTicks = t / periodTicks) (h : slotAt (t + u) = some (c, left)) :
    ∃ left', slotAt t = some (c, left') := by
  rw [slotAt_eq] at h ⊢
  rw [hp] at h
  dsimp only at h ⊢
  by_cases hl : t < (t / periodTicks - t / periodTicks % 65536) * periodTicks + 24576
  · rw [if_pos hl]
    split_ifs at h
    · cases h; exact ⟨_, rfl⟩
    · obtain ⟨⟨c', n⟩, hs, he⟩ := Option.bind_eq_some_iff.mp h
      split_ifs at he
      cases he
      have hp6 : t / periodTicks % 65536 ≤ 6 := by
        unfold periodTicks at *
        omega
      have hc := classIn_of_slotOf hs
      simp only [classIn, hp6, if_true] at hc
      exact ⟨_, by rw [hc]⟩
  · rw [if_neg (by omega)] at h
    obtain ⟨⟨c', n⟩, hs, he⟩ := Option.bind_eq_some_iff.mp h
    split_ifs at he with hn
    cases he
    rw [if_neg hl, hs, Option.bind_some, if_pos (by dsimp only at hn ⊢; omega)]
    exact ⟨_, rfl⟩

/-- A slot opens with its period. -/
theorem slotAt_start {q c n : Nat} (h : slotOf q = some (c, n)) : slotAt (q * periodTicks) = some (c, n) := by
  have hp : q * periodTicks / periodTicks = q := Nat.mul_div_cancel _ (by decide)
  rw [slotAt_eq]
  simp only [hp]
  by_cases h0 : q % 65536 = 0
  · simp only [slotOf, h0, if_true] at h
    cases h
    rw [h0, Nat.sub_zero, if_pos (Nat.lt_add_of_pos_right (by decide)), Nat.add_sub_cancel_left]
  · have hlate : ¬q * periodTicks < (q - q % 65536) * periodTicks + 24576 := by
      have : 6 < q % 65536 := by
        by_contra h6
        simp [slotOf, h0, Nat.not_lt.mp h6] at h
      unfold periodTicks
      omega
    have hn : 0 < n := by
      simp only [slotOf] at h
      split_ifs at h <;> cases h <;> decide
    rw [if_neg hlate, h, Option.bind_some, if_pos (by omega), Nat.add_sub_cancel_left]

/-- While no slot of the long class is open, its periods are past. -/
theorem late_of_slotAt {t : Nat} (h : ∀ left, slotAt t ≠ some (2, left)) : 6 ≤ t / periodTicks % 65536 := by
  by_contra hc
  refine h ((t / periodTicks - t / periodTicks % 65536) * periodTicks + 24576 - t) ?_
  rw [slotAt_eq]
  refine if_pos ?_
  unfold periodTicks at *
  omega

/-! ### The next slot of a class -/

/-- The period in which the next slot of a class opens, 3 being any: no period before it meets a slot of the class. -/
structure IsNext (k p q : Nat) : Prop where
  later : p < q
  opens : ∃ c n, slotOf q = some (c, n) ∧ (k = 3 ∨ c = k)
  first : ∀ j, p < j → j < q → ¬(k = 3 ∨ classIn j = k)

theorem nextPeriod_long {p : Nat} (hp : 6 ≤ p % 65536) : IsNext 2 p (nextPeriod 2 p) := by
  have hq : nextPeriod 2 p = (p / 65536 + 1) * 65536 := rfl
  rw [hq]
  have hz : (p / 65536 + 1) * 65536 % 65536 = 0 := by omega
  refine ⟨by omega, ?_, fun j hj hl => ?_⟩
  · obtain ⟨n, hn⟩ := slotOf_opens (.inl hz)
    exact ⟨_, n, hn, .inr (by simp [classIn, hz])⟩
  · have h6 : ¬j % 65536 ≤ 6 := by omega
    by_cases h64 : j % 64 = 0 <;> simp [classIn, h6, h64]

theorem nextPeriod_middle (p : Nat) : IsNext 1 p (nextPeriod 1 p) := by
  have hq : nextPeriod 1 p = if (p / 64 + 1) * 64 % 65536 = 0 then (p / 64 + 1) * 64 + 64 else (p / 64 + 1) * 64 := rfl
  have h64 : nextPeriod 1 p % 64 = 0 := by rw [hq]; split <;> omega
  have h6 : 6 < nextPeriod 1 p % 65536 := by rw [hq]; split <;> omega
  refine ⟨by rw [hq]; split <;> omega, ?_, fun j hj hl => ?_⟩
  · obtain ⟨n, hn⟩ := slotOf_opens (.inr h6)
    exact ⟨_, n, hn, .inr (by simp [classIn, Nat.not_le.mpr h6, h64])⟩
  · have hm : j % 65536 ≤ 6 ∨ j % 64 ≠ 0 := by rw [hq] at hl; split at hl <;> omega
    by_cases hj6 : j % 65536 ≤ 6
    · simp [classIn, hj6]
    · simp [classIn, hj6, hm.resolve_left hj6]

/-- Whether the slot that opens with a period has a class, 3 being any. -/
def opensAs (k q : Nat) : Bool := match slotOf q with
  | some (c, _) => k = 3 || c = k
  | none => false

theorem opensAs_iff (k q : Nat) :
    opensAs k q = true ↔ (q % 65536 = 0 ∨ 6 < q % 65536) ∧ (k = 3 ∨ classIn q = k) := by
  cases hs : slotOf q with
  | some e =>
    have hc := classIn_of_slotOf (c := e.1) (n := e.2) hs
    have ho : q % 65536 = 0 ∨ 6 < q % 65536 := by
      by_contra h
      simp [slotOf, show q % 65536 ≠ 0 by omega, show q % 65536 ≤ 6 by omega] at hs
    simp [opensAs, hs, ho, hc]
  | none =>
    have ho : ¬(q % 65536 = 0 ∨ 6 < q % 65536) := fun h => by
      obtain ⟨n, hn⟩ := slotOf_opens h
      exact Option.some_ne_none _ (hn.symm.trans hs)
    simp [opensAs, hs, ho]

/-- The search for the next period goes to the first that opens a slot of the class. -/
theorem nextPeriod_search {k p i : Nat} (h1 : k ≠ 1) (h2 : k ≠ 2) (hi : i < 16) (ho : opensAs k (p + 1 + i) = true)
    (hf : ∀ j, j < i → opensAs k (p + 1 + j) = false) : nextPeriod k p = p + 1 + i := by
  have hfind : ((List.range 16).find? fun i => opensAs k (p + 1 + i)) = some i :=
    List.find?_range_eq_some.mpr ⟨ho, List.mem_range.mpr hi, fun j hj => by simp [hf j hj]⟩
  have hq : nextPeriod k p = ((List.range 16).find? fun i => opensAs k (p + 1 + i)).getD 0 + p + 1 := by
    rw [nextPeriod, if_neg h2, if_neg h1]
    rfl
  rw [hq, hfind, Option.getD_some]
  omega

theorem nextPeriod_any {p : Nat} (hp : 6 ≤ p % 65536) : IsNext 3 p (nextPeriod 3 p) := by
  have ho : opensAs 3 (p + 1 + 0) = true := (opensAs_iff ..).mpr ⟨by omega, .inl rfl⟩
  rw [nextPeriod_search (by decide) (by decide) (by decide) ho (fun j hj => absurd hj (Nat.not_lt_zero j))]
  obtain ⟨n, hn⟩ := slotOf_opens ((opensAs_iff ..).mp ho).1
  exact ⟨by omega, ⟨_, n, hn, .inl rfl⟩, fun j hj hl => by omega⟩

theorem classIn_eq_zero_iff (q : Nat) : classIn q = 0 ↔ 6 < q % 65536 ∧ q % 64 ≠ 0 := by
  by_cases h6 : q % 65536 ≤ 6
  · simp [classIn, h6, Nat.not_lt.mpr h6]
  · by_cases h64 : q % 64 = 0 <;> simp [classIn, h6, Nat.not_le.mp h6, h64]

theorem nextPeriod_short (p : Nat) : IsNext 0 p (nextPeriod 0 p) := by
  obtain ⟨i, hi, ho, hf⟩ : ∃ i, i < 16 ∧ classIn (p + 1 + i) = 0 ∧ ∀ j, j < i → classIn (p + 1 + j) ≠ 0 := by
    simp only [ne_eq, classIn_eq_zero_iff]
    by_cases h6 : (p + 1) % 65536 ≤ 6
    · exact ⟨7 - (p + 1) % 65536, by omega, by omega, fun j hj => by omega⟩
    · by_cases h64 : (p + 1) % 64 = 0
      · exact ⟨1, by omega, by omega, fun j hj => by omega⟩
      · exact ⟨0, by omega, by omega, fun j hj => by omega⟩
  have hlate := ((classIn_eq_zero_iff _).mp ho).1
  rw [nextPeriod_search (by decide) (by decide) hi ((opensAs_iff ..).mpr ⟨.inr hlate, .inr ho⟩) fun j hj => by
    rw [Bool.eq_false_iff, ne_eq, opensAs_iff]
    exact fun h => hf j hj (h.2.resolve_left (by decide))]
  obtain ⟨n, hn⟩ := slotOf_opens (.inr hlate)
  refine ⟨by omega, ⟨_, n, hn, .inr ho⟩, fun j hj hl h => ?_⟩
  have := hf (j - (p + 1)) (by omega)
  rw [show p + 1 + (j - (p + 1)) = j by omega] at this
  exact this (h.resolve_left (by decide))

/-- The next period of each class; of the long one and of any, once the long slot of the present block is past. -/
theorem nextPeriod_isNext {k p : Nat} (hk : k < 4) (hp : k = 2 ∨ k = 3 → 6 ≤ p % 65536) : IsNext k p (nextPeriod k p) := by
  match k, hk, hp with
  | 0, _, _ => exact nextPeriod_short p
  | 1, _, _ => exact nextPeriod_middle p
  | 2, _, hp => exact nextPeriod_long (hp (.inl rfl))
  | 3, _, hp => exact nextPeriod_any (hp (.inr rfl))

/-! ### What SLOTQ says (R68) -/

/-- SLOTQ's word of a slot that is to open. -/
theorem calendarSays_next {t k : Nat} (hk : k < 4) (h : ∀ c left, slotAt t = some (c, left) → ¬(k = 3 ∨ c = k)) :
    let n := nextSlot k t
    calendarSays t k (BitVec.ofNat 64 (n.1 - t + n.2.2 * 2 ^ 32 + n.2.1 * 2 ^ 48)) := by
  have hlate : k = 2 ∨ k = 3 → 6 ≤ t / periodTicks % 65536 := fun hk =>
    late_of_slotAt fun left hs => h 2 left hs (hk.elim (fun h => .inr h.symm) .inl)
  obtain ⟨later, ⟨c, n, hs, hc⟩, first⟩ := nextPeriod_isNext hk hlate
  generalize hq : nextPeriod k (t / periodTicks) = q at later hs first
  have hn : nextSlot k t = (q * periodTicks, c, n) := by simp only [nextSlot, hq, hs]
  have ht : t < q * periodTicks := by
    unfold periodTicks at *
    omega
  rw [hn]
  refine .inr ⟨q * periodTicks - t, c, n, Nat.sub_pos_of_lt ht, fun u hu c' left ha => ?_, ?_, hc, rfl⟩
  · by_cases hp : (t + u) / periodTicks = t / periodTicks
    · obtain ⟨left', ha'⟩ := slotAt_earlier hp ha
      exact h c' left' ha'
    · rw [classIn_of_slotAt ha]
      refine first _ ?_ ?_ <;> unfold periodTicks at * <;> omega
  · rw [show t + (q * periodTicks - t) = q * periodTicks by omega]
    exact slotAt_start hs

theorem slotq_calendarSays (t : Nat) {k : Nat} (hk : k < 4) : calendarSays t k (slotq t k) := by
  unfold slotq
  cases hs : slotAt t with
  | none => exact calendarSays_next hk fun c left h => by simp [hs] at h
  | some e =>
    obtain ⟨c, left⟩ := e
    dsimp only
    split
    case isTrue h => exact .inl ⟨c, left, hs, h, rfl⟩
    case isFalse h =>
      refine calendarSays_next hk fun c' left' h' => ?_
      cases hs.symm.trans h'
      exact h

end Sys2Proof.Proofs
end

section
/-! PROOFS. The flag registers and the control registers by number (R57 to R59, R65, R66, R202, R205, R238). -/

namespace Sys2Proof.Proofs

open Sys2Proof Sys2Proof.Machine Sys2Proof.Safety Sys2Proof.Laws

variable {f : Fields} {s : State}

/-! ### Flags (R57 to R59) -/

theorem exec_flagrd (hg : guardOf f s = true) :
    exec (.flagrd f) s = .next (writeX f 0x14 2 (s.bun.cur.flags &&& flagMask f.i16) s) := congrArg _ (if_pos hg)
theorem exec_flagclr (hg : guardOf f s = true) :
    exec (.flagclr f) s = .next (s.onCur fun c => c.clearFlags (flagMask f.i16) s.bun.landed) := congrArg _ (if_pos hg)

theorem testBit_bytesToNat (bs : List Byte) (k : Nat) :
    (bytesToNat bs).testBit k = (bs.getD (k / 8) 0#8).getLsbD (k % 8) := by
  induction bs generalizing k with
  | nil => simp [bytesToNat]
  | cons b bs ih =>
    rw [bytesToNat, Nat.add_comm, show 256 = 2 ^ 8 from rfl, Nat.testBit_two_pow_mul_add _ b.isLt]
    by_cases hk : k < 8
    · rw [if_pos hk, Nat.div_eq_of_lt hk, Nat.mod_eq_of_lt hk]
      rfl
    · obtain ⟨j, rfl⟩ := Nat.exists_eq_add_of_le' (Nat.not_lt.mp hk)
      rw [if_neg hk, Nat.add_sub_cancel, ih, Nat.add_div_right _ (by decide), Nat.add_mod_right, List.getD_cons_succ]

/-- Bit k of the mask: its byte is named by I16[7:0] and its place in the byte by I16[15:8] (R59). -/
theorem flagMask_getLsbD (i16 : BitVec 16) {k : Nat} (hk : k < 64) :
    (flagMask i16).getLsbD k = (i16.getLsbD (k / 8) && i16.getLsbD (8 + k % 8)) := by
  have h8 : k / 8 < 8 := by omega
  have hb : k % 8 < 8 := Nat.mod_lt _ (by decide)
  rw [flagMask, BitVec.getLsbD_ofNat, testBit_bytesToNat, decide_eq_true hk, Bool.true_and, List.getD_eq_getElem?_getD,
    List.getElem?_map, List.getElem?_range h8, Option.map_some, Option.getD_some]
  by_cases hi : i16.getLsbD (k / 8)
  · rw [if_pos hi, hi, BitVec.getLsbD_ofNat, decide_eq_true hb, Bool.true_and, Bool.true_and, show 256 = 2 ^ 8 from rfl,
      Nat.testBit_div_two_pow, Nat.add_comm]
    rfl
  · rw [if_neg hi, Bool.eq_false_iff.mpr hi, Bool.false_and, BitVec.getLsbD_zero]

/-- FLAGCLR of a bundle in whose clk no flag landed (R59). -/
theorem clearFlags_quiet (c : Core) (mask : Word) :
    c.clearFlags mask [] = { c with flags := c.flags &&& ~~~mask, firstev := c.firstev &&& 0x7FFFFFFFFFFFFFFF#64, firstpc := 0 } :=
  rfl

/-! ### CSRRD (R65) -/

/-- Outside RECORD mode an operation keeps its values and posts nothing (R341). -/
theorem logOp_live (h : s.bun.cur.recording = false) (ev : Nat) (vals : List Word) : s.logOp ev vals = (vals, s) := by
  simp [State.logOp, h]

theorem readLogged_live (h : s.bun.cur.recording = false) (f : Fields) (opc : Nat) (v : Word) :
    readLogged f opc v s = writeX f opc 2 v s := by
  simp [readLogged, logOp_live h]

theorem acquireEntries_cur (s : State) (c : Core) : (s.acquireEntries c).bun.cur = s.bun.cur := by
  unfold State.acquireEntries
  dsimp only
  split <;> rfl

theorem exec_csrrd (hg : guardOf f s = true) (hr : s.bun.cur.recording = false) (hn : f.i16.toNat ≠ 0x023) :
    exec (.csrrd f) s = .next (writeX f 0x16 2 (s.csr f.i16.toNat) s) := by
  refine (congrArg _ (if_pos hg)).trans ?_
  simp [hn, logOp_live hr]

/-- A read of MQTAIL acquires the entries that it shows (R238). -/
theorem exec_csrrd_tail (hg : guardOf f s = true) (hr : s.bun.cur.recording = false) (hn : f.i16.toNat = 0x023) :
    exec (.csrrd f) s = .next (writeX f 0x16 2 (s.csr 0x023) (s.acquireEntries s.bun.pre)) := by
  refine (congrArg _ (if_pos hg)).trans ?_
  have hr' : (s.acquireEntries s.bun.pre).bun.cur.recording = false := by rw [acquireEntries_cur, hr]
  simp [hn, logOp_live hr', csrLogged]

theorem csr_modq {j : Nat} (hj : j < 8) (s : State) : s.csr (0x030 + j) = s.bun.pre.modq.toList.getD j 3#64 := by
  interval_cases j <;> rfl

theorem status_eq (c : Core) (hnd : Bool) {w : Word} (h : w.toNat = (if c.modeS then 1 else 0) + (if c.hen then 4 else 0)
    + (if c.intrap then 8 else 0) + 16 * (c.bank hnd).loops.length) : c.status hnd = w := by
  rw [Core.status, Nat.mul_comm, ← h, BitVec.ofNat_toNat, BitVec.setWidth_eq]

/-! ### CSRWR (R65, R66) -/

theorem csrWritable_iff (modeS : Bool) (n : Nat) : csrWritable modeS n = true ↔
    (n = 0x008 ∨ n = 0x009 ∨ n = 0x010 ∨ n = 0x022 ∨ (0x030 ≤ n ∧ n ≤ 0x037))
      ∨ ((n = 0x020 ∨ n = 0x021 ∨ n = 0x070) ∧ modeS = true) := by
  simp only [csrWritable, Bool.or_eq_true, Bool.and_eq_true, beq_iff_eq, decide_eq_true_eq, Nat.lt_succ_iff, or_assoc]
  tauto

theorem exec_csrwr (hg : guardOf f s = true) (hw : csrWritable s.bun.pre.modeS f.i16.toNat = true) :
    exec (.csrwr f) s = .next (writeCsr f f.i16.toNat (s.rd .x f.a.toNat) s) :=
  (congrArg _ (if_pos hg)).trans (congrArg _ (if_pos hw))
theorem exec_csrwr_refused (hg : guardOf f s = true) (hw : ¬csrWritable s.bun.pre.modeS f.i16.toNat = true) :
    exec (.csrwr f) s = .next (s.raise f kPRIV) :=
  (congrArg _ (if_pos hg)).trans (congrArg _ (if_neg hw))

/-- CSRWR to a register that any mode may write, by its number. -/
theorem exec_csrwr_open {n : Nat} (hg : guardOf f s = true) (hn : f.i16.toNat = n) (ho : csrWritable false n = true) :
    exec (.csrwr f) s = .next (writeCsr f n (s.rd .x f.a.toNat) s) := by
  subst hn
  refine exec_csrwr hg ((csrWritable_iff ..).mpr (.inl ?_))
  exact ((csrWritable_iff ..).mp ho).resolve_right fun h => Bool.false_ne_true h.2

/-- CSRWR in mode S, by the register's number. -/
theorem exec_csrwr_super {n : Nat} (hg : guardOf f s = true) (hn : f.i16.toNat = n) (hm : s.bun.pre.modeS = true)
    (ho : csrWritable true n = true) : exec (.csrwr f) s = .next (writeCsr f n (s.rd .x f.a.toNat) s) := by
  subst hn
  exact exec_csrwr hg (hm ▸ ho)

/-! ### MODQ (R66) -/

theorem modqOk_iff (v : Word) : modqOk v = true ↔ v.toNat % 2 = 1 ∧ 3 ≤ v.toNat ∧ v.toNat < 2 ^ 62 := by
  rw [modqOk, BitVec.getLsbD, Nat.testBit_zero, Bool.and_eq_true, Bool.and_eq_true, decide_eq_true_eq, decide_eq_true_eq,
    decide_eq_true_eq, and_assoc]

theorem writeCsr_modq (f : Fields) {n : Nat} (h : 0x030 ≤ n) (h' : n ≤ 0x037) (v : Word) (s : State) :
    writeCsr f n v s = if modqOk v then s.onCur fun c => { c with modq := c.modq.setIfInBounds (n - 0x030) v }
      else s.flagsIn f 0x17 1 fMQ := by
  interval_cases n <;> rfl

theorem setIfInBounds_fin {α : Type} {n : Nat} (r : Vector α n) (j : Fin n) (v : α) :
    r.setIfInBounds j.val v = r.set j v := by
  apply Vector.ext
  intro i hi
  rw [Vector.getElem_setIfInBounds, Vector.getElem_set]

/-- Flags alone: they are owed by their slot, and nothing else of the core differs (R57). -/
theorem flagsIn_owes {fl : FlagSet} (h : fl ≠ 0) (s : State) (f : Fields) (opc lat : Nat) :
    let t := s.flagsIn f opc lat fl
    onlyCur s t ∧ coreFrame s.bun.cur t.bun.cur ∧ (∀ h file m, settled t.bun.cur h file m = settled s.bun.cur h file m)
      ∧ ∀ k, owedFlags t.bun.cur k = if k = f.slot then owedFlags s.bun.cur k ||| fl else owedFlags s.bun.cur k := by
  simp only [State.flagsIn, if_neg h]
  refine ⟨rfl, ⟨rfl, ⟨rfl, rfl, rfl⟩, rfl, rfl, rfl⟩, fun hnd file m => ?_, fun k => owed_push ..⟩
  exact (settled_push ..).trans (if_neg Bool.false_ne_true)

/-! ### The message queue's registers (R202, R205) -/

theorem setGeometry_taken {q : MsgQueue} {base size : Nat} (hu : q.used = 0) (hg : geometryOk base size = true) :
    q.setGeometry base size = { q with base := base, size := size, head := 0, tail := 0 } := if_pos ⟨hu, hg⟩

theorem setGeometry_refused {q : MsgQueue} {base size : Nat} (h : q.used ≠ 0 ∨ geometryOk base size = false) :
    q.setGeometry base size = q :=
  if_neg fun ⟨hu, hg⟩ => h.elim (· hu) fun h => Bool.false_ne_true (h.symm.trans hg)

theorem writeHead_ignored {q : MsgQueue} {h : Nat}
    (hi : q.size = 0 ∨ q.used - q.unwritten < (h % q.size + q.size - q.head) % q.size) : q.writeHead h = (q, 0) := by
  rw [MsgQueue.writeHead]
  by_cases hs : q.size = 0
  · exact if_pos hs
  · exact (if_neg hs).trans (if_pos (hi.resolve_left hs))

theorem writeHead_frees {q : MsgQueue} {h : Nat} (hs : 0 < q.size)
    (hd : (h % q.size + q.size - q.head) % q.size ≤ q.used - q.unwritten) :
    q.writeHead h = ({ q with head := h % q.size, used := q.used - (h % q.size + q.size - q.head) % q.size },
      (h % q.size + q.size - q.head) % q.size) :=
  (if_neg (Nat.ne_of_gt hs)).trans (if_neg (Nat.not_lt.mpr hd))

/-- An ignored write of MQHEAD changes nothing. -/
theorem writeCsr_head_ignored {v : Word} (hi : s.bun.cur.mq.writeHead (v.toNat % 2 ^ 12) = (s.bun.cur.mq, 0)) (f : Fields) :
    writeCsr f 0x022 v s = s := by
  have hrun (r : Option HndRun) : (r.map fun h => { h with freed := h.freed + 0 }) = r := by cases r <;> rfl
  simp only [writeCsr, State.onCur, hi, hrun]

/-- A write of MQBASE or MQSIZE in mode S asks for a geometry of the new value and the other register's (R202). -/
theorem exec_csrwr_geometry (hg : guardOf f s = true) (hm : s.bun.pre.modeS = true) {base size : Nat}
    (h : (f.i16.toNat = 0x020 ∧ base = (s.rd .x f.a.toNat).toNat % 2 ^ 21 ∧ size = s.bun.cur.mq.size)
      ∨ (f.i16.toNat = 0x021 ∧ base = s.bun.cur.mq.base ∧ size = (s.rd .x f.a.toNat).toNat % 2 ^ 13)) :
    exec (.csrwr f) s = .next (s.onCur fun _ => { s.bun.cur with mq := s.bun.cur.mq.setGeometry base size }) := by
  rcases h with ⟨hn, rfl, rfl⟩ | ⟨hn, rfl, rfl⟩ <;> exact (exec_csrwr_super hg hn hm rfl).trans rfl

/-- Settles O18: the flags bit by bit, the control registers number by number. -/
theorem flagsAndControlRegisters : Obligations.FlagsAndControlRegisters := by
  refine ⟨fun f s hg => ⟨⟨_, yields_writeX (exec_flagrd hg), fun k hk => ?rd⟩, fun hl => ⟨_, exec_flagclr hg, rfl, ?clr⟩⟩,
    fun f s hg hr => ?_⟩
  case rd => rw [BitVec.getLsbD_and, flagMask_getLsbD _ hk, Bool.and_comm]
  case clr =>
    rw [onCur_bun, hl, clearFlags_quiet]
    refine ⟨fun k hk => ?_, rfl⟩
    rw [BitVec.getLsbD_and, BitVec.getLsbD_not, flagMask_getLsbD _ hk, decide_eq_true hk, Bool.true_and, Bool.and_comm]
  have reads {m : Nat} {w : Word} (h : s.csr m = w) : f.i16.toNat = m → s.csr f.i16.toNat = w := fun hn => hn ▸ h
  refine ⟨fun hn => yields_writeX (exec_csrrd hg hr hn), fun hn => ⟨_, exec_csrrd_tail hg hr hn, gives_writeX ..⟩,
    fun w hw => reads (status_eq _ _ hw), reads rfl, reads rfl, reads rfl, fun j hj => reads (csr_modq hj s), reads rfl,
    reads rfl, fun hn => hn ▸ slotq_calendarSays _ (by decide), fun w hw => reads ?gated, reads rfl, reads rfl, reads rfl,
    reads rfl, reads rfl, reads rfl, reads rfl, reads rfl, reads rfl, reads rfl, reads rfl, reads rfl,
    fun ho hs => exec_csrwr_refused hg (mt (csrWritable_iff ..).mp ?refused), fun hn => exec_csrwr_open hg hn rfl,
    fun hn => exec_csrwr_open hg hn rfl, fun hn => exec_csrwr_open hg hn rfl,
    fun j hn hv => ?modq, fun h h' hv => ?bad, fun hn hm => exec_csrwr_super hg hn hm rfl,
    fun base size hm h => ⟨fun hu hq => ?taken, fun hq => ?kept⟩, fun hn => ⟨fun hi => ?ignored, fun hs hd => ?frees⟩⟩
  case gated =>
    refine BitVec.eq_of_getLsbD_eq fun i hi => ?_
    change (s.bun.pre.gated.setWidth 64).getLsbD i = _
    rw [hw i hi, BitVec.getLsbD_setWidth, decide_eq_true hi, Bool.true_and]
    by_cases h8 : i < 8
    · rw [decide_eq_true h8, Bool.true_and]
    · rw [BitVec.getLsbD_of_ge _ _ (Nat.not_lt.mp h8), Bool.and_false]
  case refused => exact fun h => h.elim ho hs
  case modq =>
    have hw : csrWritable false (0x030 + j.val) = true := (csrWritable_iff ..).mpr (.inl (by omega))
    rw [becomes, exec_csrwr_open hg hn hw, writeCsr_modq f (by omega) (by omega), if_pos ((modqOk_iff _).mpr hv),
      Nat.add_sub_cancel_left]
    simp only [State.onCur, setIfInBounds_fin]
  case bad =>
    have hw := exec_csrwr hg ((csrWritable_iff s.bun.pre.modeS _).mpr (.inl (by omega)))
    rw [writeCsr_modq f h h', if_neg (mt (modqOk_iff _).mp hv)] at hw
    exact ⟨_, hw, flagsIn_owes (by decide) ..⟩
  case taken => rw [becomes, exec_csrwr_geometry hg hm h, setGeometry_taken hu hq]; rfl
  case kept => rw [exec_csrwr_geometry hg hm h, setGeometry_refused hq]; rfl
  case ignored => rw [exec_csrwr_open hg hn rfl, writeCsr_head_ignored (writeHead_ignored hi)]
  case frees =>
    rw [becomes, exec_csrwr_open hg hn rfl]
    simp only [writeCsr, State.onCur, writeHead_frees hs hd]

end Sys2Proof.Proofs
end

section
/-! PROOFS. Time, the waits of a bundle and their ends (R59, R67, R68, R70 to R72, R175, R176, R182, R184 to R186, R227, R230). -/

namespace Sys2Proof.Proofs

open Sys2Proof Sys2Proof.Machine Sys2Proof.Safety Sys2Proof.Laws

variable {f : Fields} {s : State}

/-! ### What a wait waits for -/

/-- Every engine command of a core is complete (R71). -/
theorem enginesIdle_iff (c : Core) :
    c.enginesIdle = true ↔ (∀ m ∈ c.cmds, m.eng = .mark) ∧ c.mats = [] ∧ c.keys = [] := by
  simp only [Core.enginesIdle, Bool.and_eq_true, List.all_eq_true, beq_iff_eq, List.isEmpty_iff, and_assoc]

/-- The accesses that store and return nothing. -/
theorem storesOnly_iff (g : GAcc) : (gaStores g.opc g.f && !gaLoads g.opc) = true ↔ g.opc = 0x04 ∨ g.opc = 0x14 := by
  simp only [gaStores, gaLoads, Bool.and_eq_true, Bool.or_eq_true, Bool.not_eq_true', Bool.or_eq_false_iff, beq_iff_eq,
    beq_eq_false_iff_ne]
  omega

/-- What a DRAIN lets be (R186, R227, R231). -/
theorem drainSkips_iff (s : State) (c : Core) (scope : Nat) (g : GAcc) : s.drainSkips c scope g = true ↔
    (g.opc = 0x04 ∨ g.opc = 0x14) ∧ ((scope = 0 ∧ (∀ m ∈ c.cmds, m.eng = .mark) ∧ c.mats = [] ∧ c.keys = [])
      ∨ (scope < 4 ∧ s.inCxl g.pa = true)) := by
  rw [State.drainSkips, Bool.and_eq_true, storesOnly_iff, ← enginesIdle_iff]
  simp [Core.releases]

theorem drained_iff (s : State) (scope : Nat) : s.drained scope = true ↔
    ∀ g ∈ s.bun.cur.gacc, g.first < s.bun.first → s.drainSkips s.bun.cur scope g = true := by
  simp only [State.drained, Bun.earlier, List.all_eq_true, List.mem_filter, decide_eq_true_eq, and_imp]

/-- The code of a WAITEV whose mask has two bits (R185). -/
theorem waitevCode_eq (c : Core) (tick : Word) {mask : Nat} (hm : mask < 4) (runs : Nat) (limit : Word) :
    waitevCode c tick mask runs limit =
      if mask = 0 ∧ limit = 0#64 then some 0
      else if mask % 2 = 1 ∧ c.mq.hasMessage = true ∧ c.hen = false then some 1
      else if 2 ≤ mask ∧ runs < c.runsEnded then some 2
      else if limit ≠ 0#64 ∧ limit.toNat ≤ tick.toNat then some 3 else none := by
  have h2 : (mask / 2 % 2 = 1) = (2 ≤ mask) := by rw [eq_iff_iff]; omega
  simp only [waitevCode, h2, Bool.not_eq_true']

/-- A code stands for what has come about. -/
theorem waitevCode_some {c : Core} {tick : Word} {mask runs k : Nat} {limit : Word}
    (h : waitevCode c tick mask runs limit = some k) :
    k < 4 ∧ (k = 1 → c.mq.hasMessage = true) ∧ (k = 2 → runs < c.runsEnded) := by
  unfold waitevCode at h
  split_ifs at h with h0 h1 h2 h3 <;> cases h
  · exact ⟨by decide, nofun, nofun⟩
  · exact ⟨by decide, fun _ => h1.2.1, nofun⟩
  · exact ⟨by decide, nofun, fun _ => h2.2⟩
  · exact ⟨by decide, nofun, nofun⟩

theorem waitevCode_message {c : Core} (tick : Word) {mask : Nat} (runs : Nat) (limit : Word)
    (h : mask % 2 = 1 ∧ c.mq.hasMessage = true ∧ c.hen = false) : waitevCode c tick mask runs limit = some 1 := by
  obtain ⟨hm, hq, hh⟩ := h
  have h0 : ¬(mask = 0 ∧ limit = 0#64) := fun h => by simp [h.1] at hm
  rw [waitevCode, if_neg h0, if_pos ⟨hm, hq, by rw [hh]; rfl⟩]

theorem waitevCode_ended {c : Core} (tick : Word) {mask runs : Nat} (limit : Word)
    (hm : ¬(mask % 2 = 1 ∧ c.mq.hasMessage = true ∧ c.hen = false)) (h : mask / 2 % 2 = 1 ∧ runs < c.runsEnded) :
    waitevCode c tick mask runs limit = some 2 := by
  have h0 : ¬(mask = 0 ∧ limit = 0#64) := fun h0 => by simp [h0.1] at h
  rw [waitevCode, if_neg h0, if_neg (by simpa using hm), if_pos h]

theorem waitevCode_deadline {c : Core} {tick : Word} {mask runs : Nat} {limit : Word}
    (hm : ¬(mask % 2 = 1 ∧ c.mq.hasMessage = true ∧ c.hen = false)) (he : ¬(mask / 2 % 2 = 1 ∧ runs < c.runsEnded))
    (h : limit ≠ 0#64) (ht : limit.toNat ≤ tick.toNat) : waitevCode c tick mask runs limit = some 3 := by
  rw [waitevCode, if_neg (fun h0 => h h0.2), if_neg (by simpa using hm), if_neg he, if_pos ⟨h, ht⟩]

/-! ### The instructions -/

theorem exec_halt (hg : guardOf f s = true) : exec (.halt f) s =
    .next (if s.bun.cur.enginesIdle then { s with bun := { s.bun with halts := true } } else s.holds .halt) :=
  congrArg _ (if_pos hg)
theorem exec_drain (hg : guardOf f s = true) : exec (.drain f) s =
    .next (if s.drained f.sc.toNat then s.post (.acquire f.sc.toNat) else s.holds (.drain f.sc.toNat)) :=
  congrArg _ (if_pos hg)
theorem exec_dbgbrk (hg : guardOf f s = true) : exec (.dbgbrk f) s =
    .next (if s.bun.pre.dbg.state = 1 ∧ !s.bun.pre.dbg.skip ∧ !s.bun.pre.stopReq then
      { s with bun := { s.bun with brk := some f.i16.toNat } } else s) := congrArg _ (if_pos hg)
theorem exec_yield (hg : guardOf f s = true) :
    exec (.yield f) s = .next { s with bun := { s.bun with yields := true } } := congrArg _ (if_pos hg)
theorem exec_hndret (hg : guardOf f s = true) :
    exec (.hndret f) s = .next { s with bun := { s.bun with hndret := true } } := congrArg _ (if_pos hg)
theorem exec_hnden (hg : guardOf f s = true) :
    exec (.hnden f) s = .next (s.onCur fun c => { c with hen := (s.rd .x f.a.toNat).getLsbD 0 }) := congrArg _ (if_pos hg)
theorem exec_tick (hg : guardOf f s = true) (hr : s.bun.cur.recording = false) :
    exec (.tick f) s = .next (writeX f 0x24 2 s.bun.tick s) :=
  (congrArg _ (if_pos hg)).trans (congrArg _ (readLogged_live hr ..))
theorem exec_slotq (hg : guardOf f s = true) (hr : s.bun.cur.recording = false) :
    exec (.slotq f) s = .next (writeX f 0x23 2 (slotq s.bun.tick.toNat (f.i16.toNat % 4)) s) :=
  (congrArg _ (if_pos hg)).trans (congrArg _ (readLogged_live hr ..))

theorem replaysWait_live (h : s.bun.cur.recording = false) : s.replaysWait = none := by
  simp [State.replaysWait, State.replaying, h]

/-- Outside RECORD mode WAITEV gives the code of what has come about, lowest first; code 1 acquires the entries (R185, R238). -/
theorem exec_waitev_code (hg : guardOf f s = true) (hr : s.bun.cur.recording = false) {k : Nat}
    (hk : waitevCode s.bun.cur s.sys.tick (f.i16.toNat % 4) s.bun.runs (s.rd .x f.a.toNat) = some k) :
    exec (.waitev f) s = .next (writeX f 0x29 2 (BitVec.ofNat 64 k) (if k = 1 then s.acquireEntries s.bun.cur else s)) := by
  obtain ⟨h4, h1, h2⟩ := waitevCode_some hk
  have eq_iff (n : Nat) (hn : n < 4) : BitVec.ofNat 64 k = BitVec.ofNat 64 n ↔ k = n := by
    rw [← BitVec.toNat_inj, BitVec.toNat_ofNat, BitVec.toNat_ofNat, Nat.mod_eq_of_lt (by omega), Nat.mod_eq_of_lt (by omega)]
  refine (congrArg _ (if_pos hg)).trans (congrArg _ ?_)
  simp only [opXA, hk, logOp_live hr, List.headD_cons, eq_iff 1 (by decide), eq_iff 2 (by decide)]
  refine if_neg fun h => ?_
  simp only [Bool.or_eq_true, Bool.and_eq_true, decide_eq_true_eq, Bool.not_eq_true'] at h
  rcases h with ⟨he, hq⟩ | ⟨he, hq⟩
  · exact Bool.false_ne_true (hq.symm.trans (h1 he))
  · exact Nat.not_le.mpr (h2 he) hq

theorem exec_waitev_waits (hg : guardOf f s = true) (hr : s.bun.cur.recording = false)
    (hk : waitevCode s.bun.cur s.sys.tick (f.i16.toNat % 4) s.bun.runs (s.rd .x f.a.toNat) = none) :
    exec (.waitev f) s = .next (s.holds (.waitev (f.i16.toNat % 4) (s.rd .x f.a.toNat))) := by
  refine (congrArg _ (if_pos hg)).trans (congrArg _ ?_)
  simp only [opXA, hk, replaysWait_live hr]

/-- Settles O20: each instruction by its equation; a wait goes on or holds by what its condition says of the core. -/
theorem timeAndWaits : Obligations.TimeAndWaits := by
  intro f s hg hr
  have hcode := waitevCode_eq s.bun.cur s.sys.tick (Nat.mod_lt f.i16.toNat (show 0 < 4 by decide)) s.bun.runs (s.rd .x f.a.toNat)
  have hdone : s.drained f.sc.toNat = true ↔ _ :=
    (drained_iff s _).trans (forall₃_congr fun g _ _ => drainSkips_iff s s.bun.cur f.sc.toNat g)
  refine ⟨fun hi => ?halt, fun hi => ?haltWaits, fun hd => ?drain, fun hd => ?drainWaits,
    fun k hk => ⟨_, exec_waitev_code hg hr (hcode.trans hk), gives_writeX ..⟩,
    fun hk => waitsFor_holds (exec_waitev_waits hg hr (hcode.trans hk)), fun h1 h2 h3 => ?brk, fun h => ?goes,
    yields_writeX (exec_tick hg hr),
    ⟨_, yields_writeX (exec_slotq hg hr), slotq_calendarSays _ (Nat.mod_lt _ (by decide))⟩,
    exec_yield hg, exec_hndret hg, exec_hnden hg⟩
  case halt => exact (exec_halt hg).trans (congrArg _ (if_pos ((enginesIdle_iff _).mpr hi)))
  case haltWaits => exact waitsFor_holds ((exec_halt hg).trans (congrArg _ (if_neg (mt (enginesIdle_iff _).mp hi))))
  case drain => exact (exec_drain hg).trans (congrArg _ (if_pos (hdone.mpr hd)))
  case drainWaits => exact waitsFor_holds ((exec_drain hg).trans (congrArg _ (if_neg (mt hdone.mp hd))))
  case brk => exact (exec_dbgbrk hg).trans (congrArg _ (if_pos ⟨h1, by simp [h2], by simp [h3]⟩))
  case goes =>
    refine (exec_dbgbrk hg).trans (congrArg _ (if_neg fun ⟨h1, h2, h3⟩ => ?_))
    rcases h with h | h | h
    · exact h h1
    · simp [h] at h2
    · simp [h] at h3

/-! ### The ends of waits -/

/-- A core some bundle of which is held and has what it waits for has a turn. -/
theorem wakeIf_eq_some {core : Nat} {p : Held → Bool} {q : Held → Prop} (hp : ∀ h, h.core = core → q h → p h = true)
    (h : ∃ h ∈ s.held, h.core = core ∧ q h) : s.wakeIf core p = some (turnNext s core) := by
  obtain ⟨x, hx, hc, hq⟩ := h
  exact if_pos (List.any_eq_true.mpr ⟨x, hx, by rw [hp x hc hq, hc, beq_self_eq_true]; rfl⟩)

theorem happens_wakeIf {core : Nat} {i : Instr} {p : Held → Bool} {q : Held → Prop}
    (hi : exec i s = .next ((s.wakeIf core p).getD s)) (hp : ∀ h, h.core = core → q h → p h = true)
    (h : ∃ h ∈ s.held, h.core = core ∧ q h) : happens i s (turnNext s core) := by
  rw [happens, hi, wakeIf_eq_some hp h, Option.getD_some]

theorem wakeIf_eq_none {core : Nat} {p : Held → Bool} (h : ∀ h ∈ s.held, h.core = core → p h = false) :
    s.wakeIf core p = none := by
  refine if_neg fun ha => ?_
  obtain ⟨x, hx, hp⟩ := List.any_eq_true.mp ha
  rw [Bool.and_eq_true, beq_iff_eq] at hp
  exact Bool.false_ne_true ((h x hx hp.1).symm.trans hp.2)

theorem heldWaitev_eq {h : Held} {mask : Nat} {dl : Word} (hh : h.hold = .waitev mask dl) :
    s.heldWaitev h = waitevCode (s.coreOf h.core) s.sys.tick mask h.runs dl := by
  simp only [State.heldWaitev, hh]

theorem earlier_all {gs : List GAcc} {first : Nat} {p : GAcc → Bool}
    (h : ∀ g ∈ gs, g.first < first → p g = true) : (gs.all fun g => decide (first ≤ g.first) || p g) = true := by
  rw [List.all_eq_true]
  intro g hg
  by_cases hf : g.first < first
  · rw [h g hg hf, Bool.or_true]
  · rw [decide_eq_true (Nat.not_lt.mp hf), Bool.true_or]

/-- Settles O33: each event by the condition that its kind of hold has on the core. -/
theorem waitsEnd : Obligations.WaitsEnd := by
  intro core s
  refine ⟨happens_wakeIf rfl ?waitx, happens_wakeIf rfl ?wake, happens_wakeIf rfl ?deadline, happens_wakeIf rfl ?tfence,
    happens_wakeIf rfl ?drain, happens_wakeIf rfl ?release, happens_wakeIf rfl ?halt, fun h => ?steal, fun hk hp hh => ?stalled⟩
  case waitx =>
    rintro h - ⟨⟨sp, a, pa, t, eq, hh⟩, ha⟩
    rw [hh]
    exact Option.isSome_iff_ne_none.mpr ha
  case wake =>
    rintro h rfl ⟨mask, dl, hh, hm⟩
    rw [heldWaitev_eq hh]
    by_cases hmsg : mask % 2 = 1 ∧ (s.coreOf h.core).mq.hasMessage = true ∧ (s.coreOf h.core).hen = false
    · rw [waitevCode_message _ _ _ hmsg]; rfl
    · rw [waitevCode_ended _ _ hmsg (hm.resolve_left hmsg)]; rfl
  case deadline =>
    rintro h rfl ⟨mask, dl, hh, hm, he, h0, ht⟩
    rw [heldWaitev_eq hh, waitevCode_deadline hm he h0 ht]
    rfl
  case tfence =>
    rintro h - ⟨hh, hf⟩
    rw [hh, (fenced_iff ..).mpr hf]
    rfl
  case drain =>
    rintro h - ⟨scope, hh, hg⟩
    rw [hh]
    exact earlier_all fun g hm hf => (drainSkips_iff ..).mpr (hg g hm hf)
  case release =>
    rintro h - ⟨scope, hh, hg⟩
    rw [hh]
    exact earlier_all fun g hm hf => by
      obtain ⟨hs, hx⟩ := hg g hm hf
      rw [decide_eq_true hs, hx]; rfl
  case halt =>
    rintro h - ⟨hh, hi⟩
    rw [hh, (enginesIdle_iff _).mpr hi]
    rfl
  case steal =>
    have ht : tryDqstealAnswer core s = some (turnNext s core) := by
      rw [tryDqstealAnswer, wakeIf_eq_some ?_ h]
      rintro x - ⟨⟨m, hm⟩, ha⟩
      rw [hm]
      exact Option.isSome_iff_ne_none.mpr ha
    exact congrArg (fun o => Host.Outcome.next (o.getD s)) ht
  case stalled =>
    refine if_neg ?_
    rintro (h | h | h)
    · exact Nat.not_le.mpr hk h
    · exact hp (Option.isNone_iff_eq_none.mp h)
    · obtain ⟨x, hx, hc⟩ := List.any_eq_true.mp h
      exact hh x hx (beq_iff_eq.mp hc)

end Sys2Proof.Proofs
end

section
/-! PROOFS. Replies of services, deques and RESUMEG, and the record of a SYSC NOTIFY (R64, R182, R188, R327, R328). -/

namespace Sys2Proof.Proofs

open Sys2Proof Sys2Proof.Machine Sys2Proof.Safety Sys2Proof.Laws

variable {s : State} {core : Nat} {a : AskReq}

/-! ### Requests (R19) -/

/-- The kinds of request that the events look for. -/
def isSysc (p : Nat → Bool) : Ask → Bool
  | .sysc n _ => p n
  | _ => false
def isDqcnt : Ask → Bool
  | .dqcnt _ => true
  | _ => false
def isResumeg : Ask → Bool
  | .resumeg _ => true
  | _ => false

/-- A request found is one of its core. -/
theorem core_of_firstAsk {p : Ask → Bool} (h : firstAsk s core p a) : a.core = core := by
  have hp := List.find?_some h
  rw [Bool.and_eq_true, beq_iff_eq] at hp
  exact hp.1

/-- Outside RECORD mode every reply lands at once (R341). -/
theorem answerAsk_live (hr : (s.coreOf a.core).recording = false) (v : Word) : s.answerAsk a v = some (answered s a v) := by
  unfold State.answerAsk
  dsimp only
  rw [hr, State.logNow, hr]
  split <;> rfl

/-- An event that answers a request of a core outside RECORD mode. -/
theorem happens_answerAsk {i : Instr} {try_ : State → Option State} {p : Ask → Bool} {v : Word}
    (hi : exec i s = .next ((try_ s).getD s)) (hr : (s.coreOf core).recording = false) (h : firstAsk s core p a)
    (ht : try_ s = s.answerAsk a v) : happens i s (answered s a v) := by
  rw [happens, hi, ht, answerAsk_live (core_of_firstAsk h ▸ hr), Option.getD_some]

/-! ### Services (R64) -/

theorem service_eq {p : Nat → Bool} {v : Word → Word} (h : firstAsk s core (isSysc p) a) {n : Nat} {x : Word}
    (ha : a.what = .sysc n x) : s.service core p v = s.answerAsk a (v x) := by
  unfold State.service
  split
  case h_1 hb => exact absurd (h.symm.trans hb) nofun
  case h_2 b hb =>
    cases Option.some.inj (h.symm.trans hb)
    rw [ha]

/-! ### Counts and gangs (R182, R188) -/

/-- The count of another member's deque, where no bundle of the core waits for a steal that is answered. -/
theorem tryDqstealAnswer_count (hs : ∀ h ∈ s.held, h.core = core → ∀ k, h.hold = .steal k → h.answer = none)
    (h : firstAsk s core isDqcnt a) {m o : Nat} (ha : a.what = .dqcnt m) (ho : s.memberCore core m = some o)
    (hp : s.pathOpen core o = true) :
    tryDqstealAnswer core s = s.answerAsk a (BitVec.ofNat 64 (s.coreOf o).deque.length) := by
  rw [tryDqstealAnswer, wakeIf_eq_none]
  · dsimp only
    split
    case h_1 hb => exact absurd (h.symm.trans hb) nofun
    case h_2 b hb =>
      cases Option.some.inj (h.symm.trans hb)
      simp only [ha, ho, hp, if_true]
  · intro x hx hc
    split
    case h_1 k hk => rw [hs x hx hc k hk]; rfl
    case h_2 => rfl

theorem tryGangResume_running {g : Gang} {token : Nat} (h : firstAsk s core isResumeg a) (ha : a.what = .resumeg token)
    (hg : s.tokenGang (s.coreOf core).ctx token = some g) (hp : g.parked = false) :
    tryGangResume core s = s.answerAsk a 1 := by
  unfold tryGangResume
  split
  case h_1 hb => exact absurd (h.symm.trans hb) nofun
  case h_2 b hb =>
    cases Option.some.inj (h.symm.trans hb)
    simp only [ha, hg, hp, Bool.not_false, if_true]

theorem tryGangResume_parked {g : Gang} {token : Nat} (h : firstAsk s core isResumeg a) (ha : a.what = .resumeg token)
    (hg : s.tokenGang (s.coreOf core).ctx token = some g) (hp : g.parked = true)
    (hf : s.recordPending g.launch g.gidx = false) :
    tryGangResume core s = (s.answerAsk a 0).map fun s => s.resume g := by
  unfold tryGangResume
  split
  case h_1 hb => exact absurd (h.symm.trans hb) nofun
  case h_2 b hb =>
    cases Option.some.inj (h.symm.trans hb)
    simp only [ha, hg, hp, hf, Bool.not_true, Bool.false_eq_true, if_false]

theorem tryGangResume_unknown {token : Nat} (h : firstAsk s core isResumeg a) (ha : a.what = .resumeg token)
    (hg : s.tokenGang (s.coreOf core).ctx token = none)
    (hv : ∀ g ∈ s.sys.saved, g.ctx = (s.coreOf core).ctx → g.token ≠ token) : tryGangResume core s = s.answerAsk a 2 := by
  have hn : (s.sys.saved.find? fun g => g.ctx == (s.coreOf core).ctx && g.token == token) = none := by
    rw [List.find?_eq_none]
    intro g hm hc
    rw [Bool.and_eq_true, beq_iff_eq, beq_iff_eq] at hc
    exact hv g hm hc.1 hc.2
  unfold tryGangResume
  split
  case h_1 hb => exact absurd (h.symm.trans hb) nofun
  case h_2 b hb =>
    cases Option.some.inj (h.symm.trans hb)
    simp only [ha, hg, hn]

/-! ### SYSC NOTIFY (R327) -/

theorem addFault_only {r : FaultRec} (h : s.sys.faults = []) :
    s.addFault r = { s with sys := { s.sys with faults := [r] } } := by
  simp [State.addFault, h]

/-- The record of a NOTIFY. -/
def noteRec (s : State) (core : Nat) (a : AskReq) (g : Gang) (l : Launch) (x : Word) : FaultRec :=
  ⟨l.ctx, s.faultBytes 2 0 0 g.token 0 0 0 (s.coreOf core).member l.ctx l.queue l.slot x, none, some (core, a.id), 0, l.id,
    s.sys.tick.toNat, core, g.gidx⟩

/-- A NOTIFY taken: its request waits for the record, and the record for the ring. -/
def noted (s : State) (core : Nat) (a : AskReq) (rest : List AskReq) (g : Gang) (l : Launch) (x : Word) : State :=
  { s with sys := { s.sys with asks := { a with what := .notified } :: rest, faults := [noteRec s core a g l x] } }

section
variable {rest : List AskReq} {g : Gang} {l : Launch} {x : Word} (hq : s.sys.asks = a :: rest) (hc : a.core = core)
  (ha : a.what = .sysc 1 x) (hr : ∀ r ∈ rest, r.core ≠ core) (hg : s.gangAt core = some g)
  (hl : s.launchOf g.launch = some l) (hf : s.sys.faults = [])
include hq hc hr hg hl hf

theorem takeNotify_eq : s.takeNotify core a x = noted s core a rest g l x := by
  have hmap : (s.sys.asks.map fun b => if b = a then { a with what := .notified } else b)
      = { a with what := .notified } :: rest := by
    rw [hq, List.map_cons, if_pos rfl]
    congr 1
    refine (List.map_congr_left fun b hb => if_neg ?_).trans (List.map_id _)
    rintro rfl
    exact hr b hb hc
  unfold State.takeNotify
  dsimp only
  rw [hmap]
  split
  case h_1 hn => exact absurd (hg.symm.trans hn) nofun
  case h_2 g' hg' =>
    cases Option.some.inj (hg.symm.trans hg')
    split
    case h_1 hn => exact absurd (hl.symm.trans hn) nofun
    case h_2 l' hl' =>
      cases Option.some.inj (hl.symm.trans hl')
      exact addFault_only hf

include ha

/-- The record is taken, and the reply waits for it. -/
theorem trySyscNotify_takes : trySyscNotify core s = some (noted s core a rest g l x) := by
  have hask : firstAsk s core (isSysc fun n => n == 1) a := by
    rw [firstAsk, hq, List.find?_cons_of_pos]
    rw [hc, beq_self_eq_true, ha]
    rfl
  unfold trySyscNotify
  dsimp only
  split
  case h_1 hb => exact absurd (hask.symm.trans hb) nofun
  case h_2 b hb =>
    cases Option.some.inj (hask.symm.trans hb)
    rw [ha]
    dsimp only
    rw [takeNotify_eq hq hc hr hg hl hf]
    have hnext : (noted s core a rest g l x).askOf core (fun w => w == .notified) = some { a with what := .notified } :=
      List.find?_cons_of_pos (by simp [hc])
    have hwaits : ((noted s core a rest g l x).sys.faults.any fun r => r.notify == some (core, a.id)) = true := by
      simp [noted, noteRec]
    rw [hnext]
    dsimp only
    rw [if_pos hwaits, Option.getD_none]
end

/-- The request that `trySyscNotify` looks for first: a NOTIFY not yet taken. -/
theorem trySyscNotify_written
    (hn : ∀ b ∈ s.sys.asks, b.core = core → isSysc (fun n => n == 1) b.what = false)
    (h : s.askOf core (fun w => w == .notified) = some a)
    (hf : ∀ r ∈ s.sys.faults, r.notify ≠ some (core, a.id)) (hab : s.aborting core = false) :
    trySyscNotify core s = s.answerAsk a 0 := by
  have hnone : s.askOf core (isSysc fun n => n == 1) = none := by
    rw [State.askOf, List.find?_eq_none]
    intro b hb hc
    rw [Bool.and_eq_true, beq_iff_eq] at hc
    exact Bool.false_ne_true ((hn b hb hc.1).symm.trans hc.2)
  have hfree : (s.sys.faults.any fun r => r.notify == some (core, a.id)) = false := by
    simpa using hf
  unfold trySyscNotify
  dsimp only
  split
  case h_1 =>
    rw [h]
    dsimp only
    rw [hfree, hab]
    rfl
  case h_2 b hb => exact absurd (hnone.symm.trans hb) nofun

/-- A ring with room takes the record at TAIL with the next SEQ (R327). -/
theorem putFault_written {r : FaultRec} {u : State}
    (hf : ringFull (s.context r.ctx).fqLen (s.context r.ctx).fqHead (s.context r.ctx).fqTail = false)
    (hp : s.dvaPaused r.ctx ((s.context r.ctx).fqDva.toNat + 64 * (s.context r.ctx).fqTail) = false)
    (hw : s.gWrite .package r.ctx ((s.context r.ctx).fqDva.toNat + 64 * (s.context r.ctx).fqTail)
      (natToBytes 64 (r.bytes + (s.context r.ctx).fqSeq * 2 ^ 256)) accStore false false = (.ok (), u)) :
    s.putFault r = some (u.onContext r.ctx fun c => { c with fqTail := (c.fqTail + 1) % c.fqLen, fqSeq := c.fqSeq + 1 }) := by
  unfold State.putFault
  dsimp only
  rw [hf, hp, hw]
  rfl

theorem flushFaults_one {r : FaultRec} {u : State} (hr : s.sys.faults = [r]) (ht : r.tick < s.sys.tick.toNat)
    (hd : ∀ l, s.launchOf r.launch = some l → l.aborting = false) (hp : s.putFault r = some u) :
    s.flushFaults = { u with sys := { u.sys with faults := [] } } := by
  have hd' : s.doomed r.launch = false := by
    unfold State.doomed
    cases hl : s.launchOf r.launch with
    | none => rfl
    | some l => exact hd l hl
  rw [State.flushFaults, hr]
  simp only [flushGo, hd', hp, decide_eq_false (Nat.not_le.mpr ht), List.isEmpty_cons, List.any_nil, Bool.or_false,
    Bool.false_eq_true, if_false, List.filter_nil]

/-- Settles O36: each event by what it answers to the oldest request of its kind; the record of a NOTIFY by its two events and by
the write of the ring. -/
theorem replies : Obligations.Replies := by
  intro core s hr
  refine ⟨fun a n x h ha => happens_answerAsk (try_ := trySyscEcho core) rfl hr h (service_eq h ha),
    fun a n x h ha => happens_answerAsk (try_ := trySyscClock core) rfl hr h (service_eq h ha),
    fun a n x h ha => happens_answerAsk (try_ := trySyscOtherService core) rfl hr h (service_eq h ha),
    fun a m o hs h ha ho hp => happens_answerAsk (try_ := tryDqstealAnswer core) rfl hr h (tryDqstealAnswer_count hs h ha ho hp),
    fun a token h ha => ⟨fun g hg hp => ?running, fun g hg hp hf => ?parked, fun hg hv => ?unknown⟩,
    fun a x rest g l hq hc ha hrest hg hl hf => ?taken, fun r u hf ht hd hfull hp hw => ?flushed,
    fun a h ha hn hf hab => ?written⟩
  case running => exact happens_answerAsk (try_ := tryGangResume core) rfl hr h (tryGangResume_running h ha hg hp)
  case parked =>
    have ht := tryGangResume_parked h ha hg hp hf
    rw [answerAsk_live (core_of_firstAsk h ▸ hr)] at ht
    exact congrArg (fun o => Host.Outcome.next (o.getD s)) ht
  case unknown => exact happens_answerAsk (try_ := tryGangResume core) rfl hr h (tryGangResume_unknown h ha hg hv)
  case taken =>
    exact congrArg (fun o => Host.Outcome.next (o.getD s)) (trySyscNotify_takes hq hc ha hrest hg hl hf)
  case flushed =>
    intro t
    have hflush : t = _ := flushFaults_one hf ht hd (putFault_written hfull hp hw)
    rw [hflush]
    have hx := context_onContext u r.ctx (fun c => { c with fqTail := (c.fqTail + 1) % c.fqLen, fqSeq := c.fqSeq + 1 }) r.ctx
    rw [if_pos rfl] at hx
    exact ⟨rfl, rfl, rfl, congrArg Context.fqTail hx, congrArg Context.fqSeq hx⟩
  case written =>
    have hnone : ∀ b ∈ s.sys.asks, b.core = core → isSysc (fun n => n == 1) b.what = false := by
      intro b hb hc
      have h1 := List.all_eq_true.mp hn b hb
      rw [hc, bne_self_eq_false, Bool.false_or] at h1
      cases hw : b.what with
      | sysc n x => rw [hw] at h1; exact (Bool.not_eq_true' _).mp h1
      | _ => rfl
    have hnext : s.askOf core (fun w => w == .notified) = some a := by
      refine (List.find?_congr fun b hb => ?_).trans h
      by_cases hc : b.core = core
      · have h1 := hnone b hb hc
        rw [hc, beq_self_eq_true, Bool.true_and, Bool.true_and]
        cases hw : b.what with
        | sysc n x => rw [hw] at h1; exact h1.symm
        | _ => rfl
      · rw [beq_eq_false_iff_ne.mpr hc]; rfl
    exact happens_answerAsk (try_ := trySyscNotify core) rfl hr h (trySyscNotify_written hnone hnext hf hab)

end Sys2Proof.Proofs
end

section
/-! PROOFS. The power groups of the scratchpad (R69, R198). -/

namespace Sys2Proof.Proofs

open Sys2Proof Sys2Proof.Machine Sys2Proof.Safety Sys2Proof.Laws

variable {f : Fields} {s : State}

/-! ### SPWAKE and SPGATE at issue -/

theorem mem_maskGroups {v : Word} {g : Nat} : g ∈ maskGroups v ↔ g < 8 ∧ v.getLsbD g = true := by
  simp only [maskGroups, List.mem_filter, List.mem_range]

theorem maskGroups_nodup (v : Word) : (maskGroups v).Nodup := List.nodup_range.filter _

/-- The groups that SPGATE is to gate: those of its mask that are not gated. -/
def toGate (f : Fields) (s : State) : List Nat :=
  (maskGroups (s.rd .x f.a.toNat)).filter fun g => !(s.bun.cur.gated.getLsbD g)

theorem mem_toGate {g : Nat} :
    g ∈ toGate f s ↔ g < 8 ∧ (s.rd .x f.a.toNat).getLsbD g = true ∧ s.bun.cur.gated.getLsbD g = false := by
  simp only [toGate, List.mem_filter, mem_maskGroups, Bool.not_eq_true', and_assoc]

theorem exec_spwake (hg : guardOf f s = true) :
    exec (.spwake f) s = .next (s.post (.spWake (maskGroups (s.rd .x f.a.toNat)))) := congrArg _ (if_pos hg)
theorem exec_spgate (hg : guardOf f s = true) : exec (.spgate f) s =
    .next (if (toGate f s).any s.bun.cur.groupBusy then s.stalls else s.post (.spGate (toGate f s))) := congrArg _ (if_pos hg)

theorem toGate_busy_iff : (toGate f s).any s.bun.cur.groupBusy = true ↔
    ∃ g, g < 8 ∧ (s.rd .x f.a.toNat).getLsbD g = true ∧ s.bun.cur.gated.getLsbD g = false ∧ s.bun.cur.groupBusy g = true := by
  simp only [List.any_eq_true, mem_toGate, and_assoc]

/-! ### Groups waking and gated at the commit -/

theorem getLsbD_one_shiftLeft {g j : Nat} (hj : j < 8) : (1#8 <<< g).getLsbD j = decide (j = g) := by
  rw [BitVec.getLsbD_shiftLeft, BitVec.getLsbD_one, Bool.eq_iff_iff]
  simp only [Bool.and_eq_true, decide_eq_true_eq, Bool.not_eq_true', decide_eq_false_iff_not]
  omega

theorem wakeGroup_gated (c : Core) (g : Nat) {j : Nat} (hj : j < 8) :
    (c.wakeGroup g).gated.getLsbD j = (c.gated.getLsbD j && !decide (j = g)) := by
  unfold Core.wakeGroup
  split
  · simp only [BitVec.getLsbD_and, BitVec.getLsbD_not, getLsbD_one_shiftLeft hj, decide_eq_true hj, Bool.true_and]
  case isFalse h =>
    by_cases hg : j = g
    · rw [hg, Bool.eq_false_iff.mpr h, Bool.false_and]
    · simp [hg]

theorem mem_wakeGroup_waking (c : Core) (g : Nat) (e : Nat × Nat) : e ∈ (c.wakeGroup g).waking ↔
    e ∈ c.waking ∨ (e.1 = g ∧ c.gated.getLsbD g = true ∧ e.2 = c.clk + 512) := by
  unfold Core.wakeGroup
  split
  case isTrue h => simp [Prod.ext_iff, h]
  case isFalse h => simp [h]

theorem wakeGroup_frame (c : Core) (g : Nat) :
    c.wakeGroup g = { c with gated := (c.wakeGroup g).gated, waking := (c.wakeGroup g).waking } := by
  unfold Core.wakeGroup
  split <;> rfl

/-- Groups woken one after another, each once. -/
theorem foldl_wakeGroup {gs : List Nat} (hn : gs.Nodup) (h8 : ∀ g ∈ gs, g < 8) (c : Core) :
    let d := gs.foldl Core.wakeGroup c
    (∀ g, g < 8 → d.gated.getLsbD g = (c.gated.getLsbD g && !decide (g ∈ gs)))
      ∧ (∀ e, e ∈ d.waking ↔ e ∈ c.waking ∨ (e.1 ∈ gs ∧ c.gated.getLsbD e.1 = true ∧ e.2 = c.clk + 512))
      ∧ d = { c with gated := d.gated, waking := d.waking } := by
  induction gs generalizing c with
  | nil => exact ⟨fun g _ => by simp, fun e => by simp, rfl⟩
  | cons g gs ih =>
    obtain ⟨hg, hn⟩ := List.nodup_cons.mp hn
    obtain ⟨hgated, hwaking, hframe⟩ := ih hn (fun j hj => h8 j (List.mem_cons_of_mem _ hj)) (c.wakeGroup g)
    rw [List.foldl_cons]
    generalize gs.foldl Core.wakeGroup (c.wakeGroup g) = d at hgated hwaking hframe
    have hclk : (c.wakeGroup g).clk = c.clk := by rw [wakeGroup_frame]
    refine ⟨fun j hj => ?_, fun e => ?_, ?_⟩
    · rw [hgated j hj, wakeGroup_gated c g hj]
      simp [Bool.and_assoc]
    · rw [hwaking, mem_wakeGroup_waking, hclk, List.mem_cons, or_assoc]
      refine or_congr_right ⟨?_, ?_⟩
      · rintro (⟨rfl, h⟩ | ⟨hm, h, ht⟩)
        · exact ⟨.inl rfl, h⟩
        · rw [wakeGroup_gated c g (h8 _ (List.mem_cons_of_mem _ hm)), Bool.and_eq_true] at h
          exact ⟨.inr hm, h.1, ht⟩
      · rintro ⟨rfl | hm, h, ht⟩
        · exact .inl ⟨rfl, h, ht⟩
        · have hne : e.1 ≠ g := fun he => hg (he ▸ hm)
          exact .inr ⟨hm, by rw [wakeGroup_gated c g (h8 _ (List.mem_cons_of_mem _ hm)), h]; simp [hne], ht⟩
    · rw [hframe, wakeGroup_frame]

theorem readByte_cons (j : Nat) (w : Byte) (m : List Host.Cell) (x : Nat) :
    readByte ((j, w) :: m) x = if j = x then w else readByte m x := rfl

/-- Bytes dropped by their addresses read as unlisted. -/
theorem readByte_filter (m : List Host.Cell) (p : Nat → Bool) (x : Nat) :
    readByte (m.filter fun e => p e.1) x = if p x then readByte m x else unlisted := by
  induction m with
  | nil => simp [readByte, mget]
  | cons e m ih =>
    obtain ⟨j, w⟩ := e
    rw [List.filter_cons, readByte_cons]
    by_cases hj : j = x
    · subst hj
      by_cases hp : p j = true
      · rw [if_pos hp, readByte_cons, if_pos rfl, if_pos hp, if_pos rfl]
      · rw [if_neg hp, ih, if_neg hp, if_neg hp]
    · rw [if_neg hj, ← ih]
      split
      · rw [readByte_cons, if_neg hj]
      · rfl

/-- Groups gated one after another: what they hold is lost (R69, R200). -/
theorem foldl_gateGroup (gs : List Nat) (c : Core) :
    let d := gs.foldl Core.gateGroup c
    (∀ g, g < 8 → (d.gated.getLsbD g = true ↔ c.gated.getLsbD g = true ∨ g ∈ gs))
      ∧ (∀ x, readByte d.sp x = if x / 2 ^ 18 ∈ gs then 0 else readByte c.sp x)
      ∧ (∀ e, e ∈ d.waking ↔ e ∈ c.waking ∧ e.1 ∉ gs)
      ∧ d = { c with gated := d.gated, waking := d.waking, sp := d.sp, spBad := d.spBad } := by
  induction gs generalizing c with
  | nil => exact ⟨fun g _ => by simp, fun x => by simp, fun e => by simp, rfl⟩
  | cons g gs ih =>
    obtain ⟨hgated, hsp, hwaking, hframe⟩ := ih (c.gateGroup g)
    rw [List.foldl_cons]
    generalize gs.foldl Core.gateGroup (c.gateGroup g) = d at hgated hsp hwaking hframe
    refine ⟨fun j hj => ?_, fun x => ?_, fun e => ?_, ?_⟩
    · rw [hgated j hj, Core.gateGroup, BitVec.getLsbD_or, getLsbD_one_shiftLeft hj, Bool.or_eq_true, decide_eq_true_eq,
        List.mem_cons, or_assoc]
    · have hx : readByte (c.gateGroup g).sp x = if x / 2 ^ 18 = g then 0 else readByte c.sp x := by
        have := readByte_filter c.sp (fun a => decide (a / 2 ^ 18 ≠ g)) x
        rw [Core.gateGroup]
        by_cases hg : x / 2 ^ 18 = g
        · rw [if_pos hg]; exact this.trans (if_neg (by simpa using hg))
        · rw [if_neg hg]; exact this.trans (if_pos (by simpa using hg))
      rw [hsp, hx]
      generalize x / 2 ^ 18 = y
      by_cases hm : y ∈ gs <;> by_cases hg : y = g <;> simp [hm, hg]
    · rw [hwaking, Core.gateGroup, List.mem_filter, decide_eq_true_eq, List.mem_cons, not_or, and_assoc]
    · rw [hframe]; rfl

end Sys2Proof.Proofs
end

section
/-! PROOFS. Atomics and wide cells of the scratchpad (R92, R93, R96, R97). -/

namespace Sys2Proof.Proofs

open Sys2Proof Sys2Proof.Machine Sys2Proof.Safety Sys2Proof.Laws

variable {f : Fields} {s : State}

/-! ### The shape of the instructions -/

/-- The address of an atomic: A and, in the long form, the offset (R84). -/
def cellAt (f : Fields) (s : State) : Word := opA f s + if f.len = .three then f.l32.signExtend 64 else 0#64

theorem opA_add_offMA : opA f s + offMA f = cellAt f s := by
  unfold offMA cellAt
  cases f.len <;> rfl

/-- What an access of n bytes at A does, once it may go on, given the offset. -/
def onCells (f : Fields) (n : Nat) (write reads : Bool) (k : Nat → State → State) (s : State) : State :=
  match s.spAccess f (cellAt f s) n write reads with
  | (none, u) => u
  | (some a, u) => k a u

/-- The read-modify-write of n bytes at an offset. -/
def swapAt (f : Fields) (opc n : Nat) (op : Nat → Nat × Option (Word × FlagSet)) (a : Nat) (s : State) : State :=
  let r := op (readN s.bun.cur.sp a n)
  let u := (s.uses a (a + n) 6).spStore f a (natToBytes n r.1)
  match r.2 with
  | some (v, fl) => writeD f opc 6 v fl u
  | none => u

/-- FXRD without CLR at an offset. -/
def readCellAt (f : Fields) (a : Nat) (s : State) : State :=
  let r := fxRead (readN s.bun.cur.sp a 64)
  writeD f 0x10 6 (BitVec.ofNat 64 (r.bits % 2 ^ 32)) r.flags (s.uses a (a + 64) 6)

theorem spAtomic_eq (f : Fields) (opc n : Nat) (op : Nat → Nat × Option (Word × FlagSet)) (reads : Bool) (s : State) :
    s.spAtomic f opc n op reads = onCells f n true reads (swapAt f opc n op) s := by
  unfold State.spAtomic onCells
  rw [opA_add_offMA]
  rcases s.spAccess f (cellAt f s) n true reads with ⟨_ | a, u⟩ <;> rfl

/-- ATOM's old value and new one. -/
def atomSwap (f : Fields) (s : State) (old : Nat) : Nat × Option (Word × FlagSet) :=
  (atomOp f.i16.toNat (tBytes f.t.toNat) old (opC f s).toNat, some (tExtend f.t.toNat old, 0))

/-- ACAS's old value and new one. -/
def acasSwap (f : Fields) (s : State) (old : Nat) : Nat × Option (Word × FlagSet) :=
  (casOp (tBytes f.t.toNat) old (opBReg f s).toNat (opC f s).toNat, some (tExtend f.t.toNat old, 0))

/-- FXRD's value and flags, where CLR clears the cell. -/
def fxrdSwap (cell : Nat) : Nat × Option (Word × FlagSet) :=
  (0, some (BitVec.ofNat 64 ((fxRead cell).bits % 2 ^ 32), (fxRead cell).flags))

theorem exec_atom (hg : guardOf f s = true) : exec (.atom f) s =
    .next (onCells f (tBytes f.t.toNat) true true (swapAt f 0x0D (tBytes f.t.toNat) (atomSwap f s)) s) :=
  congrArg _ ((if_pos hg).trans (spAtomic_eq ..))
theorem exec_acas (hg : guardOf f s = true) : exec (.acas f) s =
    .next (onCells f (tBytes f.t.toNat) true true (swapAt f 0x0E (tBytes f.t.toNat) (acasSwap f s)) s) :=
  congrArg _ ((if_pos hg).trans (spAtomic_eq ..))
theorem exec_fxadd (hg : guardOf f s = true) : exec (.fxadd f) s =
    .next (onCells f 64 true true (swapAt f 0x0F 64 fun cell => (fxAdd cell (opC f s).toNat, none)) s) :=
  congrArg _ ((if_pos hg).trans (spAtomic_eq ..))
theorem exec_fxclr (hg : guardOf f s = true) : exec (.fxclr f) s =
    .next (onCells f 64 true false (swapAt f 0x11 64 fun _ => (0, none)) s) :=
  congrArg _ ((if_pos hg).trans (spAtomic_eq ..))
theorem exec_fxrd_clr (hg : guardOf f s = true) (hc : f.i16.getLsbD 0 = true) : exec (.fxrd f) s =
    .next (onCells f 64 true true (swapAt f 0x10 64 fxrdSwap) s) :=
  congrArg _ ((if_pos hg).trans ((if_pos hc).trans (spAtomic_eq ..)))
theorem exec_fxrd (hg : guardOf f s = true) (hc : f.i16.getLsbD 0 = false) : exec (.fxrd f) s =
    .next (onCells f 64 false true (readCellAt f) s) := by
  refine congrArg _ ((if_pos hg).trans ((if_neg (by rw [hc]; exact Bool.false_ne_true)).trans ?_))
  simp only [onCells, opA_add_offMA, Bool.not_false]
  rcases s.spAccess f (cellAt f s) 64 false true with ⟨_ | a, u⟩ <;> rfl

/-! ### The checks of the range -/

/-- What the bundle raises where a range meets the packed-region table (R223). -/
def packedRaise (f : Fields) (c : Core) (a n : Nat) : List Raise :=
  if c.meetsPacked a (a + n) then [⟨kPKDACC, f.slot, BitVec.ofNat 64 a, 0, 0⟩] else []

theorem packedCheck_eq (f : Fields) (s : State) (a n : Nat) : s.packedCheck f a (a + n) =
    { s with bun := { s.bun with raised := s.bun.raised ++ packedRaise f s.bun.cur a n } } := by
  unfold State.packedCheck packedRaise
  split
  · rfl
  · rw [List.append_nil]

section
variable {n : Nat} {write reads : Bool} {k : Nat → State → State}

theorem onCells_of_far (h : 2 ^ 21 ≤ (cellAt f s).toNat) : onCells f n write reads k s = s.raise f kPROT (cellAt f s) := by
  rw [onCells, State.spAccess, if_pos h]

theorem onCells_of_misaligned (h : (cellAt f s).toNat < 2 ^ 21) (ha : (cellAt f s).toNat % n ≠ 0) :
    onCells f n write reads k s = (s.packedCheck f (cellAt f s).toNat ((cellAt f s).toNat + n)).raise f kUNALIGN (cellAt f s) := by
  rw [onCells, State.spAccess, if_neg (Nat.not_le_of_lt h), if_pos ha]

theorem onCells_of_aligned (h : (cellAt f s).toNat < 2 ^ 21) (ha : (cellAt f s).toNat % n = 0) :
    onCells f n write reads k s = k (cellAt f s).toNat
      (s.spChecks f (cellAt f s).toNat ((cellAt f s).toNat + n) write false reads) := by
  rw [onCells, State.spAccess, if_neg (Nat.not_le_of_lt h), if_neg (not_not_intro ha)]

end

/-- Where neither the chase nor a group nor a word in error is in the way, only the packed-region table is left. -/
theorem spChecks_of_open {a n : Nat} {write reads : Bool} (hc : s.bun.cur.chaseBlocks a (a + n) write = false)
    (hs : (s.bun.cur.asleep a (a + n)).2 = false) (hw : s.bun.cur.badWord a (a + n) (!reads) = none) :
    s.spChecks f a (a + n) write false reads =
      { s with bun := { s.bun with raised := s.bun.raised ++ packedRaise f s.bun.cur a n } } := by
  have hb : s.bun.cur.spBlocks a (a + n) write = false := by rw [Core.spBlocks, hc, hs]; rfl
  simp only [State.spChecks, hb, hw, Bool.false_eq_true, if_false, packedCheck_eq]

theorem spChecks_of_clear {a n : Nat} {write reads : Bool} (h : spClear s.bun.cur a (a + n) write false)
    (hw : s.bun.cur.badWord a (a + n) (!reads) = none) : s.spChecks f a (a + n) write false reads = s := by
  obtain ⟨⟨hp, hc, hs⟩, -⟩ := h
  have hm : s.bun.cur.meetsPacked a (a + n) = false := hp.resolve_left Bool.false_ne_true
  rw [spChecks_of_open hc hs hw, packedRaise, hm, if_neg Bool.false_ne_true, List.append_nil]

theorem spChecks_of_chase {a n : Nat} {write reads : Bool} (hc : s.bun.cur.chaseBlocks a (a + n) write = true) :
    (s.spChecks f a (a + n) write false reads).bun.stall = true := by
  have hb : s.bun.cur.spBlocks a (a + n) write = true := by rw [Core.spBlocks, hc]; rfl
  simp only [State.spChecks, hb, if_true]
  rfl

/-! ### The access that goes on -/

theorem spStore_bun (f : Fields) (s : State) (a : Nat) (bs : List Byte) : s.spStore f a bs =
    { s with bun := { s.bun with cur := s.bun.cur.spWrite a bs,
                                 post := s.bun.post ++ if f.slot = .aga then [] else (s.passing.map Post.met).toList } } := by
  unfold State.spStore
  by_cases hs : f.slot = .aga
  · rw [if_neg (not_not_intro hs), if_pos hs, List.append_nil]; rfl
  · rw [if_pos hs, if_neg hs]
    cases s.passing with
    | none => simp [State.onCur]
    | some v => rfl

theorem stores_spStore (hw : Memory.wf s.bun.cur.sp = true) (f : Fields) (a : Nat) (bs : List Byte) :
    stores s (s.spStore f a bs) f.slot a bs := by
  rw [spStore_bun]
  exact ⟨rfl, spWrite_stores hw a bs, rfl⟩

theorem swapAt_quiet (f : Fields) (opc n : Nat) (op : Nat → Nat × Option (Word × FlagSet)) (a : Nat) (s : State) :
    (swapAt f opc n op a s).bun.raised = s.bun.raised ∧ (swapAt f opc n op a s).bun.stall = s.bun.stall := by
  simp only [swapAt, spStore_bun]
  split <;> exact ⟨rfl, rfl⟩

theorem readCellAt_quiet (f : Fields) (a : Nat) (s : State) :
    (readCellAt f a s).bun.raised = s.bun.raised ∧ (readCellAt f a s).bun.stall = s.bun.stall := ⟨rfl, rfl⟩

/-! ### Traps and stalls -/

/-- What the statement says of the traps of an atomic of n bytes, and of the chase in its way. -/
def cellTraps (f : Fields) (s : State) (i : Instr) (n : Nat) : Prop :=
  (2 ^ 21 ≤ (cellAt f s).toNat → becomes i s fun x => { x with raised := x.raised ++ [⟨kPROT, f.slot, cellAt f s, 0, 0⟩] })
    ∧ ((cellAt f s).toNat < 2 ^ 21 → (cellAt f s).toNat % n ≠ 0 → becomes i s fun x =>
        { x with raised := x.raised ++ packedRaise f s.bun.cur (cellAt f s).toNat n ++ [⟨kUNALIGN, f.slot, cellAt f s, 0, 0⟩] })
    ∧ ((cellAt f s).toNat < 2 ^ 21 → (cellAt f s).toNat % n = 0 →
        (∀ w, s.bun.cur.chaseBlocks (cellAt f s).toNat ((cellAt f s).toNat + n) w = false) →
        (s.bun.cur.asleep (cellAt f s).toNat ((cellAt f s).toNat + n)).2 = false →
        (∀ r, s.bun.cur.badWord (cellAt f s).toNat ((cellAt f s).toNat + n) r = none) →
        ∃ w, exec i s = .next w ∧ w.bun.raised = s.bun.raised ++ packedRaise f s.bun.cur (cellAt f s).toNat n
          ∧ w.bun.stall = s.bun.stall)
    ∧ ((cellAt f s).toNat < 2 ^ 21 → (cellAt f s).toNat % n = 0 →
        (∀ w, s.bun.cur.chaseBlocks (cellAt f s).toNat ((cellAt f s).toNat + n) w = true) →
        ∃ w, exec i s = .next w ∧ w.bun.stall = true)

theorem cellTraps_of_onCells {i : Instr} {n : Nat} {write reads : Bool} {k : Nat → State → State}
    (hx : exec i s = .next (onCells f n write reads k s))
    (hk : ∀ a u, (k a u).bun.raised = u.bun.raised ∧ (k a u).bun.stall = u.bun.stall) : cellTraps f s i n := by
  refine ⟨fun h => ?_, fun h ha => ?_, fun h ha hc hs hw => ⟨_, hx, ?_⟩, fun h ha hc => ⟨_, hx, ?_⟩⟩
  · rw [becomes, hx, onCells_of_far h]; rfl
  · rw [becomes, hx, onCells_of_misaligned h ha, packedCheck_eq]; rfl
  · rw [onCells_of_aligned h ha, spChecks_of_open (hc write) hs (hw _)]
    exact hk _ _
  · rw [onCells_of_aligned h ha]
    exact (hk _ _).2.trans (spChecks_of_chase (hc write))

/-! ### Values -/

/-- A result in D of AGA or AGB. -/
theorem writeD_gives (hsl : f.slot = .aga ∨ f.slot = .agb) (hd : f.d.toNat < 24) (opc lat : Nat) (v : Word) (fl : FlagSet)
    (s : State) : gives s (writeD f opc lat v fl s) f.slot f.slot.file f.d.toNat (.word v) fl := by
  have hsize : f.d.toNat < f.slot.file.size := by rcases hsl with h | h <;> rw [h] <;> exact hd
  have hfits : fits f.slot.file (.word v) = true := by rcases hsl with h | h <;> rw [h] <;> rfl
  exact result_gives s f opc f.slot.file f.d.toNat (some lat) (.word v) fl hsize hfits

/-- Nothing stops an access of n bytes at the address (the statement's `at_`). -/
def cellOpen (f : Fields) (s : State) (n : Nat) (write reads : Bool) : Prop :=
  (cellAt f s).toNat < 2 ^ 21 ∧ (cellAt f s).toNat % n = 0
    ∧ spClear s.bun.cur (cellAt f s).toNat ((cellAt f s).toNat + n) write false
    ∧ (reads = true → s.bun.cur.badWord (cellAt f s).toNat ((cellAt f s).toNat + n) false = none)

theorem onCells_of_open {n : Nat} {write reads : Bool} {k : Nat → State → State} (h : cellOpen f s n write reads)
    (hr : reads = true ∨ write = true) : onCells f n write reads k s = k (cellAt f s).toNat s := by
  obtain ⟨hfar, ha, hclear, hread⟩ := h
  have hw : s.bun.cur.badWord (cellAt f s).toNat ((cellAt f s).toNat + n) (!reads) = none := by
    cases reads with
    | true => exact hread rfl
    | false => rw [hr.resolve_left Bool.false_ne_true] at hclear; exact hclear.2
  rw [onCells_of_aligned hfar ha, spChecks_of_clear hclear hw]

/-- The statement's state after the use of the range is noted. -/
theorem uses_wf (hw : Memory.wf s.bun.cur.sp = true) (lo hi lat : Nat) : Memory.wf (s.uses lo hi lat).bun.cur.sp = true := hw

/-- An atomic that gives D a value stores the new value and then writes D. -/
theorem swaps_of_exec {i : Instr} {opc n : Nat} {op : Nat → Nat × Option (Word × FlagSet)} {new : Nat} {v : Word} {fl : FlagSet}
    (hsl : f.slot = .aga ∨ f.slot = .agb) (hd : f.d.toNat < 24) (hwf : Memory.wf s.bun.cur.sp = true)
    (hx : exec i s = .next (onCells f n true true (swapAt f opc n op) s)) (ho : cellOpen f s n true true)
    (hop : op (readN s.bun.cur.sp (cellAt f s).toNat n) = (new, some (v, fl))) :
    ∃ u w, exec i s = .next w
      ∧ stores (s.uses (cellAt f s).toNat ((cellAt f s).toNat + n) 6) u f.slot (cellAt f s).toNat (natToBytes n new)
      ∧ gives u w f.slot f.slot.file f.d.toNat (.word v) fl := by
  rw [onCells_of_open ho (.inl rfl), swapAt, hop] at hx
  exact ⟨_, _, hx, stores_spStore (uses_wf hwf _ _ _) f _ _, writeD_gives hsl hd ..⟩

/-- An atomic without a result stores the new value. -/
theorem changes_of_exec {i : Instr} {opc n : Nat} {op : Nat → Nat × Option (Word × FlagSet)} {new : Nat} {reads : Bool}
    (hwf : Memory.wf s.bun.cur.sp = true)
    (hx : exec i s = .next (onCells f n true reads (swapAt f opc n op) s)) (ho : cellOpen f s n true reads)
    (hop : op (readN s.bun.cur.sp (cellAt f s).toNat n) = (new, none)) :
    ∃ w, exec i s = .next w
      ∧ stores (s.uses (cellAt f s).toNat ((cellAt f s).toNat + n) 6) w f.slot (cellAt f s).toNat (natToBytes n new) := by
  rw [onCells_of_open ho (.inr rfl), swapAt, hop] at hx
  exact ⟨_, hx, stores_spStore (uses_wf hwf _ _ _) f _ _⟩

/-! ### The statement -/

/-- What the statement says of the groups that SPWAKE and SPGATE name. -/
theorem spwake_spgate_becomes (hg : guardOf f s = true) :
    (becomes (.spwake f) s fun b => { b with post := b.post ++ [.spWake (maskGroups (s.rd .x f.a.toNat))] })
      ∧ ((toGate f s).any s.bun.cur.groupBusy = true → becomes (.spgate f) s fun b => { b with stall := true })
      ∧ ((toGate f s).any s.bun.cur.groupBusy = false →
          becomes (.spgate f) s fun b => { b with post := b.post ++ [.spGate (toGate f s)] }) := by
  refine ⟨exec_spwake hg, fun hb => ?_, fun hb => ?_⟩
  · rw [becomes, exec_spgate hg, if_pos hb]; rfl
  · rw [becomes, exec_spgate hg, hb, if_neg Bool.false_ne_true]; rfl

theorem atomics_trap (hg : guardOf f s = true) :
    cellTraps f s (.atom f) (tBytes f.t.toNat) ∧ cellTraps f s (.acas f) (tBytes f.t.toNat) ∧ cellTraps f s (.fxadd f) 64
      ∧ cellTraps f s (.fxclr f) 64 ∧ cellTraps f s (.fxrd f) 64 := by
  refine ⟨cellTraps_of_onCells (exec_atom hg) (swapAt_quiet f _ _ _), cellTraps_of_onCells (exec_acas hg) (swapAt_quiet f _ _ _),
    cellTraps_of_onCells (exec_fxadd hg) (swapAt_quiet f _ _ _), cellTraps_of_onCells (exec_fxclr hg) (swapAt_quiet f _ _ _), ?_⟩
  cases hc : f.i16.getLsbD 0 with
  | true => exact cellTraps_of_onCells (exec_fxrd_clr hg hc) (swapAt_quiet f _ _ _)
  | false => exact cellTraps_of_onCells (exec_fxrd hg hc) (readCellAt_quiet f)

/-- Settles O19: groups are woken and gated one after another; each atomic is its checks and then a swap at its offset. -/
theorem scratchpadPowerAndAtomics : Obligations.ScratchpadPowerAndAtomics := by
  unfold Obligations.ScratchpadPowerAndAtomics
  refine ⟨fun f s hg _ => ?_, fun f s hsl hd hg hwf => ?_⟩
  · obtain ⟨hwake, hbusy, hgate⟩ := spwake_spgate_becomes hg
    refine ⟨⟨_, hwake, fun g => mem_maskGroups, fun u b _ => ?_⟩, fun h => hbusy (toGate_busy_iff.mpr h), fun h => ?_⟩
    · obtain ⟨hgated, hwaking, hframe⟩ :=
        foldl_wakeGroup (maskGroups_nodup (s.rd .x f.a.toNat)) (fun g hm => (mem_maskGroups.mp hm).1) (u.coreOf b.core)
      refine ⟨_, rfl, fun g hg8 => ?_, fun g w => ?_, hframe⟩
      · rw [hgated g hg8]
        simp only [mem_maskGroups, hg8, true_and, Bool.decide_eq_true]
      · rw [hwaking (g, w), mem_maskGroups, and_assoc]
    · have hidle := Bool.eq_false_iff.mpr fun hb => h (toGate_busy_iff.mp hb)
      exact ⟨_, hgate hidle, fun g => mem_toGate, fun u b _ => ⟨_, rfl, foldl_gateGroup (toGate f s) (u.coreOf b.core)⟩⟩
  · obtain ⟨hatom, hacas, hfxadd, hfxclr, hfxrd⟩ := atomics_trap hg
    refine ⟨hatom, hacas, hfxadd, hfxclr, hfxrd, fun ho => ⟨?_, ?_⟩, fun ho => ?_, fun ho => ?_, fun ho hc => ?_, fun ho hc => ?_⟩
    · exact swaps_of_exec hsl hd hwf (exec_atom hg) ho rfl
    · exact swaps_of_exec hsl hd hwf (exec_acas hg) ho rfl
    · exact changes_of_exec hwf (exec_fxadd hg) ho rfl
    · exact changes_of_exec hwf (exec_fxclr hg) ho rfl
    · exact swaps_of_exec hsl hd hwf (exec_fxrd_clr hg hc) ho rfl
    · exact ⟨_, (exec_fxrd hg hc).trans (congrArg _ (onCells_of_open ho (.inl rfl))), writeD_gives hsl hd ..⟩

end Sys2Proof.Proofs
end

section
/-! PROOFS. The integer operations on register values (R74, Table 4-2): shifts, extrema, bit fields and counts, bit by bit. -/

namespace Sys2Proof.Proofs

open Sys2Proof Sys2Proof.Machine

/-! ### Rotations and extrema -/

theorem rotateLeft_eq_or {n : Nat} (a : Word) (h : n < 64) : a.rotateLeft n = (a <<< n) ||| (a >>> ((64 - n) % 64)) := by
  rw [BitVec.rotateLeft_def, Nat.mod_eq_of_lt h]
  obtain rfl | hn := Nat.eq_zero_or_pos n
  · simp [BitVec.ushiftRight_eq_zero]
  · rw [Nat.mod_eq_of_lt (by omega)]

theorem minS_eq_ofInt (a b : Word) : minS a b = BitVec.ofInt 64 (min a.toInt b.toInt) := by
  unfold minS
  split
  case isTrue h => rw [min_eq_left (BitVec.slt_iff_toInt_lt.mp h).le, BitVec.ofInt_toInt]
  case isFalse h => rw [min_eq_right (not_lt.mp (mt BitVec.slt_iff_toInt_lt.mpr h)), BitVec.ofInt_toInt]

theorem maxS_eq_ofInt (a b : Word) : maxS a b = BitVec.ofInt 64 (max a.toInt b.toInt) := by
  unfold maxS
  split
  case isTrue h => rw [max_eq_right (BitVec.slt_iff_toInt_lt.mp h).le, BitVec.ofInt_toInt]
  case isFalse h => rw [max_eq_left (not_lt.mp (mt BitVec.slt_iff_toInt_lt.mpr h)), BitVec.ofInt_toInt]

theorem minN_eq_ofNat (a b : Word) : minN a b = BitVec.ofNat 64 (min a.toNat b.toNat) := by
  unfold minN
  split
  case isTrue h => rw [min_eq_left (BitVec.ult_iff_lt.mp h).le, BitVec.ofNat_toNat, BitVec.setWidth_eq]
  case isFalse h => rw [min_eq_right (not_lt.mp (mt BitVec.ult_iff_lt.mpr h)), BitVec.ofNat_toNat, BitVec.setWidth_eq]

theorem maxN_eq_ofNat (a b : Word) : maxN a b = BitVec.ofNat 64 (max a.toNat b.toNat) := by
  unfold maxN
  split
  case isTrue h => rw [max_eq_right (BitVec.ult_iff_lt.mp h).le, BitVec.ofNat_toNat, BitVec.setWidth_eq]
  case isFalse h => rw [max_eq_left (not_lt.mp (mt BitVec.ult_iff_lt.mpr h)), BitVec.ofNat_toNat, BitVec.setWidth_eq]

/-! ### Extensions -/

/-- The width of SEXT and ZEXT is that of a bit field of a word. -/
theorem extWidth_range (b : Word) : 1 ≤ extWidth b ∧ extWidth b ≤ 64 := by
  unfold extWidth
  dsimp only
  split <;> omega

/-- Sign extension of the low bits is that of a shorter bit vector. -/
theorem sextBits_eq_signExtend (w : Nat) (a : Word) : sextBits w a = (a.setWidth w).signExtend 64 := by
  rw [BitVec.signExtend, BitVec.toInt_eq_toNat_cond, BitVec.toNat_setWidth]
  unfold sextBits
  dsimp only
  have hlt : a.toNat % 2 ^ w < 2 ^ w := Nat.mod_lt _ (Nat.two_pow_pos w)
  cases w with
  | zero => simp [Nat.mod_one]
  | succ n =>
    rw [Nat.pow_succ] at hlt ⊢
    by_cases h : 2 ^ n ≤ a.toNat % (2 ^ n * 2)
    · rw [if_pos ⟨Nat.succ_pos n, h⟩, if_neg (by omega)]
      push_cast
      rfl
    · rw [if_neg (fun hc => h hc.2), if_pos (by omega), BitVec.ofInt_natCast]

theorem sextBits_getLsbD {w k : Nat} (a : Word) (hw : 1 ≤ w) (hk : k < 64) :
    (sextBits w a).getLsbD k = a.getLsbD (min k (w - 1)) := by
  rw [sextBits_eq_signExtend, BitVec.getLsbD_signExtend, decide_eq_true hk, Bool.true_and, BitVec.msb_eq_getLsbD_last]
  split
  case isTrue h => rw [BitVec.getLsbD_setWidth, decide_eq_true h, Bool.true_and, Nat.min_eq_left (by omega)]
  case isFalse h =>
    rw [BitVec.getLsbD_setWidth, decide_eq_true (show w - 1 < w by omega), Bool.true_and, Nat.min_eq_right (by omega)]

theorem zextBits_getLsbD (w : Nat) {k : Nat} (a : Word) (hk : k < 64) :
    (zextBits w a).getLsbD k = (decide (k < w) && a.getLsbD k) := by
  rw [zextBits, BitVec.getLsbD_ofNat, Nat.testBit_mod_two_pow, decide_eq_true hk, Bool.true_and]
  rfl

/-! ### Counts -/

/-- The count of leading zeros of the low n bits: the zeros above a bit that is set, or all n. -/
theorem clzAux_spec (a : Word) (n : Nat) : clzAux a n ≤ n ∧ (∀ k, n - clzAux a n ≤ k → k < n → a.getLsbD k = false)
    ∧ (clzAux a n < n → a.getLsbD (n - 1 - clzAux a n) = true) := by
  induction n with
  | zero => exact ⟨Nat.le_refl 0, fun k _ hk => absurd hk (Nat.not_lt_zero k), fun h => absurd h (Nat.lt_irrefl 0)⟩
  | succ n ih =>
    obtain ⟨hle, hzero, hone⟩ := ih
    cases hb : a.getLsbD n with
    | true =>
      simp only [clzAux, hb, if_true]
      exact ⟨Nat.zero_le _, fun k _ _ => by omega, fun _ => hb⟩
    | false =>
      simp only [clzAux, hb, Bool.false_eq_true, if_false]
      refine ⟨by omega, fun k hk hlt => ?_, fun h => ?_⟩
      · obtain rfl | hkn := Nat.eq_or_lt_of_le (Nat.lt_succ_iff.mp hlt)
        · exact hb
        · exact hzero k (by omega) hkn
      · rw [show n + 1 - 1 - (1 + clzAux a n) = n - 1 - clzAux a n by omega]
        exact hone (by omega)

/-- The count of trailing zeros of n bits from bit i on: the zeros below a bit that is set, or all n. -/
theorem ctzAux_spec (a : Word) (n i : Nat) : ctzAux a n i ≤ n ∧ (∀ k, i ≤ k → k < i + ctzAux a n i → a.getLsbD k = false)
    ∧ (ctzAux a n i < n → a.getLsbD (i + ctzAux a n i) = true) := by
  induction n generalizing i with
  | zero => exact ⟨Nat.le_refl 0, fun k hi hk => absurd hk (Nat.not_lt.mpr hi), fun h => absurd h (Nat.lt_irrefl 0)⟩
  | succ n ih =>
    obtain ⟨hle, hzero, hone⟩ := ih (i + 1)
    cases hb : a.getLsbD i with
    | true =>
      simp only [ctzAux, hb, if_true]
      exact ⟨Nat.zero_le _, fun k _ _ => by omega, fun _ => hb⟩
    | false =>
      simp only [ctzAux, hb, Bool.false_eq_true, if_false]
      refine ⟨by omega, fun k hi hk => ?_, fun h => ?_⟩
      · obtain rfl | hik := Nat.eq_or_lt_of_le hi
        · exact hb
        · exact hzero k hik (by omega)
      · rw [← Nat.add_assoc]
        exact hone (by omega)

theorem popAux_eq_length (a : Word) (n : Nat) : popAux a n = ((List.range n).filter fun k => a.getLsbD k).length := by
  induction n with
  | zero => rfl
  | succ n ih =>
    rw [popAux, ih, List.range_succ, List.filter_append, List.length_append, Nat.add_comm]
    cases h : a.getLsbD n <;> simp [h]

/-! ### Reversals -/

theorem revBits_lt (w v : Nat) : revBits w v < 2 ^ w := by
  induction w generalizing v with
  | zero => exact Nat.one_pos
  | succ w ih =>
    have hlow := ih (v / 2)
    rw [revBits, Nat.pow_succ]
    rcases Nat.mod_two_eq_zero_or_one v with h | h <;> rw [h] <;> omega

theorem revBits_testBit (w v k : Nat) : (revBits w v).testBit k = (decide (k < w) && v.testBit (w - 1 - k)) := by
  induction w generalizing v k with
  | zero => simp [revBits]
  | succ w ih =>
    rw [revBits, Nat.mul_comm, Nat.testBit_two_pow_mul_add _ (revBits_lt w _)]
    by_cases hk : k < w
    · rw [if_pos hk, ih, decide_eq_true hk, decide_eq_true (Nat.lt_succ_of_lt hk), Nat.testBit_div_two,
        show w - 1 - k + 1 = w + 1 - 1 - k by omega]
    · rw [if_neg hk]
      by_cases he : k = w
      · subst he; simp [Nat.testBit_zero]
      · rw [decide_eq_false (show ¬k < w + 1 by omega), Bool.false_and]
        exact Nat.testBit_lt_two_pow ((Nat.mod_lt v (by decide)).trans_le (Nat.le_self_pow (by omega) 2))

theorem brev64_getLsbD {k : Nat} (a : Word) (hk : k < 64) : (brev64 a).getLsbD k = a.getLsbD (63 - k) := by
  rw [brev64, BitVec.getLsbD_ofNat, revBits_testBit, decide_eq_true hk, Bool.true_and, Bool.true_and]
  rfl

theorem natToBytes_length (n x : Nat) : (natToBytes n x).length = n := by
  induction n generalizing x with
  | zero => rfl
  | succ n ih => rw [natToBytes, List.length_cons, ih]

theorem natToBytes_getElem (n x j : Nat) (h : j < (natToBytes n x).length) :
    (natToBytes n x)[j] = BitVec.ofNat 8 (x / 2 ^ (8 * j)) := by
  induction n generalizing x j with
  | zero => exact absurd h (Nat.not_lt_zero j)
  | succ n ih =>
    cases j with
    | zero => simp [natToBytes]
    | succ j =>
      simp only [natToBytes, List.getElem_cons_succ, ih, Nat.div_div_eq_div_mul]
      rw [Nat.mul_succ, Nat.pow_add, Nat.mul_comm]

theorem bswap64_getLsbD {k : Nat} (a : Word) (hk : k < 64) : (bswap64 a).getLsbD k = a.getLsbD (8 * (7 - k / 8) + k % 8) := by
  have hlen : 7 - k / 8 < (natToBytes 8 a.toNat).length := by rw [natToBytes_length]; omega
  have hrev : (natToBytes 8 a.toNat).reverse.getD (k / 8) 0#8 = BitVec.ofNat 8 (a.toNat / 2 ^ (8 * (7 - k / 8))) := by
    rw [List.getD_eq_getElem?_getD, List.getElem?_reverse (by rw [natToBytes_length]; omega), natToBytes_length,
      show 8 - 1 - k / 8 = 7 - k / 8 by omega, List.getElem?_eq_getElem hlen, natToBytes_getElem, Option.getD_some]
  rw [bswap64, BitVec.getLsbD_ofNat, testBit_bytesToNat, hrev, BitVec.getLsbD_ofNat, Nat.testBit_div_two_pow,
    decide_eq_true hk, decide_eq_true (Nat.mod_lt k (by decide)), Bool.true_and, Bool.true_and, Nat.add_comm]
  rfl

/-! ### Bit fields -/

/-- The bits of a word from a position on. -/
theorem ofNat_div_getLsbD {k pos : Nat} (a : Word) (hk : k < 64) :
    (BitVec.ofNat 64 (a.toNat / 2 ^ pos)).getLsbD k = a.getLsbD (pos + k) := by
  rw [BitVec.getLsbD_ofNat, Nat.testBit_div_two_pow, decide_eq_true hk, Bool.true_and, Nat.add_comm]
  rfl

theorem bfx_getLsbD {k pos len : Nat} (a : Word) (v : Bool) (hl : 1 ≤ len) (hk : k < 64) :
    (bfx a pos len v).getLsbD k = if k < len then a.getLsbD (pos + k) else v && a.getLsbD (pos + len - 1) := by
  unfold bfx
  cases v with
  | true =>
    dsimp only
    rw [if_pos rfl, sextBits_getLsbD _ hl hk, ofNat_div_getLsbD _ (by omega)]
    split
    · rw [Nat.min_eq_left (by omega)]
    · rw [Nat.min_eq_right (by omega), Bool.true_and, Nat.add_sub_assoc hl]
  | false =>
    dsimp only
    rw [if_neg Bool.false_ne_true, zextBits_getLsbD _ _ hk, ofNat_div_getLsbD _ hk]
    split
    case isTrue h => rw [decide_eq_true h, Bool.true_and]
    case isFalse h => rw [decide_eq_false h, Bool.false_and, Bool.false_and]

theorem bfi_getLsbD {k pos len : Nat} (a b : Word) (hk : k < 64) :
    (bfi a b pos len).getLsbD k = if pos ≤ k ∧ k < pos + len then b.getLsbD (k - pos) else a.getLsbD k := by
  have hlow : a.toNat % 2 ^ pos < 2 ^ pos := Nat.mod_lt _ (Nat.two_pow_pos pos)
  have hfield : b.toNat % 2 ^ len < 2 ^ len := Nat.mod_lt _ (Nat.two_pow_pos len)
  have hsum : a.toNat % 2 ^ pos + b.toNat % 2 ^ len * 2 ^ pos + a.toNat / 2 ^ (pos + len) * 2 ^ (pos + len) =
      2 ^ pos * (2 ^ len * (a.toNat / 2 ^ (pos + len)) + b.toNat % 2 ^ len) + a.toNat % 2 ^ pos := by
    rw [Nat.pow_add]; ring
  unfold bfi
  dsimp only
  rw [hsum, BitVec.getLsbD_ofNat, decide_eq_true hk, Bool.true_and, Nat.testBit_two_pow_mul_add _ hlow]
  by_cases h1 : k < pos
  · rw [if_pos h1, if_neg (by omega), Nat.testBit_mod_two_pow, decide_eq_true h1, Bool.true_and]
    rfl
  · rw [if_neg h1, Nat.testBit_two_pow_mul_add _ hfield]
    by_cases h2 : k - pos < len
    · rw [if_pos h2, if_pos (by omega), Nat.testBit_mod_two_pow, decide_eq_true h2, Bool.true_and]
      rfl
    · rw [if_neg h2, if_neg (by omega), Nat.testBit_div_two_pow, show k - pos - len + (pos + len) = k by omega]
      rfl

/-- The halves of LITH: the low half of a register below a literal. -/
theorem lith_getLsbD {k : Nat} (a : Word) (l : BitVec 32) (hk : k < 64) :
    (zextBits 32 a ||| (l.setWidth 64 <<< 32)).getLsbD k = if k < 32 then a.getLsbD k else l.getLsbD (k - 32) := by
  rw [BitVec.getLsbD_or, zextBits_getLsbD _ _ hk, BitVec.getLsbD_shiftLeft, BitVec.getLsbD_setWidth, decide_eq_true hk]
  by_cases h : k < 32
  · simp [h]
  · simp [h, show k - 32 < 64 by omega]

end Sys2Proof.Proofs
end

section
/-! PROOFS. The integer, bit-field, division, modular and binary32 instructions of SA and SB (R74 to R78, R80 to R83). -/

namespace Sys2Proof.Proofs

open Sys2Proof Sys2Proof.Machine Sys2Proof.Safety Sys2Proof.Laws

variable {f : Fields} {s : State}

/-! ### A result in D of the slot's own file -/

/-- D names a 64-bit register of the slot's own file. -/
def WordDest (f : Fields) : Prop := f.d.toNat < f.slot.file.size ∧ f.slot.file ≠ .p ∧ isRunFile f.slot.file = false

theorem wordDest_scalar (h : f.slot = .sa ∨ f.slot = .sb) : WordDest f := by
  rcases h with h | h <;> rw [WordDest, h] <;> exact ⟨f.d.isLt, nofun, rfl⟩

theorem writeD_gives_of_wordDest (hw : WordDest f) (opc lat : Nat) (v : Word) (fl : FlagSet) (s : State) :
    gives s (writeD f opc lat v fl s) f.slot f.slot.file f.d.toNat (.word v) fl := by
  obtain ⟨hd, hp, hr⟩ := hw
  exact result_gives s f opc f.slot.file f.d.toNat (some lat) (.word v) fl hd (by simp [fits, hp, hr])

/-- An instruction that writes a value to D yields it. -/
theorem yields_writeD {i : Instr} {opc lat : Nat} {v w : Word} {fl : FlagSet} (hw : WordDest f)
    (hi : exec i s = .next (writeD f opc lat w fl s)) (hv : w = v) : yields i f s f.slot.file v fl :=
  ⟨_, hv ▸ hi, writeD_gives_of_wordDest hw ..⟩

/-- Settles O3: each instruction writes what its operation gives, and the operations that the model defines on its own are
those of Table 4-2. -/
theorem integerResults : Obligations.IntegerResults := by
  intro f s hs hg a b n
  have hw := wordDest_scalar hs
  have hn : n < 64 := Nat.mod_lt _ (by decide)
  have ofAlu {i : Instr} {op : Word → Word → Word} {opc : Nat} {v : Word} (hi : exec i s = onGuard f s (alu f opc op))
      (hv : op a b = v) : yields i f s f.slot.file v 0 := yields_writeD hw (hi.trans (onGuard_true hg _)) hv
  have ofProduct {i : Instr} {opc : Nat} {v : Word} (hi : exec i s = .next (writeD f opc 3 v 0 s)) :
      yields i f s f.slot.file v 0 := yields_writeD hw hi rfl
  exact ⟨ofAlu rfl rfl, ofAlu rfl rfl, ofAlu rfl rfl, ofAlu rfl rfl, ofAlu rfl rfl, ofAlu rfl rfl, ofAlu rfl rfl,
    ofAlu rfl rfl, ofAlu rfl rfl, ofAlu rfl rfl, ofAlu rfl rfl, ofAlu rfl rfl, ofAlu rfl rfl, ofAlu rfl rfl, ofAlu rfl rfl,
    ofAlu rfl rfl, ofAlu rfl rfl, ofAlu rfl rfl, ofAlu rfl (rotateLeft_eq_or a hn), ofAlu rfl (rotateLeft_eq_or a hn),
    ofAlu rfl (minS_eq_ofInt a b), ofAlu rfl (minS_eq_ofInt a b), ofAlu rfl (maxS_eq_ofInt a b),
    ofAlu rfl (maxS_eq_ofInt a b), ofAlu rfl (minN_eq_ofNat a b), ofAlu rfl (minN_eq_ofNat a b),
    ofAlu rfl (maxN_eq_ofNat a b), ofAlu rfl (maxN_eq_ofNat a b), ofAlu rfl rfl, ofAlu rfl rfl, ofAlu rfl rfl,
    ofAlu rfl rfl, ofProduct (congrArg _ (if_pos hg)), ofProduct (congrArg _ (if_pos hg)),
    ofProduct (congrArg _ (if_pos hg)), ofProduct (congrArg _ (if_pos hg)), ofProduct (congrArg _ (if_pos hg)),
    ofProduct (congrArg _ (if_pos hg)), ofProduct (congrArg _ (if_pos hg))⟩

/-! ### Bit fields, counts and literals (R74, R76) -/

section
variable (hg : guardOf f s = true)
include hg

theorem exec_sel : exec (.sel f) s = .next (writeD f 0x18 1 (if s.rdPred f.c.toNat then opA f s else opBW f s) 0 s) :=
  congrArg _ (if_pos hg)
theorem exec_clz : exec (.clz f) s = .next (writeD f 0x19 1 (BitVec.ofNat 64 (clz64 (opA f s))) 0 s) := congrArg _ (if_pos hg)
theorem exec_ctz : exec (.ctz f) s = .next (writeD f 0x1A 1 (BitVec.ofNat 64 (ctz64 (opA f s))) 0 s) := congrArg _ (if_pos hg)
theorem exec_popc : exec (.popc f) s = .next (writeD f 0x1B 1 (BitVec.ofNat 64 (popc64 (opA f s))) 0 s) := congrArg _ (if_pos hg)
theorem exec_brev : exec (.brev f) s = .next (writeD f 0x1C 1 (brev64 (opA f s)) 0 s) := congrArg _ (if_pos hg)
theorem exec_bswap : exec (.bswap f) s = .next (writeD f 0x1D 1 (bswap64 (opA f s)) 0 s) := congrArg _ (if_pos hg)
theorem exec_sext : exec (.sext f) s = .next (writeD f 0x1E 1 (sextBits (extWidth (opBA f s)) (opA f s)) 0 s) :=
  congrArg _ (if_pos hg)
theorem exec_sextImm : exec (.sextImm f) s = .next (writeD f 0x1E 1 (sextBits (extWidth (opBA f s)) (opA f s)) 0 s) :=
  congrArg _ (if_pos hg)
theorem exec_zext : exec (.zext f) s = .next (writeD f 0x1F 1 (zextBits (extWidth (opBA f s)) (opA f s)) 0 s) :=
  congrArg _ (if_pos hg)
theorem exec_zextImm : exec (.zextImm f) s = .next (writeD f 0x1F 1 (zextBits (extWidth (opBA f s)) (opA f s)) 0 s) :=
  congrArg _ (if_pos hg)
theorem exec_bfx : exec (.bfx f) s =
    .next (writeD f 0x20 1 (bfx (opA f s) (f.i16.toNat % 64) (f.i16.toNat / 64 % 128) f.v) 0 s) := congrArg _ (if_pos hg)
theorem exec_bfi : exec (.bfi f) s =
    .next (writeD f 0x21 1 (bfi (opA f s) (opBReg f s) (f.i16.toNat % 64) (f.i16.toNat / 64 % 128)) 0 s) :=
  congrArg _ (if_pos hg)
theorem exec_lit : exec (.lit f) s = .next (writeD f 0x22 1 (litK f) 0 s) := congrArg _ (if_pos hg)
theorem exec_lith : exec (.lith f) s =
    .next (writeD f 0x23 1 (zextBits 32 (s.rd f.slot.file f.d.toNat) ||| (f.l32.setWidth 64 <<< 32)) 0 s) :=
  congrArg _ (if_pos hg)

end

theorem litK_two (h : f.len = .two) : litK f = f.i16.signExtend 64 := by rw [litK, h]; rfl
theorem litK_three (h : f.len = .three) : litK f = f.l32.signExtend 64 := by rw [litK, h]; rfl

/-- Settles O4: each instruction writes what its operation gives, and each operation by its bits. -/
theorem bitResults : Obligations.BitResults := by
  intro f s hs hg a b w pos len
  have hw := wordDest_scalar hs
  have bits {i : Instr} {p : Nat → Bool} {opc : Nat} {v : Word} (hi : exec i s = .next (writeD f opc 1 v 0 s))
      (hv : ∀ k, k < 64 → v.getLsbD k = p k) : ∃ v : Word, yields i f s f.slot.file v 0 ∧ ∀ k, k < 64 → v.getLsbD k = p k :=
    ⟨v, yields_writeD hw hi rfl, hv⟩
  obtain ⟨hclz, hclzZero, hclzOne⟩ := clzAux_spec a 64
  obtain ⟨hctz, hctzZero, hctzOne⟩ := ctzAux_spec a 64 0
  rw [Nat.zero_add] at hctzZero hctzOne
  obtain ⟨hwidth, -⟩ := extWidth_range b
  exact ⟨yields_writeD hw (exec_sel hg) rfl,
    ⟨_, hclz, ⟨hclzZero, hclzOne⟩, yields_writeD hw (exec_clz hg) rfl⟩,
    ⟨_, hctz, ⟨fun k => hctzZero k (Nat.zero_le k), hctzOne⟩, yields_writeD hw (exec_ctz hg) rfl⟩,
    yields_writeD hw (exec_popc hg) (congrArg (BitVec.ofNat 64) (popAux_eq_length a 64)),
    bits (exec_brev hg) fun k => brev64_getLsbD a, bits (exec_bswap hg) fun k => bswap64_getLsbD a,
    bits (exec_sext hg) fun k => sextBits_getLsbD a hwidth, bits (exec_sextImm hg) fun k => sextBits_getLsbD a hwidth,
    bits (exec_zext hg) fun k => zextBits_getLsbD _ a, bits (exec_zextImm hg) fun k => zextBits_getLsbD _ a,
    fun hl _ => ⟨bits (exec_bfx hg) fun k => bfx_getLsbD a f.v hl, bits (exec_bfi hg) fun k => bfi_getLsbD a (opBReg f s)⟩,
    fun hl => yields_writeD hw (exec_lit hg) (litK_two hl), fun hl => yields_writeD hw (exec_lit hg) (litK_three hl),
    bits (exec_lith hg) fun k => lith_getLsbD (s.rd f.slot.file f.d.toNat) f.l32⟩

/-! ### Division (R77, R78, Table 4-3) -/

theorem divS_eq (a b : Word) : divS a b =
    (if b = 0#64 then BitVec.allOnes 64 else BitVec.ofInt 64 (Int.tdiv a.toInt b.toInt),
      if b = 0#64 then fDZ else if a = BitVec.intMin 64 ∧ b = BitVec.allOnes 64 then fOF else 0#8) := by
  unfold divS flagIf
  split <;> simp

theorem remS_eq (a b : Word) : remS a b =
    (if b = 0#64 then a else BitVec.ofInt 64 (Int.tmod a.toInt b.toInt), if b = 0#64 then fDZ else 0#8) := by
  unfold remS
  split <;> rfl

theorem divN_eq (a b : Word) : divN a b =
    (if b = 0#64 then BitVec.allOnes 64 else BitVec.ofNat 64 (a.toNat / b.toNat), if b = 0#64 then fDZ else 0#8) := by
  unfold divN
  split <;> rfl

theorem remN_eq (a b : Word) : remN a b =
    (if b = 0#64 then a else BitVec.ofNat 64 (a.toNat % b.toNat), if b = 0#64 then fDZ else 0#8) := by
  unfold remN
  split <;> rfl

/-- A division stalls while the divider is busy; else it gives what its operation gives and occupies the divider. -/
theorem divide_cases {i : Instr} {opc : Nat} {op : Word → Word → Word × FlagSet} {v : Word} {fl : FlagSet}
    (hs : f.slot = .sb) (hg : guardOf f s = true) (hi : exec i s = onGuard f s (divide f opc op))
    (hv : op (opA f s) (opBA f s) = (v, fl)) :
    if s.bun.cur.clk < s.bun.cur.divFree then becomes i s fun x => { x with stall := true }
    else ∃ t, exec i s = .next t ∧
      givesAnd s t f.slot .y f.d.toNat (.word v) fl fun c => { c with divFree := c.clk + 20 } := by
  have hw := wordDest_scalar (.inr hs)
  rw [onGuard_true hg, divide, hv] at hi
  split
  case isTrue h => rw [if_pos h] at hi; exact hi
  case isFalse h =>
    rw [if_neg h] at hi
    have hgives := writeD_gives_of_wordDest hw opc 20 v fl s
    rw [show f.slot.file = .y by rw [hs]; rfl] at hgives
    exact ⟨_, hi, _, hgives, rfl⟩

/-- Settles O6: the four operations by their results and flags, each through the one divider. -/
theorem division : Obligations.Division := by
  intro f s hs hg a b z low busy q r qn rn dz dzof
  have hz {α : Type} (x y : α) : (if b = 0#64 then x else y) = if z then x else y := by simp only [z, decide_eq_true_eq]
  have hlow {α : Type} (x y : α) : (if a = BitVec.intMin 64 ∧ b = BitVec.allOnes 64 then x else y) = if low then x else y := by
    simp only [low, decide_eq_true_eq]
  have hdiv : divS a b = (q, dzof) := by rw [divS_eq, hz, hz, hlow]
  have hdivn : divN a b = (qn, dz) := by rw [divN_eq, hz, hz]
  have hrem : remS a b = (r, dz) := by rw [remS_eq, hz, hz]
  have hremn : remN a b = (rn, dz) := by rw [remN_eq, hz, hz]
  exact ⟨divide_cases hs hg rfl hdiv, divide_cases hs hg rfl hdiv, divide_cases hs hg rfl hdivn, divide_cases hs hg rfl hdivn,
    divide_cases hs hg rfl hrem, divide_cases hs hg rfl hrem, divide_cases hs hg rfl hremn, divide_cases hs hg rfl hremn⟩

/-! ### Modular arithmetic (R80) -/

theorem flagIf_or (p q : Prop) [Decidable p] [Decidable q] (fl : FlagSet) :
    flagIf (decide p || decide q) fl = if p ∨ q then fl else 0#8 := by
  simp only [flagIf, Bool.or_eq_true, decide_eq_true_eq]

/-- The difference of two residues is the residue of the difference; with modulus 0 both sides are the natural difference. -/
theorem sub_residues (q a b : Nat) : (a % q + q - b % q) % q = (((a : Int) - b) % (q : Int)).toNat := by
  obtain rfl | hq := Nat.eq_zero_or_pos q
  · simp
  · have hb : b % q ≤ a % q + q := (Nat.mod_lt b hq).le.trans (Nat.le_add_left ..)
    have h : (((a % q + q - b % q : Nat) : Int)) % q = ((a : Int) - b) % q := by
      rw [Nat.cast_sub hb, Nat.cast_add, Int.natCast_mod, Int.natCast_mod, Int.sub_emod, Int.add_emod_right, Int.emod_emod,
        Int.emod_emod, ← Int.sub_emod]
    rw [← h, ← Int.natCast_mod, Int.toNat_natCast]

/-- Settles O7: the residues of the operands give the residue of the exact result. -/
theorem modularResults : Obligations.ModularResults := by
  intro f s hs hg q a b fl
  have hw := wordDest_scalar (.inr hs)
  have hfile : f.slot.file = .y := by rw [hs]; rfl
  have gives {i : Instr} {opc lat : Nat} {op : Nat → Nat → Nat → Nat × FlagSet} {n : Nat}
      (hi : exec i s = onGuard f s (modular f opc lat op)) (hop : op q a b = (n, fl)) :
      yields i f s .y (BitVec.ofNat 64 n) fl := by
    have hx : exec i s = .next (writeD f opc lat (BitVec.ofNat 64 (op q a b).1) (op q a b).2 s) :=
      hi.trans (onGuard_true hg _)
    rw [hop] at hx
    exact hfile ▸ yields_writeD hw hx rfl
  exact ⟨gives rfl (by rw [modMul, ← Nat.mul_mod, flagIf_or]), gives rfl (by rw [modAdd, ← Nat.add_mod, flagIf_or]),
    gives rfl (by rw [modSub, sub_residues, flagIf_or])⟩

/-! ### Binary32 (R81 to R83) -/

/-- Flags without a register are owed by their slot; no register and nothing else of the core changes (R57). -/
theorem flagsIn_owed (s : State) (f : Fields) (opc lat : Nat) (fl : FlagSet) :
    let t := s.flagsIn f opc lat fl
    onlyCur s t ∧ coreFrame s.bun.cur t.bun.cur ∧ (∀ h file n, settled t.bun.cur h file n = settled s.bun.cur h file n)
      ∧ ∀ k, owedFlags t.bun.cur k = if k = f.slot then owedFlags s.bun.cur k ||| fl else owedFlags s.bun.cur k := by
  intro t
  by_cases h0 : fl = 0
  · have ht : t = s := if_pos h0
    rw [ht, h0]
    exact ⟨rfl, ⟨rfl, ⟨rfl, rfl, rfl⟩, rfl, rfl, rfl⟩, fun _ _ _ => rfl, fun k => by simp⟩
  · let p : Pend := ⟨s.bun.cur.nextId, s.bun.hnd, f.slot, s.bun.hdr, opc, none, some (s.bun.cur.clk + lat), .word 0, fl⟩
    have ht : t = s.onCur fun c => { c with pend := c.pend ++ [p], nextId := c.nextId + 1 } := if_neg h0
    rw [ht]
    exact ⟨rfl, ⟨rfl, ⟨rfl, rfl, rfl⟩, rfl, rfl, rfl⟩, fun h file n => settled_push s.bun.cur p _ h file n,
      fun k => owed_push s.bun.cur p _ k⟩

/-- A binary32 compare sets its predicate, and its slot owes the flags. -/
theorem floatCompare_sets {i : Instr} {opc : Nat} {op : Nat → Nat → Bool × FlagSet} (hg : guardOf f s = true)
    (hd : f.d.toNat < 16) (hi : exec i s = onGuard f s (floatCompare f opc op)) :
    let r := op (opA f s).toNat (opBF f s).toNat
    ∃ u t, exec i s = .next t ∧ onlyCur s u ∧ coreSets s.bun.cur u.bun.cur s.bun.hnd f.d.toNat r.1 ∧ onlyCur u t
      ∧ coreFrame u.bun.cur t.bun.cur ∧ (∀ h file n, settled t.bun.cur h file n = settled u.bun.cur h file n)
      ∧ ∀ k, owedFlags t.bun.cur k = if k = f.slot then owedFlags u.bun.cur k ||| r.2 else owedFlags u.bun.cur k := by
  intro r
  exact ⟨s.setP f.d.toNat r.1, _, hi.trans (onGuard_true hg _), rfl, setPred_sets s.bun.cur s.bun.hnd f.d.toNat r.1 hd,
    flagsIn_owed (s.setP f.d.toNat r.1) f opc 1 r.2⟩

/-- Settles O8: the arithmetic by what its operation rounds to, the compares by the predicate and the flags they set. -/
theorem floatResults : Obligations.FloatResults := by
  intro f s hs hg a b m gives sets i x
  have hw := wordDest_scalar (.inr hs)
  have hfile : f.slot.file = .y := by rw [hs]; rfl
  have rounds {i : Instr} {op : Nat → Nat → Rounded} {opc lat : Nat} (hi : exec i s = onGuard f s (float f opc lat op)) :
      yields i f s .y (BitVec.ofNat 64 ((op a b).bits % 2 ^ 32)) (op a b).flags :=
    hfile ▸ yields_writeD hw (hi.trans (onGuard_true hg _)) rfl
  have writes {i : Instr} {opc lat : Nat} {v : Word} {fl : FlagSet} (hi : exec i s = .next (writeD f opc lat v fl s)) :
      yields i f s .y v fl := hfile ▸ yields_writeD hw hi rfl
  exact ⟨rounds rfl, rounds rfl, rounds rfl, rounds rfl, rounds rfl, rounds rfl,
    rounds (op := fun a b => f32Fma m a b (opC f s).toNat) rfl, rounds rfl, rounds rfl, rounds rfl, rounds rfl,
    fun hd => ⟨floatCompare_sets hg hd rfl, floatCompare_sets hg hd rfl, floatCompare_sets hg hd rfl,
      floatCompare_sets hg hd rfl, floatCompare_sets hg hd rfl, floatCompare_sets hg hd rfl⟩,
    writes (congrArg _ (if_pos hg)), writes (congrArg _ (if_pos hg)), writes (congrArg _ (if_pos hg))⟩

end Sys2Proof.Proofs
end

section
/-! PROOFS. Moves between register files, literals, modifiers and the updates of address registers (R79, R88 to R90, R272). -/

namespace Sys2Proof.Proofs

open Sys2Proof Sys2Proof.Machine Sys2Proof.Safety Sys2Proof.Laws

variable {f : Fields} {s : State}

/-! ### Moves (R79, R90, R272) -/

theorem wordDest_of_size (hctl : f.slot ≠ .ctl) (hva : f.slot ≠ .va) (hvb : f.slot ≠ .vb) (hd : f.d.toNat < f.slot.file.size) :
    WordDest f := by
  refine ⟨hd, ?_⟩
  cases hs : f.slot with
  | ctl => exact absurd hs hctl
  | va => exact absurd hs hva
  | vb => exact absurd hs hvb
  | sa | sb | aga | agb | xe => exact ⟨nofun, rfl⟩

theorem wordDest_address (h : f.slot = .aga ∨ f.slot = .agb) (hd : f.d.toNat < 24) : WordDest f := by
  rcases h with h | h <;> rw [WordDest, h] <;> exact ⟨hd, nofun, rfl⟩

/-- Element 0 is that of the first slug that has elements. -/
theorem slugAt_zero (r : RunReg) : slugAt r.slugs 0 = (elements r).headD 0#64 := by
  unfold elements
  induction r.slugs with
  | nil => rfl
  | cons p rest ih =>
    obtain ⟨v, c⟩ := p
    cases c with
    | zero => simpa [slugAt] using ih
    | succ c => simp [slugAt, List.replicate_succ]

/-- What XMOV takes: a whole register, or element 0 of a run register (R79). -/
def movedValue (f : Fields) (s : State) : Word :=
  let file := fileOfCode f.slot.file f.sc
  if isRunFile file then (elements (s.rdRun file f.a.toNat)).headD 0#64 else opASc f s

theorem moveIn_eq (f : Fields) (opc : Nat) (s : State) : ∃ lat, moveIn f opc s = writeD f opc lat (movedValue f s) 0 s := by
  unfold moveIn movedValue
  dsimp only
  split
  · exact ⟨_, by rw [slugAt_zero]⟩
  · exact ⟨_, rfl⟩

theorem yields_moveIn {i : Instr} {opc : Nat} (hw : WordDest f) (hi : exec i s = .next (moveIn f opc s)) :
    yields i f s f.slot.file (movedValue f s) 0 := by
  obtain ⟨lat, hm⟩ := moveIn_eq f opc s
  exact yields_writeD hw (hi.trans (congrArg _ hm)) rfl

section
variable (hg : guardOf f s = true)
include hg

theorem exec_xmovScalar : exec (.xmovScalar f) s = .next (moveIn f 0x24 s) := congrArg _ (if_pos hg)
theorem exec_xmovXe : exec (.xmovXe f) s = .next (moveIn f 0x1B s) := congrArg _ (if_pos hg)
theorem exec_amov : exec (.amov f) s = .next (writeD f 0x0A 1 (opASc f s) 0 s) := congrArg _ (if_pos hg)
theorem exec_aadd : exec (.aadd f) s = .next (writeD f 0x09 1 (opA f s + opBA f s) 0 s) := congrArg _ (if_pos hg)
theorem exec_aaddImm : exec (.aaddImm f) s = .next (writeD f 0x09 1 (opA f s + opBA f s) 0 s) := congrArg _ (if_pos hg)
theorem exec_mset : exec (.mset f) s = .next (writeD f 0x0B 1
    (BitVec.ofNat 64 ((opBW f s).toNat % 2 ^ 32 + (opA f s).toNat % 2 ^ 24 * 2 ^ 32 + f.i16.toNat % 2 ^ 8 * 2 ^ 56)) 0 s) :=
  congrArg _ (if_pos hg)
theorem exec_elit : exec (.elit f) s = .next (writeD f 0x1C 1 (litK f) 0 s) := congrArg _ (if_pos hg)
theorem exec_amod : exec (.amod f) s = .next (s.update f 0x0C f.d.toNat (opA f s)) := congrArg _ (if_pos hg)

end

/-- W and MODE of a modifier stand side by side in I16[7:0] (R88). -/
theorem width_add_mode (n : Nat) : n % 2 ^ 6 * 2 ^ 56 + n / 2 ^ 6 % 4 * 2 ^ 62 = n % 2 ^ 8 * 2 ^ 56 := by omega

/-! ### The update of an address register (R89) -/

theorem ceilPow2_eq_clog (n : Nat) : ceilPow2 n = 2 ^ Nat.clog 2 n := by
  unfold ceilPow2
  split
  case isTrue h => rw [Nat.clog_of_right_le_one h, Nat.pow_zero]
  case isFalse h =>
    have hne : n - 1 ≠ 0 := by omega
    have hlow := Nat.log2_self_le hne
    have hhigh := Nat.lt_log2_self (n := n - 1)
    congr 1
    refine Nat.le_antisymm ((Nat.lt_clog_iff_pow_lt (by decide)).mpr (by omega)) ?_
    exact (Nat.clog_le_iff_le_pow (by decide)).mpr (by omega)

/-- The fields of a modifier (R88). -/
theorem modifier_fields (m : Word) : m.setWidth 32 = m.extractLsb' 0 32 ∧ m.toNat / 2 ^ 32 % 2 ^ 24 = (m.extractLsb' 32 24).toNat
    ∧ m.toNat / 2 ^ 56 % 2 ^ 6 = (m.extractLsb' 56 6).toNat ∧ m.toNat / 2 ^ 62 = (m.extractLsb' 62 2).toNat := by
  refine ⟨rfl, ?_, ?_, ?_⟩ <;> rw [BitVec.extractLsb'_toNat, Nat.shiftRight_eq_div_pow]
  exact (Nat.mod_eq_of_lt (Nat.div_lt_of_lt_mul (n := 2 ^ 62) (k := 2 ^ 2) m.isLt)).symm

/-- The linear update. -/
theorem addrUpdate_linear {a m : Word} (h : (m.extractLsb' 62 2).toNat = 0) :
    addrUpdate a m = some (a + (m.extractLsb' 0 32).signExtend 64) := by
  obtain ⟨hstep, -, -, hmode⟩ := modifier_fields m
  simp only [addrUpdate, hmode, h, hstep]

/-- The circular update of a buffer of no length. -/
theorem addrUpdate_circular_zero {a m : Word} (h : (m.extractLsb' 62 2).toNat = 1) (hl : (m.extractLsb' 32 24).toNat = 0) :
    addrUpdate a m = some a := by
  obtain ⟨-, hlen, -, hmode⟩ := modifier_fields m
  rw [addrUpdate, hmode, h, hlen]
  exact if_pos hl

/-- The circular update stays in the buffer that starts at a multiple of the power of two that holds LEN. -/
theorem addrUpdate_circular {a m : Word} (h : (m.extractLsb' 62 2).toNat = 1) (hl : 0 < (m.extractLsb' 32 24).toNat) :
    let len := (m.extractLsb' 32 24).toNat
    let size := 2 ^ Nat.clog 2 len
    ∃ base r, base % size = 0 ∧ base ≤ a.toNat ∧ a.toNat < base + size ∧ r < len
      ∧ (len : Int) ∣ (a.toNat : Int) - base + ((m.extractLsb' 0 32).signExtend 64).toInt - r
      ∧ addrUpdate a m = some (BitVec.ofNat 64 (base + r)) := by
  obtain ⟨hstep, hlen, -, hmode⟩ := modifier_fields m
  intro len size
  have hsize : a.toNat % size < size := Nat.mod_lt _ (Nat.two_pow_pos _)
  have hbase : a.toNat - a.toNat % size = size * (a.toNat / size) := by have := Nat.mod_add_div a.toNat size; omega
  have hle : a.toNat % size ≤ a.toNat := Nat.mod_le ..
  have hpos : (0 : Int) < len := Int.natCast_pos.mpr hl
  have hup : addrUpdate a m = some (BitVec.ofNat 64 (a.toNat - a.toNat % size +
      ((((a.toNat - (a.toNat - a.toNat % size) : Nat) : Int) + ((m.extractLsb' 0 32).signExtend 64).toInt) % (len : Int)).toNat)) := by
    rw [addrUpdate, hmode, h, hstep, hlen]
    exact (if_neg hl.ne').trans (by rw [ceilPow2_eq_clog])
  have hoff : ((a.toNat - (a.toNat - a.toNat % size) : Nat) : Int) = (a.toNat : Int) - (a.toNat - a.toNat % size : Nat) :=
    Nat.cast_sub (Nat.sub_le ..)
  rw [hoff] at hup
  generalize hx : (a.toNat : Int) - (a.toNat - a.toNat % size : Nat) + ((m.extractLsb' 0 32).signExtend 64).toInt = x at hup
  have hr : ((x % (len : Int)).toNat : Int) = x % len := Int.toNat_of_nonneg (Int.emod_nonneg _ hpos.ne')
  refine ⟨_, (x % (len : Int)).toNat, by rw [hbase]; exact Nat.mul_mod_right .., by omega, by omega, ?_, ?_, hup⟩
  · have := Int.emod_lt_of_pos x hpos
    omega
  · rw [hx, hr]
    exact Int.dvd_self_sub_emod

theorem revBits_revBits {w v : Nat} (h : v < 2 ^ w) : revBits w (revBits w v) = v := by
  refine Nat.eq_of_testBit_eq fun k => ?_
  rw [revBits_testBit, revBits_testBit]
  by_cases hk : k < w
  · rw [decide_eq_true hk, decide_eq_true (show w - 1 - k < w by omega), show w - 1 - (w - 1 - k) = k by omega]
    rfl
  · rw [decide_eq_false hk, Bool.false_and]
    exact (Nat.testBit_lt_two_pow (h.trans_le (Nat.pow_le_pow_right (by decide) (by omega)))).symm

/-- A word whose low bits are replaced. -/
theorem toNat_replace_low {w r : Nat} (a : Word) (hw : w ≤ 64) (hr : r < 2 ^ w) :
    (BitVec.ofNat 64 (a.toNat - a.toNat % 2 ^ w + r)).toNat = 2 ^ w * (a.toNat / 2 ^ w) + r := by
  have hsplit : a.toNat - a.toNat % 2 ^ w = 2 ^ w * (a.toNat / 2 ^ w) := by have := Nat.mod_add_div a.toNat (2 ^ w); omega
  have h64 : 2 ^ w * 2 ^ (64 - w) = 2 ^ 64 := by rw [← Nat.pow_add, Nat.add_sub_cancel' hw]
  have hq : a.toNat / 2 ^ w < 2 ^ (64 - w) := Nat.div_lt_of_lt_mul (h64 ▸ a.isLt)
  have hlt : 2 ^ w * (a.toNat / 2 ^ w) + r < 2 ^ 64 := calc
    _ < 2 ^ w * (a.toNat / 2 ^ w + 1) := by rw [Nat.mul_succ]; exact Nat.add_lt_add_left hr _
    _ ≤ 2 ^ w * 2 ^ (64 - w) := Nat.mul_le_mul_left _ hq
    _ = 2 ^ 64 := h64
  rw [hsplit, BitVec.toNat_ofNat, Nat.mod_eq_of_lt hlt]

/-- The bit-reversed update adds in the order of reversed bits, and leaves the bits above W as they were. -/
theorem addrUpdate_reversed {a m : Word} (h : (m.extractLsb' 62 2).toNat = 2) :
    let w := (m.extractLsb' 56 6).toNat
    let step := ((m.extractLsb' 0 32).signExtend 64).toNat
    ∃ v : Word, addrUpdate a m = some v ∧ v.toNat / 2 ^ w = a.toNat / 2 ^ w
      ∧ revBits w (v.toNat % 2 ^ w) = (revBits w (a.toNat % 2 ^ w) + revBits w (step % 2 ^ w)) % 2 ^ w := by
  obtain ⟨hstep, -, hwidth, hmode⟩ := modifier_fields m
  intro w step
  have hw : w ≤ 64 := ((m.extractLsb' 56 6).isLt.le).trans (by decide)
  have hsum := Nat.mod_lt (revBits w (a.toNat % 2 ^ w) + revBits w (step % 2 ^ w)) (Nat.two_pow_pos w)
  have hup : addrUpdate a m = some (BitVec.ofNat 64 (a.toNat - a.toNat % 2 ^ w +
      revBits w ((revBits w (a.toNat % 2 ^ w) + revBits w (step % 2 ^ w)) % 2 ^ w))) := by
    simp only [addrUpdate, hmode, h, hstep, hwidth]
    rfl
  generalize (revBits w (a.toNat % 2 ^ w) + revBits w (step % 2 ^ w)) % 2 ^ w = y at hsum hup
  refine ⟨_, hup, ?_, ?_⟩
  · rw [toNat_replace_low a hw (revBits_lt w y), Nat.mul_add_div (Nat.two_pow_pos w), Nat.div_eq_of_lt (revBits_lt w y),
      Nat.add_zero]
  · rw [toNat_replace_low a hw (revBits_lt w y), Nat.mul_add_mod, Nat.mod_eq_of_lt (revBits_lt w y), revBits_revBits hsum]

/-- Mode 3 is no update. -/
theorem addrUpdate_none {a m : Word} (h : (m.extractLsb' 62 2).toNat = 3) : addrUpdate a m = none := by
  obtain ⟨-, -, -, hmode⟩ := modifier_fields m
  simp only [addrUpdate, hmode, h]

/-! ### An address register updated -/

theorem update_of_some {opc reg : Nat} {a m : Word} (h : addrUpdate (s.rd f.slot.file reg) m = some a) :
    s.update f opc reg m = s.result f opc f.slot.file reg (some 1) (.word a) 0 := by
  rw [State.update, h]

theorem update_of_none {opc reg : Nat} {m : Word} (h : addrUpdate (s.rd f.slot.file reg) m = none) :
    s.update f opc reg m = s.raise f kUNALIGN m := by
  rw [State.update, h]

theorem yields_amod {v : Word} (hg : guardOf f s = true) (hw : WordDest f)
    (h : addrUpdate (s.rd f.slot.file f.d.toNat) (opA f s) = some v) : yields (.amod f) f s f.slot.file v 0 :=
  yields_writeD hw ((exec_amod hg).trans (congrArg _ (update_of_some h))) rfl

/-- Settles O9: a move writes what it takes, and AMOD what the update of its mode gives. -/
theorem movesAndModifiers : Obligations.MovesAndModifiers := by
  refine ⟨fun f s hctl hva hvb hd hg => ?moves, fun f s hs hd hg => ?amod⟩
  case moves =>
    have hw := wordDest_of_size hctl hva hvb hd
    refine ⟨yields_moveIn hw (exec_xmovScalar hg), yields_moveIn hw (exec_xmovXe hg), yields_writeD hw (exec_amov hg) rfl,
      yields_writeD hw (exec_aadd hg) rfl, yields_writeD hw (exec_aaddImm hg) rfl, yields_writeD hw (exec_mset hg) ?_,
      fun h => yields_writeD hw (exec_elit hg) (litK_two h), fun h => yields_writeD hw (exec_elit hg) (litK_three h)⟩
    rw [Nat.add_assoc _ (f.i16.toNat % 2 ^ 6 * 2 ^ 56), width_add_mode]
  case amod =>
    have hw := wordDest_address hs hd
    refine ⟨fun h => yields_amod hg hw (addrUpdate_linear h), fun h hl => yields_amod hg hw (addrUpdate_circular_zero h hl),
      fun h hl => ?_, fun h => ?_, fun h => ?_⟩
    · obtain ⟨base, r, hmod, hle, hlt, hr, hdvd, hup⟩ := addrUpdate_circular (a := s.rd f.slot.file f.d.toNat) h hl
      exact ⟨base, r, hmod, hle, hlt, hr, hdvd, yields_amod hg hw hup⟩
    · obtain ⟨v, hup, hhigh, hlow⟩ := addrUpdate_reversed (a := s.rd f.slot.file f.d.toNat) h
      exact ⟨v, yields_amod hg hw hup, hhigh, hlow⟩
    · rw [becomes, exec_amod hg, update_of_none (addrUpdate_none h)]
      rfl

end Sys2Proof.Proofs
end

section
/-! PROOFS. LD and ST, with the update of their address register (R84, R86, R89, R200). -/

namespace Sys2Proof.Proofs

open Sys2Proof Sys2Proof.Machine Sys2Proof.Safety Sys2Proof.Laws

variable {f : Fields} {s u : State}

/-! ### The update of A (R84, R86) -/

/-- A core with the general registers and the results in flight of another. -/
def withRegisters (c d : Core) : Core :=
  { c with main := d.main, hnd := d.hnd, v := d.v, w := d.w, pend := d.pend, nextId := d.nextId }

/-- One state differs from another in general registers, in results in flight and in what its bundle has raised alone. -/
def RegistersOnly (s u : State) : Prop :=
  ∃ d raised, u = { s with bun := { s.bun with cur := withRegisters s.bun.cur d, raised := raised } }

namespace RegistersOnly

theorem refl (s : State) : RegistersOnly s s := ⟨s.bun.cur, s.bun.raised, rfl⟩

theorem of_gives {k : Slot} {file : RFile} {n : Nat} {v : RegVal} {fl : FlagSet} (h : gives s u k file n v fl) :
    RegistersOnly s u := by
  obtain ⟨hu, ⟨hc, -⟩, -⟩ := h
  have hc : u.bun.cur = withRegisters s.bun.cur u.bun.cur := hc
  exact ⟨u.bun.cur, s.bun.raised, hc ▸ hu⟩

theorem pre_eq (h : RegistersOnly s u) : u.bun.pre = s.bun.pre := by obtain ⟨d, r, rfl⟩ := h; rfl

theorem sp_eq (h : RegistersOnly s u) : u.bun.cur.sp = s.bun.cur.sp := by obtain ⟨d, r, rfl⟩ := h; rfl

theorem meetsPacked_eq (h : RegistersOnly s u) (lo hi : Nat) :
    u.bun.cur.meetsPacked lo hi = s.bun.cur.meetsPacked lo hi := by obtain ⟨d, r, rfl⟩ := h; rfl

theorem spClear_iff (h : RegistersOnly s u) (lo hi : Nat) (write ok : Bool) :
    spClear u.bun.cur lo hi write ok ↔ spClear s.bun.cur lo hi write ok := by obtain ⟨d, r, rfl⟩ := h; rfl

theorem spReads_iff (h : RegistersOnly s u) (lo hi : Nat) (ok : Bool) : spReads u lo hi ok ↔ spReads s lo hi ok := by
  obtain ⟨d, r, rfl⟩ := h; rfl

end RegistersOnly

/-- What V asks for is done, or raised; either way only registers and raises differ. -/
theorem postModify_spec (hs : f.slot = .aga ∨ f.slot = .agb) (ha : f.a.toNat < 24) (opc : Nat) (s : State) :
    postMods s (s.postModify f opc) f ∧ RegistersOnly s (s.postModify f opc) := by
  unfold postMods State.postModify
  cases f.v with
  | false => exact ⟨rfl, .refl s⟩
  | true =>
    simp only [if_true]
    cases hup : addrUpdate (opA f s) (opBReg f s) with
    | none =>
      rw [update_of_none hup]
      exact ⟨⟨nofun, fun _ => rfl⟩, s.bun.cur, _, rfl⟩
    | some a =>
      have hfile : f.a.toNat < f.slot.file.size ∧ fits f.slot.file (.word a) = true := by
        rcases hs with h | h <;> rw [h] <;> exact ⟨ha, rfl⟩
      have hgives := result_gives s f opc f.slot.file f.a.toNat (some 1) (.word a) 0 hfile.1 hfile.2
      rw [update_of_some hup]
      exact ⟨⟨fun b hb => Option.some.inj hb ▸ hgives, nofun⟩, .of_gives hgives⟩

/-! ### The access (R86) -/

/-- What an access does behind its checks, at its offset; nothing more where they end it. An atomic's `onCells` is this at the
address of an atomic. -/
def behindChecks (r : Option Nat × State) (k : Nat → State → State) : State :=
  match r with
  | (none, u) => u
  | (some a, u) => k a u

/-- What LD gives D: a register, or a run register of one element (R86). -/
def loadedVal (f : Fields) (v : Word) : RegVal :=
  if isRunFile (fileOfCode f.slot.file f.sc) then .run ⟨if f.t.toNat ≤ 4 then tagS64 else tagN64, [(v, 1)]⟩ else .word v

/-- LD at an offset: the range is in use for 4 clk (R200). -/
def loadAt (f : Fields) (a : Nat) (u : State) : State :=
  (u.uses a (a + tBytes f.t.toNat) 4).result f 0x01 (fileOfCode f.slot.file f.sc) f.d.toNat (some 4)
    (loadedVal f (tExtend f.t.toNat (readN u.bun.pre.sp a (tBytes f.t.toNat)))) 0

theorem exec_ld (hg : guardOf f s = true) : exec (.ld f) s = .next (behindChecks
    ((s.postModify f 0x01).spAccess f (opA f s + offM f) (tBytes f.t.toNat) false (before := true)) (loadAt f)) := by
  refine congrArg _ ((if_pos hg).trans ?_)
  dsimp only
  rcases (s.postModify f 0x01).spAccess f (opA f s + offM f) (tBytes f.t.toNat) false (before := true) with ⟨_ | a, u⟩
  · rfl
  · simp only [behindChecks, loadAt, loadedVal, tSigned, decide_eq_true_eq]
    rfl

theorem exec_st (hg : guardOf f s = true) : exec (.st f) s = .next (behindChecks
    ((s.postModify f 0x02).spAccess f (opA f s + offM f) (tBytes f.t.toNat) true)
    fun a u => u.spStore f a (natToBytes (tBytes f.t.toNat) (opCSc f s).toNat)) := by
  refine congrArg _ ((if_pos hg).trans ?_)
  dsimp only
  rcases (s.postModify f 0x02).spAccess f (opA f s + offM f) (tBytes f.t.toNat) true with ⟨_ | a, u⟩ <;> rfl

section
variable {ea : Word} {n : Nat} {write reads before : Bool} {k : Nat → State → State}

theorem behindChecks_far (h : 2 ^ 21 ≤ ea.toNat) : behindChecks (u.spAccess f ea n write reads before) k = u.raise f kPROT ea := by
  rw [State.spAccess, if_pos h]
  rfl

theorem behindChecks_misaligned (h : ea.toNat < 2 ^ 21) (ha : ea.toNat % n ≠ 0) :
    behindChecks (u.spAccess f ea n write reads before) k =
      (u.packedCheck f ea.toNat (ea.toNat + n)).raise f kUNALIGN ea := by
  rw [State.spAccess, if_neg (Nat.not_le_of_lt h), if_pos ha]
  rfl

theorem behindChecks_aligned (h : ea.toNat < 2 ^ 21) (ha : ea.toNat % n = 0) :
    behindChecks (u.spAccess f ea n write reads before) k =
      k ea.toNat (u.spChecks f ea.toNat (ea.toNat + n) write false reads before) := by
  rw [State.spAccess, if_neg (Nat.not_le_of_lt h), if_neg (not_not_intro ha)]
  rfl

/-- Outside the scratchpad an access raises PROT, and a misaligned one UNALIGN, behind PKDACC in a packed region. -/
theorem behindChecks_illegal (hu : RegistersOnly s u) (h : ¬(ea.toNat < 2 ^ 21 ∧ ea.toNat % n = 0)) :
    let t := behindChecks (u.spAccess f ea n write reads before) k
    (2 ^ 21 ≤ ea.toNat ∧ t = u.raise f kPROT ea) ∨ (ea.toNat < 2 ^ 21 ∧
      t = (if s.bun.cur.meetsPacked ea.toNat (ea.toNat + n) then u.raise f kPKDACC (BitVec.ofNat 64 ea.toNat) else u).raise f
        kUNALIGN ea) := by
  by_cases hfar : 2 ^ 21 ≤ ea.toNat
  · exact .inl ⟨hfar, behindChecks_far hfar⟩
  · have hnear : ea.toNat < 2 ^ 21 := Nat.lt_of_not_le hfar
    refine .inr ⟨hnear, (behindChecks_misaligned hnear fun ha => h ⟨hnear, ha⟩).trans ?_⟩
    rw [State.packedCheck, hu.meetsPacked_eq]

end

theorem fits_loadedVal (hs : f.slot = .aga ∨ f.slot = .agb) (v : Word) :
    fits (fileOfCode f.slot.file f.sc) (loadedVal f v) = true := by
  have hp : fileOfCode f.slot.file f.sc ≠ .p := by
    unfold fileOfCode
    split <;> rcases hs with h | h <;> simp [h, Slot.file]
  unfold loadedVal
  cases hr : isRunFile (fileOfCode f.slot.file f.sc) with
  | true => exact hr
  | false => simp [fits, hr, hp]

/-- Settles O24: A is updated first, then the access is checked, and what passes loads or stores. -/
theorem loadStore : Obligations.LoadStore := by
  intro f s hs ha hg hwf ea n file val legal wrong
  obtain ⟨hld, hldOnly⟩ := postModify_spec hs ha 0x01 s
  obtain ⟨hst, hstOnly⟩ := postModify_spec hs ha 0x02 s
  refine ⟨fun h => ⟨?ldWrong, ?stWrong⟩, fun h hd hr => ?ld, fun h hc => ?st⟩
  case ldWrong => exact ⟨_, _, exec_ld hg, hld, behindChecks_illegal hldOnly h⟩
  case stWrong => exact ⟨_, _, exec_st hg, hst, behindChecks_illegal hstOnly h⟩
  case ld =>
    refine ⟨_, _, exec_ld hg, hld, ?_⟩
    rw [behindChecks_aligned h.1 h.2, spChecks_of_spReads ((hldOnly.spReads_iff ..).mpr hr), loadAt, hldOnly.pre_eq]
    exact result_gives _ f 0x01 file f.d.toNat (some 4) _ 0 hd (fits_loadedVal hs _)
  case st =>
    have hclear := (hstOnly.spClear_iff ea.toNat (ea.toNat + n) true false).mpr hc
    refine ⟨_, _, exec_st hg, hst, ?_⟩
    rw [behindChecks_aligned h.1 h.2, spChecks_of_clear (reads := !true) hclear hclear.2]
    exact stores_spStore (hstOnly.sp_eq ▸ hwf) f ea.toNat _

end Sys2Proof.Proofs
end

section
/-! PROOFS. Global accesses at issue (R91, R92, R94, R96 to R98, R209 to R211, R214, R323). -/

namespace Sys2Proof.Proofs

open Sys2Proof Sys2Proof.Machine Sys2Proof.Safety Sys2Proof.Laws

variable {f : Fields} {s u w : State} {ea : Word} {acc : Nat}

/-! ### Translation and checks (R209 to R211, R214, R323) -/

theorem lookedUp_bun (s : State) (e : TlbEntry) : s.lookedUp e = { s with bun := { s.bun with
    cur := { s.bun.cur with tlb := tlbPut 64 e s.bun.cur.tlb },
    post := s.bun.post ++ if s.bun.cur.tlb.contains e then [] else [.shared e] } } := by
  unfold State.lookedUp
  split
  · rw [List.append_nil]; rfl
  · rfl

/-- No walk or expansion that the bundle waited for has failed at this page. -/
def NoneFailed (s : State) (ea : Word) : Prop := ∀ x ∈ s.bun.xlf, x.1 ≠ ea.toNat / 4096

theorem access_failed {x : Nat × Nat} (h : s.bun.xlf.find? (fun x => x.1 == ea.toNat / 4096) = some x) :
    s.access f ea acc = (none, s.raise f x.2 ea 0 (if x.2 = kXLATE then acc else accWalk)) := by
  rw [State.access, h]

section
variable (hn : NoneFailed s ea)
include hn

theorem find_failed : s.bun.xlf.find? (fun x => x.1 == ea.toNat / 4096) = none :=
  List.find?_eq_none.mpr fun x hx => by simpa using hn x hx

theorem access_ok {e : TlbEntry} {pa : Nat} (h : s.accept ea acc = .ok e pa)
    (hc : (s.inCxl pa && (s.bun.cur.refused || s.bun.cur.refusing.isSome)) = false) :
    s.access f ea acc = (some (e, pa), s.lookedUp e) := by
  rw [Bool.and_or_distrib_left, Bool.or_eq_false_iff] at hc
  simp only [State.access, find_failed hn, h, hc, Bool.false_eq_true, if_false]

theorem access_refused {e : TlbEntry} {pa : Nat} (h : s.accept ea acc = .ok e pa) (hc : s.inCxl pa = true)
    (hr : s.bun.cur.refused = true) : s.access f ea acc = (none, s.raise f kCXLBUSY ea 0 acc) := by
  simp only [State.access, find_failed hn, h, hc, hr, Bool.and_self, if_true]

theorem access_fault {k : Nat} (h : s.accept ea acc = .fault k) : s.access f ea acc = (none, s.raise f k ea 0 acc) := by
  simp only [State.access, find_failed hn, h]

theorem access_miss (h : s.accept ea acc = .miss) : s.access f ea acc = (none, s.holds (.translate ea acc)) := by
  simp only [State.access, find_failed hn, h]

theorem access_expand {k subst : Nat} (h : s.accept ea acc = .expand k subst) :
    s.access f ea acc = (none, s.holds (.expand k true ea subst)) := by
  simp only [State.access, find_failed hn, h]

theorem access_wait (h : s.accept ea acc = .wait) : s.access f ea acc = (none, s.holds (.expand 0 false ea 0)) := by
  simp only [State.access, find_failed hn, h]

end

/-! ### What an access does at issue -/

section
variable {opc n : Nat} {b c : Word} {dest : Bool} (hm : u.bun.mem = none)
include hm

theorem gAccess_far (h : 2 ^ 56 ≤ ea.toNat) : u.gAccess f opc n acc ea b c dest = u.raise f kPROT ea 0 acc := by
  simp only [State.gAccess, hm, Option.isSome_none, Bool.false_eq_true, if_false, if_pos h]

theorem gAccess_misaligned (h : ea.toNat < 2 ^ 56) (ha : ea.toNat % n ≠ 0) :
    u.gAccess f opc n acc ea b c dest = (u.access f ea acc).2.raise f kUNALIGN ea := by
  simp only [State.gAccess, hm, Option.isSome_none, Bool.false_eq_true, if_false, if_neg (Nat.not_le_of_lt h), if_pos ha]

theorem gAccess_accepted {e : TlbEntry} {pa : Nat} (h : ea.toNat < 2 ^ 56) (ha : ea.toNat % n = 0)
    (hx : u.access f ea acc = (some (e, pa), w)) : u.gAccess f opc n acc ea b c dest = w.gIssue f opc ea b c pa e dest := by
  simp only [State.gAccess, hm, Option.isSome_none, Bool.false_eq_true, if_false, if_neg (Nat.not_le_of_lt h),
    if_neg (not_not_intro ha), hx]

theorem gAccess_ended (h : ea.toNat < 2 ^ 56) (ha : ea.toNat % n = 0) (hx : u.access f ea acc = (none, w)) :
    u.gAccess f opc n acc ea b c dest = w := by
  simp only [State.gAccess, hm, Option.isSome_none, Bool.false_eq_true, if_false, if_neg (Nat.not_le_of_lt h),
    if_neg (not_not_intro ha), hx]

end

/-- A result with no latency of its own adds to what is in flight, and takes one number. -/
theorem produce_unset (c : Core) (hnd : Bool) (k : Slot) (hdr : Word) (opc : Nat) (file : RFile) (n : Nat) (v : RegVal) :
    ∃ pend, c.produce hnd k hdr opc file n none v 0 = { c with pend := pend, nextId := c.nextId + 1 } := by
  by_cases hd : discards file n = true
  · exact ⟨c.pend, by simp [Core.produce, hd]⟩
  · exact ⟨_, by simp [Core.produce, hd]; rfl⟩

/-- An access that is translated joins those of the core; a register that it delivers into is empty from then on. -/
theorem accepts_gIssue (hd : WordDest f) (u : State) (opc : Nat) (ea b c : Word) (pa : Nat) (e : TlbEntry) (dest : Bool) :
    accepts u ((u.lookedUp e).gIssue f opc ea b c pa e dest) f opc ea b c e pa dest := by
  rw [lookedUp_bun]
  cases dest with
  | false => exact ⟨rfl, rfl, rfl, rfl, nofun, fun _ _ _ _ => rfl⟩
  | true =>
    obtain ⟨hsize, hp, hr⟩ := hd
    let c₁ : Core := { u.bun.cur with tlb := tlbPut 64 e u.bun.cur.tlb }
    obtain ⟨-, hempty⟩ := produce_later c₁ u.bun.hnd f.slot u.bun.hdr opc f.slot.file f.d.toNat (.word 0)
    obtain ⟨-, hset, -⟩ := produce_gives c₁ u.bun.hnd f.slot u.bun.hdr opc f.slot.file f.d.toNat none (.word 0) 0 hsize
      (by simp [fits, hp, hr])
    obtain ⟨pend, hprod⟩ := produce_unset c₁ u.bun.hnd f.slot u.bun.hdr opc f.slot.file f.d.toNat (.word 0)
    simp only [State.gIssue, State.result, State.onCur, if_true]
    rw [hprod] at hempty hset ⊢
    refine ⟨rfl, rfl, rfl, rfl, fun _ => hempty, fun h file n hn => (hset h file n).trans ?_⟩
    rw [hn.resolve_right nofun]
    rfl

namespace RegistersOnly

theorem mem_eq (h : RegistersOnly s u) : u.bun.mem = s.bun.mem := by obtain ⟨d, r, rfl⟩ := h; rfl

theorem accept_eq (h : RegistersOnly s u) (ea : Word) (acc : Nat) : u.accept ea acc = s.accept ea acc := by
  obtain ⟨d, r, rfl⟩ := h; rfl

theorem noneFailed (h : RegistersOnly s u) (hn : NoneFailed s ea) : NoneFailed u ea := by
  obtain ⟨d, r, rfl⟩ := h; exact hn

theorem cxlBusy_eq (h : RegistersOnly s u) (pa : Nat) : (u.inCxl pa && (u.bun.cur.refused || u.bun.cur.refusing.isSome)) =
    (s.inCxl pa && (s.bun.cur.refused || s.bun.cur.refusing.isSome)) := by obtain ⟨d, r, rfl⟩ := h; rfl

end RegistersOnly

/-- A global access behind a state that differs in registers and raises alone: it is out of reach, misaligned, or accepted. -/
theorem gAccess_cases {i : Instr} {opc n : Nat} {b c : Word} {dest : Bool} {P : State → Prop} (hd : WordDest f)
    (hm : s.bun.mem = none) (hi : exec i s = .next (u.gAccess f opc n acc ea b c dest)) (hP : P u) (hu : RegistersOnly s u) :
    (2 ^ 56 ≤ ea.toNat → ∃ u t, exec i s = .next t ∧ P u ∧ t = u.raise f kPROT ea 0 acc)
      ∧ (ea.toNat < 2 ^ 56 → ea.toNat % n ≠ 0 →
          ∃ u t, exec i s = .next t ∧ P u ∧ t = (u.access f ea acc).2.raise f kUNALIGN ea)
      ∧ ∀ e pa, (∀ x ∈ s.bun.xlf, x.1 ≠ ea.toNat / 4096) → ea.toNat < 2 ^ 56 → ea.toNat % n = 0 → s.accept ea acc = .ok e pa →
          (s.inCxl pa && (s.bun.cur.refused || s.bun.cur.refusing.isSome)) = false →
          ∃ u t, exec i s = .next t ∧ P u ∧ accepts u t f opc ea b c e pa dest := by
  have hmu : u.bun.mem = none := hu.mem_eq.trans hm
  refine ⟨fun h => ⟨u, _, hi, hP, gAccess_far hmu h⟩, fun h ha => ⟨u, _, hi, hP, gAccess_misaligned hmu h ha⟩,
    fun e pa hn h ha hok hc => ⟨u, _, hi, hP, ?_⟩⟩
  have hx : u.access f ea acc = (some (e, pa), u.lookedUp e) :=
    access_ok (hu.noneFailed hn) ((hu.accept_eq ea acc).trans hok) ((hu.cxlBusy_eq pa).trans hc)
  rw [gAccess_accepted hmu h ha hx]
  exact accepts_gIssue hd u opc ea b c pa e dest

/-! ### The instructions -/

section
variable (hg : guardOf f s = true)
include hg

theorem exec_ldg : exec (.ldg f) s = .next
    ((s.postModify f 0x03).gAccess f 0x03 (tBytes f.t.toNat) accLoad (opA f s + offM f) 0 0 true) := congrArg _ (if_pos hg)
theorem exec_stg : exec (.stg f) s = .next
    ((s.postModify f 0x04).gAccess f 0x04 (tBytes f.t.toNat) accStore (opA f s + offM f) 0 (opC f s) false) :=
  congrArg _ (if_pos hg)
theorem exec_atomg : exec (.atomg f) s = .next
    (s.gAccess f 0x12 (tBytes f.t.toNat) accAtomic (cellAt f s) 0 (opC f s) true) := by
  rw [← opA_add_offMA]; exact congrArg _ (if_pos hg)
theorem exec_acasg : exec (.acasg f) s = .next
    (s.gAccess f 0x13 (tBytes f.t.toNat) accAtomic (cellAt f s) (opBReg f s) (opC f s) true) := by
  rw [← opA_add_offMA]; exact congrArg _ (if_pos hg)
theorem exec_fxaddg : exec (.fxaddg f) s = .next (s.gAccess f 0x14 64 accAtomic (cellAt f s) 0 (opC f s) false) := by
  rw [← opA_add_offMA]; exact congrArg _ (if_pos hg)
theorem exec_fxrdg : exec (.fxrdg f) s = .next
    (s.gAccess f 0x15 64 (if f.i16.getLsbD 0 then accAtomic else accLoad) (cellAt f s) 0 0 true) := by
  rw [← opA_add_offMA]; exact congrArg _ (if_pos hg)
theorem exec_prefg : exec (.prefg f) s = .next (s.post (.prefetch (opA f s + offM f))) := congrArg _ (if_pos hg)

end

/-- LDG without V where its access ends before it is accepted. -/
theorem exec_ldg_ended (hg : guardOf f s = true) (hm : s.bun.mem = none) (hv : f.v = false)
    (h : (opA f s + offM f).toNat < 2 ^ 56) (ha : (opA f s + offM f).toNat % tBytes f.t.toNat = 0)
    (hx : s.access f (opA f s + offM f) accLoad = (none, w)) : exec (.ldg f) s = .next w := by
  have hp : s.postModify f 0x03 = s := by rw [State.postModify, hv, if_neg Bool.false_ne_true]
  rw [exec_ldg hg, hp, gAccess_ended hm h ha hx]

/-- Settles O25: the accesses by how far each comes, and LDG by what its acceptance meets on its way. -/
theorem globalAccesses : Obligations.GlobalAccesses := by
  refine ⟨fun f s hs ha hd hg hm => ?accesses, ?loads⟩
  case accesses =>
    have hw := wordDest_address hs hd
    obtain ⟨hldg, hldgOnly⟩ := postModify_spec hs ha 0x03 s
    obtain ⟨hstg, hstgOnly⟩ := postModify_spec hs ha 0x04 s
    have modified {i : Instr} {opc n acc : Nat} {ea b c : Word} {dest : Bool} {u : State}
        (hi : exec i s = .next (u.gAccess f opc n acc ea b c dest)) (hu : postMods s u f) (hr : RegistersOnly s u) :=
      gAccess_cases (P := fun u => postMods s u f) hw hm hi hu hr
    have plain {i : Instr} {opc n acc : Nat} {ea b c : Word} {dest : Bool}
        (hi : exec i s = .next (s.gAccess f opc n acc ea b c dest)) :=
      gAccess_cases (P := fun u => u = s) hw hm hi rfl (.refl s)
    exact ⟨modified (exec_ldg hg) hldg hldgOnly, modified (exec_stg hg) hstg hstgOnly, plain (exec_atomg hg),
      plain (exec_acasg hg), plain (exec_fxaddg hg), plain (exec_fxrdg hg), exec_prefg hg⟩
  case loads =>
    intro f s hg hm hv ea h hal
    have ended {t : State} (hx : s.access f ea accLoad = (none, t)) : exec (.ldg f) s = .next t :=
      exec_ldg_ended hg hm hv h hal hx
    refine ⟨fun x hx => ended (access_failed hx), fun hn => ⟨fun k hk => ended (access_fault hn hk),
      fun e pa hok hc hr => ended (access_refused hn hok hc hr), fun hmiss => waitsFor_holds (ended (access_miss hn hmiss)),
      fun k subst hk => waitsFor_holds (ended (access_expand hn hk)),
      fun hwait => waitsFor_holds (ended (access_wait hn hwait))⟩⟩

end Sys2Proof.Proofs
end

section
/-! PROOFS. RNGCFG, TIDWR and TIDRD (R121, R270, R271). -/

namespace Sys2Proof.Proofs

open Sys2Proof Sys2Proof.Machine Sys2Proof.Safety Sys2Proof.Laws

variable {f : Fields} {s : State} {body : Nat → State → State}

/-! ### The offset and its checks -/

/-- Once the address passes Table 14-2 and is aligned, the checks of the scratchpad range are all that is left. -/
theorem onTid_aligned {write : Bool} (he : engChecks (opA f s) [0] 0 = []) (ha : eaAddr (opA f s) % 32 = 0) :
    onTid f s write body =
      let u := s.spChecks f (eaAddr (opA f s)) (eaAddr (opA f s) + 32) write (before := !write)
      if u.bun.stall then u else body (eaAddr (opA f s)) u := by
  rw [onTid, he, if_neg (not_not_intro ha)]
  rfl

theorem onTid_read (he : engChecks (opA f s) [0] 0 = []) (ha : eaAddr (opA f s) % 32 = 0) (hst : s.bun.stall = false)
    (hr : spReads s (eaAddr (opA f s)) (eaAddr (opA f s) + 32) false) :
    onTid f s false body = body (eaAddr (opA f s)) s := by
  have hsp : s.spChecks f (eaAddr (opA f s)) (eaAddr (opA f s) + 32) false (before := !false) = s := spChecks_of_spReads hr f
  simp only [onTid_aligned he ha, hsp, hst, Bool.false_eq_true, if_false]

theorem onTid_write (he : engChecks (opA f s) [0] 0 = []) (ha : eaAddr (opA f s) % 32 = 0) (hst : s.bun.stall = false)
    (hw : spClear s.bun.cur (eaAddr (opA f s)) (eaAddr (opA f s) + 32) true false) :
    onTid f s true body = body (eaAddr (opA f s)) s := by
  have hsp : s.spChecks f (eaAddr (opA f s)) (eaAddr (opA f s) + 32) true (before := !true) = s := spChecks_of_clear hw hw.2
  simp only [onTid_aligned he ha, hsp, hst, Bool.false_eq_true, if_false]

/-! ### The instructions -/

/-- TIDWR behind its checks: the forme of the 32 bytes as the bundle found them, if Table 5-8 accepts it. -/
def tidWrite (f : Fields) (a : Nat) (s : State) : State :=
  let fm : Forme := BitVec.ofNat 256 (readN s.bun.pre.sp a 32)
  if fm.accepted then s.onCur fun c => { c with formes := c.formes.setIfInBounds (f.i16.toNat % 64) fm } else s.raise f kFMTMIS

/-- TIDRD behind its checks. -/
def tidRead (f : Fields) (a : Nat) (s : State) : State := s.spStore f a (natToBytes 32 (s.formeAt f.i16.toNat).toNat)

section
variable (hg : guardOf f s = true)
include hg

theorem exec_rngcfg : exec (.rngcfg f) s = .next (s.onCur fun c => { c with rng :=
    { key := opA f s, ctr := (opBReg f s).toNat + (opC f s).toNat * 2 ^ 64, words := [], ready := s.bun.cur.clk + 12 } }) :=
  congrArg _ (if_pos hg)
theorem exec_tidwr : exec (.tidwr f) s = .next (onTid f s false (tidWrite f)) := congrArg _ (if_pos hg)
theorem exec_tidrd : exec (.tidrd f) s = .next (onTid f s true (tidRead f)) := congrArg _ (if_pos hg)

end

/-- Settles O29: each instruction is its checks at its offset and then one change of the bundle. -/
theorem generatorAndFormes : Obligations.GeneratorAndFormes := by
  intro f s _ hg hwf hst
  refine ⟨exec_rngcfg hg, fun ⟨he, ha, hr⟩ hok => ?written, fun ⟨he, ha, hr⟩ hbad => ?refused, fun ⟨he, ha, hw⟩ => ?stored⟩
  case written =>
    have hx := (exec_tidwr hg).trans (congrArg _ (onTid_read he ha hst hr))
    rw [tidWrite, eaAddr, if_pos hok] at hx
    refine ⟨_, hx, rfl, rfl, fun k hk => ?_⟩
    exact (getD_set s.bun.cur.formes 0 _ _ k (Nat.mod_lt _ (by decide))).trans (if_congr eq_comm rfl rfl)
  case refused =>
    have hx := (exec_tidwr hg).trans (congrArg _ (onTid_read he ha hst hr))
    rw [tidWrite, eaAddr, if_neg (by rw [hbad]; exact Bool.false_ne_true)] at hx
    exact hx
  case stored =>
    exact ⟨_, (exec_tidrd hg).trans (congrArg _ (onTid_write he ha hst hw)), stores_spStore hwf f _ _⟩

end Sys2Proof.Proofs
end

section
/-! PROOFS. An MZERO that finishes (R291): every number that its operation names is taken modulo 8. -/

namespace Sys2Proof.Proofs

open Sys2Proof Sys2Proof.Machine Sys2Proof.Safety Sys2Proof.Laws

/-! ### Tiles -/

theorem dropMat_tiles (c : Core) (o : MatOp) : (c.dropMat o).tiles = c.tiles :=
  List.foldlRecOn (motive := fun d : Core => d.tiles = c.tiles) o.stats _ rfl fun _ h _ _ => h

/-- What MZERO does to the planes and tiles of its core. -/
def zeroTiles (c : Core) (ts : List Nat) : Core := ts.foldl (fun c t => c.setTile t {}) c

/-- An MZERO that nothing stops any more zeroes its tiles and leaves the queue: it takes no object and no flags land. -/
theorem exec_matrixOpFinish_mzero {s : State} {core cmd : Nat} {o : MatOp} (hheld : s.enginesHeld core = false)
    (hfind : (s.coreOf core).mats.find? (fun o => o.cmd.id == cmd) = some o) (hstarted : o.started = true)
    (hparked : o.cmd.parked = false) (hdue : o.due (s.coreOf core) ≤ (s.coreOf core).clk)
    (hfree : ((s.coreOf core).mats.takeWhile fun x => x.cmd.id ≠ cmd).any (fun p => p.tiles.any o.tiles.contains) = false)
    (hopc : o.cmd.opc = 0x06) :
    exec (.matrixOpFinish core cmd) s = .next (s.setCore core ((zeroTiles (s.coreOf core) o.tiles).dropMat o)) := by
  have hwrites : o.writes (s.coreOf core) = [] := by rw [MatOp.writes, hopc]; rfl
  have heffect : (s.coreOf core).effect o = (zeroTiles (s.coreOf core) o.tiles, 0) := by rw [Core.effect, hopc]; rfl
  have hstays : (!o.started || o.cmd.parked || decide ((s.coreOf core).clk < o.due (s.coreOf core))
      || ((s.coreOf core).mats.takeWhile fun x => x.cmd.id ≠ cmd).any (fun p => p.tiles.any o.tiles.contains)) = false := by
    rw [hstarted, hparked, decide_eq_false (Nat.not_lt_of_le hdue), hfree]; rfl
  refine congrArg _ (?_ : (tryMatrixOpFinish core cmd s).getD s = _)
  unfold tryMatrixOpFinish
  simp only [hheld, hfind, hstays, hwrites, heffect, Core.rouseAll, Core.softMerge, List.findSome?_nil, Core.landFlags,
    takesObject, hopc, Bool.false_eq_true, Bool.not_true, if_false, if_true]
  rfl

/-! ### An operation that names a tile beyond the eight -/

/-- A core with a float tile in each place and an MZERO of "tile 9" that is due: no issue names such a tile (R291), and
`Obligations.MatrixEngine` speaks of every operation. -/
def strayMat : MatOp :=
  { cmd := { id := 5, eng := .matrix, opc := 0x06, f := plainFields .xe .two, hnd := false, hdr := 0, ea := 0, eb := 0, ec := 0 },
    tiles := [9], started := true }
def strayCore : Core := { clk := 100, tiles := Vector.replicate 8 { mode := 1 }, mats := [strayMat] }
def strayState : State := { cores := [(0, strayCore)] }

theorem strayState_finishes : exec (.matrixOpFinish 0 5) strayState =
    .next (strayState.setCore 0 ((zeroTiles strayCore [9]).dropMat strayMat)) :=
  exec_matrixOpFinish_mzero (s := strayState) (core := 0) (o := strayMat) (by decide) rfl rfl rfl (by decide) rfl rfl

/-- Refutes O46 in its clause of MZERO: setTile takes the tile's number modulo 8, so an operation whose list of tiles is [9]
zeroes tile 1, which it does not name. The clause lacks `∀ t ∈ o.tiles, t < 8`, which every MZERO that issues has (R291). -/
theorem not_matrixEngine : ¬ Obligations.MatrixEngine := by
  intro h
  obtain ⟨-, -, hzero, -⟩ := h 0 5 strayState strayMat (by decide)
  obtain ⟨d, hd, -, hothers, -⟩ := hzero (by decide) rfl
  have hcore : d = (zeroTiles strayCore [9]).dropMat strayMat := by
    have hs := Host.Outcome.next.inj (hd.symm.trans strayState_finishes)
    simpa using congrArg (fun t : State => t.coreOf 0) hs
  have hkept : d.tiles.toList.getD 1 {} = { mode := 1 } := hothers 1 (by decide)
  have hlost : d.tiles.toList.getD 1 {} = {} := by rw [hcore, dropMat_tiles]; rfl
  exact absurd (hlost.symm.trans hkept) (by decide)

end Sys2Proof.Proofs
end

section
/-! PROOFS. Lists of runs and the elements they stand for (R122, R125, R127): merging, splitting and joining of runs by what they
do to the elements. -/

namespace Sys2Proof.Proofs

open Sys2Proof Sys2Proof.Machine Sys2Proof.Safety

variable {α β : Type}

/-! ### Runs and what they stand for -/

/-- The values of a list of runs one by one: of a run register, its elements. -/
def expanded (ps : List (α × Nat)) : List α := ps.flatMap fun p => List.replicate p.2 p.1

/-- No run is empty. -/
def FullRuns (ps : List (α × Nat)) : Prop := ∀ p ∈ ps, 0 < p.2

theorem elements_eq (r : RunReg) : elements r = expanded r.slugs := rfl

@[simp] theorem expanded_nil : expanded ([] : List (α × Nat)) = [] := rfl

@[simp] theorem expanded_cons (x : α) (c : Nat) (ps : List (α × Nat)) :
    expanded ((x, c) :: ps) = List.replicate c x ++ expanded ps := rfl

@[simp] theorem expanded_append (ps qs : List (α × Nat)) : expanded (ps ++ qs) = expanded ps ++ expanded qs := List.flatMap_append

theorem expanded_map (g : α → β) (ps : List (α × Nat)) : expanded (ps.map fun p => (g p.1, p.2)) = (expanded ps).map g := by
  simp [expanded, List.flatMap_map, List.map_flatMap]

theorem expanded_length (ps : List (α × Nat)) : (expanded ps).length = (ps.map Prod.snd).sum := by
  simp [expanded, List.length_flatMap]

theorem elements_length (r : RunReg) : (elements r).length = r.len := expanded_length r.slugs

/-- A value stands among the elements when a run that is not empty holds it. -/
theorem mem_expanded {x : α} {ps : List (α × Nat)} : x ∈ expanded ps ↔ ∃ p ∈ ps, 0 < p.2 ∧ p.1 = x := by
  simp only [expanded, List.mem_flatMap, List.mem_replicate, ← Nat.pos_iff_ne_zero, eq_comm]

theorem slugAt_eq (ps : List (Word × Nat)) (k : Nat) : slugAt ps k = (expanded ps).getD k 0#64 := by
  induction ps generalizing k with
  | nil => rfl
  | cons p ps ih =>
    obtain ⟨x, c⟩ := p
    rw [slugAt, expanded_cons, ih]
    simp only [List.getD_eq_getElem?_getD, List.getElem?_append, List.getElem?_replicate, List.length_replicate]
    split <;> rfl

/-! ### Merging (R127) -/

theorem expanded_mergeGo (p : Word × Nat) (ps : List (Word × Nat)) : expanded (mergeGo p ps) = expanded (p :: ps) := by
  induction ps generalizing p with
  | nil => rfl
  | cons q ps ih =>
    obtain ⟨x, c⟩ := p
    obtain ⟨y, d⟩ := q
    rw [mergeGo]
    split
    case isTrue h =>
      obtain rfl : y = x := h
      simp only [ih, expanded_cons, List.replicate_add, List.append_assoc]
    case isFalse => rw [expanded_cons, expanded_cons, ih, expanded_cons]

@[simp] theorem expanded_mergeSlugs (ps : List (Word × Nat)) : expanded (mergeSlugs ps) = expanded ps := by
  cases ps with
  | nil => rfl
  | cons p ps => exact expanded_mergeGo p ps

/-- What `.c` makes of slugs. -/
def coalesced (coal : Bool) (ps : List (Word × Nat)) : List (Word × Nat) := if coal then mergeSlugs ps else ps

@[simp] theorem expanded_coalesced (coal : Bool) (ps : List (Word × Nat)) : expanded (coalesced coal ps) = expanded ps := by
  cases coal
  · rfl
  · exact expanded_mergeSlugs ps

theorem fullRuns_mergeGo {p : Word × Nat} {ps : List (Word × Nat)} (h : FullRuns (p :: ps)) : FullRuns (mergeGo p ps) := by
  induction ps generalizing p with
  | nil => exact h
  | cons q ps ih =>
    obtain ⟨hp, hq⟩ := List.forall_mem_cons.mp h
    rw [mergeGo]
    split
    · exact ih (List.forall_mem_cons.mpr ⟨Nat.add_pos_left hp _, (List.forall_mem_cons.mp hq).2⟩)
    · exact List.forall_mem_cons.mpr ⟨hp, ih hq⟩

theorem fullRuns_mergeSlugs {ps : List (Word × Nat)} (h : FullRuns ps) : FullRuns (mergeSlugs ps) := by
  cases ps with
  | nil => exact h
  | cons p ps => exact fullRuns_mergeGo h

/-- Merged runs begin with the value they are merged into, and no neighbours are equal. -/
theorem isChain_mergeGo (p : Word × Nat) (ps : List (Word × Nat)) :
    (∃ c qs, mergeGo p ps = (p.1, c) :: qs) ∧ (mergeGo p ps).IsChain fun q r => q.1 ≠ r.1 := by
  induction ps generalizing p with
  | nil => exact ⟨⟨p.2, [], rfl⟩, .singleton p⟩
  | cons q ps ih =>
    rw [mergeGo]
    split
    case isTrue => exact ih (p.1, p.2 + q.2)
    case isFalse h =>
      obtain ⟨⟨c, qs, hq⟩, hchain⟩ := ih q
      rw [hq] at hchain ⊢
      exact ⟨⟨p.2, _, rfl⟩, .cons_cons (Ne.symm h) hchain⟩

/-- No two neighbouring slugs of a run register are equal. -/
def Merged (r : RunReg) : Prop :=
  ∀ k, k + 1 < r.slugs.length → (r.slugs.getD k (0, 0)).1 ≠ (r.slugs.getD (k + 1) (0, 0)).1

theorem merged_mergeSlugs (tag : Nat) (ps : List (Word × Nat)) : Merged ⟨tag, mergeSlugs ps⟩ := by
  have hchain : (mergeSlugs ps).IsChain fun q r => q.1 ≠ r.1 := by
    cases ps with
    | nil => exact .nil
    | cons p ps => exact (isChain_mergeGo p ps).2
  intro k hk
  have h := List.isChain_iff_getElem.mp hchain k hk
  rwa [← List.getElem_eq_getD (h := Nat.lt_of_succ_lt hk), ← List.getElem_eq_getD (h := hk)]

theorem merged_coalesced {coal : Bool} (h : coal = true) (tag : Nat) (ps : List (Word × Nat)) :
    Merged ⟨tag, coalesced coal ps⟩ := by
  rw [h]
  exact merged_mergeSlugs tag ps

/-- Runs whose neighbours differ are merged already. -/
theorem mergeGo_of_isChain {p : Word × Nat} {ps : List (Word × Nat)} (h : (p :: ps).IsChain fun q r => q.1 ≠ r.1) :
    mergeGo p ps = p :: ps := by
  induction ps generalizing p with
  | nil => rfl
  | cons q ps ih =>
    obtain ⟨hne, hps⟩ := List.isChain_cons_cons.mp h
    rw [mergeGo, if_neg hne.symm, ih hps]

theorem coalesced_of_isChain {coal : Bool} {ps : List (Word × Nat)} (h : coal = true → ps.IsChain fun q r => q.1 ≠ r.1) :
    coalesced coal ps = ps := by
  cases coal with
  | false => rfl
  | true =>
    cases ps with
    | nil => rfl
    | cons p ps => exact mergeGo_of_isChain (h rfl)

/-! ### Parts of a list of runs -/

theorem expanded_takeSlugs (n : Nat) (ps : List (Word × Nat)) : expanded (takeSlugs n ps) = (expanded ps).take n := by
  induction ps generalizing n with
  | nil => rw [takeSlugs, expanded_nil, List.take_nil]
  | cons p ps ih =>
    obtain ⟨x, c⟩ := p
    rw [takeSlugs, expanded_cons, List.take_append, List.take_replicate, List.length_replicate]
    split
    case isTrue h => simp [h]
    split
    case isTrue h => simp [h, Nat.sub_eq_zero_of_le h]
    case isFalse h => rw [expanded_cons, ih, min_eq_right (not_le.mp h).le]

theorem expanded_dropSlugs (n : Nat) (ps : List (Word × Nat)) : expanded (dropSlugs n ps) = (expanded ps).drop n := by
  induction ps generalizing n with
  | nil => rw [dropSlugs, expanded_nil, List.drop_nil]
  | cons p ps ih =>
    obtain ⟨x, c⟩ := p
    rw [dropSlugs, expanded_cons, List.drop_append, List.drop_replicate, List.length_replicate]
    split
    case isTrue h => simp [h]
    split
    case isTrue h => rw [ih, Nat.sub_eq_zero_of_le h, List.replicate_zero, List.nil_append]
    case isFalse h => rw [expanded_cons, Nat.sub_eq_zero_of_le (not_le.mp h).le, List.drop_zero]

theorem expanded_growLast {ps : List (Word × Nat)} (h : FullRuns ps) (n : Nat) :
    expanded (growLast n ps) = expanded ps ++ List.replicate n ((expanded ps).getLastD 0#64) := by
  induction ps with
  | nil => simp [growLast]
  | cons p ps ih =>
    obtain ⟨x, c⟩ := p
    obtain ⟨hc, hps⟩ := List.forall_mem_cons.mp h
    cases ps with
    | nil =>
      have hlast : (List.replicate c x).getLastD 0#64 = x := by
        rw [List.getLastD_eq_getLast?, List.getLast?_replicate, if_neg hc.ne']; rfl
      rw [growLast, expanded_cons, expanded_cons, expanded_nil, List.append_nil, List.append_nil, hlast, List.replicate_add]
    | cons q qs =>
      have hne : expanded (q :: qs) ≠ [] := by
        have := (List.forall_mem_cons.mp hps).1
        simp [expanded, this.ne']
      have hlast : (expanded ((x, c) :: q :: qs)).getLastD 0#64 = (expanded (q :: qs)).getLastD 0#64 := by
        rw [List.getLastD_eq_getLast?, List.getLastD_eq_getLast?, expanded_cons, List.getLast?_append_of_ne_nil _ hne]
      rw [growLast, expanded_cons, ih hps, hlast, expanded_cons x c, List.append_assoc]
      exact fun _ _ _ h => nomatch h

theorem expanded_putGo (v : Word) {i : Nat} {ps : List (Word × Nat)} :
    expanded (putGo v i ps) = (expanded ps).set i v := by
  induction ps generalizing i with
  | nil => rfl
  | cons p ps ih =>
    obtain ⟨x, c⟩ := p
    rw [putGo, expanded_cons, List.set_append, List.length_replicate]
    split
    case isFalse => rw [expanded_cons, ih]
    case isTrue h =>
      have hsplit : List.replicate c x = List.replicate i x ++ x :: List.replicate (c - i - 1) x := by
        rw [← List.replicate_succ, ← List.replicate_add]
        congr 1
        omega
      have before : expanded (if i = 0 then [] else [(x, i)]) = List.replicate i x := by
        split <;> simp [*]
      have behind : expanded (if i + 1 = c then [] else [(x, c - i - 1)]) = List.replicate (c - i - 1) x := by
        split
        case isTrue h => rw [← h]; simp
        case isFalse => simp
      rw [hsplit, List.set_append_right _ _ (List.length_replicate.le), List.length_replicate, Nat.sub_self, List.set_cons_zero]
      simp [before, behind]

/-! ### Runs side by side (R125) -/

theorem zip_runs (c : Nat) (x : α) (y : β) (xs : List α) (ys : List β) :
    (List.replicate c x ++ xs).zip (List.replicate c y ++ ys) = List.replicate c (x, y) ++ xs.zip ys := by
  rw [List.zip_append (by simp), List.zip_replicate']

/-- The longer of two runs, as far as the shorter one goes and beyond it. -/
theorem replicate_split {c d : Nat} (h : c ≤ d) (x : α) (xs : List α) :
    List.replicate d x ++ xs = List.replicate c x ++ (List.replicate (d - c) x ++ xs) := by
  rw [← List.append_assoc, ← List.replicate_add, Nat.add_sub_cancel' h]

theorem expanded_zipRuns {n : Nat} {xs : List (α × Nat)} {ys : List (β × Nat)} (h : xs.length + ys.length ≤ n) :
    expanded (zipRuns n xs ys) = (expanded xs).zip (expanded ys) := by
  induction n generalizing xs ys with
  | zero =>
    rw [List.eq_nil_of_length_eq_zero (by omega : xs.length = 0)]
    rfl
  | succ n ih =>
    match xs, ys with
    | [], _ => simp [zipRuns]
    | (x, c) :: xs, [] => simp [zipRuns]
    | (x, c) :: xs, (y, d) :: ys =>
      simp only [List.length_cons] at h
      rw [zipRuns]
      split
      case isTrue hcd => rw [expanded_cons, ih (by omega), expanded_cons, expanded_cons, hcd, zip_runs]
      split
      case isTrue hlt =>
        rw [expanded_cons, ih (by simp; omega), expanded_cons, expanded_cons, expanded_cons, replicate_split hlt.le, zip_runs]
      case isFalse hne hge =>
        rw [expanded_cons, ih (by simp; omega), expanded_cons, expanded_cons, expanded_cons,
          replicate_split (not_lt.mp hge) x, zip_runs]

theorem expanded_zipSegs (xs : List (α × Nat)) (ys : List (β × Nat)) :
    expanded (zipSegs xs ys) = (expanded xs).zip (expanded ys) := expanded_zipRuns le_rfl

theorem fullRuns_zipRuns {n : Nat} {xs : List (α × Nat)} {ys : List (β × Nat)} (hx : FullRuns xs) (hy : FullRuns ys) :
    FullRuns (zipRuns n xs ys) := by
  induction n generalizing xs ys with
  | zero => exact List.forall_mem_nil _
  | succ n ih =>
    match xs, ys with
    | [], _ => exact List.forall_mem_nil _
    | (x, c) :: xs, [] => exact List.forall_mem_nil _
    | (x, c) :: xs, (y, d) :: ys =>
      obtain ⟨hc, hxs⟩ := List.forall_mem_cons.mp hx
      obtain ⟨hd, hys⟩ := List.forall_mem_cons.mp hy
      rw [zipRuns]
      split
      · exact List.forall_mem_cons.mpr ⟨hc, ih hxs hys⟩
      split
      case isTrue hlt => exact List.forall_mem_cons.mpr ⟨hc, ih hxs (List.forall_mem_cons.mpr ⟨Nat.sub_pos_of_lt hlt, hys⟩)⟩
      case isFalse hne hge =>
        exact List.forall_mem_cons.mpr ⟨hd, ih (List.forall_mem_cons.mpr ⟨by simp only; omega, hxs⟩) hys⟩

theorem fullRuns_zipSegs {xs : List (α × Nat)} {ys : List (β × Nat)} (hx : FullRuns xs) (hy : FullRuns ys) :
    FullRuns (zipSegs xs ys) := fullRuns_zipRuns hx hy

end Sys2Proof.Proofs
end

section
/-! PROOFS. The operands of a run instruction (R124, R125): their common length, and their segments by the elements that they hold
at each logical index. -/

namespace Sys2Proof.Proofs

open Sys2Proof Sys2Proof.Machine Sys2Proof.Safety

/-! ### Computations that may raise -/

theorem ok_of_bind {ε α β : Type} {r : Except ε α} {k : α → Except ε β} {y : β} (h : r >>= k = .ok y) :
    ∃ a, r = .ok a ∧ k a = .ok y := by
  cases r with
  | error e => cases h
  | ok a => exact ⟨a, rfl, h⟩

theorem bind_error {ε α β : Type} {r : Except ε α} {e : ε} (h : r = .error e) (k : α → Except ε β) : r >>= k = .error e := by
  rw [h]
  rfl

theorem ok_of_map {ε α β : Type} {r : Except ε α} {g : α → β} {y : β} (h : r.map g = .ok y) : ∃ a, r = .ok a ∧ g a = y := by
  cases r with
  | error e => cases h
  | ok a => exact ⟨a, rfl, Except.ok.inj h⟩

/-! ### The common length of operands (R124) -/

theorem commonLen_eq (ls : List Nat) : commonLen ls =
    if ∀ n ∈ ls, n = 1 ∨ n = (ls.filter (· ≠ 1)).headD 1 then .ok ((ls.filter (· ≠ 1)).headD 1)
    else .error (.lenmis (BitVec.ofNat 64 (ls.getD 0 0 + ls.getD 1 0 * 2 ^ 16 + ls.getD 2 0 * 2 ^ 32))) := by
  unfold commonLen
  refine if_congr ?_ rfl rfl
  simp only [List.all_filter, List.all_eq_true, decide_eq_true_eq, Bool.or_eq_true, Bool.not_eq_true', decide_eq_false_iff_not,
    not_not, ne_eq]

theorem commonLen_ok {ls : List Nat} {l : Nat} (h : commonLen ls = .ok l) :
    (∀ n ∈ ls, n = 1 ∨ n = l) ∧ ((∀ n ∈ ls, n = 1) → l = 1) := by
  rw [commonLen_eq] at h
  split at h
  case isFalse => cases h
  case isTrue hall =>
    obtain rfl := Except.ok.inj h
    refine ⟨hall, fun hone => ?_⟩
    rw [List.filter_eq_nil_iff.mpr fun n hn => by simp [hone n hn]]
    rfl

theorem commonLen_error {ls : List Nat} (h : ¬∃ l, ∀ n ∈ ls, n = 1 ∨ n = l) : commonLen ls =
    .error (.lenmis (BitVec.ofNat 64 (ls.getD 0 0 + ls.getD 1 0 * 2 ^ 16 + ls.getD 2 0 * 2 ^ 32))) := by
  rw [commonLen_eq, if_neg fun hall => h ⟨_, hall⟩]

/-- Operands whose lengths are l, or 1 for one that stands at every index; l is 1 when all are 1. -/
def Common (rs : List RunReg) (l : Nat) : Prop :=
  (∀ r ∈ rs, (elements r).length = 1 ∨ (elements r).length = l) ∧ ((∀ r ∈ rs, (elements r).length = 1) → l = 1)

theorem common_of_commonLen {rs : List RunReg} {l : Nat} (h : commonLen (rs.map RunReg.len) = .ok l) : Common rs l := by
  simpa only [Common, elements_length, List.forall_mem_map] using commonLen_ok h

theorem common_single (a : RunReg) : Common [a] (elements a).length :=
  ⟨List.forall_mem_singleton.mpr (.inr rfl), fun h => h a (List.mem_singleton_self a)⟩

/-! ### Operands at a common length -/

/-- The element of an operand at a logical index. -/
def elemAt (r : RunReg) (k : Nat) : Word := (elements r).getD (if (elements r).length = 1 then 0 else k) 0#64

theorem elements_eq_map (r : RunReg) : elements r = (List.range (elements r).length).map (elemAt r) := by
  refine List.ext_getElem (by simp) fun k hk _ => ?_
  rw [List.getElem_map, List.getElem_range, elemAt, List.getElem_eq_getD (fallback := 0#64)]
  split
  case isTrue h =>
    obtain rfl : k = 0 := Nat.lt_one_iff.mp (h ▸ hk)
    rfl
  case isFalse => rfl

theorem expanded_spread {r : RunReg} {l : Nat} (h : (elements r).length = 1 ∨ (elements r).length = l) :
    expanded (spread l r) = (List.range l).map (elemAt r) := by
  rw [elements_length] at h
  unfold spread
  split
  case isTrue hone =>
    obtain ⟨hlen, hl⟩ := hone
    have hconst : (List.range l).map (elemAt r) = List.replicate l (slugAt r.slugs 0) := by
      refine List.eq_replicate_iff.mpr ⟨by simp, fun v hv => ?_⟩
      obtain ⟨k, -, rfl⟩ := List.mem_map.mp hv
      rw [elemAt, elements_length, if_pos hlen, slugAt_eq, elements_eq]
    rw [hconst]
    split
    case isTrue h0 => rw [h0]; rfl
    case isFalse => exact List.append_nil _
  case isFalse hno =>
    have hlen : (elements r).length = l := by
      rw [elements_length]
      by_contra hne
      exact hno ⟨h.resolve_right hne, fun h1 => hne ((h.resolve_right hne).trans h1.symm)⟩
    rw [← elements_eq, elements_eq_map, hlen]

theorem fullRuns_spread {r : RunReg} (h : FullRuns r.slugs) (l : Nat) : FullRuns (spread l r) := by
  unfold spread
  split
  · split
    · exact List.forall_mem_nil _
    case isFalse hl => exact List.forall_mem_singleton.mpr (Nat.pos_of_ne_zero hl)
  · exact h

/-! ### Segments (R125) -/

/-- The segments one by one. -/
def segRuns (ss : List Seg) : List Seg := expanded (ss.map fun s => (s, s.n))

theorem map_segRuns {β : Type} (g : Seg → β) (ss : List Seg) :
    (segRuns ss).map g = expanded (ss.map fun s => (g s, s.n)) := by
  rw [segRuns, ← expanded_map, List.map_map]
  rfl

theorem segs1_elements (a : RunReg) :
    (segRuns (segs1 a)).map Seg.a = (List.range (elements a).length).map (elemAt a) := by
  rw [map_segRuns, segs1, List.map_map, ← elements_eq_map, elements_eq]
  exact congrArg expanded (List.map_id _)

section
variable {a b c : RunReg} {l : Nat}

theorem zip_spread2 (ha : (elements a).length = 1 ∨ (elements a).length = l)
    (hb : (elements b).length = 1 ∨ (elements b).length = l) :
    expanded (zipSegs (spread l a) (spread l b)) = (List.range l).map fun k => (elemAt a k, elemAt b k) := by
  rw [expanded_zipSegs, expanded_spread ha, expanded_spread hb, List.zip_map']

variable {ss : List Seg}

/-- The segments of two operands hold their elements at every index, and none is empty unless an operand has an empty slug. -/
theorem segs2_elements (h : segs2 a b = .ok ss) : ∃ l, Common [a, b] l
    ∧ (segRuns ss).map (fun s => (s.a, s.b)) = (List.range l).map (fun k => (elemAt a k, elemAt b k))
    ∧ ((∀ r ∈ [a, b], FullRuns r.slugs) → ∀ s ∈ ss, 0 < s.n) := by
  obtain ⟨l, hl, h⟩ := ok_of_bind h
  obtain rfl := Except.ok.inj h
  have hc : Common [a, b] l := common_of_commonLen hl
  obtain ⟨ha, hb⟩ := List.forall_mem_cons.mp hc.1
  refine ⟨l, hc, ?_, fun hfull => ?_⟩
  · rw [map_segRuns, List.map_map, ← zip_spread2 ha (hb b (List.mem_singleton_self b))]
    exact congrArg expanded (List.map_id _)
  · obtain ⟨fa, fb⟩ := List.forall_mem_cons.mp hfull
    exact List.forall_mem_map.mpr
      (fullRuns_zipSegs (fullRuns_spread fa l) (fullRuns_spread (fb b (List.mem_singleton_self b)) l))

/-- The same of three operands. -/
theorem segs3_elements (h : segs3 a b c = .ok ss) : ∃ l, Common [a, b, c] l
    ∧ (segRuns ss).map (fun s => (s.a, s.b, s.c)) = (List.range l).map (fun k => (elemAt a k, elemAt b k, elemAt c k))
    ∧ ((∀ r ∈ [a, b, c], FullRuns r.slugs) → ∀ s ∈ ss, 0 < s.n) := by
  obtain ⟨l, hl, h⟩ := ok_of_bind h
  obtain rfl := Except.ok.inj h
  have hc : Common [a, b, c] l := common_of_commonLen hl
  obtain ⟨ha, hbc⟩ := List.forall_mem_cons.mp hc.1
  obtain ⟨hb, hc'⟩ := List.forall_mem_cons.mp hbc
  refine ⟨l, hc, ?_, fun hfull => ?_⟩
  · have hz : expanded (zipSegs (zipSegs (spread l a) (spread l b)) (spread l c)) =
        (List.range l).map fun k => ((elemAt a k, elemAt b k), elemAt c k) := by
      rw [expanded_zipSegs, zip_spread2 ha hb, expanded_spread (hc' c (List.mem_singleton_self c)), List.zip_map']
    have hassoc := congrArg (List.map fun p : (Word × Word) × Word => (p.1.1, p.1.2, p.2)) hz
    rw [← expanded_map, List.map_map] at hassoc
    rw [map_segRuns, List.map_map]
    exact hassoc
  · obtain ⟨fa, fbc⟩ := List.forall_mem_cons.mp hfull
    obtain ⟨fb, fc⟩ := List.forall_mem_cons.mp fbc
    exact List.forall_mem_map.mpr (fullRuns_zipSegs (fullRuns_zipSegs (fullRuns_spread fa l) (fullRuns_spread fb l))
      (fullRuns_spread (fc c (List.mem_singleton_self c)) l))

theorem segs2_error (h : ¬∃ l, ∀ r ∈ [a, b], (elements r).length = 1 ∨ (elements r).length = l) :
    segs2 a b = .error (.lenmis (BitVec.ofNat 64 ((elements a).length + (elements b).length * 2 ^ 16))) := by
  have hl := commonLen_error (ls := [a, b].map RunReg.len) (by simpa only [elements_length, List.forall_mem_map] using h)
  refine (bind_error hl _).trans ?_
  simp [elements_length]

theorem segs3_error (h : ¬∃ l, ∀ r ∈ [a, b, c], (elements r).length = 1 ∨ (elements r).length = l) :
    segs3 a b c = .error (.lenmis (BitVec.ofNat 64
      ((elements a).length + (elements b).length * 2 ^ 16 + (elements c).length * 2 ^ 32))) := by
  have hl := commonLen_error (ls := [a, b, c].map RunReg.len) (by simpa only [elements_length, List.forall_mem_map] using h)
  refine (bind_error hl _).trans ?_
  simp [elements_length]

end

end Sys2Proof.Proofs
end

section
/-! PROOFS. Element-wise run results (R125, R127 to R129, R140 to R144, R155 to R160): an operation over segments maps the
elements of its operands, in logical order. -/

namespace Sys2Proof.Proofs

open Sys2Proof Sys2Proof.Machine Sys2Proof.Safety

/-! ### The capacity rule (R128) -/

theorem capacity_eq (coal : Bool) (tag : Nat) (slugs : List (Word × Nat)) (fl : FlagSet) : capacity coal tag slugs fl =
    if 128 < (coalesced coal slugs).length then
      .error (.runovf (BitVec.ofNat 64 ((coalesced coal slugs).length + slugsLen ((coalesced coal slugs).take 128) * 2 ^ 16))
        (if coal then 2 + (slugs.length + 15) / 16 else 0))
    else .ok ⟨⟨tag, coalesced coal slugs⟩, slugs.length, fl,
      if 128 < slugs.length then 2 + (slugs.length + 15) / 16 else 0⟩ := rfl

theorem capacity_ok {coal : Bool} {tag : Nat} {slugs : List (Word × Nat)} {fl : FlagSet} {x : RunRes}
    (h : capacity coal tag slugs fl = .ok x) :
    (coalesced coal slugs).length ≤ 128 ∧ x.reg = ⟨tag, coalesced coal slugs⟩ ∧ x.segs = slugs.length ∧ x.flags = fl := by
  rw [capacity_eq] at h
  split at h
  case isTrue => cases h
  case isFalse hle =>
    obtain rfl := Except.ok.inj h
    exact ⟨not_lt.mp hle, rfl, rfl, rfl⟩

/-! ### A result over the elements -/

/-- What a run instruction leaves when it completes: at each index up to the common length of its operands the value of g over
their elements there, and the flags of all of these. -/
def Maps (r : Except RunErr RunRes) (coal : Bool) (tag : Nat) (rs : List RunReg) (g : (RunReg → Word) → Word × FlagSet) : Prop :=
  ∀ x, r = .ok x → ∃ l, Common rs l ∧ x.reg.tag = tag ∧ elements x.reg = (List.range l).map (fun k => (g fun r => elemAt r k).1)
    ∧ x.reg.slugs.length ≤ 128 ∧ (coal = true → Merged x.reg) ∧ (coal = false → x.reg.slugs.length = x.segs)
    ∧ ((∀ r ∈ rs, FullRuns r.slugs) →
        ∀ i, (x.flags.getLsbD i = true ↔ ∃ k, k < l ∧ (g fun r => elemAt r k).2.getLsbD i = true))

theorem foldl_or_getLsbD {α : Type} (g : α → FlagSet) (xs : List α) (fl : FlagSet) (i : Nat) :
    (xs.foldl (fun a x => a ||| g x) fl).getLsbD i = true ↔ fl.getLsbD i = true ∨ ∃ x ∈ xs, (g x).getLsbD i = true := by
  induction xs generalizing fl with
  | nil => simp
  | cons x xs ih => simp only [List.foldl_cons, ih, BitVec.getLsbD_or, Bool.or_eq_true, List.exists_mem_cons_iff, or_assoc]

/-- Values that are read alike of two lists give alike results. -/
theorem map_eq_map_of_map_eq {α β γ δ : Type} {f : α → γ} {g : β → γ} {f' : α → δ} {g' : β → δ} {xs : List α} {ys : List β}
    (h : xs.map f = ys.map g) (hfg : ∀ x y, f x = g y → f' x = g' y) : xs.map f' = ys.map g' := by
  rw [← List.forall₂_eq_eq_eq, List.forall₂_map_left_iff, List.forall₂_map_right_iff] at h ⊢
  exact h.imp hfg

section
variable {coal : Bool} {tag : Nat} {ss : List Seg} {op : Seg → Word × FlagSet} {rs : List RunReg}
  {g : (RunReg → Word) → Word × FlagSet} {a b c : RunReg}

/-- An operation over segments that give g at every index maps its operands by g. -/
theorem maps_mapSegs {l : Nat} (hc : Common rs l) (hop : (segRuns ss).map op = (List.range l).map fun k => g (elemAt · k))
    (hfull : (∀ r ∈ rs, FullRuns r.slugs) → ∀ s ∈ ss, 0 < s.n) : Maps (mapSegs coal tag ss op) coal tag rs g := by
  intro x hx
  obtain ⟨hlen, hreg, hsegs, hflags⟩ := capacity_ok hx
  rw [map_segRuns] at hop
  rw [hreg, hsegs, hflags]
  refine ⟨l, hc, rfl, ?elements, hlen, fun h => merged_coalesced h tag _, fun h => by rw [h]; rfl, fun h i => ?flags⟩
  case elements =>
    rw [elements_eq, expanded_coalesced, expanded_map Prod.fst, hop, List.map_map]
    rfl
  case flags =>
    have hmem (y : Word × FlagSet) : y ∈ expanded (ss.map fun s => (op s, s.n)) ↔ ∃ s ∈ ss, op s = y := by
      simp only [mem_expanded, List.mem_map, exists_exists_and_eq_and]
      exact exists_congr fun s => and_congr_right fun hs => and_iff_right (hfull h s hs)
    rw [hop] at hmem
    rw [foldl_or_getLsbD]
    constructor
    · rintro (h0 | ⟨p, hp, hbit⟩)
      · simp at h0
      · obtain ⟨s, hs, rfl⟩ := List.mem_map.mp hp
        obtain ⟨k, hk, he⟩ := List.mem_map.mp ((hmem _).mpr ⟨s, hs, rfl⟩)
        exact ⟨k, List.mem_range.mp hk, by rwa [he]⟩
    · rintro ⟨k, hk, hbit⟩
      obtain ⟨s, hs, he⟩ := (hmem _).mp (List.mem_map.mpr ⟨k, List.mem_range.mpr hk, rfl⟩)
      exact .inr ⟨_, List.mem_map.mpr ⟨s, hs, rfl⟩, by rwa [he]⟩

theorem maps_bind {r : Except RunErr (List Seg)} {cont : List Seg → Except RunErr RunRes}
    (h : ∀ ss, r = .ok ss → Maps (cont ss) coal tag rs g) : Maps (r >>= cont) coal tag rs g := by
  intro x hx
  obtain ⟨ss, hs, hx⟩ := ok_of_bind hx
  exact h ss hs x hx

theorem maps_segs1 (h : ∀ (s : Seg) v, v a = s.a → op s = g v) : Maps (mapSegs coal tag (segs1 a) op) coal tag [a] g :=
  maps_mapSegs (common_single a) (map_eq_map_of_map_eq (segs1_elements a) fun s _ hs => h s _ hs.symm) fun hfull =>
    List.forall_mem_map.mpr (hfull a (List.mem_singleton_self a))

theorem maps_segs2 (h : ∀ (s : Seg) v, v a = s.a → v b = s.b → op s = g v) :
    Maps (segs2 a b >>= fun ss => mapSegs coal tag ss op) coal tag [a, b] g := by
  refine maps_bind fun ss hss => ?_
  obtain ⟨l, hc, helems, hfull⟩ := segs2_elements hss
  refine maps_mapSegs hc (map_eq_map_of_map_eq helems fun s k hs => ?_) hfull
  obtain ⟨ha, hb⟩ := Prod.mk.inj hs
  exact h s _ ha.symm hb.symm

theorem maps_segs3 (h : ∀ (s : Seg) v, v a = s.a → v b = s.b → v c = s.c → op s = g v) :
    Maps (segs3 a b c >>= fun ss => mapSegs coal tag ss op) coal tag [a, b, c] g := by
  refine maps_bind fun ss hss => ?_
  obtain ⟨l, hc, helems, hfull⟩ := segs3_elements hss
  refine maps_mapSegs hc (map_eq_map_of_map_eq helems fun s k hs => ?_) hfull
  obtain ⟨ha, hbc⟩ := Prod.mk.inj hs
  obtain ⟨hb, hc'⟩ := Prod.mk.inj hbc
  exact h s _ ha.symm hb.symm hc'.symm

/-- A computation that completes only where another does, and with its result, maps the elements alike. -/
theorem Maps.of_ok {r r' : Except RunErr RunRes} (h : Maps r coal tag rs g) (hr : ∀ x, r' = .ok x → r = .ok x) :
    Maps r' coal tag rs g := fun x hx => h x (hr x hx)

end

/-! ### Values under the mask and under a tag (R123, R129) -/

/-- The element where the mask selects, another where its element is zero. -/
theorem selected_ite {γ : Type} (v : Word) (x y : γ) : (if selected v then x else y) = if v = 0#64 then y else x := by
  by_cases h : v = 0#64 <;> simp [selected, h]

theorem zextBits_32 (v : Word) : zextBits 32 v = v &&& 0xFFFFFFFF#64 := by
  refine BitVec.eq_of_toNat_eq ?_
  rw [zextBits, BitVec.toNat_ofNat, BitVec.toNat_and, show (0xFFFFFFFF#64).toNat = 2 ^ 32 - 1 from rfl,
    Nat.and_two_pow_sub_one_eq_mod]
  omega

theorem msb_iff_toInt_neg (v : Word) : v.msb = true ↔ v.toInt < 0 := by rw [BitVec.msb_eq_toInt, decide_eq_true_eq]

/-! ### The element-wise instructions -/

theorem maps_runBin (op : RunOp) (coal : Bool) (m : RMode) (a b : RunReg) :
    Maps (runBin op coal m a b none) coal (op.tag a.tag) [a, b] fun v => op.elem a.tag m (v a) (v b) :=
  maps_segs2 fun s v ha hb => by rw [ha, hb]

theorem maps_runBin_masked (op : RunOp) (coal : Bool) (m : RMode) (a b c : RunReg) :
    Maps (runBin op coal m a b (some c)) coal (op.tag a.tag) [a, b, c] fun v =>
      if v c = 0#64 then (v a, 0) else op.elem a.tag m (v a) (v b) :=
  maps_segs3 fun s v ha hb hc => by rw [ha, hb, hc, selected_ite]

theorem maps_runFma (coal : Bool) (m : RMode) (a b c : RunReg) :
    Maps (runFma coal m a b c) coal (RunOp.tag .add a.tag) [a, b, c] fun v =>
      if a.tag = tagF32 then rnd (f32Fma m (v a).toNat (v b).toNat (v c).toNat) else (v a * v b + v c, 0) :=
  maps_segs3 fun s v ha hb hc => by rw [ha, hb, hc]

theorem maps_runAbs (coal : Bool) (a : RunReg) :
    Maps (runAbs coal a) coal (if (a.tag = tagF32 ∨ a.tag = tagS64) ∨ a.tag = tagMask then a.tag else tagN64) [a] fun v =>
      (if a.tag = tagF32 then v a &&& ~~~0x80000000#64
       else if a.tag = tagS64 ∧ (v a).toInt < 0 then -(v a) else v a, 0) := by
  simp only [or_assoc]
  exact maps_segs1 fun s v ha => by rw [ha, ite_and]; simp only [msb_iff_toInt_neg]

theorem maps_runNeg (coal : Bool) (a : RunReg) :
    Maps (runNeg coal a) coal (if a.tag = tagF32 ∨ a.tag = tagS64 then a.tag else tagN64) [a] fun v =>
      (if a.tag = tagF32 then v a ^^^ 0x80000000#64 else -(v a), 0) :=
  maps_segs1 fun s v ha => by rw [ha]

theorem maps_runCmp (op : RunCmp) (coal : Bool) (a b : RunReg) :
    Maps (runCmp op coal a b none) coal tagMask [a, b] fun v =>
      (b2w (op.elem a.tag (v a) (v b)).1, (op.elem a.tag (v a) (v b)).2) :=
  maps_segs2 fun s v ha hb => by rw [ha, hb]

theorem maps_runCmp_masked (op : RunCmp) (coal : Bool) (a b c : RunReg) :
    Maps (runCmp op coal a b (some c)) coal tagMask [a, b, c] fun v =>
      if v c = 0#64 then (b2w (decide (v a ≠ 0#64)), 0)
      else (b2w (op.elem a.tag (v a) (v b)).1, (op.elem a.tag (v a) (v b)).2) :=
  maps_segs3 fun s v ha hb hc => by rw [ha, hb, hc, selected_ite]; rfl

/-- A value under A's tag (R123). -/
theorem underTag_eq (tag : Nat) (v : Word) : underTag tag v =
    if tag = tagF32 then v &&& 0xFFFFFFFF#64 else if tag = tagMask then b2w (decide (v ≠ 0#64)) else v := by
  rw [underTag, zextBits_32]
  rfl

theorem maps_runSel (coal : Bool) (a b c : RunReg) :
    Maps (runSel coal a b c) coal a.tag [a, b, c] fun v =>
      let w := if v c = 0#64 then v b else v a
      (if a.tag = tagF32 then w &&& 0xFFFFFFFF#64 else if a.tag = tagMask then b2w (decide (w ≠ 0#64)) else w, 0) :=
  maps_segs3 fun s v ha hb hc => by rw [ha, hb, hc, selected_ite, underTag_eq]

theorem maps_runSf (coal : Bool) (sf : Val → Rounded) (a : RunReg) :
    Maps (runSf coal sf a) coal tagF32 [a] fun v => rnd (sf (f32 (v a).toNat)) :=
  maps_segs1 fun s v ha => by rw [ha]

theorem maps_runBscale (coal : Bool) (a b : RunReg) :
    Maps (runBscale coal a b none) coal tagF32 [a, b] fun v => bscaleElem b.tag (v a) (v b) :=
  maps_segs2 fun s v ha hb => by rw [ha, hb]

theorem maps_runBscale_masked (coal : Bool) (a b c : RunReg) :
    Maps (runBscale coal a b (some c)) coal tagF32 [a, b, c] fun v =>
      if v c = 0#64 then (v a &&& 0xFFFFFFFF#64, 0) else bscaleElem b.tag (v a) (v b) :=
  maps_segs3 fun s v ha hb hc => by rw [ha, hb, hc, selected_ite, underTag_eq, if_pos rfl]

/-! ### Modular operations (R158, R159) -/

/-- A modular operation that gives the residue of g over the residues of its operands, with MQ for an operand at or above q. -/
def IsResidueOf (go : Nat → Nat → Nat → Nat × FlagSet) (g : Nat → Nat → Nat → Nat) : Prop :=
  ∀ q x y, go q x y = (g q (x % q) (y % q) % q, if q ≤ x ∨ q ≤ y then fMQ else 0)

theorem isResidueOf_modAdd : IsResidueOf modAdd fun _ x y => x + y := fun q x y => by rw [modAdd, flagIf_or]; rfl
theorem isResidueOf_modSub : IsResidueOf modSub fun q x y => x + q - y := fun q x y => by rw [modSub, flagIf_or]; rfl
theorem isResidueOf_modMul : IsResidueOf modMul fun _ x y => x * y := fun q x y => by rw [modMul, flagIf_or]; rfl

section
variable {go : Nat → Nat → Nat → Nat × FlagSet} {g : Nat → Nat → Nat → Nat} (hgo : IsResidueOf go g)
include hgo

theorem maps_runMod (coal : Bool) (q : Nat) (a b : RunReg) : Maps (runMod go coal q a b none) coal tagM64 [a, b] fun v =>
    (BitVec.ofNat 64 (g q ((v a).toNat % q) ((v b).toNat % q) % q), if q ≤ (v a).toNat ∨ q ≤ (v b).toNat then fMQ else 0) :=
  maps_segs2 fun s v ha hb => by rw [ha, hb, hgo]

theorem maps_runMod_masked (coal : Bool) (q : Nat) (a b c : RunReg) :
    Maps (runMod go coal q a b (some c)) coal tagM64 [a, b, c] fun v => if v c = 0#64 then (v a, 0) else
      (BitVec.ofNat 64 (g q ((v a).toNat % q) ((v b).toNat % q) % q), if q ≤ (v a).toNat ∨ q ≤ (v b).toNat then fMQ else 0) :=
  maps_segs3 fun s v ha hb hc => by rw [ha, hb, hc, selected_ite]; simp only [hgo q]

end

/-- The value of a butterfly at one segment, combined from A's residue and that of B times C, and its flags. -/
def flySeg (q : Nat) (g : Nat → Nat → Nat) (s : Seg) : Word × FlagSet :=
  (BitVec.ofNat 64 (g (s.a.toNat % q) (s.b.toNat % q * (s.c.toNat % q) % q) % q),
    flagIf (q ≤ s.a.toNat || q ≤ s.b.toNat || q ≤ s.c.toNat) fMQ)

/-- VBFLY computes its sum, then its difference, over the same segments. -/
theorem runBfly_eq (coal : Bool) (q : Nat) (a b c : RunReg) : runBfly coal q a b c = (do
    let ss ← segs3 a b c
    let d ← mapSegs coal tagM64 ss (flySeg q fun x y => x + y)
    let e ← mapSegs coal tagM64 ss (flySeg q fun x y => x + q - y)
    pure (d, e)) := rfl

theorem runBfly_ok {coal : Bool} {q : Nat} {a b c : RunReg} {d e : RunRes} (h : runBfly coal q a b c = .ok (d, e)) :
    (segs3 a b c >>= fun ss => mapSegs coal tagM64 ss (flySeg q fun x y => x + y)) = .ok d
      ∧ (segs3 a b c >>= fun ss => mapSegs coal tagM64 ss (flySeg q fun x y => x + q - y)) = .ok e := by
  rw [runBfly_eq] at h
  obtain ⟨ss, hs, h⟩ := ok_of_bind h
  obtain ⟨d', hd, h⟩ := ok_of_bind h
  obtain ⟨e', he, h⟩ := ok_of_bind h
  obtain ⟨rfl, rfl⟩ := Prod.mk.inj (Except.ok.inj h)
  rw [hs]
  exact ⟨hd, he⟩

theorem maps_flySeg (coal : Bool) (q : Nat) (g : Nat → Nat → Nat) (a b c : RunReg) :
    Maps (segs3 a b c >>= fun ss => mapSegs coal tagM64 ss (flySeg q g)) coal tagM64 [a, b, c] fun v =>
      (BitVec.ofNat 64 (g ((v a).toNat % q) ((v b).toNat % q * ((v c).toNat % q) % q) % q),
        if q ≤ (v a).toNat ∨ q ≤ (v b).toNat ∨ q ≤ (v c).toNat then fMQ else 0) :=
  maps_segs3 fun s v ha hb hc => by
    rw [ha, hb, hc, flySeg, flagIf]
    simp only [Bool.or_eq_true, decide_eq_true_eq, or_assoc]
    rfl

theorem maps_runBfly_fst (coal : Bool) (q : Nat) (a b c : RunReg) :
    Maps ((runBfly coal q a b c).map Prod.fst) coal tagM64 [a, b, c] fun v =>
      (BitVec.ofNat 64 (((v a).toNat % q + (v b).toNat % q * ((v c).toNat % q) % q) % q),
        if q ≤ (v a).toNat ∨ q ≤ (v b).toNat ∨ q ≤ (v c).toNat then fMQ else 0) :=
  (maps_flySeg coal q (fun x y => x + y) a b c).of_ok fun x hx => by
    obtain ⟨p, hp, rfl⟩ := ok_of_map hx
    exact (runBfly_ok hp).1

theorem maps_runBfly_snd (coal : Bool) (q : Nat) (a b c : RunReg) :
    Maps ((runBfly coal q a b c).map Prod.snd) coal tagM64 [a, b, c] fun v =>
      (BitVec.ofNat 64 (((v a).toNat % q + q - (v b).toNat % q * ((v c).toNat % q) % q) % q),
        if q ≤ (v a).toNat ∨ q ≤ (v b).toNat ∨ q ≤ (v c).toNat then fMQ else 0) :=
  (maps_flySeg coal q (fun x y => x + q - y) a b c).of_ok fun x hx => by
    obtain ⟨p, hp, rfl⟩ := ok_of_map hx
    exact (runBfly_ok hp).2

/-! ### Conversions (R155, R156) -/

theorem ofCode_draw {rm : Nat} (h : rm < 4) (d d' : Nat) : RMode.ofCode rm d = RMode.ofCode rm d' := by
  interval_cases rm <;> rfl

/-- The slugs converted by a rounding that does not draw are segments of one operand. -/
theorem zipIdx_convert {rm : Nat} (h : rm < 4) (el : RMode → Word → Word × FlagSet) (a : RunReg) :
    (a.slugs.zipIdx.map fun s => (el (RMode.ofCode rm (drawOf [] s.2)) s.1.1, s.1.2)) =
      (segs1 a).map fun s => (el (RMode.ofCode rm 0) s.a, s.n) := by
  conv_rhs => rw [segs1, ← List.zipIdx_map_fst 0 a.slugs, List.map_map, List.map_map]
  simp only [ofCode_draw h _ 0]
  rfl

theorem maps_runCvt {rm : Nat} (h : rm < 4) (coal : Bool) (dst q : Nat) (a : RunReg) :
    Maps (runCvt coal dst q rm [] a) coal dst [a] fun v => cvtElem a.tag dst q (RMode.ofCode rm 0) (v a) := by
  rw [runCvt, zipIdx_convert h (cvtElem a.tag dst q)]
  exact maps_segs1 fun s v ha => by rw [ha]

theorem maps_runQnt {fm : Forme} {rm : Nat} (hm : fm.mxb = false) (h : rm < 4) (coal : Bool) (q : Nat) (a : RunReg) :
    Maps (runQnt coal fm q rm [] a) coal (readTag fm.fmt) [a] fun v => qntElem fm q a.tag (RMode.ofCode rm 0) (v a) := by
  rw [runQnt, hm, zipIdx_convert h (qntElem fm q a.tag)]
  exact maps_segs1 fun s v ha => by rw [ha]

/-- The slugs converted under mode 4, each with its own draw (R135). -/
theorem zipIdx_drawn (words : List (BitVec 32)) (el : RMode → Word → Word × FlagSet) (ps : List (Word × Nat)) :
    ((ps.zipIdx.map fun s => (el (RMode.ofCode 4 (drawOf words s.2)) s.1.1, s.1.2)).map fun r => (r.1.1, r.2)) =
      ps.mapIdx fun k p => ((el (.sr (drawOf words k)) p.1).1, p.2) := by
  rw [List.mapIdx_eq_zipIdx_map, List.map_map]
  rfl

theorem runCvt_drawn {dst q : Nat} {words : List (BitVec 32)} {a : RunReg} {x : RunRes}
    (h : runCvt false dst q 4 words a = .ok x) :
    x.reg.slugs = a.slugs.mapIdx fun k p => ((cvtElem a.tag dst q (.sr (drawOf words k)) p.1).1, p.2) := by
  obtain ⟨-, hreg, -⟩ := capacity_ok h
  rw [hreg]
  exact zipIdx_drawn words (cvtElem a.tag dst q) a.slugs

theorem runQnt_drawn {fm : Forme} {q : Nat} {words : List (BitVec 32)} {a : RunReg} {x : RunRes} (hm : fm.mxb = false)
    (h : runQnt false fm q 4 words a = .ok x) :
    x.reg.slugs = a.slugs.mapIdx fun k p => ((qntElem fm q a.tag (.sr (drawOf words k)) p.1).1, p.2) := by
  rw [runQnt, hm] at h
  obtain ⟨-, hreg, -⟩ := capacity_ok h
  rw [hreg]
  exact zipIdx_drawn words (qntElem fm q a.tag) a.slugs

end Sys2Proof.Proofs
end

section
/-! PROOFS. VCOAL, VIOTA, VSLICE, VCAT, VSETL and VPUT by what they do to the elements (R145, R147 to R151). -/

namespace Sys2Proof.Proofs

open Sys2Proof Sys2Proof.Machine Sys2Proof.Safety

variable {coal : Bool} {a b : RunReg} {x : RunRes} {v : Word} {n : Nat}

/-! ### VCOAL and VIOTA (R145, R147) -/

theorem runCoal_spec (a : RunReg) : elements (runCoal a).reg = elements a ∧ Merged (runCoal a).reg ∧ (runCoal a).reg.tag = a.tag
    ∧ (FullRuns a.slugs → FullRuns (runCoal a).reg.slugs) :=
  ⟨expanded_mergeSlugs a.slugs, merged_mergeSlugs a.tag a.slugs, rfl, fullRuns_mergeSlugs⟩

theorem iotaGo_counts (v : Word) (s : Nat) (ps : List (Word × Nat)) : (iotaGo v s ps).map Prod.snd = ps.map Prod.snd := by
  induction ps generalizing s with
  | nil => rfl
  | cons p ps ih => exact congrArg (p.2 :: ·) (ih (s + p.2))

theorem iotaGo_values (v : Word) (s : Nat) (ps : List (Word × Nat)) {k : Nat} (hk : k < ps.length) :
    ((iotaGo v s ps).getD k (0, 0)).1 = BitVec.ofNat 64 (s + ((ps.take k).map Prod.snd).sum) + v := by
  induction ps generalizing s k with
  | nil => cases hk
  | cons p ps ih =>
    cases k with
    | zero => simp [iotaGo]
    | succ k =>
      rw [iotaGo, List.getD_cons_succ, ih (s + p.2) (Nat.lt_of_succ_lt_succ hk), List.take_succ_cons, List.map_cons,
        List.sum_cons, Nat.add_assoc]

/-- The first indices of neighbouring slugs differ, so that VIOTA under `.c` has nothing to merge. -/
theorem isChain_iotaGo (v : Word) (s : Nat) {ps : List (Word × Nat)} (h : ∀ p ∈ ps, 0 < p.2 ∧ p.2 < 2 ^ 64) :
    (iotaGo v s ps).IsChain fun q r => q.1 ≠ r.1 := by
  induction ps generalizing s with
  | nil => exact .nil
  | cons p ps ih =>
    obtain ⟨⟨hpos, hlt⟩, hps⟩ := List.forall_mem_cons.mp h
    cases ps with
    | nil => exact .singleton _
    | cons q ps =>
      refine .cons_cons (fun he => ?_) (ih (s + p.2) hps)
      have := congrArg BitVec.toNat ((BitVec.add_left_inj v).mp he)
      simp only [BitVec.toNat_ofNat] at this
      omega

theorem runIota_ok (h : runIota coal v a = .ok x) (hc : coal = false ∨ ∀ p ∈ a.slugs, 0 < p.2 ∧ p.2 < 2 ^ 64) :
    x.reg.tag = tagS64 ∧ x.reg.slugs.map Prod.snd = a.slugs.map Prod.snd
      ∧ ∀ k, k < a.slugs.length →
          (x.reg.slugs.getD k (0, 0)).1 = BitVec.ofNat 64 ((a.slugs.take k).map Prod.snd).sum + v := by
  obtain ⟨-, hreg, -⟩ := capacity_ok h
  have hsame : coalesced coal (iotaGo v 0 a.slugs) = iotaGo v 0 a.slugs := coalesced_of_isChain fun hcoal =>
    isChain_iotaGo v 0 (hc.resolve_left (by simp [hcoal]))
  rw [hsame] at hreg
  rw [hreg]
  exact ⟨rfl, iotaGo_counts v 0 a.slugs, fun k hk => by rw [iotaGo_values v 0 a.slugs hk, Nat.zero_add]⟩

/-! ### VSLICE, VCAT and VSETL (R148 to R150) -/

theorem sliceArg_ok {cap : Bool} (h : sliceArg a v cap = .ok n) : v.toNat < 65536 ∧ n = v.toNat ∧ (cap = true → n ≤ a.len) := by
  rw [sliceArg] at h
  split at h
  case isTrue => cases h
  case isFalse hno =>
    obtain ⟨hhigh, hcap⟩ := not_or.mp hno
    have hlt : v.toNat < 65536 := by omega
    obtain rfl : v.toNat = n := (Nat.mod_eq_of_lt hlt).symm.trans (Except.ok.inj h)
    exact ⟨hlt, rfl, fun hc => not_lt.mp fun hn => hcap ⟨hc, (Nat.mod_eq_of_lt hlt).symm ▸ hn⟩⟩

theorem runSlice_ok (h : runSlice coal a v n = .ok x) : x.reg.tag = a.tag ∧ v.toNat ≤ (elements a).length
    ∧ elements x.reg = ((elements a).drop v.toNat).take n ∧ (coal = true → Merged x.reg) := by
  obtain ⟨m, hm, h⟩ := ok_of_bind h
  obtain ⟨-, rfl, hle⟩ := sliceArg_ok hm
  obtain rfl := Except.ok.inj h
  have hlen : ((elements a).drop v.toNat).length = a.len - v.toNat := by rw [List.length_drop, elements_length]
  refine ⟨rfl, elements_length a ▸ hle rfl, ?_, fun hc => merged_coalesced hc a.tag _⟩
  rw [elements_eq]
  refine (expanded_coalesced coal _).trans ?_
  rw [expanded_takeSlugs, expanded_dropSlugs, ← elements_eq, ← hlen, ← List.take_take, List.take_length]

theorem runCat_ok (h : runCat coal a b = .ok x) : x.reg.tag = a.tag ∧ (elements a).length + (elements b).length ≤ 65535
    ∧ elements x.reg = elements a ++ (elements b).map (underTag a.tag) ∧ (coal = true → Merged x.reg) := by
  rw [runCat] at h
  split at h
  case isTrue => cases h
  case isFalse hle =>
    obtain ⟨-, hreg, -⟩ := capacity_ok h
    rw [hreg, elements_length, elements_length]
    refine ⟨rfl, not_lt.mp hle, ?_, fun hc => merged_coalesced hc a.tag _⟩
    rw [elements_eq, expanded_coalesced, expanded_append, expanded_map]
    rfl

theorem runSetl_ok (h : runSetl coal a v = .ok x) : x.reg.tag = a.tag ∧ v.toNat < 65536 ∧ (coal = true → Merged x.reg)
    ∧ (v.toNat ≤ (elements a).length → elements x.reg = (elements a).take v.toNat)
    ∧ (FullRuns a.slugs → (elements a).length < v.toNat →
        elements x.reg = elements a ++ List.replicate (v.toNat - (elements a).length) ((elements a).getLastD 0#64)) := by
  obtain ⟨m, hm, h⟩ := ok_of_bind h
  obtain ⟨hlt, rfl, -⟩ := sliceArg_ok hm
  obtain rfl := Except.ok.inj h
  rw [elements_length]
  refine ⟨rfl, hlt, fun hc => merged_coalesced hc a.tag _, fun hle => ?_, fun hfull hgt => ?_⟩
  · refine (expanded_coalesced coal _).trans ?_
    rw [if_pos hle, expanded_takeSlugs, elements_eq]
  · refine (expanded_coalesced coal _).trans ?_
    rw [if_neg hgt.not_ge, expanded_growLast hfull, elements_eq]

/-! ### VPUT (R151) -/

theorem runPut_ok (h : runPut coal a v n = .ok x) : x.reg.tag = a.tag ∧ n < (elements a).length
    ∧ elements x.reg = (elements a).set n (underTag a.tag v) ∧ (coal = true → Merged x.reg) := by
  rw [runPut] at h
  split at h
  case isTrue => cases h
  case isFalse hlt =>
    obtain ⟨r, hr, h⟩ := ok_of_bind h
    obtain rfl := Except.ok.inj h
    obtain ⟨-, hreg, -⟩ := capacity_ok hr
    rw [hreg, elements_length]
    refine ⟨rfl, not_le.mp hlt, ?_, fun hc => merged_coalesced hc a.tag _⟩
    rw [elements_eq, expanded_coalesced, expanded_putGo, elements_eq]

/-- VPUT at or above the length raises LENMIS (R151). -/
theorem runPut_beyond (h : a.len ≤ n) : runPut coal a v n = .error (.lenmis (BitVec.ofNat 64 (a.len + n * 2 ^ 16))) := if_pos h

end Sys2Proof.Proofs
end

section
/-! PROOFS. VQNT through a microscaled forme (R156): a block of 32 logical indices quantized by its runs is the block of its
elements quantized one by one. -/

namespace Sys2Proof.Proofs

open Sys2Proof Sys2Proof.Machine Sys2Proof.Safety

variable {α β : Type}

/-! ### Runs that count once -/

/-- An accumulation that takes a value again to no effect takes each run once. -/
theorem foldl_expanded {g : β → α → β} (hg : ∀ acc x, g (g acc x) x = g acc x) {ps : List (α × Nat)} (h : FullRuns ps) (acc : β) :
    (expanded ps).foldl g acc = (ps.map Prod.fst).foldl g acc := by
  have again (x : α) (n : Nat) (acc : β) : (List.replicate n x).foldl g (g acc x) = g acc x := by
    induction n with
    | zero => rfl
    | succ n ih => rw [List.replicate_succ, List.foldl_cons, hg, ih]
  induction ps generalizing acc with
  | nil => rfl
  | cons p ps ih =>
    obtain ⟨x, c⟩ := p
    obtain ⟨hc, hps⟩ := List.forall_mem_cons.mp h
    obtain ⟨c, rfl⟩ := Nat.exists_eq_add_one.mpr hc
    rw [expanded_cons, List.foldl_append, List.replicate_succ, List.foldl_cons, again, ih hps]
    rfl

theorem any_expanded (q : α → Bool) {ps : List (α × Nat)} (h : FullRuns ps) : (expanded ps).any q = (ps.map Prod.fst).any q := by
  rw [Bool.eq_iff_iff, List.any_eq_true, List.any_eq_true]
  refine exists_congr fun x => and_congr_left fun _ => ?_
  rw [mem_expanded, List.mem_map]
  exact exists_congr fun p => and_congr_right fun hp => and_iff_right (h p hp)

theorem expanded_filter (q : α → Bool) (ps : List (α × Nat)) :
    expanded (ps.filter fun p => q p.1) = (expanded ps).filter q := by
  induction ps with
  | nil => rfl
  | cons p ps ih =>
    obtain ⟨x, c⟩ := p
    rw [expanded_cons, List.filter_append, List.filter_replicate, List.filter_cons, ← ih]
    split <;> rfl

/-! ### The elements of a block (R156) -/

/-- The greatest exponent of a block so far. -/
def topExponent (acc : Option Int) (v : Val) : Option Int :=
  match v with
  | .fin _ num den => if num = 0 then acc else match acc with
    | none => some (floorLog2 num den)
    | some a => some (max a (floorLog2 num den))
  | _ => acc

theorem topExponent_again (acc : Option Int) (v : Val) : topExponent (topExponent acc v) v = topExponent acc v := by
  cases v with
  | nan | inf => rfl
  | fin n num den =>
    simp only [topExponent]
    split
    · rfl
    · cases acc <;> simp

/-- Whether a value spoils its block. -/
def notFinite (v : Val) : Bool :=
  match v with
  | .fin _ _ _ => false
  | _ => true

/-- The power of two that a block is scaled by. -/
def blockPower (fmt : Nat) (e : Option Int) : Int :=
  match e with
  | none => -127
  | some k => max (-127) (min 127 (k - emaxOf fmt))

/-- An element of a block scaled by 2^-x. -/
def blockElem (fmt : Nat) (x : Int) (v : Val) : Rounded :=
  match v, floatFmt fmt with
  | .fin n num den, some f =>
    let s := scale2 num den (-x)
    f.round .rne (.fin n s.1 s.2)
  | _, _ => ⟨0, 0⟩

/-- The scale byte that a block's values share, and the bits that it gives one of them. -/
def blockScale (fmt : Nat) (vs : List Val) : Nat :=
  if vs.any notFinite then 0xFF else (blockPower fmt (vs.foldl topExponent none) + 127).toNat
def blockBits (fmt : Nat) (vs : List Val) (v : Val) : Nat :=
  if vs.any notFinite then 0 else (blockElem fmt (blockPower fmt (vs.foldl topExponent none)) v).bits

theorem writeBlock_eq (fmt : Nat) (vs : List Val) :
    (writeBlock fmt vs).1 = blockScale fmt vs ∧ (writeBlock fmt vs).2.1 = vs.map (blockBits fmt vs) := by
  have hw : writeBlock fmt vs = if vs.any notFinite then (0xFF, vs.map fun _ => 0, flagIf (vs.any Val.isSnan) fNV) else
      ((blockPower fmt (vs.foldl topExponent none) + 127).toNat,
        (vs.map (blockElem fmt (blockPower fmt (vs.foldl topExponent none)))).map Rounded.bits,
        (vs.map (blockElem fmt (blockPower fmt (vs.foldl topExponent none)))).foldl (fun a r => a ||| r.flags) 0) := rfl
  rw [hw, blockScale]
  unfold blockBits
  split
  · exact ⟨rfl, rfl⟩
  · exact ⟨rfl, List.map_map⟩

theorem blockScale_expanded (fmt : Nat) {ps : List (Val × Nat)} (h : FullRuns ps) :
    blockScale fmt (expanded ps) = blockScale fmt (ps.map Prod.fst) := by
  rw [blockScale, blockScale, any_expanded _ h, foldl_expanded topExponent_again h]

theorem blockBits_expanded (fmt : Nat) {ps : List (Val × Nat)} (h : FullRuns ps) :
    blockBits fmt (expanded ps) = blockBits fmt (ps.map Prod.fst) := by
  unfold blockBits
  rw [any_expanded _ h, foldl_expanded topExponent_again h]

/-! ### Blocks of 32 indices -/

theorem expanded_blocks (l n : Nat) :
    expanded ((List.range n).map fun j => (j, min 32 (l - 32 * j))) = (List.range (min (32 * n) l)).map (· / 32) := by
  induction n with
  | zero => simp
  | succ n ih =>
    have hlen : min (32 * (n + 1)) l = min (32 * n) l + min 32 (l - 32 * n) := by omega
    have last : (List.range (min 32 (l - 32 * n))).map (fun i => (min (32 * n) l + i) / 32) =
        List.replicate (min 32 (l - 32 * n)) n := by
      refine List.eq_replicate_iff.mpr ⟨by simp, fun v hv => ?_⟩
      obtain ⟨i, hi, rfl⟩ := List.mem_map.mp hv
      have := List.mem_range.mp hi
      omega
    rw [List.range_succ, List.map_append, expanded_append, ih, hlen, List.range_add, List.map_append, List.map_map]
    exact congrArg _ ((List.append_nil _).trans last.symm)

theorem expanded_blockCuts (l : Nat) : expanded (blockCuts l) = (List.range l).map (· / 32) := by
  rw [blockCuts, expanded_blocks, min_eq_right (by omega)]

theorem fullRuns_blockCuts (l : Nat) : FullRuns (blockCuts l) := by
  refine List.forall_mem_map.mpr fun j hj => ?_
  have := List.mem_range.mp hj
  show 0 < min 32 (l - 32 * j)
  omega

/-- What stands at the places from lo on, n of them. -/
theorem filter_eq_take_drop {q : α → Bool} {xs : List α} {lo n : Nat}
    (h : ∀ i (hi : i < xs.length), q xs[i] = true ↔ lo ≤ i ∧ i < lo + n) : xs.filter q = (xs.drop lo).take n := by
  have before : (xs.take lo).filter q = [] := List.filter_eq_nil_iff.mpr fun x hx => by
    obtain ⟨i, hi, rfl⟩ := List.mem_take_iff_getElem.mp hx
    rw [h i (by omega)]
    omega
  have within : ((xs.drop lo).take n).filter q = (xs.drop lo).take n := List.filter_eq_self.mpr fun x hx => by
    obtain ⟨i, hi, rfl⟩ := List.mem_take_iff_getElem.mp hx
    rw [List.getElem_drop, h]
    omega
  have behind : ((xs.drop lo).drop n).filter q = [] := List.filter_eq_nil_iff.mpr fun x hx => by
    rw [List.drop_drop] at hx
    obtain ⟨i, hi, rfl⟩ := List.mem_drop_iff_getElem.mp hx
    rw [h]
    omega
  conv_lhs => rw [← List.take_append_drop lo xs, ← List.take_append_drop n (xs.drop lo)]
  rw [List.filter_append, List.filter_append, before, within, behind, List.nil_append, List.append_nil]

/-- The segments of a register and its blocks that lie in block j. -/
def blockPart (a : RunReg) (j : Nat) : List ((Word × Nat) × Nat) :=
  (zipSegs a.slugs (blockCuts a.len)).filter fun s => s.1.2 = j

/-- The elements of block j. -/
theorem blockPart_elements (a : RunReg) (j : Nat) :
    (expanded (blockPart a j)).map Prod.fst = ((elements a).drop (32 * j)).take 32 := by
  have hlen : (elements a).length = ((List.range a.len).map (· / 32)).length := by simp [elements_length]
  rw [blockPart, expanded_filter fun z : Word × Nat => decide (z.2 = j), expanded_zipSegs, expanded_blockCuts, ← elements_eq,
    filter_eq_take_drop (lo := 32 * j) (n := 32), List.map_take, List.map_drop, List.map_fst_zip hlen.le]
  intro i hi
  rw [List.getElem_zip, List.getElem_map, List.getElem_range, decide_eq_true_eq]
  omega

theorem fullRuns_blockPart {a : RunReg} (h : FullRuns a.slugs) (j : Nat) : FullRuns (blockPart a j) := fun p hp =>
  fullRuns_zipSegs h (fullRuns_blockCuts a.len) p (List.mem_filter.mp hp).1

/-! ### VQNT by blocks -/

/-- What one block is read back as. -/
def blockRead (fmt tag : Nat) (part : List ((Word × Nat) × Nat)) : List (Word × Nat) :=
  let w := writeBlock fmt (part.map fun s => slugVal tag s.1.1)
  (part.zip (w.2.1.map fun e => readElem fmt (some w.1) e)).map fun p => (p.2.1, p.1.2)

theorem foldl_collect (one : Nat → List α × FlagSet) (js : List Nat) (acc : List α × FlagSet) :
    (js.foldl (fun acc j => (acc.1 ++ (one j).1, acc.2 ||| (one j).2)) acc).1 = acc.1 ++ js.flatMap fun j => (one j).1 := by
  induction js generalizing acc with
  | nil => exact (List.append_nil _).symm
  | cons j js ih => rw [List.foldl_cons, ih, List.flatMap_cons, List.append_assoc]

theorem qntBlocks_eq (fm : Forme) (tag : Nat) (a : RunReg) : (qntBlocks fm tag a).1 =
    (List.range ((a.len + 31) / 32)).flatMap fun j => blockRead fm.fmt tag (blockPart a j) :=
  foldl_collect _ _ _

theorem expanded_flatMap (g : Nat → List (α × Nat)) (js : List Nat) :
    expanded (js.flatMap g) = js.flatMap fun j => expanded (g j) := List.flatMap_assoc

/-- Runs beside what is made of each, at the length of the runs. -/
theorem expanded_zip_map {γ : Type} (g : α → β × γ) (ps : List (α × Nat)) :
    expanded ((ps.zip (ps.map fun p => g p.1)).map fun p => (p.2.1, p.1.2)) = (expanded ps).map fun x => (g x).1 := by
  have hzip : ps.zip (ps.map fun p => g p.1) = ps.map fun p => (p, g p.1) := by
    conv_lhs => rw [← List.map_id ps, List.map_map, List.zip_map']
    rfl
  rw [hzip, List.map_map, ← expanded_map]
  rfl

/-- A block read back by its runs is the block of its elements read back. -/
theorem blockRead_elements (fmt tag : Nat) {part : List ((Word × Nat) × Nat)} (h : FullRuns part) :
    let w := writeBlock fmt (((expanded part).map Prod.fst).map (slugVal tag))
    expanded (blockRead fmt tag part) = w.2.1.map fun e => (readElem fmt (some w.1) e).1 := by
  intro w
  let ps : List (Val × Nat) := part.map fun s => (slugVal tag s.1.1, s.2)
  have hps : FullRuns ps := List.forall_mem_map.mpr h
  have hruns : part.map (fun s => slugVal tag s.1.1) = ps.map Prod.fst := by rw [List.map_map]; rfl
  have helems : ((expanded part).map Prod.fst).map (slugVal tag) = expanded ps := by
    rw [List.map_map]
    exact (expanded_map _ part).symm
  obtain ⟨hscale, hbits⟩ := writeBlock_eq fmt (expanded ps)
  obtain ⟨hscale', hbits'⟩ := writeBlock_eq fmt (ps.map Prod.fst)
  rw [blockScale_expanded fmt hps] at hscale
  rw [blockBits_expanded fmt hps] at hbits
  simp only [w, helems, blockRead, hruns, hscale, hbits, hscale', hbits']
  generalize blockScale fmt (ps.map Prod.fst) = sc
  generalize blockBits fmt (ps.map Prod.fst) = bits
  simp only [← helems, ps, List.map_map, Function.comp_def]
  exact expanded_zip_map (fun z : Word × Nat => readElem fmt (some sc) (bits (slugVal tag z.1))) part

theorem runQnt_blocks {coal : Bool} {fm : Forme} {q rm : Nat} {words : List (BitVec 32)} {a : RunReg} {x : RunRes}
    (hm : fm.mxb = true) (hfull : FullRuns a.slugs) (h : runQnt coal fm q rm words a = .ok x) : x.reg.tag = readTag fm.fmt
      ∧ elements x.reg = (List.range (((elements a).length + 31) / 32)).flatMap fun j =>
          let w := writeBlock fm.fmt ((((elements a).drop (32 * j)).take 32).map (slugVal a.tag))
          w.2.1.map fun e => (readElem fm.fmt (some w.1) e).1 := by
  rw [runQnt, if_pos hm] at h
  obtain ⟨-, hreg, -⟩ := capacity_ok h
  rw [hreg]
  refine ⟨rfl, ?_⟩
  rw [elements_eq, expanded_coalesced, qntBlocks_eq, expanded_flatMap, elements_length]
  refine List.flatMap_congr fun j _ => ?_
  rw [blockRead_elements fm.fmt a.tag (fullRuns_blockPart hfull j), blockPart_elements]

end Sys2Proof.Proofs
end

section
/-! PROOFS. What run instructions do to the elements (R124, R125, R127, R129, R140 to R151, R155 to R160). Settles RunElements. -/

namespace Sys2Proof.Proofs

open Sys2Proof Sys2Proof.Machine Sys2Proof.Safety

/-- Settles O14: the element-wise instructions by their segments, the others by what they do to the list of runs. -/
theorem runElements : Obligations.RunElements := by
  unfold Obligations.RunElements
  intro at_ common merged full maps round one low byte
  refine ⟨fun op coal m a b c => ⟨maps_runBin op coal m a b, maps_runBin_masked op coal m a b c⟩, maps_runFma,
    fun coal a => ⟨maps_runAbs coal a, maps_runNeg coal a⟩,
    fun op coal a b c => ⟨maps_runCmp op coal a b, maps_runCmp_masked op coal a b c⟩,
    maps_runSel, maps_runSf, fun coal q a b c => ?modular,
    fun coal a b c => ⟨maps_runBscale coal a b, maps_runBscale_masked coal a b c⟩,
    fun coal dst q rm words a => ⟨fun h => maps_runCvt h coal dst q a, fun x h => runCvt_drawn h⟩,
    fun coal fm q rm words a => ⟨fun hm h => maps_runQnt hm h coal q a, fun hm x h => runQnt_drawn hm h,
      fun hm hfull x h => runQnt_blocks hm hfull h⟩,
    fun coal a b x v n => ⟨runCoal_spec a, runIota_ok, runCat_ok, runSlice_ok, runSetl_ok, runPut_ok⟩⟩
  case modular =>
    have both {go : Nat → Nat → Nat → Nat × FlagSet} {g : Nat → Nat → Nat → Nat} (hgo : IsResidueOf go g) :=
      And.intro (maps_runMod hgo coal q a b) (maps_runMod_masked hgo coal q a b c)
    exact ⟨both isResidueOf_modAdd, both isResidueOf_modSub, both isResidueOf_modMul, maps_runBfly_fst coal q a b c,
      maps_runBfly_snd coal q a b c⟩

end Sys2Proof.Proofs
end

section
/-! PROOFS. Where a run instruction goes once its guard is true: it stalls, is held, traps or gives its run result (R128, R134,
R135, R151 to R156). Settles RunResults and RunTraps. -/

namespace Sys2Proof.Proofs

open Sys2Proof Sys2Proof.Machine Sys2Proof.Safety Sys2Proof.Laws

variable {f : Fields} {s : State} {n m opc base div : Nat}

/-! ### Units and holds (R128, R134) -/

/-- A `.c` operation marks its bundle as one that was held for n clk, n not 0. -/
theorem coalesces_eq (s : State) (n : Nat) :
    s.coalesces n = { s with bun := { s.bun with coal := s.bun.coal || decide (n ≠ 0) } } := by
  unfold State.coalesces
  split
  case isTrue h => simp [h]
  case isFalse h => simp [h]

@[simp] theorem coalesces_since (s : State) (n : Nat) : (s.coalesces n).bun.since = s.bun.since := by rw [coalesces_eq]
@[simp] theorem coalesces_cur (s : State) (n : Nat) : (s.coalesces n).bun.cur = s.bun.cur := by rw [coalesces_eq]

theorem heldFor_passed (h : s.bun.since + n ≤ s.bun.cur.clk) (body : State → State) : s.heldFor n body = body s :=
  if_neg h.not_gt

theorem heldFor_held (h : s.bun.cur.clk < s.bun.since + n) (body : State → State) :
    s.heldFor n body = s.holds (.untilClk (s.bun.since + n)) := if_pos h

theorem holds_of_none (h : s.bun.hold = none) (x : Hold) : s.holds x = { s with bun := { s.bun with hold := some x } } := by
  rw [State.holds, h]

/-- Of two clk that a bundle waits for the later one counts (R128). -/
theorem holds_untilClk (h : s.bun.hold = some (.untilClk m)) (n : Nat) :
    s.holds (.untilClk n) = { s with bun := { s.bun with hold := some (.untilClk (max m n)) } } := by
  have later : (if (Hold.untilClk n).replaces (.untilClk m) then Hold.untilClk n else .untilClk m) = .untilClk (max m n) := by
    rw [show (Hold.untilClk n).replaces (.untilClk m) = decide (m < n) from Bool.false_or _]
    rcases Nat.lt_or_ge m n with hlt | hle
    · rw [if_pos (decide_eq_true hlt), max_eq_right hlt.le]
    · rw [if_neg (by simpa using hle), max_eq_left hle]
  rw [State.holds, h]
  exact congrArg (fun x => { s with bun := { s.bun with hold := some x } }) later

/-! ### The outcomes of a run computation -/

/-- What a run computation leaves: its trap, or what its result `lands` once the hold of `.c` is over. -/
def runOutcome (f : Fields) (lands : RunRes → State → State) (r : Except RunErr RunRes) (s : State) : State :=
  match r with
  | .error e => s.runTrap f e
  | .ok x => (s.coalesces x.hold).heldFor x.hold (lands x)

/-- A run result in flight, and its unit occupied (R134). -/
def runLanding (f : Fields) (opc base div : Nat) (x : RunRes) (s : State) : State :=
  (s.result f opc f.slot.file f.d.toNat (some (if x.hold = 0 then base + (x.segs + div - 1) / div else 1)) (.run x.reg)
    x.flags).onCur fun c => c.occupy f s.bun.since ((x.segs + div - 1) / div)

theorem runResult_eq (r : Except RunErr RunRes) :
    runResult f opc base div r s = runOutcome f (runLanding f opc base div) r s := by
  cases r <;> rfl

theorem runTrap_runovf (x : Word) :
    s.runTrap f (.runovf x n) = (s.coalesces n).heldFor n fun s => s.raise f kRUNOVF x := rfl

/-- A computation that coalesces more than 128 segments waits for n clk before it traps or gives its result (R128). -/
theorem runOutcome_held {lands : RunRes → State → State} {r : Except RunErr RunRes}
    (hr : (∃ x, r = .error (.runovf x n)) ∨ ∃ x, r = .ok x ∧ x.hold = n) (h : s.bun.cur.clk < s.bun.since + n) :
    runOutcome f lands r s = (s.coalesces n).holds (.untilClk (s.bun.since + n)) := by
  have held (body : State → State) : (s.coalesces n).heldFor n body = (s.coalesces n).holds (.untilClk (s.bun.since + n)) := by
    rw [heldFor_held (by simpa using h), coalesces_since]
  rcases hr with ⟨x, rfl⟩ | ⟨x, rfl, rfl⟩
  · exact (runTrap_runovf x).trans (held _)
  · exact held _

theorem runFile_of_slot (hs : f.slot = .va ∨ f.slot = .vb) : isRunFile f.slot.file = true ∧ f.slot.file.size = 16 := by
  rcases hs with h | h <;> rw [h] <;> exact ⟨rfl, rfl⟩

theorem runLanding_gives (hs : f.slot = .va ∨ f.slot = .vb) (hd : f.d.toNat < 16) (x : RunRes) (s : State) :
    givesAnd s (runLanding f opc base div x s) f.slot f.slot.file f.d.toNat (.run x.reg) x.flags fun z =>
      z.occupy f s.bun.since ((x.segs + div - 1) / div) := by
  obtain ⟨hrun, hsize⟩ := runFile_of_slot hs
  exact ⟨_, result_gives s f opc f.slot.file f.d.toNat _ (.run x.reg) x.flags (by rwa [hsize]) hrun, rfl⟩

/-! ### A run instruction and its computation -/

/-- A change of the random-bit queue of the bundle's core alone. -/
def onRng (x : Rng → Rng) (b : Bun) : Bun := { b with cur := { b.cur with rng := x b.cur.rng } }

/-- What an instruction of a run unit leaves: its bundle stalls while the unit is occupied (R134). -/
def onFreeUnit (f : Fields) (s u : State) : State := if s.bun.cur.clk < unitFree f s.bun.cur then s.stalls else u

/-- The queue once n words of it are drawn (R135). -/
def dropWords (n : Nat) (r : Rng) : Rng := { r with words := r.words.drop n }

/-- A run instruction is a computation on the unit of its slot: it stalls while the unit is occupied, and else leaves the
outcome behind what it draws. -/
def Computes (i : Instr) (f : Fields) (s : State) (x : Rng → Rng) (lands : RunRes → State → State) (r : Except RunErr RunRes) :
    Prop :=
  exec i s = .next (onFreeUnit f s (runOutcome f lands r { s with bun := onRng x s.bun }))

theorem computes_of_exec {i : Instr} {r : Except RunErr RunRes} (hg : guardOf f s = true)
    (hi : exec i s = .next (if guardOf f s then onFreeUnit f s (runResult f opc base div r s) else s)) :
    Computes i f s id (runLanding f opc base div) r := by
  rw [if_pos hg, runResult_eq] at hi
  exact hi

/-- An instruction that finds its unit occupied stalls its bundle. -/
theorem becomes_stall {i : Instr} {u : State} (hg : guardOf f s = true)
    (hi : exec i s = .next (if guardOf f s then onFreeUnit f s u else s)) (h : s.bun.cur.clk < unitFree f s.bun.cur) :
    becomes i s fun b => { b with stall := true } := by
  rw [if_pos hg, onFreeUnit, if_pos h] at hi
  exact hi

section
variable {i : Instr} {x : Rng → Rng} {lands : RunRes → State → State} {r : Except RunErr RunRes} (hi : Computes i f s x lands r)
include hi

theorem Computes.stalls (h : s.bun.cur.clk < unitFree f s.bun.cur) : becomes i s fun b => { b with stall := true } :=
  hi.trans (congrArg _ (if_pos h))

variable (hfree : unitFree f s.bun.cur ≤ s.bun.cur.clk)
include hfree

theorem Computes.exec_free : exec i s = .next (runOutcome f lands r { s with bun := onRng x s.bun }) :=
  hi.trans (congrArg _ (if_neg hfree.not_gt))

theorem Computes.lenmis {v : Word} (hr : r = .error (.lenmis v)) :
    becomes i s fun b => { onRng x b with raised := b.raised ++ [⟨kLENMIS, f.slot, v, 0, 0⟩] } := by
  rw [hr] at hi
  exact hi.exec_free hfree

theorem Computes.overflows {v : Word} (hr : r = .error (.runovf v n)) (h : s.bun.since + n ≤ s.bun.cur.clk) :
    becomes i s fun b =>
      { onRng x b with raised := b.raised ++ [⟨kRUNOVF, f.slot, v, 0, 0⟩], coal := b.coal || decide (n ≠ 0) } := by
  rw [hr] at hi
  have he := hi.exec_free hfree
  rw [runOutcome, runTrap_runovf, heldFor_passed (by rw [coalesces_since, coalesces_cur]; exact h), coalesces_eq] at he
  exact he

section
variable (hr : (∃ v, r = .error (.runovf v n)) ∨ ∃ y, r = .ok y ∧ y.hold = n) (h : s.bun.cur.clk < s.bun.since + n)
include hr h

theorem Computes.held (hh : s.bun.hold = none) : becomes i s fun b =>
    { onRng x b with hold := some (.untilClk (s.bun.since + n)), coal := b.coal || decide (n ≠ 0) } := by
  have he := hi.exec_free hfree
  rw [runOutcome_held hr (by exact h), coalesces_eq, holds_of_none (by exact hh)] at he
  exact he

theorem Computes.held_longer (hh : s.bun.hold = some (.untilClk m)) : becomes i s fun b =>
    { onRng x b with hold := some (.untilClk (max m (s.bun.since + n))), coal := b.coal || decide (n ≠ 0) } := by
  have he := hi.exec_free hfree
  rw [runOutcome_held hr (by exact h), coalesces_eq, holds_untilClk (m := m) (by exact hh)] at he
  exact he

end

end

/-- A computation that draws nothing and leaves a run result in D completes (R134). -/
theorem Computes.gives {i : Instr} {r : Except RunErr RunRes} {y : RunRes}
    (hi : Computes i f s id (runLanding f opc base div) r) (hfree : unitFree f s.bun.cur ≤ s.bun.cur.clk)
    (hs : f.slot = .va ∨ f.slot = .vb) (hd : f.d.toNat < 16) (hr : r = .ok y) (h : s.bun.since + y.hold ≤ s.bun.cur.clk) :
    ∃ t, exec i s = .next t ∧ givesAnd (s.coalesces y.hold) t f.slot f.slot.file f.d.toNat (.run y.reg) y.flags fun z =>
      z.occupy f s.bun.since ((y.segs + div - 1) / div) := by
  rw [hr] at hi
  have he : exec i s = .next ((s.coalesces y.hold).heldFor y.hold (runLanding f opc base div y)) := hi.exec_free hfree
  rw [heldFor_passed (by simpa using h)] at he
  exact ⟨_, he, coalesces_since s y.hold ▸ runLanding_gives hs hd y (s.coalesces y.hold)⟩

/-! ### Conversions (R135, R156) -/

/-- A conversion that draws nothing. -/
theorem runDraw_plain {draws : Bool} (h : f.rm ≠ 4#3 ∨ draws = false) (r : List (BitVec 32) → Except RunErr RunRes) :
    runDraw f opc draws r s = onFreeUnit f s
      (runOutcome f (runLanding f opc 2 (if f.rm = 4#3 then 4 else 16)) (r []) { s with bun := onRng id s.bun }) := by
  have hno : (decide (f.rm = 4#3) && draws) = false := by
    rcases h with h | h <;> simp [h]
  simp only [runDraw, onUnit, hno, Bool.false_eq_true, if_false, runResult_eq]
  rfl

/-- The number of words that a conversion of A draws, one for every four slugs (R135), and these words. -/
def draws (f : Fields) (s : State) : Nat := ((runA f s).slugs.length + 3) / 4
def drawnWords (f : Fields) (s : State) : List (BitVec 32) := s.bun.pre.rng.words.take (draws f s)

/-- A conversion that finds the words it draws. -/
theorem runDraw_draws (h : f.rm = 4#3) (hn : draws f s ≤ s.bun.pre.rng.words.length)
    (r : List (BitVec 32) → Except RunErr RunRes) :
    runDraw f opc true r s = onFreeUnit f s
      (runOutcome f (runLanding f opc 2 4) (r (drawnWords f s)) { s with bun := onRng (dropWords (draws f s)) s.bun }) := by
  have hyes : (decide (f.rm = 4#3) && true) = true := by simp [h]
  simp only [runDraw, onUnit, hyes, if_true, runResult_eq]
  exact congrArg _ (if_neg hn.not_gt)

section
variable (hg : guardOf f s = true)
include hg

theorem computes_vcvt (h : f.rm ≠ 4#3) : Computes (.vcvt f) f s id (runLanding f 0x30 2 16)
    (runCvt f.v (cvtTag f.t.toNat) (modqOf s (f.i16.toNat % 8)) f.rm.toNat [] (runA f s)) := by
  refine congrArg _ ((if_pos hg).trans ((runDraw_plain (.inl h) _).trans ?_))
  simp only [if_neg h]

theorem computes_vcvt_drawing (h : f.rm = 4#3) (hn : draws f s ≤ s.bun.pre.rng.words.length) :
    Computes (.vcvt f) f s (dropWords (draws f s)) (runLanding f 0x30 2 4)
      (runCvt f.v (cvtTag f.t.toNat) (modqOf s (f.i16.toNat % 8)) 4 (drawnWords f s) (runA f s)) := by
  have hrm : f.rm.toNat = 4 := congrArg BitVec.toNat h
  exact congrArg _ ((if_pos hg).trans ((runDraw_draws h hn _).trans (by rw [hrm])))

theorem exec_vqnt_refused (h : (formeOf f s).empty = true ∨ (formeOf f s).runpk = true) :
    exec (.vqnt f) s = .next (s.raise f kFMTMIS) :=
  congrArg _ ((if_pos hg).trans (if_pos (by simpa using h)))

variable (he : (formeOf f s).empty = false) (hp : (formeOf f s).runpk = false)
include he hp

/-- VQNT through a forme that it takes is a conversion (R156). -/
theorem exec_vqnt : exec (.vqnt f) s = .next (runDraw f 0x31 (!(formeOf f s).mxb)
    (fun ws => runQnt f.v (formeOf f s) (modqOf s (formeOf f s).modq) f.rm.toNat ws (runA f s)) s) :=
  congrArg _ ((if_pos hg).trans (if_neg (by rw [he, hp]; decide)))

theorem computes_vqnt (h : f.rm ≠ 4#3 ∨ (formeOf f s).mxb = true) :
    Computes (.vqnt f) f s id (runLanding f 0x31 2 (if f.rm = 4#3 then 4 else 16))
      (runQnt f.v (formeOf f s) (modqOf s (formeOf f s).modq) f.rm.toNat [] (runA f s)) :=
  (exec_vqnt hg he hp).trans (congrArg _ (runDraw_plain (h.imp_right (by rw [·]; rfl)) _))

theorem computes_vqnt_drawing (h : f.rm = 4#3) (hm : (formeOf f s).mxb = false)
    (hn : draws f s ≤ s.bun.pre.rng.words.length) : Computes (.vqnt f) f s (dropWords (draws f s)) (runLanding f 0x31 2 4)
      (runQnt f.v (formeOf f s) (modqOf s (formeOf f s).modq) 4 (drawnWords f s) (runA f s)) := by
  have hrm : f.rm.toNat = 4 := congrArg BitVec.toNat h
  refine (exec_vqnt hg he hp).trans (congrArg _ ?_)
  rw [hm, hrm]
  exact runDraw_draws h hn _

end

/-! ### VBFLY and the instructions with a scalar result (R152, R153, R159) -/

/-- Both results of VBFLY in flight, and its unit occupied (R159). -/
def flyLanding (f : Fields) (e d : RunRes) (s : State) : State :=
  let lat := if d.hold = 0 then 2 + sixteenths d.segs else 1
  ((s.result f 0x3C f.slot.file f.d.toNat (some lat) (.run d.reg) d.flags).result f 0x3C f.slot.file (f.d.toNat + 1) (some lat)
    (.run e.reg) e.flags).onCur fun c => c.occupy f s.bun.since (sixteenths d.segs)

section
variable (hg : guardOf f s = true)
include hg

/-- VBFLY is the computation of its first result, which lands with the second. -/
theorem computes_vbfly : ∃ lands, Computes (.vbfly f) f s id lands
    ((runBfly f.v (modqOf s (f.i16.toNat % 8)) (runA f s) (runBReg f s) (runC f s)).map Prod.fst) := by
  have he : exec (.vbfly f) s = execVbfly f s := rfl
  rw [execVbfly, onGuard_true hg, onUnit] at he
  cases hr : runBfly f.v (modqOf s (f.i16.toNat % 8)) (runA f s) (runBReg f s) (runC f s) with
  | error e =>
    simp only [hr] at he
    exact ⟨fun _ => id, he⟩
  | ok p =>
    simp only [hr] at he
    exact ⟨flyLanding f p.2, he⟩

theorem exec_vget_beyond (hfree : unitFree f s.bun.cur ≤ s.bun.cur.clk) (h : (runA f s).len ≤ f.i16.toNat) :
    exec (.vget f) s = .next (s.runTrap f (indexErr (runA f s) f.i16.toNat)) :=
  congrArg _ ((if_pos hg).trans ((if_neg hfree.not_gt).trans (if_pos h)))

theorem runReduce_lenmis {i : Instr} {op : RunRed} {x : Word}
    (hi : exec i s = onGuard f s (runReduce f opc op)) (hfree : unitFree f s.bun.cur ≤ s.bun.cur.clk)
    (hr : runRed op (runA f s) (runMask f s) = .error (.lenmis x)) :
    exec i s = .next (s.raise f kLENMIS x) := by
  rw [hi, onGuard_true hg, runReduce, onUnit, if_neg hfree.not_gt]
  simp only [hr]
  rfl

end

/-- XMOV from a run register is a computation. -/
theorem computes_xmovRun (hg : guardOf f s = true) (h : isRunFile (fileOfCode f.slot.file f.sc) = true) :
    let r := s.rdRun (fileOfCode f.slot.file f.sc) f.a.toNat
    Computes (.xmovRun f) f s id (runLanding f 0x23 2 16) (capacity f.v r.tag r.slugs 0) := by
  intro r
  refine congrArg _ ((if_pos hg).trans (congrArg _ ((if_pos h).trans ?_)))
  rw [runResult_eq]
  rfl

/-! ### The capacity rule (R128) -/

theorem capacity_false (tag : Nat) (slugs : List (Word × Nat)) (fl : FlagSet) : capacity false tag slugs fl =
    if 128 < slugs.length then
      .error (.runovf (BitVec.ofNat 64 (slugs.length + ((slugs.take 128).map Prod.snd).sum * 2 ^ 16)) 0)
    else .ok ⟨⟨tag, slugs⟩, slugs.length, fl, 0⟩ := by
  rw [capacity_eq]
  split
  case isTrue h => exact (if_pos h).symm
  case isFalse h => exact (congrArg _ (congrArg _ (if_neg h))).trans (if_neg h).symm

/-- Settles O10: each instruction is a computation on its unit, and a conversion that does not draw is one too. -/
theorem runResults : Obligations.RunResults := by
  intro f s hs hd hg hfree a b c m k q run
  have ran {i : Instr} {opc base div : Nat} {r : Except RunErr RunRes}
      (hi : exec i s = .next (if guardOf f s then onFreeUnit f s (runResult f opc base div r s) else s)) : run div i r :=
    fun x => (computes_of_exec hg hi).gives hfree hs hd
  exact ⟨ran rfl, ran rfl, ran rfl, ran rfl, ran rfl, ran rfl, ran rfl, ran rfl, ran rfl, ran rfl, ran rfl, ran rfl, ran rfl,
    ran rfl, ran rfl, ran rfl, ran rfl, ran rfl, ran rfl, ran rfl, ran rfl, ran rfl, ran rfl, ran rfl, ran rfl, ran rfl, ran rfl,
    ran rfl, ran rfl, ran rfl, ran rfl, ran rfl, ran rfl, ran rfl, ran rfl, ran rfl, ran rfl, ran rfl, ran rfl, ran rfl, ran rfl,
    ran rfl, ran rfl, ran rfl, ran rfl, ran rfl, ran rfl, ran rfl, ran rfl, ran rfl, ran rfl,
    fun hrm => ⟨fun x => (computes_vcvt hg hrm).gives hfree hs hd, fun he hp x => by
      simpa only [if_neg hrm] using (computes_vqnt hg he hp (.inl hrm)).gives hfree hs hd⟩⟩

/-- Settles O13: the lengths by `commonLen`, the capacity rule by its branches, and each instruction by the outcomes of its
computation. -/
theorem runTraps : Obligations.RunTraps := by
  refine ⟨fun a b c => ⟨segs2_error, segs3_error⟩, fun tag slugs fl => ⟨capacity_false tag slugs fl, rfl⟩, fun f s hg => ?_⟩
  intro a b c m k q fm words n drawn stall mis traps run red index
  have stalled {i : Instr} {u : State} (hi : exec i s = .next (if guardOf f s then onFreeUnit f s u else s)) : stall i :=
    becomes_stall hg hi
  have stops {i : Instr} {x : Rng → Rng} {lands : RunRes → State → State} {r : Except RunErr RunRes}
      (hi : Computes i f s x lands r) : traps (onRng x) i r :=
    ⟨hi.stalls, fun hfree => ⟨fun _ => hi.lenmis hfree, fun _ _ => hi.overflows hfree,
      fun _ hr h => ⟨hi.held hfree hr h, fun _ => hi.held_longer hfree hr h⟩⟩⟩
  have ran {i : Instr} {opc base div : Nat} {r : Except RunErr RunRes}
      (hi : exec i s = .next (if guardOf f s then onFreeUnit f s (runResult f opc base div r s) else s)) : run i r :=
    stops (computes_of_exec hg hi)
  have reduced {i : Instr} {opc : Nat} {op : RunRed} (hi : exec i s = onGuard f s (runReduce f opc op)) : red i op :=
    ⟨stalled hi, fun _ hr hfree => runReduce_lenmis hg hi hfree hr⟩
  have put : index (.vput f) (s.rdRun f.slot.file f.d.toNat) := fun h hfree => by
    rw [elements_length] at h ⊢
    exact (computes_of_exec hg rfl).lenmis hfree (runPut_beyond h)
  have get : index (.vget f) a := fun h hfree => by
    rw [elements_length] at h ⊢
    exact exec_vget_beyond hg hfree h
  obtain ⟨lands, hfly⟩ := computes_vbfly hg
  exact ⟨ran rfl, ran rfl, ran rfl, ran rfl, ran rfl, ran rfl, ran rfl, ran rfl, ran rfl, ran rfl, ran rfl, ran rfl, ran rfl,
    ran rfl, ran rfl, ran rfl, ran rfl, ran rfl, ran rfl, ran rfl, ran rfl, ran rfl, ran rfl, ran rfl, ran rfl, ran rfl, ran rfl,
    ran rfl, ran rfl, ran rfl, ran rfl, ran rfl, ran rfl, ran rfl, stalled rfl, stalled rfl, ran rfl, ran rfl, ran rfl, ran rfl,
    ran rfl, put, get, stalled rfl, stalled rfl, stalled rfl, reduced rfl, reduced rfl, reduced rfl, reduced rfl, reduced rfl,
    ran rfl, ran rfl, ran rfl, ran rfl, ran rfl, ran rfl, ran rfl, ran rfl, ran rfl, ran rfl, ran rfl, stops hfly, stalled rfl,
    fun hfile => stops (computes_xmovRun hg hfile), fun hrm => stops (computes_vcvt hg hrm),
    fun hrm hn => stops (computes_vcvt_drawing hg hrm hn),
    exec_vqnt_refused hg, fun he hp => ⟨fun h => stops (computes_vqnt hg he hp h),
      fun hrm hm hn => stops (computes_vqnt_drawing hg he hp hrm hm hn)⟩⟩

end Sys2Proof.Proofs
end

section
/-! PROOFS. The run instructions with a scalar result, VSPLAT and XMOV, the pair of results of VBFLY, and the words that
stochastic conversions draw (R123, R135, R136, R146, R152 to R156, R159). Settles RunScalars and ButterflyAndDraws. -/

namespace Sys2Proof.Proofs

open Sys2Proof Sys2Proof.Machine Sys2Proof.Safety Sys2Proof.Laws

variable {f : Fields} {s : State} {i : Instr} {opc base div : Nat}

/-! ### Scalar results (R123, R152, R153) -/

/-- A value in the file that SC names: itself, or one slug under a tag in a run register (R123). -/
def scalarVal (f : Fields) (tag : Nat) (v : Word) : RegVal :=
  if isRunFile (fileOfCode f.slot.file f.sc) then .run ⟨tag, [(underTag tag v, 1)]⟩ else .word v

theorem fileOfCode_ne_p {own : RFile} (h : own ≠ .p) (sc : BitVec 3) : fileOfCode own sc ≠ .p := by
  unfold fileOfCode
  split
  · exact h
  all_goals exact nofun

theorem fits_scalarVal (hs : f.slot = .va ∨ f.slot = .vb) (tag : Nat) (v : Word) :
    fits (fileOfCode f.slot.file f.sc) (scalarVal f tag v) = true := by
  have hp : fileOfCode f.slot.file f.sc ≠ .p := fileOfCode_ne_p (by rcases hs with h | h <;> rw [h] <;> exact nofun) _
  unfold scalarVal
  cases hr : isRunFile (fileOfCode f.slot.file f.sc) with
  | true => exact hr
  | false => simp [fits, hr, hp]

theorem runScalar_gives (hs : f.slot = .va ∨ f.slot = .vb) (hd : f.d.toNat < (fileOfCode f.slot.file f.sc).size)
    (opc tag p : Nat) (v : Word) (fl : FlagSet) (s : State) :
    givesAnd s (runScalar f opc tag p v fl s) f.slot (fileOfCode f.slot.file f.sc) f.d.toNat (scalarVal f tag v) fl fun z =>
      z.occupy f s.bun.since ((p + 15) / 16) :=
  ⟨_, result_gives s f opc _ f.d.toNat _ (scalarVal f tag v) fl hd (fits_scalarVal hs tag v), rfl⟩

/-- An instruction that finds its unit free leaves what it does on the unit (R134). -/
theorem exec_of_freeUnit {u : State} (hg : guardOf f s = true) (hfree : unitFree f s.bun.cur ≤ s.bun.cur.clk)
    (hi : exec i s = .next (if guardOf f s then onFreeUnit f s u else s)) : exec i s = .next u := by
  rw [if_pos hg, onFreeUnit, if_neg hfree.not_gt] at hi
  exact hi

/-- The tag of a reduction's one-slug result (R153): an index or a count is S64. -/
theorem redTag_eq (op : RunRed) (t : Nat) : op.tag t = if op = .count ∨ op = .first then tagS64 else t := by
  cases op <;> rfl

theorem exec_reduce_ok {op : RunRed} {v : Word} {fl : FlagSet} {p : Nat} (hg : guardOf f s = true)
    (hfree : unitFree f s.bun.cur ≤ s.bun.cur.clk) (hi : exec i s = onGuard f s (runReduce f opc op))
    (hr : runRed op (runA f s) (runMask f s) = .ok (v, fl, p)) :
    exec i s = .next (runScalar f opc (op.tag (runA f s).tag) p v fl s) := by
  rw [hi, onGuard_true hg, runReduce, onUnit, if_neg hfree.not_gt]
  simp only [hr]

theorem exec_vget_within (hg : guardOf f s = true) (hfree : unitFree f s.bun.cur ≤ s.bun.cur.clk)
    (h : f.i16.toNat < (elements (runA f s)).length) : exec (.vget f) s =
      .next (runScalar f 0x1C (runA f s).tag (runA f s).runs ((elements (runA f s)).getD f.i16.toNat 0#64) 0 s) := by
  rw [elements_length] at h
  rw [elements_eq, ← slugAt_eq]
  exact congrArg _ ((if_pos hg).trans ((if_neg hfree.not_gt).trans (if_neg h.not_ge)))

/-! ### VSPLAT and XMOV (R146, R154) -/

/-- What VSPLAT gives D: I16 copies of a value as one run (R146). -/
def splatted (f : Fields) (s : State) : RunReg :=
  ⟨if f.v then tagF32 else tagS64,
    if f.i16 = 0#16 then [] else [(if f.v then opASc f s &&& 0xFFFFFFFF#64 else opASc f s, f.i16.toNat)]⟩

theorem computes_vsplat (hg : guardOf f s = true) :
    Computes (.vsplat f) f s id (runLanding f 0x15 2 16) (.ok ⟨splatted f s, 1, 0, 0⟩) := by
  have hi := computes_of_exec (i := .vsplat f) hg rfl
  have hn : f.i16.toNat = 0 ↔ f.i16 = 0#16 := by rw [← BitVec.toNat_inj]; rfl
  simp only [zextBits_32, hn] at hi
  exact hi

theorem exec_xmovRun_word (hg : guardOf f s = true) (hfree : unitFree f s.bun.cur ≤ s.bun.cur.clk)
    (hfile : isRunFile (fileOfCode f.slot.file f.sc) = false) : exec (.xmovRun f) s =
      .next ((s.result f 0x23 f.slot.file f.d.toNat (some 2) (.run ⟨tagS64, [(opASc f s, 1)]⟩) 0).onCur fun c =>
        c.occupy f s.bun.since 1) :=
  congrArg _ ((if_pos hg).trans ((if_neg hfree.not_gt).trans (if_neg (ne_true_of_eq_false hfile))))

/-- XMOV from a scalar register gives one slug (R154). -/
theorem xmovRun_word_gives (hs : f.slot = .va ∨ f.slot = .vb) (hd : f.d.toNat < 16) (hg : guardOf f s = true)
    (hfree : unitFree f s.bun.cur ≤ s.bun.cur.clk) (hfile : isRunFile (fileOfCode f.slot.file f.sc) = false) :
    ∃ t, exec (.xmovRun f) s = .next t ∧ givesAnd s t f.slot f.slot.file f.d.toNat (.run ⟨tagS64, [(opASc f s, 1)]⟩) 0
      fun z => z.occupy f s.bun.since 1 := by
  obtain ⟨hrun, hsize⟩ := runFile_of_slot hs
  exact ⟨_, exec_xmovRun_word hg hfree hfile, _,
    result_gives s f 0x23 f.slot.file f.d.toNat _ _ 0 (by rwa [hsize]) hrun, rfl⟩

/-- A computation that is not held completes at once (R128). -/
theorem Computes.gives_unheld {out : RunReg} {p : Nat} {fl : FlagSet}
    (hi : Computes i f s id (runLanding f opc base div) (.ok ⟨out, p, fl, 0⟩))
    (hfree : unitFree f s.bun.cur ≤ s.bun.cur.clk) (hs : f.slot = .va ∨ f.slot = .vb) (hd : f.d.toNat < 16)
    (h : s.bun.since ≤ s.bun.cur.clk) :
    ∃ t, exec i s = .next t ∧ givesAnd s t f.slot f.slot.file f.d.toNat (.run out) fl fun z =>
      z.occupy f s.bun.since ((p + div - 1) / div) := hi.gives hfree hs hd rfl h

theorem capacity_within {r : RunReg} (h : r.slugs.length ≤ 128) : capacity false r.tag r.slugs 0 = .ok ⟨r, r.runs, 0, 0⟩ := by
  rw [capacity_false, if_neg h.not_gt]
  rfl

/-- Settles O11: a scalar result is written by `runScalar`; VSPLAT and XMOV from a run register are computations on their unit. -/
theorem runScalars : Obligations.RunScalars := by
  intro f s hs hg hfree a file val one red
  have gave {i : Instr} {opc tag p : Nat} {v : Word} {fl : FlagSet} (hx : exec i s = .next (runScalar f opc tag p v fl s)) :
      one i tag v fl p := fun hd => ⟨_, hx, runScalar_gives hs hd opc tag p v fl s⟩
  have reduced {i : Instr} {opc : Nat} {op : RunRed} (hi : exec i s = onGuard f s (runReduce f opc op)) : red i op :=
    fun v fl p hr => gave (redTag_eq op a.tag ▸ exec_reduce_ok hg hfree hi hr)
  have hlen : exec (.vlen f) s = .next (runScalar f 0x1A tagS64 a.runs (BitVec.ofNat 64 (elements a).length) 0 s) := by
    rw [elements_length]
    exact exec_of_freeUnit hg hfree rfl
  refine ⟨gave hlen, gave (exec_of_freeUnit hg hfree rfl), fun h => gave (exec_vget_within hg hfree h), reduced rfl,
    reduced rfl, reduced rfl, reduced rfl, reduced rfl, fun hd hsince => ⟨?splat, xmovRun_word_gives hs hd hg hfree,
      fun hfile hv hp => ?whole, fun hfile x hr => ?run⟩⟩
  case splat => exact (computes_vsplat hg).gives_unheld hfree hs hd hsince
  case whole =>
    have hi := computes_xmovRun hg hfile
    dsimp only at hi
    rw [hv, capacity_within hp] at hi
    obtain ⟨t, hx, ht⟩ := hi.gives_unheld hfree hs hd hsince
    exact ⟨t, _, hx, ht⟩
  case run => exact (computes_xmovRun hg hfile).gives hfree hs hd hr

/-! ### Words drawn (R135, R156) -/

theorem occupy_rng (c : Core) (f : Fields) (since n : Nat) : (c.occupy f since n).rng = c.rng := by
  unfold Core.occupy
  split <;> rfl

theorem occupy_settled (c : Core) (f : Fields) (since n : Nat) (h : Bool) (file : RFile) (m : Nat) :
    settled (c.occupy f since n) h file m = settled c h file m := by
  unfold Core.occupy
  split <;> rfl

/-- A run result leaves the random-bit queue alone, and D settles to it. -/
theorem runLanding_settles (hs : f.slot = .va ∨ f.slot = .vb) (hd : f.d.toNat < 16) (x : RunRes) (s : State) :
    (runLanding f opc base div x s).bun.cur.rng = s.bun.cur.rng
      ∧ settled (runLanding f opc base div x s).bun.cur s.bun.hnd f.slot.file f.d.toNat = .run x.reg := by
  obtain ⟨u, ⟨-, ⟨hframe, -⟩, hsettled, -⟩, ht⟩ := runLanding_gives (opc := opc) (base := base) (div := div) hs hd x s
  obtain ⟨hrun, -⟩ := runFile_of_slot hs
  have hkept : discards f.slot.file f.d.toNat = false := by rcases hs with h | h <;> rw [h] <;> simp [discards, Slot.file]
  rw [ht, onCur_bun, occupy_rng, occupy_settled, hsettled]
  refine ⟨(congrArg Core.rng hframe :), ?_⟩
  simp [sameReg, hrun, hkept]

/-- A computation completes behind what it draws. -/
theorem Computes.gives_rng {x : Rng → Rng} {r : Except RunErr RunRes} {y : RunRes}
    (hi : Computes i f s x (runLanding f opc base div) r) (hfree : unitFree f s.bun.cur ≤ s.bun.cur.clk)
    (hs : f.slot = .va ∨ f.slot = .vb) (hd : f.d.toNat < 16) (hr : r = .ok y) (h : s.bun.since + y.hold ≤ s.bun.cur.clk) :
    ∃ t, exec i s = .next t ∧ t.bun.cur.rng = x s.bun.cur.rng
      ∧ settled t.bun.cur s.bun.hnd f.slot.file f.d.toNat = .run y.reg := by
  rw [hr] at hi
  have he := hi.exec_free hfree
  rw [runOutcome, heldFor_passed (by rw [coalesces_since, coalesces_cur]; exact h)] at he
  obtain ⟨hrng, hsettled⟩ := runLanding_settles (opc := opc) (base := base) (div := div) hs hd y
    (State.coalesces { s with bun := onRng x s.bun } y.hold)
  refine ⟨_, he, ?_, ?_⟩
  · rw [hrng, coalesces_cur]; rfl
  · rw [coalesces_eq] at hsettled ⊢
    exact hsettled

/-- A conversion that finds too few words for its draws stalls its bundle (R135). -/
theorem runDraw_stalls (hfree : unitFree f s.bun.cur ≤ s.bun.cur.clk) (h : f.rm = 4#3)
    (hn : s.bun.pre.rng.words.length < draws f s) (r : List (BitVec 32) → Except RunErr RunRes) :
    runDraw f opc true r s = s.stalls := by
  have hyes : (decide (f.rm = 4#3) && true) = true := by simp [h]
  rw [runDraw, onUnit, if_neg hfree.not_gt, if_pos hyes]
  exact if_pos hn

/-! ### VBFLY (R159) -/

theorem computes_vbfly_ok {d e : RunRes} (hg : guardOf f s = true)
    (hr : runBfly f.v (modqOf s (f.i16.toNat % 8)) (runA f s) (runBReg f s) (runC f s) = .ok (d, e)) :
    Computes (.vbfly f) f s id (flyLanding f e) (.ok d) := by
  have he : exec (.vbfly f) s = execVbfly f s := rfl
  rw [execVbfly, onGuard_true hg, onUnit] at he
  simp only [hr] at he
  exact he

theorem flyLanding_gives (hs : f.slot = .vb) (hd : f.d.toNat + 1 < 16) (d e : RunRes) (s : State) :
    ∃ u, gives s u f.slot .w f.d.toNat (.run d.reg) d.flags
      ∧ givesAnd u (flyLanding f e d s) f.slot .w (f.d.toNat + 1) (.run e.reg) e.flags fun z =>
          z.occupy f s.bun.since ((d.segs + 15) / 16) := by
  have hfile : f.slot.file = .w := by rw [hs]; rfl
  rw [flyLanding, hfile]
  exact ⟨_, result_gives s f 0x3C .w f.d.toNat _ (.run d.reg) d.flags (Nat.lt_of_succ_lt hd) rfl, _,
    result_gives _ f 0x3C .w (f.d.toNat + 1) _ (.run e.reg) e.flags hd rfl, rfl⟩

/-- Settles O12: a stochastic conversion is a computation behind the words it draws, and VBFLY one that lands two results. -/
theorem butterflyAndDraws : Obligations.ButterflyAndDraws := by
  refine ⟨fun f s hs hd hg hfree hrm hwords => ?draws, fun f s hs hd hg hfree d e hr hheld => ?fly⟩
  case fly =>
    have he := (computes_vbfly_ok hg hr).exec_free hfree
    rw [runOutcome, heldFor_passed (by rw [coalesces_since, coalesces_cur]; exact hheld)] at he
    obtain ⟨u, hu, ht⟩ := flyLanding_gives hs hd d e (s.coalesces d.hold)
    rw [coalesces_since] at ht
    exact ⟨_, u, he, hu, ht⟩
  case draws =>
    have drawn {i : Instr} {opc : Nat} {r : Except RunErr RunRes} {x : RunRes} (hr : r = .ok x)
        (hi : Computes i f s (dropWords (draws f s)) (runLanding f opc 2 4) r)
        (hheld : s.bun.since + x.hold ≤ s.bun.cur.clk) : ∃ t, exec i s = .next t
          ∧ t.bun.cur.rng = { s.bun.cur.rng with words := s.bun.pre.rng.words.drop (draws f s) }
          ∧ settled t.bun.cur s.bun.hnd f.slot.file f.d.toNat = .run x.reg := by
      rw [← hwords]
      exact hi.gives_rng hfree hs hd hr hheld
    refine ⟨fun hn => ?_, fun x hr hn hheld => drawn hr (computes_vcvt_drawing hg hrm hn) hheld,
      fun he hp => ⟨fun hn hm => ?_, fun x hr hn hheld => ?_⟩⟩
    · exact congrArg _ ((if_pos hg).trans (runDraw_stalls hfree hrm hn _))
    · rw [becomes, exec_vqnt hg he hp, hm]
      exact congrArg _ (runDraw_stalls hfree hrm hn _)
    · cases hm : (formeOf f s).mxb with
      | false =>
        rw [hm] at hr hn
        exact drawn hr (computes_vqnt_drawing hg he hp hrm hm (hn.resolve_right Bool.false_ne_true)) hheld
      | true =>
        rw [hm] at hr
        have hi := computes_vqnt hg he hp (.inr hm)
        rw [if_pos hrm, congrArg BitVec.toNat hrm] at hi
        rw [if_pos rfl, ← hwords]
        exact hi.gives_rng hfree hs hd hr hheld

end Sys2Proof.Proofs
end

section
/-! PROOFS. LDV, LDVP, STV and STVP: their path, the checks of their span, and what they load and store (R118, R132, R133, R161
to R164, R200, R252). Settles RunTransfers. -/

namespace Sys2Proof.Proofs

open Sys2Proof Sys2Proof.Machine Sys2Proof.Safety Sys2Proof.Laws

variable {f : Fields} {s u : State} {lo mid hi : Nat} {write packedOk reads before : Bool}

/-! ### The checks of a range (R86, R200, R201, R223, R252) -/

/-- An access that nothing stops and that meets no word in error passes its checks. -/
theorem spChecks_of_spOpen (h : spOpen s.bun.cur lo hi write packedOk)
    (hw : (if before then s.bun.pre else s.bun.cur).badWord lo hi (!reads) = none) :
    s.spChecks f lo hi write packedOk reads before = s := by
  obtain ⟨hpacked, hchase, hawake⟩ := h
  have hk : (if packedOk then s else s.packedCheck f lo hi) = s := by
    rcases hpacked with hp | hp
    · rw [if_pos hp]
    · rw [State.packedCheck, if_neg (ne_true_of_eq_false hp), ite_self]
  have hb : s.bun.cur.spBlocks lo hi write = false := by rw [Core.spBlocks, hchase, hawake]; rfl
  simp only [State.spChecks, hk, hb, hw, Bool.false_eq_true, if_false]

theorem overlaps_of_shorter {l h : Nat} (hm : mid ≤ hi) (ho : overlaps lo mid l h = true) : overlaps lo hi l h = true := by
  simp only [overlaps, Bool.and_eq_true, decide_eq_true_eq] at ho ⊢
  omega

theorem groupsOf_of_shorter (hm : mid ≤ hi) {g : Nat} (hg : g ∈ groupsOf lo mid) : g ∈ groupsOf lo hi := by
  unfold groupsOf at hg ⊢
  split at hg
  case isTrue => cases hg
  case isFalse hne =>
    rw [if_neg (by omega)]
    obtain ⟨hmem, ho⟩ := List.mem_filter.mp hg
    exact List.mem_filter.mpr ⟨hmem, overlaps_of_shorter hm ho⟩

/-- What does not hold back an access to a range does not hold back one to its beginning (R200, R252). -/
theorem spBlocks_of_shorter {c : Core} (hm : mid ≤ hi) (hchase : c.chaseBlocks lo hi write = false)
    (hawake : (c.asleep lo hi).2 = false) : c.spBlocks lo mid write = false := by
  refine Bool.or_eq_false_iff.mpr ⟨List.any_eq_false.mpr fun r hr hx => ?_, List.any_eq_false.mpr fun g hg hx => ?_⟩
  · obtain ⟨hw, ho⟩ := Bool.and_eq_true_iff.mp hx
    exact List.any_eq_false.mp hchase r hr (Bool.and_eq_true_iff.mpr ⟨hw, overlaps_of_shorter hm ho⟩)
  · exact List.any_eq_false.mp hawake g (groupsOf_of_shorter hm hg) hx

/-! ### The path (R161) -/

/-- A transfer whose hold is over: what it does, with its path occupied. -/
theorem transfer_passed {p b : Nat} (h : s.bun.since + ((b + 511) / 512 - 1) ≤ s.bun.cur.clk) (body : State → State) :
    s.transfer f p b body =
      (body s).onCur fun k => { k with pathFree := (s.transfer f p b body).bun.cur.pathFree } := by
  rw [State.transfer, heldFor_passed h]
  unfold Core.occupyPath
  split <;> rfl

theorem uses_spStore (f : Fields) (s : State) (a : Nat) (bs : List Byte) (lo hi lat : Nat) :
    (s.spStore f a bs).uses lo hi lat = (s.uses lo hi lat).spStore f a bs := by
  rw [spStore_bun, spStore_bun]
  rfl

theorem usesSpan_spStore (f : Fields) (s : State) (a : Nat) (bs : List Byte) (p : Span) (lat : Nat) :
    (s.spStore f a bs).usesSpan p lat = (s.usesSpan p lat).spStore f a bs := by
  unfold State.usesSpan
  simp only [uses_spStore]
  split <;> rfl

theorem usesSpan_sp (s : State) (p : Span) (lat : Nat) : (s.usesSpan p lat).bun.cur.sp = s.bun.cur.sp := by
  unfold State.usesSpan
  dsimp only
  split <;> rfl

theorem pathLat_spStore (f : Fields) (s : State) (a : Nat) (bs : List Byte) (p : Nat) :
    (s.spStore f a bs).pathLat p = s.pathLat p := by
  rw [spStore_bun]
  rfl

theorem opA_of_slotStep (h : SlotStep s u) : opA f u = opA f s := by
  have hk := h.kept
  simp only [keptBun, Prod.mk.injEq] at hk
  obtain ⟨⟨-, hhnd, -, -, hpre, -⟩, -⟩ := hk
  rw [opA, opA, State.rd, State.rd, hhnd, hpre]

/-! ### The advance of A (R162 to R164) -/

/-- What V asks for behind a transfer: A past what it moved, and else nothing. -/
def advancesA (f : Fields) (a : Word) (u t : State) (on : Bool) (step : Nat) : Prop :=
  if f.v && on then gives u t f.slot f.slot.file f.a.toNat (.word (a + BitVec.ofNat 64 step)) 0 else t = u

/-- The bytes of a dense row of k elements, with the block count above them under MXB (R162). -/
def rowStep (fm : Forme) (k : Nat) : Nat := rowBytes fm.fmt k + (if fm.mxb then 2 ^ 32 * ((k + 31) / 32) else 0)

section
variable (hs : f.slot = .aga ∨ f.slot = .agb) (ha : f.a.toNat < 24) (hu : SlotStep s u) (opc : Nat)
include hs ha hu

theorem result_advancesA (step : Nat) : gives u
    (u.result f opc f.slot.file f.a.toNat (some 1) (.word (opA f u + BitVec.ofNat 64 step)) 0) f.slot f.slot.file f.a.toNat
    (.word (opA f s + BitVec.ofNat 64 step)) 0 := by
  have hfile : f.a.toNat < f.slot.file.size ∧ ∀ v, fits f.slot.file (.word v) = true := by
    rcases hs with h | h <;> rw [h] <;> exact ⟨ha, fun _ => rfl⟩
  rw [opA_of_slotStep hu]
  exact result_gives u f opc f.slot.file f.a.toNat (some 1) _ 0 hfile.1 (hfile.2 _)

theorem advance_advancesA (fm : Forme) (k : Nat) :
    advancesA f (opA f s) u (u.advance f opc fm k) (k != 0) (rowStep fm k) := by
  have hon : (f.v && decide (k ≠ 0)) = (f.v && (k != 0)) := by cases k <;> rfl
  unfold advancesA State.advance
  rw [hon]
  split
  · exact result_advancesA hs ha hu opc _
  · rfl

theorem advancePacked_advancesA (r : RunReg) :
    advancesA f (opA f s) u (u.advancePacked f opc r) true (packedBytes r) := by
  unfold advancesA State.advancePacked
  rw [Bool.and_true]
  split
  · exact result_advancesA hs ha hu opc _
  · rfl

end

/-! ### The forme and its span (R118, R162) -/

/-- Where the address of a transfer is out of the scratchpad or in a packed region (R324). -/
def addressRaise (f : Fields) (s : State) : List Raise :=
  if 2 ^ 21 ≤ (opA f s).toNat then [⟨kPROT, f.slot, opA f s, 0, 0⟩]
  else if s.bun.cur.meetsPacked (opA f s).toNat ((opA f s).toNat + 1) then
    [⟨kPKDACC, f.slot, BitVec.ofNat 64 (opA f s).toNat, 0, 0⟩]
  else []

theorem onForme_refused (h : (formeOf f s).empty = true ∨ (formeOf f s).runpk = true) (body : Forme → State → State) :
    onForme f s body = { s with bun :=
      { s.bun with raised := s.bun.raised ++ addressRaise f s ++ [⟨kFMTMIS, f.slot, 0, 0, 0⟩] } } := by
  rw [onForme, if_pos (by simpa using h), addressRaise]
  split
  · rfl
  · rw [packedCheck_eq, packedRaise]
    rfl

theorem onForme_taken (he : (formeOf f s).empty = false) (hp : (formeOf f s).runpk = false) (body : Forme → State → State) :
    onForme f s body = body (formeOf f s) s := if_neg (by rw [he, hp]; exact Bool.false_ne_true)

/-- Nothing stops an access to a range: of a store as the bundle leaves it, of a load as it was before the bundle (R17). -/
def mayAccess (s : State) (write : Bool) (lo hi : Nat) : Prop :=
  if write then spClear s.bun.cur lo hi true false else spReads s lo hi false

theorem spChecks_of_mayAccess (h : mayAccess s write lo hi) : s.spChecks f lo hi write (before := !write) = s := by
  cases write with
  | false => exact spChecks_of_spOpen h.1 h.2
  | true => exact spChecks_of_spOpen h.1 h.2

/-- A span is legal and nothing stops an access to it or to its scales. -/
def spanClear (s : State) (fm : Forme) (p : Span) (write : Bool) : Prop :=
  p.ea + p.bytes ≤ 2 ^ 21 ∧ p.ea < 2 ^ 21 ∧ (p.blocks ≠ 0 → p.scale + p.blocks ≤ 2 ^ 21)
    ∧ (16 ≤ fmtBits fm.fmt → p.ea % (fmtBits fm.fmt / 8) = 0)
    ∧ mayAccess s write p.ea (p.ea + p.bytes) ∧ (p.blocks ≠ 0 → mayAccess s write p.scale (p.scale + p.blocks))

theorem spanChecks_of_spanClear {fm : Forme} {p : Span} (h : spanClear s fm p write) :
    s.spanChecks f fm p write = (true, s) := by
  obtain ⟨hend, hea, hscale, haligned, hrow, hblocks⟩ := h
  have hnear : (decide (2 ^ 21 ≤ p.ea) || decide (2 ^ 21 < p.ea + p.bytes)) = false := by
    rw [decide_eq_false hea.not_ge, decide_eq_false hend.not_gt]; rfl
  have hnear' : ¬(p.blocks ≠ 0 ∧ 2 ^ 21 < p.scale + p.blocks) := fun h => (hscale h.1).not_gt h.2
  have heven : ¬(2 ≤ fmtBits fm.fmt / 8 ∧ p.ea % (fmtBits fm.fmt / 8) ≠ 0) := fun h => h.2 (haligned (by omega))
  simp only [State.spanChecks, hnear, Bool.false_eq_true, if_false, if_neg hnear', if_neg heven, spChecks_of_mayAccess hrow]
  by_cases hb : p.blocks = 0
  · rw [if_pos hb]
  · rw [if_neg hb, spChecks_of_mayAccess (hblocks hb)]

/-- The elements that LDV asks for: none of an empty tensor (R118). -/
def askedFor (f : Fields) (fm : Forme) : Nat :=
  if fm.d0 = 0 ∨ fm.d1 = 0 then 0 else if f.len = .three then f.l32.toNat % 2 ^ 16 else min fm.d0 65535

theorem moves_eq_askedFor (f : Fields) (fm : Forme) : fm.moves (match f.len with
    | .three => f.l32.toNat % 2 ^ 16
    | _ => min fm.d0 65535) = askedFor f fm := by
  unfold Forme.moves askedFor
  cases f.len <;> rfl

theorem carries_eq (fm : Forme) (r : RunReg) :
    fm.carries r = if fm.d0 = 0 ∨ fm.d1 = 0 then { r with slugs := [] } else r := rfl

/-! ### LDV and STV (R161 to R163) -/

/-- What a transfer does behind the checks of its span. -/
def behindSpan (r : Bool × State) (k : State → State) : State :=
  match r with
  | (false, u) => u
  | (true, u) => k u

/-- The register that a dense span holds, and its flags. -/
def rowAt (fm : Forme) (n : Nat) (p : Span) (sp : List Host.Cell) : RunReg × FlagSet :=
  loadDense fm n (elemOfRow fm.fmt (readN sp p.ea p.bytes)) fun k => (readByte sp (p.scale + k)).toNat

/-- LDV's result in flight, and A advanced. -/
def landRow (f : Fields) (fm : Forme) (p : Span) (r : RunReg × FlagSet) (u : State) : State :=
  ((u.usesSpan p (u.pathLat r.1.runs)).result f 0x05 (fileOfCode f.slot.file f.sc) f.d.toNat (some (u.pathLat r.1.runs))
    (.run r.1) r.2).advance f 0x05 fm r.1.len

/-- LDV behind the checks of its span. -/
def loadSpan (f : Fields) (fm : Forme) (n : Nat) (p : Span) (u : State) : State :=
  let r := rowAt fm n p u.bun.pre.sp
  u.transfer f r.1.runs (rowBytes fm.fmt r.1.len + (if fm.mxb then (r.1.len + 31) / 32 else 0)) (landRow f fm p r)

/-- LDV of n elements. -/
def loadRow (f : Fields) (fm : Forme) (s : State) (n : Nat) : State :=
  behindSpan (s.spanChecks f fm (spanOf fm (opA f s) n) false) (loadSpan f fm n (spanOf fm (opA f s) n))

/-- The row and its scales stored. -/
def storeRow (f : Fields) (p : Span) (row scales : List Byte) (u : State) : State :=
  if p.blocks = 0 then u.spStore f p.ea row else (u.spStore f p.ea row).spStore f p.scale scales

/-- STV's row and scales as bytes. -/
def rowOf (fm : Forme) (p : Span) (c : RunReg) : List Byte := natToBytes p.bytes (rowOfElems fm.fmt (storeDense fm c).1)
def scalesOf (fm : Forme) (c : RunReg) : List Byte := (storeDense fm c).2.1.map fun x => BitVec.ofNat 8 x

theorem usesSpan_storeRow (p : Span) (row scales : List Byte) (lat : Nat) :
    (storeRow f p row scales s).usesSpan p lat = storeRow f p row scales (s.usesSpan p lat) := by
  unfold storeRow
  split
  · rw [usesSpan_spStore]
  · rw [usesSpan_spStore, usesSpan_spStore]

theorem pathLat_storeRow (p : Span) (row scales : List Byte) (n : Nat) :
    (storeRow f p row scales s).pathLat n = s.pathLat n := by
  unfold storeRow
  split
  · rw [pathLat_spStore]
  · rw [pathLat_spStore, pathLat_spStore]

/-- The row is stored, and behind it the scales if there are any. -/
theorem storeRow_stores (hw : Memory.wf s.bun.cur.sp = true) (p : Span) (row scales : List Byte) :
    ∃ u, stores s u f.slot p.ea row ∧ if p.blocks = 0 then storeRow f p row scales s = u
      else stores u (storeRow f p row scales s) f.slot p.scale scales := by
  refine ⟨_, stores_spStore hw f p.ea row, ?_⟩
  unfold storeRow
  split
  · rfl
  · refine stores_spStore ?_ f p.scale scales
    rw [spStore_bun]
    exact wf_spWrite hw p.ea row

theorem storeRow_slotStep (h : SlotStep s u) (p : Span) (row scales : List Byte) : SlotStep s (storeRow f p row scales u) :=
  .branch (h.spStore ..) ((h.spStore ..).spStore ..)

/-- STV's bytes stored, its flags in flight, and A advanced. -/
def landStore (f : Fields) (fm : Forme) (p : Span) (c : RunReg) (u : State) : State :=
  let w := storeRow f p (rowOf fm p c) (scalesOf fm c) u
  ((w.usesSpan p (w.pathLat c.runs)).flagsIn f 0x07 (w.pathLat c.runs) (storeDense fm c).2.2).advance f 0x07 fm c.len

/-- The use of the span may be noted before its bytes are stored. -/
theorem landStore_eq (fm : Forme) (p : Span) (c : RunReg) : landStore f fm p c s =
    ((storeRow f p (rowOf fm p c) (scalesOf fm c) (s.usesSpan p (s.pathLat c.runs))).flagsIn f 0x07 (s.pathLat c.runs)
      (storeDense fm c).2.2).advance f 0x07 fm c.len := by
  simp only [landStore, usesSpan_storeRow, pathLat_storeRow]

/-- STV behind the checks of its span. -/
def storeSpan (f : Fields) (fm : Forme) (p : Span) (c : RunReg) (u : State) : State :=
  u.transfer f c.runs (p.bytes + p.blocks) (landStore f fm p c)

/-- STV of a register. -/
def putRow (f : Fields) (fm : Forme) (s : State) (c : RunReg) : State :=
  behindSpan (s.spanChecks f fm (spanOf fm (opA f s) c.len) true) (storeSpan f fm (spanOf fm (opA f s) c.len) c)

section
variable (hg : guardOf f s = true) (hfree : pathFree f s.bun.cur ≤ s.bun.cur.clk)
include hg hfree

/-- An instruction of a run-memory path that is free does what it does on the path (R161). -/
theorem exec_of_freePath {i : Instr} {body : State → State} (hi : exec i s = onGuard f s fun s => onPath f s body) :
    exec i s = .next (body s) := by
  rw [hi, onGuard_true hg, onPath, if_neg hfree.not_gt]

theorem becomes_fmtmis {i : Instr} {body : Forme → State → State}
    (hi : exec i s = onGuard f s fun s => onPath f s fun s => onForme f s body)
    (h : (formeOf f s).empty = true ∨ (formeOf f s).runpk = true) :
    becomes i s fun b => { b with raised := b.raised ++ addressRaise f s ++ [⟨kFMTMIS, f.slot, 0, 0, 0⟩] } :=
  (exec_of_freePath hg hfree hi).trans (congrArg _ (onForme_refused h body))

variable (he : (formeOf f s).empty = false) (hp : (formeOf f s).runpk = false)
include he hp

theorem exec_ldv (hclear : spanClear s (formeOf f s) (spanOf (formeOf f s) (opA f s) (askedFor f (formeOf f s))) false) :
    exec (.ldv f) s = .next
      (loadSpan f (formeOf f s) (askedFor f (formeOf f s)) (spanOf (formeOf f s) (opA f s) (askedFor f (formeOf f s))) s) := by
  have hx : exec (.ldv f) s = .next (loadRow f (formeOf f s) s (askedFor f (formeOf f s))) :=
    (exec_of_freePath hg hfree rfl).trans <| congrArg _ <| (onForme_taken he hp _).trans <|
      congrArg (loadRow f (formeOf f s) s) (moves_eq_askedFor f (formeOf f s))
  rw [loadRow, spanChecks_of_spanClear hclear] at hx
  exact hx

theorem exec_stv {c : RunReg} (hc : (formeOf f s).carries (s.rdRun (fileOfCode f.slot.file f.sc) f.c.toNat) = c)
    (hclear : spanClear s (formeOf f s) (spanOf (formeOf f s) (opA f s) c.len) true) :
    exec (.stv f) s = .next (storeSpan f (formeOf f s) (spanOf (formeOf f s) (opA f s) c.len) c s) := by
  have hx : exec (.stv f) s = .next (putRow f (formeOf f s) s c) :=
    (exec_of_freePath hg hfree rfl).trans <| congrArg _ <| (onForme_taken he hp _).trans <|
      congrArg (putRow f (formeOf f s) s) hc
  rw [putRow, spanChecks_of_spanClear hclear] at hx
  exact hx

end

/-! ### LDVP and STVP (R132, R133, R164) -/

theorem packedSize_of_loadPacked {hdr : Word} {rd : Nat → Nat → Nat} {r : RunReg} (h : loadPacked hdr rd = .ok r) :
    packedSize rd = 16 + slugBytes r.tag * r.runs := by
  simp only [loadPacked] at h
  split at h
  case isTrue => cases h
  case isFalse hlegal =>
    split at h
    case isTrue => cases h
    case isFalse hcount =>
      split at h
      case isTrue => cases h
      case isFalse =>
        cases h
        have hsize : packedSize rd = 16 + slugBytes (rd 0 16 / 2 ^ 32 % 256) * (rd 0 16 % 256) :=
          if_neg (by rw [Bool.or_eq_true, not_or]; exact ⟨hlegal, by simpa using hcount⟩)
        simpa [RunReg.runs] using hsize

/-- LDVP's result in flight, and A advanced. -/
def landPacked (f : Fields) (a : Nat) (r : RunReg) (u : State) : State :=
  ((u.uses a (a + (16 + slugBytes r.tag * r.runs)) (u.pathLat r.runs)).result f 0x06 (fileOfCode f.slot.file f.sc) f.d.toNat
    (some (u.pathLat r.runs)) (.run r) 0).advancePacked f 0x06 r

/-- STVP's image stored. -/
def storeImage (f : Fields) (a : Nat) (c : RunReg) (u : State) : State :=
  (u.uses a (a + (packRun c).length) (u.pathLat c.runs)).spStore f a (packRun c)

section
variable (hg : guardOf f s = true) (hfree : pathFree f s.bun.cur ≤ s.bun.cur.clk) (hnear : (opA f s).toNat < 2 ^ 21)
  (halign : (opA f s).toNat % 16 = 0)
include hg hfree halign

theorem exec_ldvp {r : RunReg} (hr : loadPacked (opA f s) (fun off n => readN s.bun.pre.sp ((opA f s).toNat + off) n) = .ok r)
    (hend : (opA f s).toNat + 16 + slugBytes r.tag * r.runs ≤ 2 ^ 21)
    (hreads : spReads s (opA f s).toNat ((opA f s).toNat + (16 + slugBytes r.tag * r.runs)) true) :
    exec (.ldvp f) s = .next (s.transfer f r.runs 0 (landPacked f (opA f s).toNat r)) := by
  have hsize := packedSize_of_loadPacked hr
  obtain ⟨⟨hpacked, hchase, hawake⟩, hword⟩ := hreads
  have hchecks := spChecks_of_spOpen (f := f) (reads := !false) (before := true) ⟨hpacked, hchase, hawake⟩ hword
  have hheader : s.bun.cur.spBlocks (opA f s).toNat ((opA f s).toNat + 16) false = false :=
    spBlocks_of_shorter (by omega) hchase hawake
  have hx := exec_of_freePath (i := .ldvp f) hg hfree rfl
  simp only [hr, hsize, hheader, halign, ne_eq, not_true_eq_false, Bool.false_eq_true, if_false] at hx
  rw [if_neg (by omega), if_neg (by omega), hchecks] at hx
  exact hx

include hnear

theorem exec_stvp {marks : List (Nat × Nat)} (c : RunReg) (hc : s.rdRun (fileOfCode f.slot.file f.sc) f.c.toNat = c)
    (hend : (opA f s).toNat + (packRun c).length ≤ 2 ^ 21)
    (hqueue : s.bun.pre.meetsQueue (opA f s).toNat ((opA f s).toNat + (packRun c).length) = false)
    (hmarks : s.bun.cur.marked (opA f s).toNat ((opA f s).toNat + (packRun c).length) = some marks)
    (hclear : spClear s.bun.cur (opA f s).toNat ((opA f s).toNat + (packRun c).length) true true) :
    exec (.stvp f) s = .next (s.transfer f c.runs 0 fun u =>
      ((storeImage f (opA f s).toNat c u).onCur fun k => { k with packed := marks }).advancePacked f 0x08 c) := by
  obtain ⟨hopen, hword⟩ := hclear
  have hchecks := spChecks_of_spOpen (f := f) (reads := false) (before := false) hopen hword
  have hx := exec_of_freePath (i := .stvp f) hg hfree rfl
  have hin : (decide (2 ^ 21 ≤ (opA f s).toNat) || decide (2 ^ 21 < (opA f s).toNat + (packRun c).length)) = false := by
    rw [decide_eq_false hnear.not_ge, decide_eq_false hend.not_gt]; rfl
  simp only [hc, hin, hqueue, hmarks, halign, ne_eq, not_true_eq_false, Bool.false_eq_true, if_false, Bool.not_true] at hx
  rw [hchecks] at hx
  exact hx

end

/-! ### The statement -/

theorem size_of_isRunFile {file : RFile} (h : isRunFile file = true) : file.size = 16 := by
  cases file with
  | v | w => rfl
  | x | y | a | b | e | p => cases h

/-- A run result in D. -/
theorem result_gives_run {file : RFile} (h : isRunFile file = true) (hd : f.d.toNat < 16) (opc lat : Nat) (r : RunReg)
    (fl : FlagSet) (u : State) :
    gives u (u.result f opc file f.d.toNat (some lat) (.run r) fl) f.slot file f.d.toNat (.run r) fl :=
  result_gives u f opc file f.d.toNat (some lat) (.run r) fl (by rwa [size_of_isRunFile h]) h

/-- Settles O26: a forme that is refused raises beside its address; the checks of a span that is clear change nothing, and what
is behind them gives or stores the rows, advances A and occupies the path. -/
theorem runTransfers : Obligations.RunTransfers := by
  intro f s hs hd ha hg hwf hfree fm file c a none_ n cv first wrong clear adv rowStep path got img waited sp put
  refine ⟨fun h => ⟨becomes_fmtmis hg hfree rfl h, becomes_fmtmis hg hfree rfl h⟩, fun he hp hfile hclear hw => ?ldv,
    fun he hp hclear hw => ?stv, fun r hw hnear halign hfile hr hend hreads => ?ldvp,
    fun marks hw hend hnear halign hqueue hmarks hclear => ?stvp⟩
  case ldv =>
    exact ⟨_, _, _, exec_ldv hg hfree he hp hclear, result_gives_run hfile hd ..,
      advance_advancesA hs ha (((SlotStep.refl s).usesSpan ..).result ..) 0x05 fm _, transfer_passed hw _⟩
  case stv =>
    obtain ⟨u, hrow, hscales⟩ := storeRow_stores (f := f) (s := s.usesSpan sp (s.pathLat cv.runs)) (by rwa [usesSpan_sp]) sp
      (rowOf fm sp cv) (scalesOf fm cv)
    obtain ⟨honly, hframe, hsettled, howed⟩ := flagsIn_owed
      (storeRow f sp (rowOf fm sp cv) (scalesOf fm cv) (s.usesSpan sp (s.pathLat cv.runs))) f 0x07 (s.pathLat cv.runs) put.2.2
    have hland := landStore_eq (f := f) (s := s) fm sp cv
    refine ⟨u, _, _, _, _, exec_stv hg hfree he hp (carries_eq ..) hclear, hrow, hscales, honly, hframe, hsettled, howed,
      advance_advancesA hs ha ((storeRow_slotStep ((SlotStep.refl s).usesSpan ..) ..).flagsIn ..) 0x07 fm cv.len, ?_⟩
    rw [← hland]
    exact transfer_passed hw _
  case ldvp =>
    exact ⟨_, _, _, exec_ldvp hg hfree halign hr hend hreads, result_gives_run hfile hd ..,
      advancePacked_advancesA hs ha (((SlotStep.refl s).uses ..).result ..) 0x06 r, transfer_passed hw _⟩
  case stvp =>
    refine ⟨_, _, _, exec_stvp hg hfree hnear halign c rfl hend hqueue hmarks hclear, stores_spStore (uses_wf hwf ..) f _ _,
      advancePacked_advancesA hs ha ((((SlotStep.refl s).uses ..).spStore ..).onCur ?_) 0x08 c, transfer_passed hw _⟩
    exact fun _ => rfl

end Sys2Proof.Proofs
end

section
/-! PROOFS. WAITX and TESTX on a completion object (R184, R228). -/

namespace Sys2Proof.Proofs

open Sys2Proof Sys2Proof.Machine Sys2Proof.Safety Sys2Proof.Laws

variable {f : Fields} {s u w : State} {v : Word} {pa : Nat} {ok : Bool}

/-! ### What a slot's step keeps -/

theorem SlotStep.recording_eq (h : SlotStep s u) : u.bun.cur.recording = s.bun.cur.recording :=
  congrArg (·.2.2.2.2.1.getLsbD 49) h.kept

theorem SlotStep.rd_eq (h : SlotStep s u) : u.rd = s.rd := by
  funext file n
  rw [State.rd, State.rd, h.pre_eq, h.hnd_eq]

/-! ### What WAITX and TESTX find (R184) -/

theorem objTest_iff (eq : Bool) (v target : Word) :
    objTest eq v target = true ↔ if eq then v = target else target.toNat ≤ v.toNat := by
  cases eq with
  | false => exact BitVec.ule_iff_toNat_le
  | true => exact beq_iff_eq

/-- At their object WAITX and TESTX find a value: u is left where the value does not do, w where it does. -/
def Finds (f : Fields) (s : State) (v : Word) (pa : Nat) (u w : State) : Prop :=
  s.object f (s.rd .x f.a.toNat) = (.val v pa 0, u) ∧ u.seenAt (f.i16.getLsbD 0) pa = w

/-- They find none. -/
def FindsNone (f : Fields) (s : State) (pa : Nat) (u : State) : Prop :=
  s.object f (s.rd .x f.a.toNat) = (.none pa, u)

theorem Finds.slotStep (h : Finds f s v pa u w) : SlotStep s u ∧ SlotStep s w := by
  obtain ⟨hx, hw⟩ := h
  have hu : SlotStep s u := by
    have := (SlotStep.refl s).object f (s.rd .x f.a.toNat)
    rwa [hx] at this
  exact ⟨hu, hw ▸ hu.seenAt ..⟩

section Scratchpad
variable (hsp : f.i16.getLsbD 0 = true)
include hsp

theorem findsNone_far (h : 2 ^ 21 ≤ (s.rd .x f.a.toNat).toNat) : FindsNone f s 0 (s.raise f kPROT (s.rd .x f.a.toNat)) := by
  rw [FindsNone, State.object, if_pos hsp, if_pos h]

theorem findsNone_misaligned (h : (s.rd .x f.a.toNat).toNat < 2 ^ 21) (ha : (s.rd .x f.a.toNat).toNat % 8 ≠ 0) :
    FindsNone f s 0 ((s.packedCheck f (s.rd .x f.a.toNat).toNat ((s.rd .x f.a.toNat).toNat + 8)).raise f kUNALIGN
      (s.rd .x f.a.toNat)) := by
  rw [FindsNone, State.object, if_pos hsp, if_neg h.not_ge, if_pos ha]

theorem finds_scratchpad (h : (s.rd .x f.a.toNat).toNat < 2 ^ 21) (ha : (s.rd .x f.a.toNat).toNat % 8 = 0)
    (hc : spClear s.bun.cur (s.rd .x f.a.toNat).toNat ((s.rd .x f.a.toNat).toNat + 8) false false)
    (hs : s.bun.stall = false) :
    Finds f s (BitVec.ofNat 64 (readN s.bun.cur.sp (s.rd .x f.a.toNat).toNat 8)) 0 s s := by
  have hk : s.spChecks f (s.rd .x f.a.toNat).toNat ((s.rd .x f.a.toNat).toNat + 8) false = s := spChecks_of_clear hc hc.2
  refine ⟨?_, if_pos hsp⟩
  rw [State.object, if_pos hsp, if_neg h.not_ge, if_neg (not_not_intro ha)]
  simp only [hk, hs, Bool.false_eq_true, if_false]

end Scratchpad

/-- An object in global memory whose page is translated and which may be read now (R228, R230). -/
theorem finds_global {e : TlbEntry} {bs : List Byte} (hsp : f.i16.getLsbD 0 = false)
    (h : (s.rd .x f.a.toNat).toNat < 2 ^ 56) (ha : (s.rd .x f.a.toNat).toNat % 8 = 0)
    (hx : s.access f (s.rd .x f.a.toNat) accLoad = (some (e, pa), s.lookedUp e))
    (hr : s.mayRead s.bun.cur s.bun.first pa 8 = true) (hd : s.drainBefore s.bun.core s.bun.hnd pa = false)
    (hp : s.homePaused pa = false) (hb : s.dataRead pa 8 e.subst true = .ok (bs, 0)) :
    Finds f s (BitVec.ofNat 64 (bytesToNat bs)) pa (s.lookedUp e) ((s.lookedUp e).post (.seen pa)) := by
  have hl := lookedUp_bun s e
  have hopen : (!((s.lookedUp e).mayRead (s.lookedUp e).bun.cur (s.lookedUp e).bun.first pa 8)
      || (s.lookedUp e).drainBefore (s.lookedUp e).bun.core (s.lookedUp e).bun.hnd pa || (s.lookedUp e).homePaused pa) = false := by
    rw [hl, Bool.or_eq_false_iff, Bool.or_eq_false_iff, Bool.not_eq_false']
    exact ⟨⟨hr, hd⟩, hp⟩
  have hread : (s.lookedUp e).dataRead pa 8 e.subst true = .ok (bs, 0) := by rw [hl]; exact hb
  have hsp := ne_true_of_eq_false hsp
  refine ⟨?_, if_neg hsp⟩
  rw [State.object, if_neg hsp, if_neg h.not_ge, if_neg (not_not_intro ha)]
  simp only [hx, hopen, hread, Bool.false_eq_true, if_false]

/-! ### WAITX -/

theorem exec_waitx_val (hg : guardOf f s = true) (hn : s.bun.answer = none) (h : Finds f s v pa u w) :
    exec (.waitx f) s = .next (if objTest f.v v (s.rd .x f.b.toNat) then w.post (.acquire f.sc.toNat)
      else u.holds (.waitx (f.i16.getLsbD 0) (s.rd .x f.a.toNat) pa (s.rd .x f.b.toNat) f.v)) := by
  obtain ⟨hx, rfl⟩ := h
  refine congrArg _ ((if_pos hg).trans ?_)
  simp only [opXA, hn, hx]
  rfl

theorem exec_waitx_none (hg : guardOf f s = true) (hn : s.bun.answer = none) (h : FindsNone f s pa u) :
    exec (.waitx f) s = .next (if u.lost f then u
      else u.holds (.waitx (f.i16.getLsbD 0) (s.rd .x f.a.toNat) pa (s.rd .x f.b.toNat) f.v)) := by
  rw [FindsNone] at h
  refine congrArg _ ((if_pos hg).trans ?_)
  simp only [opXA, hn, h]
  rfl

/-- WAITX at an illegal object raises; whether it also holds its bundle is left open, for the raise comes first. -/
theorem waitx_raises (hg : guardOf f s = true) (hn : s.bun.answer = none) {more : List Raise}
    (h : FindsNone f s pa { s with bun := { s.bun with raised := s.bun.raised ++ more } }) :
    ∃ x, becomes (.waitx f) s fun b => { b with raised := b.raised ++ more, hold := x } := by
  have hw := exec_waitx_none hg hn h
  split at hw
  · exact ⟨s.bun.hold, hw⟩
  · exact ⟨_, hw⟩

/-! ### TESTX -/

/-- A predicate that is logged as a word is read back from it. -/
theorem getLsbD_b2w (b : Bool) : (b2w b).getLsbD 0 = b := by cases b <;> rfl

theorem exec_testx_val (hg : guardOf f s = true) (hr : s.bun.cur.recording = false) (h : Finds f s v pa u w)
    (hok : objTest f.v v (s.rd .x f.b.toNat) = ok) :
    exec (.testx f) s = .next ((if ok then w.post (.acquire f.sc.toNat) else w).setP f.d.toNat ok) := by
  obtain ⟨hu, hw⟩ := h.slotStep
  have hlog := logOp_live (hw.recording_eq.trans hr) evPred [b2w ok]
  obtain ⟨hx, rfl⟩ := h
  rw [← hu.rd_eq] at hok
  refine congrArg _ ((if_pos hg).trans ?_)
  simp only [opXA, opXB, hx, hok, State.countSubst, if_true, hlog, List.headD_cons, getLsbD_b2w, Bool.and_not_self,
    Bool.false_eq_true, if_false]

/-- TESTX where it finds a value: D holds what the test says, and a test that holds is an acquire. -/
theorem testx_sets (hg : guardOf f s = true) (hr : s.bun.cur.recording = false) (h : Finds f s v pa u w) (hd : f.d.toNat < 16)
    (hok : objTest f.v v (s.rd .x f.b.toNat) = ok) :
    ∃ t, exec (.testx f) s = .next t ∧ onlyCur (if ok then w.post (.acquire f.sc.toNat) else w) t
      ∧ coreSets w.bun.cur t.bun.cur s.bun.hnd f.d.toNat ok := by
  refine ⟨_, exec_testx_val hg hr h hok, rfl, ?_⟩
  rw [← h.slotStep.2.hnd_eq]
  cases ok <;> exact setPred_sets _ _ _ _ hd

/-- Settles O21: an illegal object raises; where a value is found, the test decides. -/
theorem completionObjects : Obligations.CompletionObjects := by
  intro f s hg hr hn sp a target v met traps wait packed tests
  refine ⟨fun hsp h => waitx_raises hg hn (findsNone_far hsp h), fun hsp h ha => waitx_raises hg hn (pa := 0) ?misaligned,
    fun e pa bs hsp h ha hx hok hc hm hd hp hb => ?global, fun hsp h ha hc hs => ?scratchpad⟩
  case misaligned =>
    have hf := findsNone_misaligned hsp h ha
    rw [packedCheck_eq] at hf
    simpa only [State.raise, packedRaise, List.append_assoc] using hf
  case global =>
    intro val got u w
    have hsp : f.i16.getLsbD 0 = false := hsp
    have hf : Finds f s val pa u w := finds_global hsp h ha (access_ok hx hok hc) hm hd hp hb
    have htest : objTest f.v val target = true ↔ got := objTest_iff ..
    have hw := exec_waitx_val hg hn hf
    refine ⟨fun hgot => hw.trans (congrArg _ (if_pos (htest.mpr hgot))), fun hgot => ?_,
      fun hD ok hiff => testx_sets hg hr hf hD (Bool.eq_iff_iff.mpr (htest.trans hiff.symm))⟩
    rw [hw, if_neg (mt htest.mp hgot), hsp]
  case scratchpad =>
    have hf : Finds f s v 0 s s := finds_scratchpad hsp h ha hc hs
    have htest : objTest f.v v target = true ↔ met := objTest_iff ..
    have hw := exec_waitx_val hg hn hf
    exact ⟨fun hmet => hw.trans (congrArg _ (if_pos (htest.mpr hmet))),
      fun hmet => waitsFor_holds (hw.trans (congrArg _ (if_neg (mt htest.mp hmet)))),
      fun hD ok hiff => testx_sets hg hr hf hD (Bool.eq_iff_iff.mpr (htest.trans hiff.symm))⟩

end Sys2Proof.Proofs
end

section
/-! PROOFS. Barriers, deques and ENQ in a bundle (R178 to R183, R187, R239). -/

namespace Sys2Proof.Proofs

open Sys2Proof Sys2Proof.Machine Sys2Proof.Safety Sys2Proof.Laws

variable {f : Fields} {s u : State} {v : Word} {ok : Bool}

/-- Where no access is still to perform, every release is made (R230). -/
theorem released_of_none (h : s.bun.cur.gacc = []) (scope : Nat) : s.released scope = true := by
  rw [State.released, Bun.earlier, h]; rfl

/-! ### Barriers (R178 to R180) -/

/-- An acquire at the scope of the core's gang (R180, R239). -/
def gangAcquired (s : State) : State := s.post (.acquire s.bun.cur.gangScope)

theorem onTag_beyond (h : s.bun.pre.gangTags ≤ barTag f) (body : State → State) :
    onTag f s body = s.raise f kILLB 0 0xB := if_pos h

theorem onTag_within (h : barTag f < s.bun.pre.gangTags) (body : State → State) : onTag f s body = body s := if_neg h.not_ge

section
variable (hg : guardOf f s = true)
include hg

theorem exec_bara : exec (.bara f) s = .next (onTag f s fun s =>
    if s.bun.cur.arr.getLsbD (barTag f) then s.holds (.bara (barTag f))
    else if !(s.released s.bun.cur.gangScope) then s.holds (.release s.bun.cur.gangScope)
    else (if s.bun.was.contains (.bara (barTag f)) then gangAcquired s else s).onCur fun c =>
      { c with arr := c.arr ||| (1#8 <<< barTag f) }) := congrArg _ (if_pos hg)
theorem exec_barw : exec (.barw f) s = .next (onTag f s fun s =>
    if s.bun.cur.arr.getLsbD (barTag f) then s.holds (.barw (barTag f)) else gangAcquired s) := congrArg _ (if_pos hg)
theorem exec_bars : exec (.bars f) s = .next (onTag f s fun s =>
    if s.bun.cur.arr.getLsbD (barTag f) then s.holds (.bars (barTag f))
    else if s.bun.was.contains (.bars (barTag f)) then gangAcquired s
    else if !(s.released s.bun.cur.gangScope) then s.holds (.release s.bun.cur.gangScope)
    else s.holds (.bars (barTag f))) := congrArg _ (if_pos hg)

end

/-- Settles O22: a tag of the gang leads to the instruction's own case, by ARR and by what the bundle was held for. -/
theorem barriers : Obligations.Barriers := by
  intro f s hg t tags arrived hold joined bad
  refine ⟨fun h => ?beyond, fun h ha => ?held, fun h ha => ?barw, fun h ha hw => ?bars, fun h ha hn => ?arrives⟩
  case beyond =>
    exact ⟨(exec_bara hg).trans (congrArg _ (onTag_beyond h _)), (exec_barw hg).trans (congrArg _ (onTag_beyond h _)),
      (exec_bars hg).trans (congrArg _ (onTag_beyond h _))⟩
  all_goals have hbody := onTag_within (f := f) (s := s) h
  case held =>
    have ha : s.bun.cur.arr.getLsbD (barTag f) = true := ha
    exact ⟨waitsFor_holds (by rw [exec_bara hg, hbody, if_pos ha]; rfl), waitsFor_holds (by rw [exec_barw hg, hbody, if_pos ha]; rfl),
      waitsFor_holds (by rw [exec_bars hg, hbody, if_pos ha]; rfl)⟩
  all_goals have ha : ¬s.bun.cur.arr.getLsbD (barTag f) = true := ne_true_of_eq_false ha
  case barw => rw [exec_barw hg, hbody, if_neg ha]; rfl
  case bars =>
    have hw : s.bun.was.contains (.bars (barTag f)) = true := List.contains_iff_mem.mpr hw
    rw [exec_bars hg, hbody, if_neg ha, if_pos hw]
    rfl
  case arrives =>
    have hr : ¬(!s.released s.bun.cur.gangScope) = true := by rw [released_of_none hn]; exact Bool.false_ne_true
    refine ⟨?_, fun hw => waitsFor_holds ?_⟩
    · rw [exec_bara hg, hbody, if_neg ha, if_neg hr]
      simp only [List.contains_iff_mem]
      rfl
    · have hw : ¬s.bun.was.contains (.bars (barTag f)) = true := mt List.contains_iff_mem.mp hw
      rw [exec_bars hg, hbody, if_neg ha, if_neg hw, if_neg hr]
      rfl

/-! ### Deques (R182, R239) -/

theorem psOf_lt (f : Fields) : psOf f < 16 := Nat.mod_lt _ (by decide)

theorem exec_dqpush_room (hg : guardOf f s = true) (hr : s.bun.cur.recording = false) (h : s.bun.cur.deque.length < 64)
    (hn : s.bun.cur.gacc = []) : exec (.dqpush f) s =
      .next ((s.onCur fun c => { c with deque := c.deque ++ [s.rd .x f.a.toNat] }).setP (psOf f) true) := by
  refine congrArg _ ((if_pos hg).trans ?_)
  have hlog := logOp_live (s := s.onCur fun c => { c with deque := c.deque ++ [opXA f s] }) hr evDeque [b2w true]
  simp only [h, released_of_none hn, decide_true, Bool.not_true, Bool.and_false, Bool.false_eq_true, if_true, if_false, hlog,
    List.headD_cons, getLsbD_b2w]
  rfl

theorem exec_dqpush_full (hg : guardOf f s = true) (hr : s.bun.cur.recording = false) (h : 64 ≤ s.bun.cur.deque.length) :
    exec (.dqpush f) s = .next (s.setP (psOf f) false) := by
  refine congrArg _ ((if_pos hg).trans ?_)
  simp only [h.not_gt, decide_false, Bool.false_and, Bool.false_eq_true, if_false, logOp_live hr, List.headD_cons, getLsbD_b2w]

/-- Outside RECORD mode a pop or a steal writes its value and its predicate. -/
theorem dequeResult_live (hr : u.bun.cur.recording = false) (opc : Nat) :
    u.dequeResult f opc ok v = (writeX f opc 2 v u).setP (psOf f) ok := by
  simp only [State.dequeResult, logOp_live hr, List.getD_cons_succ, List.getD_cons_zero, List.headD_cons, getLsbD_b2w]

/-- An instruction that ends in the result of a pop or a steal gives D the value and sets its predicate. -/
theorem gives_dequeResult {i : Instr} {opc : Nat} (hi : exec i s = .next (u.dequeResult f opc ok v)) (hu : SlotStep s u)
    (hr : s.bun.cur.recording = false) :
    ∃ w t, exec i s = .next t ∧ gives u w f.slot .x f.d.toNat (.word v) 0 ∧ onlyCur w t
      ∧ coreSets w.bun.cur t.bun.cur s.bun.hnd (psOf f) ok := by
  rw [dequeResult_live (hu.recording_eq.trans hr)] at hi
  refine ⟨_, _, hi, gives_writeX .., rfl, ?_⟩
  rw [← hu.hnd_eq]
  exact setPred_sets _ _ _ _ (psOf_lt f)

theorem exec_dqpop_some {rest : List Word} (hg : guardOf f s = true) (h : s.bun.cur.deque = rest ++ [v]) :
    exec (.dqpop f) s =
      .next (((gangAcquired s).onCur fun c => { c with deque := rest }).dequeResult f 0x1F true v) := by
  refine congrArg _ ((if_pos hg).trans ?_)
  simp only [h, List.getLast?_concat, State.onCur, List.dropLast_concat]
  rfl

theorem exec_dqpop_none (hg : guardOf f s = true) (h : s.bun.cur.deque = []) :
    exec (.dqpop f) s = .next (s.dequeResult f 0x1F false 0) := by
  refine congrArg _ ((if_pos hg).trans ?_)
  simp only [h, List.getLast?_nil]

theorem onMember_beyond (h : s.bun.pre.gangSize ≤ (s.rd .x f.a.toNat).toNat) (body : Nat → State → State) :
    onMember f s body = s.raise f kILLB 0 0xB := if_pos h

theorem onMember_within (h : (s.rd .x f.a.toNat).toNat < s.bun.pre.gangSize) (body : Nat → State → State) :
    onMember f s body = body (s.rd .x f.a.toNat).toNat s := if_neg h.not_ge

section
variable (hg : guardOf f s = true) (h : (s.rd .x f.a.toNat).toNat < s.bun.pre.gangSize)
include hg h

theorem exec_dqsteal_asks (hn : s.bun.answer = none) :
    exec (.dqsteal f) s = .next (s.holds (.steal (s.rd .x f.a.toNat).toNat)) := by
  refine congrArg _ ((if_pos hg).trans ((onMember_within h _).trans ?_))
  simp only [hn]

theorem exec_dqsteal_answered (hn : s.bun.answer = some (v, ok)) :
    exec (.dqsteal f) s = .next ((if ok then gangAcquired s else s).dequeResult f 0x20 ok v) := by
  refine congrArg _ ((if_pos hg).trans ((onMember_within h _).trans ?_))
  simp only [hn]
  rfl

theorem exec_dqcnt_own (hr : s.bun.cur.recording = false) (hm : (s.rd .x f.a.toNat).toNat = s.bun.pre.member) :
    exec (.dqcnt f) s = .next (writeX f 0x21 2 (BitVec.ofNat 64 s.bun.cur.deque.length) s) :=
  congrArg _ ((if_pos hg).trans ((onMember_within h _).trans ((if_pos hm).trans (readLogged_live hr ..))))

theorem exec_dqcnt_other (hm : (s.rd .x f.a.toNat).toNat ≠ s.bun.pre.member) :
    exec (.dqcnt f) s = .next (s.asks f 0x21 .x (.dqcnt (s.rd .x f.a.toNat).toNat)) :=
  congrArg _ ((if_pos hg).trans ((onMember_within h _).trans (if_neg hm)))

end

/-! ### ENQ (R187) -/

/-- What a bundle raises where its record may not stand at an offset. -/
def recordRaise (f : Fields) (off : Word) : List Raise :=
  if off.toNat % 128 = 0 ∧ off.toNat < 2 ^ 21 then [] else [⟨kPROT, f.slot, off, 0, 0⟩]

/-- The bundle behind the check of its record's offset. -/
def offsetChecked (f : Fields) (s : State) : State :=
  { s with bun := { s.bun with raised := s.bun.raised ++ recordRaise f (s.rd .x f.b.toNat) } }

/-- An ENQ that has passed its checks: its bundle is held for the accesses before it and then for the append, whose answer it
writes. -/
def enqAppends (f : Fields) (s : State) : State :=
  match s.bun.answer with
  | some (_, ok) => ((s.logOp evPred [b2w ok]).2).setP (psOf f) (((s.logOp evPred [b2w ok]).1.headD 0).getLsbD 0)
  | none =>
    let u := s.spChecks f (s.rd .x f.b.toNat).toNat ((s.rd .x f.b.toNat).toNat + 128) false (before := true)
    if u.bun.stall then u else if !(u.released 2) then u.holds (.release 2)
    else u.holds (.enq (s.rd .x f.a.toNat).toNat (s.rd .x f.b.toNat).toNat)

theorem misplaced_iff (off : Word) : (decide (off.toNat % 128 ≠ 0) || decide (2 ^ 21 ≤ off.toNat)) = true ↔
    ¬(off.toNat % 128 = 0 ∧ off.toNat < 2 ^ 21) := by
  rw [Bool.or_eq_true, decide_eq_true_eq, decide_eq_true_eq]
  omega

theorem exec_enq (hg : guardOf f s = true) : exec (.enq f) s = .next (
    let q := s.rd .x f.a.toNat
    let off := s.rd .x f.b.toNat
    if 2 ^ 13 ≤ q.toNat then (offsetChecked f s).raise f kPROT q
    else if (s.queueOf q.toNat).ctx ≠ s.bun.pre.ctx ∨ !(s.hasQueue s.bun.pre.vfOf q.toNat) then
      (offsetChecked f s).raise f kOWN q
    else if (s.queueOf q.toNat).sok && !s.bun.pre.modeS then (offsetChecked f s).raise f kPRIV
    else if off.toNat % 128 = 0 ∧ off.toNat < 2 ^ 21 then enqAppends f s else offsetChecked f s) := by
  refine congrArg _ ((if_pos hg).trans ?_)
  by_cases hp : (s.rd .x f.b.toNat).toNat % 128 = 0 ∧ (s.rd .x f.b.toNat).toNat < 2 ^ 21
  · have hs : offsetChecked f s = s := by simp only [offsetChecked, recordRaise, if_pos hp, List.append_nil]
    have hb := Bool.eq_false_iff.mpr (mt (misplaced_iff (opXB f s)).mp (not_not_intro hp))
    simp only [hb, hs, if_pos hp]
    rfl
  · have hs : offsetChecked f s = s.raise f kPROT (s.rd .x f.b.toNat) := by
      simp only [offsetChecked, recordRaise, if_neg hp]; rfl
    have hb := (misplaced_iff (opXB f s)).mpr hp
    simp only [hb, hs, if_neg hp]
    rfl

theorem enqAppends_answered (hr : s.bun.cur.recording = false) (hn : s.bun.answer = some (v, ok)) :
    enqAppends f s = s.setP (psOf f) ok := by
  simp only [enqAppends, hn, logOp_live hr, List.headD_cons, getLsbD_b2w]

theorem enqAppends_waits (hn : s.bun.answer = none)
    (hc : spReads s (s.rd .x f.b.toNat).toNat ((s.rd .x f.b.toNat).toNat + 128) false) (hs : s.bun.stall = false)
    (ha : s.bun.cur.gacc = []) :
    enqAppends f s = s.holds (.enq (s.rd .x f.a.toNat).toNat (s.rd .x f.b.toNat).toNat) := by
  simp only [enqAppends, hn, spChecks_of_spReads hc, hs, released_of_none ha, Bool.not_true, Bool.false_eq_true, if_false]

/-- Settles O23: the deque instructions and ENQ by their equations, outside RECORD mode. -/
theorem dequesAndEnq : Obligations.DequesAndEnq := by
  refine ⟨fun f s hg hr => ?deques, fun f s hg hr => ?enq⟩
  case deques =>
    intro p v d joined both size
    refine ⟨fun h hn => ⟨_, exec_dqpush_room hg hr h hn, rfl, setPred_sets _ _ _ _ (psOf_lt f)⟩,
      fun h => setsPred_setP (exec_dqpush_full hg hr h) (psOf_lt f), fun w rest h => ?_, fun h => ?_, fun h => ?_,
      fun h hn => waitsFor_holds (exec_dqsteal_asks hg h hn), fun w ok h hn => ?_,
      fun h hm => yields_writeX (exec_dqcnt_own hg h hr hm),
      fun h hm => ⟨_, exec_dqcnt_other hg h hm, asks_spec _ _ _ _ _ f.d.isLt rfl⟩⟩
    · exact gives_dequeResult (exec_dqpop_some hg h) (((SlotStep.refl s).posts _).onCur fun _ => rfl) hr
    · exact gives_dequeResult (exec_dqpop_none hg h) (.refl s) hr
    · exact congrArg _ ((if_pos hg).trans (onMember_beyond h _))
    · exact gives_dequeResult (exec_dqsteal_answered hg h hn) (((SlotStep.refl s).posts _).branch (.refl s)) hr
  case enq =>
    intro q off placed bad raise mine may
    have hx := exec_enq hg
    have hown : ((s.queueOf q.toNat).ctx ≠ s.bun.pre.ctx ∨ (!s.hasQueue s.bun.pre.vfOf q.toNat) = true) ↔ ¬mine := by
      rw [Bool.not_eq_true', ← Bool.not_eq_true, ← not_and_or]
    have hpriv : ((s.queueOf q.toNat).sok && !s.bun.pre.modeS) = true ↔ ¬may := by
      rw [Bool.and_eq_true, Bool.not_eq_true', ← Bool.not_eq_true, ← Bool.not_eq_false, ← not_or]
    have passed (hq : q.toNat < 2 ^ 13) (hm : mine) (hy : may) :
        exec (.enq f) s = .next (if placed then enqAppends f s else offsetChecked f s) := by
      rw [hx]
      dsimp only
      rw [if_neg hq.not_ge, if_neg (mt hown.mp (not_not_intro hm)), if_neg (mt hpriv.mp (not_not_intro hy))]
    refine ⟨fun hq => hx.trans (congrArg _ (if_pos hq)),
      fun hq hm => hx.trans (congrArg _ ((if_neg hq.not_ge).trans (if_pos (hown.mpr hm)))),
      fun hq hm hy => hx.trans (congrArg _ ((if_neg hq.not_ge).trans
        ((if_neg (mt hown.mp (not_not_intro hm))).trans (if_pos (hpriv.mpr hy))))),
      fun hp hq hm hy => (passed hq hm hy).trans (congrArg _ (if_neg hp)), fun hp hq hm hy => ?_⟩
    have happ := (passed hq hm hy).trans (congrArg _ (if_pos hp))
    exact ⟨fun w ok hn => setsPred_setP (happ.trans (congrArg _ (enqAppends_answered hr hn))) (psOf_lt f),
      fun hn hc hs ha => waitsFor_holds (happ.trans (congrArg _ (enqAppends_waits hn hc hs ha)))⟩

end Sys2Proof.Proofs
end

section
/-! PROOFS. The port of a deque, which serves one steal after the other, and the answer of an ENQ (R181 to R183, R187, R189,
R190). -/

namespace Sys2Proof.Proofs

open Sys2Proof Sys2Proof.Machine Sys2Proof.Safety Sys2Proof.Laws

variable {s u : State} {core : Nat}

/-- An event that comes about. -/
theorem happens_of_some {i : Instr} {o : Option State} {t : State} (hi : exec i s = .next (o.getD s)) (ho : o = some t) :
    happens i s t := by
  rw [happens, hi, ho, Option.getD_some]

/-! ### The order at a port (R183) -/

theorem before_iff (a b : DqReq) : a.before b = true ↔ a.tick.toNat < b.tick.toNat
    ∨ a.tick = b.tick ∧ (a.clk < b.clk ∨ a.clk = b.clk ∧ a.member < b.member) := by
  simp only [DqReq.before, BitVec.ult, Bool.or_eq_true, Bool.and_eq_true, decide_eq_true_eq, beq_iff_eq]

theorem before_asymm {a b : DqReq} (h : a.before b = true) : b.before a = false := by
  rw [Bool.eq_false_iff, ne_eq, before_iff]
  rw [before_iff, ← BitVec.toNat_inj] at h
  rw [← BitVec.toNat_inj]
  omega

theorem firstReq_mem {l : List DqReq} {x : DqReq} (h : firstReq l = some x) : x ∈ l := by
  induction l generalizing x with
  | nil => cases h
  | cons r rs ih =>
    unfold firstReq at h
    split at h
    · cases h; exact List.mem_cons_self
    · rename_i y hy
      split at h <;> cases h
      · exact List.mem_cons_of_mem _ (ih hy)
      · exact List.mem_cons_self

/-- A request that stands before every other one is the first. -/
theorem firstReq_eq {l : List DqReq} {q : DqReq} (hq : q ∈ l) (h : ∀ r ∈ l, r ≠ q → q.before r = true) :
    firstReq l = some q := by
  induction l with
  | nil => cases hq
  | cons r rs ih =>
    have hrs : ∀ x ∈ rs, x ≠ q → q.before x = true := fun x hx => h x (List.mem_cons_of_mem _ hx)
    unfold firstReq
    by_cases hr : r = q
    · subst hr
      split
      · rfl
      · rename_i x hx
        by_cases hxr : x = r
        · rw [hxr, ite_self]
        · rw [before_asymm (hrs x (firstReq_mem hx) hxr), if_neg Bool.false_ne_true]
    · rw [ih ((List.mem_cons.mp hq).resolve_left (Ne.symm hr)) hrs]
      exact if_pos (h r List.mem_cons_self hr)

theorem atPort_iff (s : State) (core : Nat) (q : DqReq) : s.atPort core q = true ↔ s.islandHeld core = false ∧ q.owner = core
    ∧ (q.tick.toNat < s.sys.tick.toNat ∨ q.tick = s.sys.tick ∧ q.clk < (s.coreOf core).clk) ∧ s.pathOpen q.asker core = true := by
  simp only [State.atPort, BitVec.ult, Bool.and_eq_true, Bool.or_eq_true, Bool.not_eq_true', decide_eq_true_eq, beq_iff_eq]
  tauto

/-! ### A steal served (R182) -/

/-- Whether a bundle held waits for a steal that a port has not answered yet. -/
def stealing (q : DqReq) (h : Held) : Bool :=
  h.core == q.asker && h.hnd == q.hnd && (match h.hold with
    | .steal _ => h.answer.isNone
    | _ => false)

theorem stealing_iff (q : DqReq) (h : Held) :
    stealing q h = true ↔ h.core = q.asker ∧ h.hnd = q.hnd ∧ (∃ m, h.hold = .steal m) ∧ h.answer = none := by
  rw [stealing, Bool.and_eq_true, Bool.and_eq_true, beq_iff_eq, beq_iff_eq, and_assoc]
  refine and_congr_right fun _ => and_congr_right fun _ => ?_
  cases h.hold <;> simp

/-- What a port answers: the top entry, or none. -/
def topOf (c : Core) : Word × Bool :=
  match c.deque with
  | v :: _ => (v, true)
  | [] => (0, false)

/-- A bundle held, with the answer if it waits for this steal. -/
def stealTold (q : DqReq) (ans : Word × Bool) (h : Held) : Held :=
  if stealing q h then { h with answer := some ans } else h

theorem tryDequePortRequest_first {q : DqReq} (h : firstReq (s.sys.dqReqs.filter (s.atPort core)) = some q) :
    tryDequePortRequest core s = some { s with
      held := s.held.map (stealTold q (topOf (s.coreOf core))), sys := { s.sys with dqReqs := s.sys.dqReqs.erase q },
      cores := mput s.cores core { s.coreOf core with deque := (s.coreOf core).deque.drop 1 } } := by
  rw [tryDequePortRequest, h]
  rfl

/-! ### The answer of an ENQ (R187, R189, R190) -/

/-- Whether a bundle of a core held waits for its append. -/
def appending (core : Nat) (h : Held) : Bool :=
  h.core == core && h.answer.isNone && (match h.hold with
    | .enq _ _ => true
    | _ => false)

/-- A bundle held, with the answer if it is the sequencer's that waits for its append. -/
def appendTold (core : Nat) (hnd ok : Bool) (h : Held) : Held :=
  if appending core h && h.hnd == hnd then { h with answer := some (b2w ok, ok) } else h

/-- An ENQ is answered, and its core has a turn. -/
def enqTold (core : Nat) (h : Held) (ok : Bool) (u : State) : State :=
  ({ u with held := u.held.map (appendTold core h.hnd ok) }).pushTurn core

/-- The TAIL of a queue moved by one slot. -/
def tailMoved (k : Nat) (u : State) : State := u.onQueue k fun q => q.advance ((q.tail + 1) % q.nrec)

theorem queueOf_tailMoved (k : Nat) (u : State) (j : Nat) : (tailMoved k u).queueOf j =
    if k = j then (u.queueOf k).advance (((u.queueOf k).tail + 1) % (u.queueOf k).nrec) else u.queueOf j := queueOf_onQueue ..

/-- TAIL moves behind a record that has been written, and the ENQ is answered. -/
def appendDone (core k : Nat) (h : Held) : Except Nat Unit × State → State
  | (.error _, u) => enqTold core h false u
  | (.ok _, u) => enqTold core h true (tailMoved k u)

theorem tryEnqAnswer_eq {h : Held} {k off : Nat} (hf : s.held.find? (appending core) = some h) (hh : h.hold = .enq k off) :
    tryEnqAnswer core s =
      if !(s.queueOf k).takes then some (enqTold core h false s)
      else if s.rangePaused (s.queueOf k).ctx ((s.queueOf k).ring.toNat + 128 * (s.queueOf k).tail) 128 then none
      else some (appendDone core k h (s.gWrite (.core core) (s.queueOf k).ctx
        ((s.queueOf k).ring.toNat + 128 * (s.queueOf k).tail) (readBytes h.pre.sp off 128) accStore (!h.pre.modeS) false)) := by
  unfold tryEnqAnswer
  dsimp only
  split
  case h_1 hb => exact absurd (hf.symm.trans hb) nofun
  case h_2 b hb =>
    cases Option.some.inj (hf.symm.trans hb)
    simp only [hh]
    rcases s.gWrite (.core core) (s.queueOf k).ctx ((s.queueOf k).ring.toNat + 128 * (s.queueOf k).tail)
      (readBytes h.pre.sp off 128) accStore (!h.pre.modeS) false with ⟨_ | _, u⟩ <;> rfl

/-- The next slot of a ring is another one, unless the ring has but one. -/
theorem tail_ne_next {n t : Nat} (h : n ≠ 1) : t ≠ (t + 1) % n := fun ht => by
  have hmod : t ≡ t + 1 [MOD n] := (congrArg (· % n) ht).trans (Nat.mod_mod _ _)
  have hdvd : n ∣ t + 1 - t := (Nat.modEq_iff_dvd' (Nat.le_succ t)).mp hmod
  rw [Nat.add_sub_cancel_left, Nat.dvd_one] at hdvd
  exact h hdvd

/-- An append to a ring of several slots moves TAIL to the next slot and readies an idle queue (R190). -/
theorem advance_next (q : Queue) (h : q.nrec ≠ 1) :
    (q.advance ((q.tail + 1) % q.nrec)).tail = (q.tail + 1) % q.nrec
      ∧ (q.advance ((q.tail + 1) % q.nrec)).state = if q.state = .idle then .ready else q.state := by
  rw [Queue.advance, if_neg (tail_ne_next h)]
  split <;> exact ⟨rfl, rfl⟩

theorem Accessed.held (h : Accessed s u) : u.held = s.held := congrArg (·.held) h

theorem not_appending {x : Held} (hx : x.core ≠ core) : appending core x = false := by
  rw [appending, beq_eq_false_iff_ne.mpr hx]; rfl

theorem map_appendTold {l : List Held} (hl : ∀ x ∈ l, x.core ≠ core) (hnd ok : Bool) :
    l.map (appendTold core hnd ok) = l := by
  refine (List.map_congr_left fun x hx => ?_).trans (List.map_id l)
  rw [appendTold, not_appending (hl x hx)]
  rfl

section
variable {h : Held} {k off : Nat} {pre post : List Held} (hcore : h.core = core) (hanswer : h.answer = none)
  (hhold : h.hold = .enq k off)
include hcore hanswer hhold

theorem appending_self : appending core h = true := by
  rw [appending, hcore, hanswer, hhold, beq_self_eq_true]; rfl

variable (hothers : ∀ x ∈ pre ++ post, x.core ≠ core)
include hothers

theorem find_appending : (pre ++ h :: post).find? (appending core) = some h := by
  refine List.find?_eq_some_iff_append.mpr ⟨appending_self hcore hanswer hhold, pre, post, rfl, fun x hx => ?_⟩
  rw [not_appending (hothers x (List.mem_append_left _ hx))]
  rfl

/-- The one bundle of the core that is held has its answer, and no other changes. -/
theorem enqTold_eq (hheld : u.held = pre ++ h :: post) (ok : Bool) : enqTold core h ok u =
    turnNext { u with held := pre ++ { h with answer := some (if ok then 1 else 0, ok) } :: post } core := by
  have hself : appendTold core h.hnd ok h = { h with answer := some (if ok then 1 else 0, ok) } := by
    rw [appendTold, appending_self hcore hanswer hhold, beq_self_eq_true]; rfl
  rw [enqTold, hheld, List.map_append, List.map_cons, hself,
    map_appendTold fun x hx => hothers x (List.mem_append_left _ hx),
    map_appendTold fun x hx => hothers x (List.mem_append_right _ hx)]
  rfl

end

/-- Settles O38: the request that stands first is the one served; an ENQ is answered by its queue and by the write. -/
theorem dequePortAndEnq : Obligations.DequePortAndEnq := by
  intro core s steals c there
  refine ⟨fun q hq hthere hi hfirst => ?port, fun h k off pre post hheld hcore hans hhold hothers => ?enq⟩
  case port =>
    have hone : firstReq (s.sys.dqReqs.filter (s.atPort core)) = some q := by
      refine firstReq_eq (List.mem_filter.mpr ⟨hq, (atPort_iff ..).mpr ⟨hi, hthere⟩⟩) fun r hr hne => ?_
      obtain ⟨hmem, hat⟩ := List.mem_filter.mp hr
      exact (before_iff q r).mpr (hfirst r hmem ((atPort_iff ..).mp hat).2 hne)
    refine ⟨_, happens_of_some rfl (tryDequePortRequest_first hone), rfl, List.length_map _, fun i h hh => ?_⟩
    have htold : (s.held.map (stealTold q (topOf (s.coreOf core))))[i]? = some (stealTold q (topOf (s.coreOf core)) h) := by
      rw [List.getElem?_map, hh]; rfl
    exact ⟨fun hs => htold.trans (congrArg some (if_pos ((stealing_iff ..).mpr hs))),
      fun hs => htold.trans (congrArg some (if_neg (mt (stealing_iff ..).mp hs)))⟩
  case enq =>
    intro q told
    have htry := tryEnqAnswer_eq (hheld ▸ find_appending hcore hans hhold hothers) hhold
    have htold {u : State} (hu : u.held = s.held) (ok : Bool) : enqTold core h ok u = told u ok :=
      enqTold_eq hcore hans hhold hothers (hu.trans hheld) ok
    refine ⟨fun ht => happens_of_some rfl ?refused, fun ht hp => ?taken⟩
    case refused => rw [htry, htold rfl, if_pos (by rw [ht]; rfl)]
    case taken =>
      intro r
      have hwrite : tryEnqAnswer core s = some (appendDone core k h r) := by
        rw [htry, if_neg (by rw [ht]; exact Bool.false_ne_true), if_neg (ne_true_of_eq_false hp)]
      refine ⟨fun x u hr => happens_of_some rfl ?failed, fun u hr hn => ?done⟩
      case failed => rw [hwrite, hr, appendDone, htold (accessed_of_gWrite hr).held]
      case done =>
        have hacc := accessed_of_gWrite hr
        have hq : u.queueOf k = q := by rw [State.queueOf, hacc.queues]; rfl
        have hdone : tryEnqAnswer core s = some (told (tailMoved k u) true) := by
          rw [hwrite, hr, appendDone, htold (u := tailMoved k u) hacc.held]
        have hqueue (j : Nat) : (told (tailMoved k u) true).queueOf j = _ := queueOf_tailMoved k u j
        obtain ⟨htail, hstate⟩ := advance_next q hn
        refine ⟨_, happens_of_some rfl hdone, rfl, ?_, ?_, fun j hj => (hqueue j).trans (if_neg hj.symm)⟩
        · rw [hqueue, if_pos rfl, hq, htail]
        · rw [hqueue, if_pos rfl, hq, hstate]

end Sys2Proof.Proofs
end

section
/-! PROOFS. The pre-emption ladder, stops of cores, saves of gangs, zeroing, and stops for migration (R196, R334 to R338, R344,
R366). Settles Preemption. -/

namespace Sys2Proof.Proofs

open Sys2Proof Sys2Proof.Machine Sys2Proof.Safety

variable {s : State} {vf : Nat}

/-! ### Stop requests (R334, R336) -/

/-- A core that is asked to stop carries the request, halted by the debugger or not (R340). -/
theorem askStop_stopReq (c : Core) : c.askStop.stopReq = true := by
  unfold Core.askStop
  split <;> rfl

theorem askStop_askStop (c : Core) : c.askStop.askStop = c.askStop := by
  by_cases h : c.dbg.state = 2 <;> simp [Core.askStop, h]

/-- One gang with a stop request on every core. -/
def stopGang (s : State) (g : Gang) : State :=
  g.cores.foldl (fun s k => s.onCore k Core.askStop) (s.onGang g.id fun x => { x with stopping := true })

theorem stopGangs_cons (s : State) (g : Gang) (gs : List Gang) : s.stopGangs (g :: gs) = (stopGang s g).stopGangs gs := rfl

theorem stopGang_coreOf (s : State) (g : Gang) (k : Nat) :
    (stopGang s g).coreOf k = if k ∈ g.cores then (s.coreOf k).askStop else s.coreOf k :=
  coreOf_foldl_onCore askStop_askStop ..

/-- A gang as stop requests on some gangs leave it. -/
def stoppedAmong (gs : List Gang) (x : Gang) : Gang := if x.id ∈ gs.map Gang.id then { x with stopping := true } else x

theorem stoppedAmong_cons (g : Gang) (gs : List Gang) (x : Gang) :
    stoppedAmong gs (if x.id = g.id then { x with stopping := true } else x) = stoppedAmong (g :: gs) x := by
  by_cases h : x.id = g.id <;> simp [stoppedAmong, h]

/-- Outside the cores, stop requests mark their gangs and change nothing else. -/
theorem stopGangs_sys (s : State) (gs : List Gang) :
    (s.stopGangs gs).sys = { s.sys with gangs := s.sys.gangs.map (stoppedAmong gs) } := by
  induction gs generalizing s with
  | nil =>
    have hid : stoppedAmong [] = id := funext fun x => if_neg List.not_mem_nil
    rw [hid, List.map_id]
    rfl
  | cons g gs ih =>
    have hg : (stopGang s g).sys = (s.onGang g.id fun x => { x with stopping := true }).sys := foldl_onCore_sys ..
    rw [stopGangs_cons, ih, hg, Laws.onGang_sys, List.map_map]
    exact congrArg (fun f => { s.sys with gangs := s.sys.gangs.map f }) (funext (stoppedAmong_cons g gs))

/-- A request stays until the core has stopped: a core that has one, or whose gang is asked, has one behind all of them. -/
theorem stopGangs_stopReq {k : Nat} {gs : List Gang} (s : State)
    (h : (s.coreOf k).stopReq = true ∨ ∃ g ∈ gs, k ∈ g.cores) : ((s.stopGangs gs).coreOf k).stopReq = true := by
  induction gs generalizing s with
  | nil => exact h.resolve_right (by simp)
  | cons g gs ih =>
    refine ih (stopGang s g) ?_
    rw [stopGang_coreOf]
    by_cases hk : k ∈ g.cores
    · exact .inl (by rw [if_pos hk, askStop_stopReq])
    · rw [if_neg hk]
      exact h.imp_right fun ⟨x, hx, hkx⟩ => ⟨x, (List.mem_cons.mp hx).resolve_left fun e => hk (e ▸ hkx), hkx⟩

/-- Every core of some gangs has a stop request, the gangs are marked, and no memory has changed. -/
def Asked (s : State) (gs : List Gang) (t : State) : Prop :=
  (∀ g ∈ gs, ∀ k ∈ g.cores, (t.coreOf k).stopReq = true) ∧ (∀ g ∈ gs, ∀ x ∈ t.sys.gangs, x.id = g.id → x.stopping = true)
    ∧ t.sys.mem = s.sys.mem

theorem asked_stopGangs (s : State) (gs : List Gang) : Asked s gs (s.stopGangs gs) := by
  refine ⟨fun g hg k hk => stopGangs_stopReq s (.inr ⟨g, hg, hk⟩), fun g hg x hx hid => ?_, by rw [stopGangs_sys]⟩
  rw [stopGangs_sys] at hx
  obtain ⟨y, -, rfl⟩ := List.mem_map.mp hx
  have hy : y.id ∈ gs.map Gang.id := by
    have hyid : (stoppedAmong gs y).id = y.id := by unfold stoppedAmong; split <;> rfl
    exact List.mem_map.mpr ⟨g, hg, (hyid ▸ hid).symm⟩
  rw [stoppedAmong, if_pos hy]

theorem stopGangs_vf (s : State) (gs : List Gang) (k : Nat) : (s.stopGangs gs).vf k = s.vf k := by
  rw [State.vf, stopGangs_sys]; rfl

theorem stopGangs_context (s : State) (gs : List Gang) (k : Nat) : (s.stopGangs gs).context k = s.context k := by
  rw [State.context, stopGangs_sys]; rfl

/-! ### HARD (Table 20-3) -/

/-- The first period from now on is the number of periods begun, rounded up. -/
theorem periodFrom_eq (s : State) : s.periodFrom = (s.sys.tick.toNat + 3903) / 3904 := by
  unfold State.periodFrom State.period periodTicks
  split <;> omega

theorem enterHard_vf (s : State) (vf : Nat) (gs : List Gang) :
    (s.enterHard vf gs).vf vf = { s.vf vf with ladder := .hard, ladderSince := s.periodFrom } := by
  rw [State.enterHard, stopGangs_vf, Laws.vf_onVf, if_pos rfl]

theorem enterHard_context (s : State) (vf : Nat) (gs : List Gang) (k : Nat) :
    (s.enterHard vf gs).context k = s.context k := stopGangs_context ..

theorem asked_enterHard (s : State) (vf : Nat) (gs : List Gang) : Asked s gs (s.enterHard vf gs) := asked_stopGangs ..

/-! ### What a slot opening brings (R196, R336) -/

/-- A slot opens in this tick, in a period or later. -/
theorem openedAt_iff (s : State) (p : Nat) : s.openedAt p = true ↔ s.sys.slotOpen ≠ none ∧ s.sys.tick.toNat % 3904 = 0
    ∧ (slotOf (s.sys.tick.toNat / 3904)).isSome = true ∧ p ≤ s.sys.tick.toNat / 3904 := by
  simp only [State.openedAt, State.opening, Bool.and_eq_true, decide_eq_true_eq, Option.isSome_iff_ne_none, and_assoc]
  rfl

/-- At a slot opening HARD is entered in the period that begins. -/
theorem enterHard_opened {p : Nat} (ho : s.openedAt p = true) (gs : List Gang) :
    ((s.enterHard vf gs).vf vf).ladder = .hard ∧ ((s.enterHard vf gs).vf vf).ladderSince = s.sys.tick.toNat / 3904 := by
  obtain ⟨-, htick, -, -⟩ := (openedAt_iff ..).mp ho
  rw [enterHard_vf]
  refine ⟨rfl, (periodFrom_eq s).trans ?_⟩
  omega

theorem trySliceEnd_eq (hr : (s.vf vf).ladder = .run) (ho : s.openedAt ((s.vf vf).sliceStart + (s.vf vf).sliceLen) = true)
    (hb : ∃ b ∈ s.sys.bedNow, b.2 = vf) :
    trySliceEnd vf s = if s.contested vf = false then some (s.onVf vf fun v => { v with sliceStart := s.period })
      else if (s.vf vf).g1 = 0 then some (s.enterHard vf (s.outgoing vf))
      else some (s.onVf vf fun v => { v with ladder := .soft, ladderSince := s.period }) := by
  have hbed : (s.sys.bedNow.any fun b => b.2 == vf) = true := by simpa using hb
  simp only [trySliceEnd, hr, ho, hbed]
  cases s.contested vf <;> rfl

theorem tryLadderG1Expiry_eq (hl : (s.vf vf).ladder = .soft) (ho : s.openedAt ((s.vf vf).ladderSince + (s.vf vf).g1) = true) :
    tryLadderG1Expiry vf s = some (s.enterHard vf (s.outgoing vf)) := by
  simp only [tryLadderG1Expiry, hl, ho]
  rfl

/-! ### KILL (R329, R338) -/

/-- Every launch of a number is being ended by a fault. -/
def Condemned (id : Nat) (s : State) : Prop := ∀ l ∈ s.sys.launches, l.id = id → l.aborting = true ∧ l.dropped = true

theorem condemned_condemn {id launch : Nat} {f : FirstFault} (h : id = launch ∨ Condemned id s) :
    Condemned id (s.condemn launch f) := by
  intro x hx hid
  obtain ⟨y, hy, rfl⟩ := List.mem_map.mp hx
  by_cases hl : y.id = launch
  · simp [hl, Launch.condemn]
  · rw [if_neg hl] at hid ⊢
    exact h.resolve_left (fun e => hl (hid.trans e)) y hy hid

/-- The launches of gangs that are late end, one after another. -/
def condemnLate (s : State) (gs : List Gang) : State := gs.foldl (fun s g => s.condemn g.launch (s.lateMember g)) s

theorem condemnLate_cores (s : State) (gs : List Gang) : (condemnLate s gs).cores = s.cores := by
  induction gs generalizing s with
  | nil => rfl
  | cons g gs ih => exact ih _

theorem condemned_condemnLate {id : Nat} {gs : List Gang} (s : State) (h : (∃ g ∈ gs, id = g.launch) ∨ Condemned id s) :
    Condemned id (condemnLate s gs) := by
  induction gs generalizing s with
  | nil => exact h.resolve_left (by simp)
  | cons g gs ih =>
    refine ih (s.condemn g.launch (s.lateMember g)) ?_
    by_cases hg : id = g.launch
    · exact .inr (condemned_condemn (.inl hg))
    · exact h.imp (fun ⟨x, hx, hid⟩ => ⟨x, (List.mem_cons.mp hx).resolve_left fun e => hg (e ▸ hid), hid⟩)
        fun hc => condemned_condemn (.inr hc)

/-- The gangs being stopped of a function that have a core which has not stopped yet. -/
def lateGangs (s : State) (vf : Nat) : List Gang :=
  (s.stoppingOf vf).filter fun g => g.cores.any fun k => !(s.coreOf k).quiet

theorem mem_lateGangs {g : Gang} :
    g ∈ lateGangs s vf ↔ g ∈ s.stoppingOf vf ∧ ∃ k ∈ g.cores, (s.coreOf k).quiet = false := by
  simp [lateGangs]

theorem tryLadderG2Expiry_eq (hl : (s.vf vf).ladder = .hard) (ho : s.openedAt ((s.vf vf).ladderSince + (s.vf vf).g2) = true)
    (hlate : lateGangs s vf ≠ []) : tryLadderG2Expiry vf s =
      some ((condemnLate s (lateGangs s vf)).onVf vf fun v => { v with ladder := .kill }) := by
  have hsome : (lateGangs s vf).isEmpty = false := by simpa using hlate
  unfold lateGangs at hsome
  simp only [tryLadderG2Expiry, hl, ho, hsome]
  rfl

/-! ### A stop for migration (R344) -/

/-- Whether a gang's launch is of a context. -/
def ofContext (s : State) (ctx : Nat) (g : Gang) : Bool :=
  match s.launchOf g.launch with
  | some l => l.ctx == ctx
  | none => false

/-- A context whose records are read no more. -/
def migrating (s : State) (ctx : Nat) : State := s.onContext ctx fun c => { c with migrating := true }

theorem tryMigrationStop_eq {ctx w : Nat} (h : (s.context ctx).vf = some w) : tryMigrationStop ctx s =
    let gs := s.sys.gangs.filter (ofContext s ctx)
    if gs.isEmpty then some (migrating s ctx)
    else if (s.vf w).ladder == .hard || (s.vf w).ladder == .kill then some ((migrating s ctx).stopGangs gs)
    else some ((migrating s ctx).enterHard w (gs ++ (s.outgoing w).filter fun g => !(gs.contains g))) := by
  unfold tryMigrationStop
  rw [h]
  rfl

theorem migrating_context (s : State) (ctx : Nat) : ((migrating s ctx).context ctx).migrating = true := by
  rw [migrating, Laws.context_onContext, if_pos rfl]

/-- A stop for migration asks the context's gangs; the ladder stays in HARD or KILL, else it enters HARD, and the gangs that are
to leave go with them. -/
theorem migrationStop_happens {ctx w : Nat} (h : (s.context ctx).vf = some w) :
    ∃ t, happens (.migrationStop ctx) s t ∧ (t.context ctx).migrating = true ∧ t.sys.mem = s.sys.mem
      ∧ ∀ g ∈ s.sys.gangs, ofContext s ctx g = true → (∀ k ∈ g.cores, (t.coreOf k).stopReq = true)
        ∧ (if (s.vf w).ladder = .hard ∨ (s.vf w).ladder = .kill then
            (t.vf w).ladder = (s.vf w).ladder ∧ (t.vf w).ladderSince = (s.vf w).ladderSince
          else (t.vf w).ladder = .hard ∧ (t.vf w).ladderSince = (s.sys.tick.toNat + 3903) / 3904
            ∧ ∀ o ∈ s.outgoing w, ∀ k ∈ o.cores, (t.coreOf k).stopReq = true) := by
  have htry := tryMigrationStop_eq h
  dsimp only at htry
  generalize hgs : s.sys.gangs.filter (ofContext s ctx) = gs at htry
  have hmem {g : Gang} (hg : g ∈ s.sys.gangs) (hc : ofContext s ctx g = true) : g ∈ gs := hgs ▸ List.mem_filter.mpr ⟨hg, hc⟩
  by_cases hnone : gs = []
  · subst hnone
    exact ⟨_, happens_of_some rfl htry, migrating_context s ctx, rfl, fun g hg hc => absurd (hmem hg hc) List.not_mem_nil⟩
  rw [if_neg (by simpa using hnone)] at htry
  by_cases hl : (s.vf w).ladder = .hard ∨ (s.vf w).ladder = .kill
  · rw [if_pos (by simpa using hl)] at htry
    obtain ⟨hstop, -, hkeep⟩ := asked_stopGangs (migrating s ctx) gs
    refine ⟨_, happens_of_some rfl htry, ?_, hkeep, fun g hg hc => ⟨hstop g (hmem hg hc), ?_⟩⟩
    · rw [stopGangs_context, migrating_context]
    · rw [if_pos hl, stopGangs_vf]
      exact ⟨rfl, rfl⟩
  · rw [if_neg (by simpa using hl)] at htry
    generalize hall : gs ++ (s.outgoing w).filter (fun g => !(gs.contains g)) = all at htry
    have hin {g : Gang} (hg : g ∈ gs ∨ g ∈ s.outgoing w) : g ∈ all := by
      rw [← hall, List.mem_append, List.mem_filter]
      by_cases hgs : g ∈ gs
      · exact .inl hgs
      · exact .inr ⟨hg.resolve_left hgs, by simpa using hgs⟩
    obtain ⟨hstop, -, hkeep⟩ := asked_enterHard (migrating s ctx) w all
    refine ⟨_, happens_of_some rfl htry, ?_, hkeep, fun g hg hc => ⟨hstop g (hin (.inl (hmem hg hc))), ?_⟩⟩
    · rw [enterHard_context, migrating_context]
    · rw [if_neg hl, enterHard_vf]
      exact ⟨rfl, periodFrom_eq s, fun o ho => hstop o (hin (.inr ho))⟩

/-! ### Stops, saves and zeroing (R335, R338, R366) -/

/-- A core with nothing under way in its units: no run instruction, no result or access outstanding, no matrix operation, no
message arriving (R335). -/
def AtRest (c : Core) : Prop := c.run = none ∧ c.pend = [] ∧ c.gacc = [] ∧ c.mats = [] ∧ c.mq.arriving = []

theorem tryCoreStop_eq {core : Nat} {g : Gang} (hg : s.gangAt core = some g) (hs : s.toSave g = true)
    (ha : s.atStop core = true) (hq : (s.coreOf core).quiet = false) (hrest : AtRest (s.coreOf core))
    (hcmds : s.commandsStand core = true) (hasks : ∀ a ∈ s.sys.asks, a.core ≠ core) :
    tryCoreStop core s = some ({ s with held := s.held.filter fun h => h.core ≠ core }.setCore core
      { s.coreOf core with quiet := true, stopped :=
          if (s.coreOf core).departed then (s.coreOf core).stopped else some ((s.coreOf core).stopped.getD .parked) }) := by
  obtain ⟨hrun, hpend, hacc, hmats, hmq⟩ := hrest
  have hask : (s.sys.asks.any fun a => a.core == core) = false := by simpa using hasks
  simp only [tryCoreStop, hg, hs, ha, hq, hrun, hpend, hacc, hmats, hcmds, hmq, hask]
  cases (s.coreOf core).stopped <;> rfl

/-- A core without uncorrectable errors is saved without one (R201, R332). -/
theorem saveError_eq_none {c : Core} (hsp : c.spBad = []) (hsoft : c.soft = []) : c.saveError = none := by
  simp [Core.saveError, Core.spError, hsp, hsoft]

/-- The state of a gang that has been saved: its cores are free, and the gang stands among the saved ones. -/
def gangSaved (u : State) (g : Gang) (saved : SavedGang) : State :=
  let s := u.releaseCores g.cores
  { s with sys := { s.sys with
    saved := s.sys.saved ++ [saved],
    colls := s.sys.colls.filter fun r => !(saved.colls.contains r),
    gangs := s.sys.gangs.filter fun x => x.id ≠ g.id } }

theorem releaseCores_saved (s : State) (cores : List Nat) :
    (s.releaseCores cores).sys.mem = s.sys.mem ∧ (s.releaseCores cores).sys.saved = s.sys.saved := by
  have h := foldl_onCore_sys Core.released cores s
  exact ⟨congrArg (·.mem) h, congrArg (·.saved) h⟩

theorem gangSaved_spec (u : State) (g : Gang) (saved : SavedGang) :
    (∀ x ∈ (gangSaved u g saved).sys.gangs, x.id ≠ g.id) ∧ (∀ k ∈ g.cores, ((gangSaved u g saved).coreOf k).placed = none)
      ∧ (gangSaved u g saved).sys.mem = u.sys.mem ∧ (gangSaved u g saved).sys.saved = u.sys.saved ++ [saved] := by
  obtain ⟨hmem, hsaved⟩ := releaseCores_saved u g.cores
  refine ⟨fun x hx => by simpa using (List.mem_filter.mp hx).2, fun k hk => ?_, hmem, congrArg (· ++ [saved]) hsaved⟩
  exact releaseCores_placed hk u

/-- A gang whose cores have all stopped, free of errors and on islands that are not held, with nothing on its way to them
(R307, R338). -/
def GangStands (s : State) (g : Gang) : Prop :=
  (∀ k ∈ g.cores, (s.coreOf k).quiet = true ∧ (s.coreOf k).spBad = [] ∧ (s.coreOf k).soft = [] ∧ s.islandHeld k = false)
    ∧ (∀ a ∈ s.sys.acks, a.sender ∉ g.cores) ∧ ∀ q ∈ s.sys.dqReqs, q.owner ∉ g.cores ∧ q.asker ∉ g.cores

theorem tryGangSave_eq {gang area : Nat} {g : Gang} {l : Launch} {u : State} (hg : s.gangOf gang = some g)
    (hl : s.launchOf g.launch = some l) (hs : s.toSave g = true) (ha : l.aborting = false)
    (hstands : GangStands s g) (harea : s.areaFor l.ctx g.cores.length = some area)
    (hpause : s.rangePaused l.ctx (s.recordAt l.ctx area) (recordBytes * g.cores.length) = false)
    (hput : s.putRecords l.ctx g.cores (s.recordAt l.ctx area) 0 = ((g.cores.length, none), u)) :
    tryGangSave gang s = some (gangSaved u g (u.savedForm g l.ctx area)) := by
  obtain ⟨hstand, hacks, hreqs⟩ := hstands
  have hack : (s.sys.acks.any fun a => g.cores.contains a.sender) = false := by simpa using hacks
  have hreq : (s.sys.dqReqs.any fun q => g.cores.contains q.owner || g.cores.contains q.asker) = false := by
    simpa using hreqs
  have hquiet : (g.cores.all fun k => (s.coreOf k).quiet && !(s.islandHeld k)) = true := by
    simp only [List.all_eq_true]
    intro k hk
    obtain ⟨hq, -, -, hi⟩ := hstand k hk
    rw [hq, hi]; rfl
  have herr : (g.cores.findSome? fun k => (s.coreOf k).saveError.map fun a => (k, a)) = none := by
    rw [List.findSome?_eq_none_iff]
    intro k hk
    obtain ⟨-, hsp, hsoft, -⟩ := hstand k hk
    rw [saveError_eq_none hsp hsoft]; rfl
  simp only [tryGangSave, hg, hl, hs, ha, hack, hreq, hquiet, herr, harea, hpause, hput]
  rfl

theorem leaveClear_frame (s : State) (vf : Nat) : (s.leaveClear vf).cores = s.cores
    ∧ (s.leaveClear vf).sys.zeroing = s.sys.zeroing ∧ (s.leaveClear vf).sys.mem = s.sys.mem := by
  unfold State.leaveClear
  split <;> exact ⟨rfl, rfl, rfl⟩

/-- A core as a zeroing leaves it (R366, Table 20-4). -/
def zeroedCore (c : Core) : Core := { clk := c.clk, nextId := c.nextId, modq := Vector.replicate 8 0#64 }

/-- The state as a core has been zeroed. -/
def coreZeroed (s : State) (core : Nat) : State := { s.setCore core (zeroedCore (s.coreOf core)) with
  sys := { s.sys with zeroing := s.sys.zeroing.erase core } }

theorem coreZeroed_coreOf (s : State) (core : Nat) : (coreZeroed s core).coreOf core = zeroedCore (s.coreOf core) :=
  (Laws.coreOf_setCore s core _ core).trans (if_pos rfl)

/-- A free core that waits for it is zeroed; the function that holds its bed may leave CLEAR then. -/
theorem coreZeroing_happens {core : Nat} (hz : core ∈ s.sys.zeroing) (hp : (s.coreOf core).placed = none)
    (hi : s.islandHeld core = false) :
    ∃ t, happens (.coreZeroingComplete core) s t ∧ t.coreOf core = zeroedCore (s.coreOf core)
      ∧ t.sys.zeroing = s.sys.zeroing.erase core ∧ t.sys.mem = s.sys.mem := by
  have htry : tryCoreZeroingComplete core s = some (match s.sys.bedNow.find? fun b => b.1 == core / 16 with
      | none => coreZeroed s core
      | some b => (coreZeroed s core).leaveClear b.2) := by
    simp only [tryCoreZeroingComplete, List.contains_iff_mem.mpr hz, hp, hi]
    rfl
  have hself := coreZeroed_coreOf s core
  cases hb : s.sys.bedNow.find? fun b => b.1 == core / 16 with
  | none => exact ⟨_, happens_of_some rfl (by rw [htry, hb]), hself, rfl, rfl⟩
  | some b =>
    obtain ⟨hcores, hzero, hmem⟩ := leaveClear_frame (coreZeroed s core) b.2
    exact ⟨_, happens_of_some rfl (by rw [htry, hb]), (coreOf_of_cores hcores core).trans hself, hzero, hmem⟩

/-- Settles O43: each event by its equation; what asks gangs to stop, or ends their launches, does so one gang after another. -/
theorem preemption : Obligations.Preemption := by
  intro vf core gang ctx s v c now asked hard opened ending
  have hopen {p : Nat} (h : opened p) : s.openedAt p = true := (openedAt_iff s p).mpr h
  have hslice : ending → _ := fun ⟨hr, ho, hb⟩ => trySliceEnd_eq hr (hopen ho) hb
  refine ⟨fun h hc => ?free, fun h hc hg => ?soft, fun h hc hg => ?hard, fun hl h => ?g1, fun hl h g hg hlate => ?g2,
    fun w hw => ?migration, fun g hg hs ha hq hrun hpend hacc hmats hcmds hmq hasks => ?stop,
    fun g l area u hg hl hs ha hstand hacks hreqs harea hp hput => ?save, fun hz hp hi => ?zero⟩
  case free => exact happens_of_some rfl ((hslice h).trans (if_pos hc))
  case soft => exact happens_of_some rfl ((hslice h).trans ((if_neg (ne_false_of_eq_true hc)).trans (if_neg hg)))
  case hard =>
    have htry := (hslice h).trans ((if_neg (ne_false_of_eq_true hc)).trans (if_pos hg))
    obtain ⟨-, ho, -⟩ := h
    exact ⟨_, happens_of_some rfl htry, enterHard_opened (hopen ho) _, asked_enterHard ..⟩
  case g1 =>
    exact ⟨_, happens_of_some rfl (tryLadderG1Expiry_eq hl (hopen h)), enterHard_opened (hopen h) _, asked_enterHard ..⟩
  case g2 =>
    have hmem := mem_lateGangs.mpr ⟨hg, hlate⟩
    refine ⟨_, happens_of_some rfl (tryLadderG2Expiry_eq hl (hopen h) (List.ne_nil_of_mem hmem)), ?_, ?_, ?_⟩
    · rw [Laws.vf_onVf, if_pos rfl]
    · exact condemnLate_cores ..
    · exact condemned_condemnLate s (.inl ⟨g, hmem, rfl⟩)
  case migration =>
    obtain ⟨t, ht, hm, hmem, hgangs⟩ := migrationStop_happens hw
    refine ⟨t, ht, hm, hmem, fun g hg ⟨l, hl, hlc⟩ => hgangs g hg ?_⟩
    rw [ofContext, hl]
    exact beq_iff_eq.mpr hlc
  case stop => exact happens_of_some rfl (tryCoreStop_eq hg hs ha hq ⟨hrun, hpend, hacc, hmats, hmq⟩ hcmds hasks)
  case save =>
    exact ⟨_, happens_of_some rfl (tryGangSave_eq hg hl hs ha ⟨hstand, hacks, hreqs⟩ harea hp hput), gangSaved_spec ..⟩
  case zero => exact coreZeroing_happens hz hp hi

end Sys2Proof.Proofs
end

section
/-! PROOFS. Doorbells, the descriptors of queues, and the records that a queue's compositor takes at HEAD (R189 to R194, R196,
R327). Settles QueueTables and RecordsServed. -/

namespace Sys2Proof.Proofs

open Sys2Proof Sys2Proof.Machine Sys2Proof.Safety

/-! ### A queue that stops (R189, R190, R192) -/

variable {s : State} {k : Nat}

/-- A queue whose head is left: nothing of its record is under way any more. -/
def headLeft (q : Queue) : Queue := { q with launch := none, wait := none, isDep := false, met := false }

theorem abandonHead_queueOf (s : State) (k j : Nat) :
    (s.abandonHead k).queueOf j = if k = j then headLeft (s.queueOf k) else s.queueOf j := by
  unfold State.abandonHead
  dsimp only
  split <;> exact Laws.queueOf_onQueue ..

/-- Leaving a head changes queues and launches alone. -/
theorem abandonHead_eq (s : State) (k : Nat) : s.abandonHead k = { s with sys := { s.sys with
    queues := (s.abandonHead k).sys.queues, launches := (s.abandonHead k).sys.launches } } := by
  unfold State.abandonHead
  dsimp only
  split <;> rfl

/-- A head that no launch places from leaves the launches as they are. -/
theorem abandonHead_launches (h : (s.queueOf k).launch = none) :
    (s.abandonHead k).sys.launches = s.sys.launches := by
  unfold State.abandonHead
  dsimp only
  rw [h]
  rfl

/-- A launch that still places from the head places no more gangs. -/
theorem abandonHead_dropped {l : Nat} (h : (s.queueOf k).launch = some l) :
    ∀ x ∈ (s.abandonHead k).sys.launches, x.id = l → x.dropped = true := by
  have hl : (s.abandonHead k).sys.launches = (s.onLaunch l fun x => { x with dropped := true }).sys.launches := by
    unfold State.abandonHead
    dsimp only
    rw [h]
    rfl
  rw [hl]
  intro x hx hid
  obtain ⟨y, -, rfl⟩ := List.mem_map.mp hx
  by_cases hy : y.id = l
  · rw [if_pos hy]
  · rw [if_neg hy] at hid
    exact absurd hid hy

/-- A queue left at its head and then changed: it is as stated, the others stand, and nothing but queues has changed. -/
theorem abandonHead_onQueue (h : (s.queueOf k).launch = none) (g : Queue → Queue) :
    let u := (s.abandonHead k).onQueue k g
    u = { s with sys := { s.sys with queues := u.sys.queues } } ∧ u.queueOf k = g (headLeft (s.queueOf k))
      ∧ ∀ j, j ≠ k → u.queueOf j = s.queueOf j := by
  refine ⟨?_, ?_, fun j hj => ?_⟩
  · rw [State.onQueue, abandonHead_eq, abandonHead_launches h]
  · rw [Laws.queueOf_onQueue, if_pos rfl, abandonHead_queueOf, if_pos rfl]
  · rw [Laws.queueOf_onQueue, if_neg hj.symm, abandonHead_queueOf, if_neg hj.symm]

theorem queueError_eq (h : (s.queueOf k).state ≠ .disabled) (code : Nat) :
    s.queueError k code = (s.abandonHead k).onQueue k fun q => { q with state := .error, err := code } := by
  unfold State.queueError
  exact if_neg (by simpa using h)

/-- A queue that stops by an error leaves cores and memory as they are. -/
theorem queueError_frame (s : State) (k code : Nat) :
    (s.queueError k code).cores = s.cores ∧ (s.queueError k code).sys.mem = s.sys.mem := by
  unfold State.queueError
  split
  · exact ⟨rfl, rfl⟩
  · rw [State.onQueue, abandonHead_eq]
    exact ⟨rfl, rfl⟩

theorem queueError_queueOf (h : (s.queueOf k).state ≠ .disabled) (code : Nat) :
    (s.queueError k code).queueOf k = { headLeft (s.queueOf k) with state := .error, err := code } := by
  rw [queueError_eq h, Laws.queueOf_onQueue, if_pos rfl, abandonHead_queueOf, if_pos rfl]

/-! ### Doorbells and descriptors (R189, R190) -/

/-- The slots that a doorbell's value adds to a ring, and those that it has free. -/
def ringAdded (q : Queue) (t : Nat) : Nat := (t + q.nrec - q.tail) % q.nrec

def ringFree (q : Queue) : Nat := q.nrec - 1 - (q.tail + q.nrec - q.head) % q.nrec

variable {vf n : Nat}

/-- A doorbell on a queue that takes records moves TAIL within the ring's free slots, and stops the queue otherwise. -/
theorem tryDoorbellWrite_eq {value : Word} (hn : s.queueAt vf k = some n) (hr : s.running vf = true)
    (hd : (s.queueOf n).state ≠ .disabled) (he : (s.queueOf n).state ≠ .error) : tryDoorbellWrite vf k 8 value s =
      if (2 ^ 16 ≤ value.toNat ∨ (s.queueOf n).nrec ≤ value.toNat) ∨ ringFree (s.queueOf n) < ringAdded (s.queueOf n) value.toNat
      then some (s.queueError n 5) else some (s.onQueue n fun q => q.advance value.toNat) := by
  rw [ite_or]
  simp [tryDoorbellWrite, hn, hr, hd, he]
  rfl

theorem tryQueueDisable_eq (hn : s.queueAt vf k = some n) : tryQueueDisable vf k s =
    some ((s.abandonHead n).onQueue n fun q => { q with state := .disabled, err := 0, head := q.tail }) := by
  rw [tryQueueDisable, hn]

/-- Settles O40: each event by its equation at the queue that the number reaches. -/
theorem queueTables : Obligations.QueueTables := by
  intro vf k n ctx value d s hn q t added free live becomes f
  refine ⟨fun ⟨hr, hd, he⟩ hlt h16 hfree => ?doorbell, fun ⟨hr, hd, he⟩ hl hbad => ?refused, fun hd => ?descriptor,
    fun hl => ?disable, fun l hl => ?drop, fun hspan he => ?aging, fun hv hf => ?faultHead⟩
  case doorbell =>
    have hq : q.advance t = if t = q.tail then q
        else if q.state = .idle then { q with tail := t, state := .ready, level := q.prio, span := 0 }
        else { q with tail := t } := by
      simp only [Queue.advance, eq_comm (a := t)]
    have hin : ¬((2 ^ 16 ≤ t ∨ q.nrec ≤ t) ∨ ringFree q < ringAdded q t) :=
      not_or.mpr ⟨not_or.mpr ⟨h16.not_ge, hlt.not_ge⟩, hfree.not_gt⟩
    show happens _ s (s.onQueue n fun _ => _)
    rw [← hq]
    exact happens_of_some rfl ((tryDoorbellWrite_eq hn hr hd he).trans (if_neg hin))
  case refused =>
    obtain ⟨hframe, hself, hother⟩ := abandonHead_onQueue hl fun q => { q with state := .error, err := 5 }
    rw [← queueError_eq hd] at hframe hself hother
    have hout : (2 ^ 16 ≤ t ∨ q.nrec ≤ t) ∨ ringFree q < ringAdded q t := by
      rwa [or_comm (a := 2 ^ 16 ≤ t), or_assoc]
    refine ⟨_, happens_of_some rfl ((tryDoorbellWrite_eq hn hr hd he).trans (if_pos hout)), hframe, hself.trans ?_, hother⟩
    rw [headLeft, ← hl]
  case descriptor =>
    have hst : ((s.queueOf n).state != .disabled) = false := by simpa using hd
    exact ⟨happens_of_some rfl (by simp only [tryQueueDescriptorWrite, hn, hst]; rfl),
      happens_of_some rfl (by simp only [tryQueueEnable, hn, hst]; rfl)⟩
  case disable =>
    obtain ⟨hframe, hself, hother⟩ := abandonHead_onQueue hl fun q => { q with state := .disabled, err := 0, head := q.tail }
    refine ⟨_, happens_of_some rfl (tryQueueDisable_eq hn), hframe, hself.trans ?_, hother⟩
    rw [headLeft, ← hl]
  case drop =>
    refine ⟨_, happens_of_some rfl (tryQueueDisable_eq hn), ?_, ?_, ?_, ?_, abandonHead_dropped hl⟩
    · rw [Laws.queueOf_onQueue, if_pos rfl]
    · rw [Laws.queueOf_onQueue, if_pos rfl, abandonHead_queueOf, if_pos rfl, headLeft]
    · rw [Laws.onQueue_sys, abandonHead_eq]
    · rw [Laws.onQueue_cores, abandonHead_eq]
  case aging =>
    have hel : q.eligible = true := by simpa [Queue.eligible] using he
    have haged : q.aged = { q with level := min 7 (q.level + 1), span := q.span - 256 } := if_neg hspan.not_gt
    show happens _ s (s.onQueue n fun _ => _)
    rw [← haged]
    refine happens_of_some rfl ?_
    have hgate : (decide (q.span < 256) || !q.eligible) = false := by simp [hel, hspan]
    exact if_neg (ne_true_of_eq_false hgate)
  case faultHead =>
    have hfl : (s.onContext ctx fun c => { c with fqHead := value.toNat % max 1 c.fqLen }).flushFaults
        = s.onContext ctx fun c => { c with fqHead := value.toNat % max 1 c.fqLen } := by
      refine if_pos ?_
      rw [Laws.onContext_sys]
      exact List.isEmpty_iff.mpr hf
    exact (if_neg (not_not_intro hv)).trans (congrArg _ hfl)

/-! ### Records at HEAD (R191 to R193) -/

section
variable {u : State} {r : Nat} {sup : Bool} (hserved : s.served n = true) (hready : (s.queueOf n).state = .ready)
  (hpause : s.dvaPaused (s.queueOf n).ctx (s.queueOf n).headAt = false)
  (hread : s.readRecord (s.queueOf n) = (.ok (r, sup), u))
include hserved hready hpause hread

/-- A record that can be read at a READY head is checked in the order of R192, and then taken by the event of its type. -/
theorem takeRecord_eq (typ : Nat) (go : Nat → State → Option State) : s.takeRecord n typ go =
    match recordError r (s.queueOf n).sok sup with
    | some code => some (u.queueError n code)
    | none => if recFld r 0 8 = typ then go r u else none := by
  simp only [State.takeRecord, hserved, hready, hpause, hread]
  rfl

theorem takeRecord_bad {code : Nat} (hbad : recordError r (s.queueOf n).sok sup = some code) (typ : Nat)
    (go : Nat → State → Option State) : s.takeRecord n typ go = some (u.queueError n code) := by
  rw [takeRecord_eq hserved hready hpause hread, hbad]

theorem takeRecord_good {typ : Nat} (hgood : recordError r (s.queueOf n).sok sup = none ∧ recFld r 0 8 = typ)
    (go : Nat → State → Option State) : s.takeRecord n typ go = go r u := by
  rw [takeRecord_eq hserved hready hpause hread, hgood.1]
  exact if_pos hgood.2

end

/-- A wait or a dependence whose object has met it ends. -/
theorem endWait_met (hserved : s.served n = true) (hw : (s.queueOf n).state = .waiting)
    (hm : (s.queueOf n).met = true) (hwait : (s.queueOf n).wait ≠ none) {dep : Bool} (hd : (s.queueOf n).isDep = dep)
    (go : State → State) : s.endWait n dep go = some (go s) := by
  obtain ⟨⟨obj, target, eq⟩, hsome⟩ := Option.ne_none_iff_exists'.mp hwait
  simp [State.endWait, hsome, hw, hserved, hm, hd]

/-- A wait on an object that can be read begins. -/
theorem beginWait_ok {x : State} {obj : Nat} {bs : List Byte} (hp : s.dvaPaused (s.queueOf n).ctx obj = false)
    (hx : s.gRead none (s.queueOf n).ctx obj 8 accLoad false = (.ok bs, x)) (target : Nat) (eq dep : Bool) :
    s.beginWait n obj target eq dep = some (x.onQueue n fun q =>
      { q with state := .waiting, wait := some (BitVec.ofNat 64 obj, BitVec.ofNat 64 target, eq), isDep := dep,
               met := false }) := by
  simp only [State.beginWait, hp, hx]
  rfl

/-- A SIGNAL whose object can be advanced adds to it, and its record retires. -/
theorem signalRecord_ok {x : State} {r : Nat} (hp : s.dvaPaused (s.queueOf n).ctx (recFld r 64 56) = false)
    (hx : s.gAdd (compositor n) (s.queueOf n).ctx (recFld r 64 56) (BitVec.ofNat 64 (recFld r 128 64)) accStore false false
      = (.ok (), x)) : signalRecord n r s = some (x.retireHead n) := by
  simp only [signalRecord, hp, hx]
  rfl

/-- A LAUNCH with gangs and without a forme image begins to place. -/
theorem beginLaunch_places {r : Nat} (hvf : (s.context (s.queueOf n).ctx).vf = some vf)
    (hcount : recFld r 288 32 ≠ 0) (hforme : recFld r 192 56 = 0) : s.beginLaunch n r =
      some ({ s with sys := { s.sys with
          launches := s.sys.launches ++ [recordLaunch s.sys.nextId n (s.queueOf n) vf r], nextId := s.sys.nextId + 1 } }.onQueue n
        fun x => { x with state := .placing, launch := some s.sys.nextId, isDep := false }) := by
  have hc : (recordLaunch s.sys.nextId n (s.queueOf n) vf r).gcount ≠ 0 := hcount
  simp [State.beginLaunch, hvf, hforme, hc, State.formeImage]
  rfl

/-- Settles O41: a wait ends by `endWait_met`, and a record at HEAD is taken by the event of its type. -/
theorem recordsServed : Obligations.RecordsServed := by
  intro n r sup s u q at_ obj retired waiting good c wctx ends
  refine ⟨fun hserved => ⟨fun hw hd hm hwait => ?retire, fun hw hd hm hwait => ?met⟩,
    fun hserved hready hpause hread => ?record⟩
  case retire => exact happens_of_some rfl (endWait_met hserved hw hm hwait hd _)
  case met => exact happens_of_some rfl (endWait_met hserved hw hm hwait hd _)
  case record =>
    have take {typ : Nat} (h : good typ) := takeRecord_good hserved hready hpause hread h
    refine ⟨fun h => ?nop, fun code hbad i hi => ?bad, fun h hp x hx => ?signal, fun h hp bs x hx => ?wait,
      fun h hl hdep hisDep hp bs x hx => ?depends, fun h hl hdep hcount hforme vf hvf => ?launch⟩
    case nop => exact happens_of_some rfl (take h _)
    case bad =>
      have hstop : happens i s (u.queueError n code) := by
        have htake := takeRecord_bad hserved hready hpause hread hbad
        simp only [List.mem_cons, List.not_mem_nil, or_false] at hi
        obtain rfl | rfl | rfl | rfl := hi <;> exact happens_of_some rfl (htake _ _)
      obtain ⟨hcores, hmem⟩ := queueError_frame u n code
      refine ⟨_, hstop, fun hc => ?_, hcores, hmem⟩
      rw [queueError_queueOf hc]
      exact ⟨rfl, rfl, rfl⟩
    case signal => exact happens_of_some rfl ((take h _).trans (signalRecord_ok hp hx))
    case wait => exact happens_of_some rfl ((take h _).trans (beginWait_ok hp hx _ _ _))
    case depends =>
      refine happens_of_some rfl ((take h _).trans ?_)
      rw [if_neg (by rw [hl]; exact Bool.false_ne_true), if_pos ⟨hdep, by rw [hisDep]; rfl⟩]
      exact beginWait_ok hp hx _ _ _
    case launch =>
      refine happens_of_some rfl ((take h _).trans ?_)
      have hgo : ¬(recFld r 576 56 ≠ 0 ∧ (!c.isDep) = true) := by
        rintro ⟨h0, hd⟩
        obtain h | h := hdep
        · exact h0 h
        · rw [h] at hd; cases hd
      rw [if_neg (by rw [hl]; exact Bool.false_ne_true), if_neg hgo]
      exact beginLaunch_places hvf hcount hforme

end Sys2Proof.Proofs
end
